-- ==== Sys2Proof/Word.lean ====
section
/-! DEFINITION. Word.lean: the word types of the KF32. Widths are those the manual gives
(00 R9-R11, Table 0.3); field readers and byte-order helpers stand in Machine/Bits.lean. -/
namespace Sys2Proof

/-- One byte. -/
abbrev Byte := BitVec 8
/-- A 32-bit word: a packet word (DW), a register, a vector-register lane. -/
abbrev W32 := BitVec 32
/-- A 64-bit word: a 48.16 position (R10), PTE time (R11), a knot word (R354), an instruction word (R135). -/
abbrev W64 := BitVec 64

/-- A table of `n` like things, indexed by `Fin n`: the manual's "one instance per axis, output, port". -/
abbrev Tab (α : Type) (n : Nat) := Vector α n

/-- Entry `i` of a table. -/
def Tab.at' {α : Type} {n : Nat} (v : Tab α n) (i : Fin n) : α := v[i]

/-- The table with entry `i` changed by `f`. -/
def Tab.upd {α : Type} {n : Nat} (v : Tab α n) (i : Fin n) (f : α → α) : Tab α n := v.set i (f v[i])

end Sys2Proof
end

