-- ==== Sys2Proof/Syntax.lean ====
section
/-! DEFINITION. Syntax.lean: the commands of the KF32, one constructor per row of spec/opcode_table.json, with the
operands the spec gives each. Packets are their 32-bit words as "Sweit command set" (12) lays them out; instructions are
their 64-bit base and extension words as "Instruction set and code objects" (04) lays them out; an event that falls at an
instant of PTE time carries that time (R11). -/
namespace Sys2Proof

/-- A Sweit packet: its words DW0, DW1, ... (R397, R419); a slot is 16 words. -/
structure Pkt where
  dws : List W32
  deriving DecidableEq, Repr, Inhabited

/-- Where a BAR0 read lies: its offset, and its size in bytes (R386). -/
structure RegAcc where
  off : W32
  len : Nat := 4
  deriving DecidableEq, Repr

/-- A hit record (Table 2.2): TARGET, DW2, WIDTH, TAG and the reserved words DW5-DW7. -/
structure HitRec where
  target : W64
  dw2    : W32
  width  : W32
  tag    : W32
  rsv    : BitVec 96 := 0
  deriving DecidableEq, Repr, Inhabited

/-- Who posts a hit: the host (HIT_POST, R440) or a strand of a braid (R171, R223). -/
inductive HitSrc where
  | host
  | strand (b : Fin 16)
  deriving DecidableEq, Repr

/-- Where a word of memory lies after translation (Table 14.3): Peat or LPDDR of this device (device-physical), host
memory (bus address), or another device of the domain. -/
inductive Place where
  | peat   (a : Nat)
  | lpddr  (a : Nat)
  | host   (a : Nat)
  | remote (dev : Fin 16) (frame : BitVec 28) (off : BitVec 16)
  deriving DecidableEq, Repr, Inhabited

/-- The kind of a memory access, for permissions (R481). -/
inductive Access where
  | load | store | atomic | exec
  deriving DecidableEq, Repr

/-- How a write to the 64-bit AX_HOSTPOS is made (02, "A write to AX_HOSTPOS takes effect ..."). -/
inductive HalfSel where
  | whole | lower | upper
  deriving DecidableEq, Repr

/-- The resets that R382 treats alike. -/
inductive PfResetKind where
  | flr | hot | perst
  deriving DecidableEq, Repr

/-- A field of configuration space whose write the device acts on (R381, R389, R407, Table 11.1). -/
inductive CfgField where
  | busMaster | memDecode | vfEnable | bar2Size
  | msixEnable | msixMask | maxPayload | maxReadRequest | powerState | aspm | aerStatus
  | l1Substates | ltr | ecrcGeneration | ecrcChecking | tenBitTags
  deriving DecidableEq, Repr

/-- The outcome of an AUX or DSI message (R345). -/
inductive MsgOutcome where
  | done | nack | timeout
  deriving DecidableEq, Repr

/-- The device power states (Table 18.2). -/
inductive PState where
  | run | idle | nap | doze | sleep | dormant
  deriving DecidableEq, Repr

/-- A ball whose level the SFI reads back (R72, R610): SO0-SO31 and TRG0-TRG3 by OUTPUT code, SAFE_A_N, SAFE_B_N. -/
inductive MonBall where
  | out (o : Fin 36)
  | safeA
  | safeB
  deriving DecidableEq, Repr

/-- What a remote access asks of this device (R568, R569). -/
inductive RemoteOp where
  | load   (len : Nat)
  | store  (data : List Byte) (poison : Bool)
  | signal (v : W64)
  | abandon
  | knotReset (v : W64)
  /-- An atomic as its ATOM word names it, with its two source values and their marks. -/
  | atomic (w : W64) (b c : W64 × Bool)
  /-- A leaf entry of target 3 that names this frame comes or goes (13 R458, R459, R464). -/
  | frameCount (up : Bool)
  deriving DecidableEq, Repr

/-- One failing word of a memory BIST (R620, ST_MEMFAIL). -/
structure MemFail where
  mem   : BitVec 7
  fixed : Bool
  word  : BitVec 21
  bit   : BitVec 7
  deriving DecidableEq, Repr, Inhabited

/-- An edge at an MPH input: its instant, and whether the level rises (R55). -/
structure MphEdge where
  t : W64
  rise : Bool := true
  deriving DecidableEq, Repr

/-- What a received flit says beside its payload (R559): whether it is idle; how many flits of this device's replay buffer its
sender has taken; whether its sender asks for the first of the others again. -/
structure FlitInfo where
  idle : Bool := false
  taken : Nat := 0
  again : Bool := false
  deriving DecidableEq, Repr

/-- The commands of the KF32, one per row of the table, in the table's order. -/
inductive Instr where
  -- packets: the queue that carries the packet, and its words
  | nop (q : Fin 256) (p : Pkt)
  | query (q : Fin 256) (p : Pkt)
  | memMap (q : Fin 256) (p : Pkt)
  | memUnmap (q : Fin 256) (p : Pkt)
  | xlInvalidate (q : Fin 256) (p : Pkt)
  | faultResume (q : Fin 256) (p : Pkt)
  | copy (q : Fin 256) (p : Pkt)
  | launch (q : Fin 256) (p : Pkt)
  | braidDefine (q : Fin 256) (p : Pkt)
  | braidStart (q : Fin 256) (p : Pkt)
  | braidStopDrain (q : Fin 256) (p : Pkt)
  | braidStopHalt (q : Fin 256) (p : Pkt)
  | braidStopRelease (q : Fin 256) (p : Pkt)
  | modelLoad (q : Fin 256) (p : Pkt)
  | modelEvict (q : Fin 256) (p : Pkt)
  | mixedStep (q : Fin 256) (p : Pkt)
  | modelSelect (q : Fin 256) (p : Pkt)
  | graphRecord (q : Fin 256) (p : Pkt)
  | graphLaunch (q : Fin 256) (p : Pkt)
  | graphSplice (q : Fin 256) (p : Pkt)
  | graphFree (q : Fin 256) (p : Pkt)
  | knotSignal (q : Fin 256) (p : Pkt)
  | knotWait (q : Fin 256) (p : Pkt)
  | knotReset (q : Fin 256) (p : Pkt)
  | renderPassBegin (q : Fin 256) (p : Pkt)
  | renderPassEnd (q : Fin 256) (p : Pkt)
  | draw (q : Fin 256) (p : Pkt)
  | directDraw (q : Fin 256) (p : Pkt)
  | layerSet (q : Fin 256) (p : Pkt)
  | camConfig (q : Fin 256) (p : Pkt)
  | axisConfig (q : Fin 256) (p : Pkt)
  | hitPost (q : Fin 256) (p : Pkt)
  | outConfig (q : Fin 256) (p : Pkt)
  | dzRunCompress (q : Fin 256) (p : Pkt)
  | dzRunDecompress (q : Fin 256) (p : Pkt)
  | powerHint (q : Fin 256) (p : Pkt)
  | snapshot (q : Fin 256) (p : Pkt)
  | logConfig (q : Fin 256) (p : Pkt)
  | traceConfig (q : Fin 256) (p : Pkt)
  | alarmRead (q : Fin 256) (p : Pkt)
  | contextCreate (q : Fin 256) (p : Pkt)
  | contextDestroy (q : Fin 256) (p : Pkt)
  | queueCreate (q : Fin 256) (p : Pkt)
  | queueDestroy (q : Fin 256) (p : Pkt)
  | partitionConfig (q : Fin 256) (p : Pkt)
  | domainConfigJoin (q : Fin 256) (p : Pkt)
  | domainConfigLeave (q : Fin 256) (p : Pkt)
  | domainBarrier (q : Fin 256) (p : Pkt)
  | domainBroadcast (q : Fin 256) (p : Pkt)
  | domainReset (q : Fin 256) (p : Pkt)
  | testSlice (q : Fin 256) (p : Pkt)
  | shutdown (q : Fin 256) (p : Pkt)
  | attest (q : Fin 256) (p : Pkt)
  -- life of commands
  | framingFailure (q : Fin 256) (p : Pkt) (hdrPoison anyPoison : Bool)
  | commandTimeout (c : Nat) (t : W64)
  | timeoutDrainAllowance (c : Nat) (t : W64)
  | commandCompletion (q : Fin 256)
  | epochPublication
  | blockDispatch (part : Fin 8)
  | coreClaim (c : Nat) (t : W64)
  | turnEnd (part : Fin 8) (t : W64)
  -- instructions: the issuing group, its base word and extension word
  | bra (g : Nat) (w ext : W64)
  | split (g : Nat) (w ext : W64)
  | join (g : Nat) (w ext : W64)
  | exit (g : Nat) (w ext : W64)
  | call (g : Nat) (w ext : W64)
  | ret (g : Nat) (w ext : W64)
  | valu (g : Nat) (w ext : W64)
  | vsfu (g : Nat) (w ext : W64)
  | ualu (g : Nat) (w ext : W64)
  | mov (g : Nat) (w ext : W64)
  | umov (g : Nat) (w ext : W64)
  | cvt (g : Nat) (w ext : W64)
  | s2r (g : Nat) (w ext : W64)
  | s2u (g : Nat) (w ext : W64)
  | ldl (g : Nat) (w ext : W64)
  | stl (g : Nat) (w ext : W64)
  | ldg (g : Nat) (w ext : W64)
  | stg (g : Nat) (w ext : W64)
  | ldc (g : Nat) (w ext : W64)
  | tex (g : Nat) (w ext : W64)
  | tld (g : Nat) (w ext : W64)
  | tres (g : Nat) (w ext : W64)
  | mld (g : Nat) (w ext : W64)
  | mma (g : Nat) (w ext : W64)
  | mst (g : Nat) (w ext : W64)
  | shfl (g : Nat) (w ext : W64)
  | vote (g : Nat) (w ext : W64)
  | matchLanes (g : Nat) (w ext : W64)
  | red (g : Nat) (w ext : W64)
  | bar (g : Nat) (w ext : W64)
  | cbar (g : Nat) (w ext : W64)
  | fence (g : Nat) (w ext : W64)
  | atom (g : Nat) (w ext : W64)
  | ksig (g : Nat) (w ext : W64)
  | kwait (g : Nat) (w ext : W64)
  | kwaitTimeout (g : Nat) (t : W64)
  | hit (g : Nat) (w ext : W64)
  | knotSignalAtPort (k : Place) (v : W64)
  -- the position timebase
  | qualifiedEdge (ax : Fin 8) (a b : Bool) (t : W64)
  | zEdge (ax : Fin 8) (t : W64)
  | axStallExpiry (a : Fin 8) (t : W64)
  | mainsPulse (ax : Fin 8) (e : MphEdge)
  | mainsPulseMissing (a : Fin 8) (t : W64)
  | hitPortArrival (r : HitRec) (src : HitSrc) (t : W64)
  | hitFire (o : Fin 36) (bad : Option W32) (t : W64)
  | pulseEnd (o : Fin 36) (t : W64)
  | tgFire (g : Fin 4) (t : W64)
  | tgCountReached (g : Fin 4)
  | axCfgWrite (a : Fin 8) (v : W32)
  | outCfgWrite (o : Fin 36) (v : W32)
  | tgCfgWrite (g : Fin 4) (v : W32)
  | axHostposWrite (a : Fin 8) (half : HalfSel) (v : W64)
  | flush (o : Fin 36)
  | clear (o : Fin 36)
  | lowerWordRead (off : W32)
  -- the safety island
  | readbackMismatch (o : Fin 36) (t : W64)
  | safeBall (chB : Bool) (t : W64)
  | lockstepSfi (t : W64)
  | lockstepPte (o : Fin 36) (t : W64)
  | clock (c : Fin 4) (t : W64)
  | voltage (rail : Fin 2) (t : W64)
  | deadlineMiss (b : Fin 16) (n : W64) (t : W64)
  | softwareAssistedDiagnostics (ramFault hitFault : Option W32) (t : W64)
  | sfiArmNFallingEdge (okA okB : Bool) (t : W64)
  | disarm (t : W64)
  -- cameras and displays
  | longPacket (p : Fin 4) (vc : BitVec 5) (dt : BitVec 6) (payload : List Byte) (hdrOk crcOk : Bool) (t : W64)
  | frameStart (p : Fin 4) (vc : BitVec 5) (t : W64)
  | frameEnd (p : Fin 4) (vc : BitVec 5) (t : W64)
  | latchPoint (d : Fin 2) (t : W64)
  | dpoCtrlWrite (d : Fin 2) (v : W32)
  | train (d : Fin 2)
  | trainComplete (d : Fin 2) (ok : Bool)
  | dpoMsggo (d : Fin 2)
  | messageDone (d : Fin 2) (o : MsgOutcome) (data : List Byte)
  | hpd (d : Fin 2) (level : Bool)
  -- braids, models, steps
  | drainResultReached (b : Fin 16)
  | drainBlocksEnded (b : Fin 16)
  | braidDrainTimeout (b : Fin 16) (t : W64)
  | selectionRecordRetired (b : Fin 16)
  | usesZero (m : Fin 1024)
  | mixedStepStageEnd (c : Nat)
  -- host interface
  | tail (fn : Fin 9) (q : Fin 256) (v : W32)
  | chead (fn : Fin 9) (q : Fin 256) (v : W32)
  | bar2Read (fn : Fin 9) (off : W64) (len : Nat)
  | bar2Write (fn : Fin 9) (off : W64) (data : List (Byte × Bool))
  | rootqCtrl (fn : Fin 9) (v : W32)
  | mirrorBaseWrite (fn : Fin 9) (v : W64)
  | icnClaim (tgt : Fin 9)
  | icnComplete (tgt : Fin 9) (v : W32)
  | pfReset (k : PfResetKind)
  | vfFunctionLevelReset (v : Fin 8)
  | pcieLinkDown
  | registerWrite (fn : Fin 9) (off : W32) (len : Nat) (v : W64)
  -- translation and memory
  | walkComplete (eng : Fin 46) (ctx : Fin 64) (va : W64) (kind : Access)
  | xlFqbaseWrite (v : W64)
  | xlFqhead (v : W32)
  | invalidationComplete (i : Nat)
  | xlRefq (v : W64)
  | scanComplete
  | releaseWalk
  | scrub (unit : Fin 36)
  | scrubLapEnd (lpddr : Bool) (t : W64)
  | eccTestWrite
  | eccTestRead
  -- Hawser links and domains
  | flitReceipt (k : Fin 4) (crcOk : Bool) (f : FlitInfo) (t : W64)
  | replayLimit (k : Fin 4) (t : W64)
  | linkFlitTimeout (k : Fin 4) (t : W64)
  | linkUp (k : Fin 4) (width : BitVec 3) (peer : Fin 16)
  | hlCtrl (k : Fin 4) (v : W32)
  | retrain (k : Fin 4)
  | remoteAccessArrival (k : Fin 4) (part : Fin 8) (lp : Bool) (frame : BitVec 27) (off : BitVec 16) (op : RemoteOp)
  | remoteResponse (i : Nat) (data : W64) (poison refused : Bool)
  | remoteStoreAck (i : Nat) (refused : Bool)
  | remoteLoadTimeout (i : Nat) (t : W64)
  | remoteStoreTimeout (i : Nat) (t : W64)
  | barrierRelease (b : BitVec 8)
  -- power and the Wisp
  | powerStateEntry (st : PState)
  | powerStateExit (codes : BitVec 7) (okA okB : Bool) (t : W64)
  | hwakeN (t : W64)
  | wakeTimer (t : W64)
  | debouncedLevel (i : Fin 8) (level : Bool) (t : W64)
  | wcamFrame (pixels : List Byte) (t : W64)
  | ruleEvaluation (t : W64)
  | wispCtrlWrite (v : W32)
  | avsAcknowledge (rail : Fin 2) (mv : BitVec 16)
  | settleExpiry (rail : Fin 2)
  | avsNoackTimeout (rail : Fin 2)
  | tjSample (readings : List Int) (t : W64)
  | thermalStep (t : W64)
  -- reset, boot, self-test
  | powerOnReset
  | rstN (lowNs : Nat)
  | vddSafeLoss
  | bootCtrl (v : W32)
  | shutdownTestComplete (failPd : W64) (fails : List MemFail) (t : W64)
  | sliceComplete (core : Fin 32) (ok : Bool) (t : W64)
  | snapshotTrigger (t : W64)
  | holdEnd (t : W64)
  -- test port
  | extest
  | idcode
  | samplePreload
  | clamp
  | highz
  | extestPulse
  | extestTrain
  | strec
  | bypass (code : Byte)
  -- links, clocks, rails, domains: the rest of the table
  | pcieLinkUp (rate : Fin 5) (width : Fin 4)
  | configurationSpaceWrite (fn : Fin 9) (f : CfgField) (v : W32)
  | camRxLoss (p : Fin 4) (t : W64)
  | clockInRange (c : Fin 4)
  | voltageInRange (rail : Fin 2)
  | ballLevelRestored (b : MonBall)
  | railMonitorsInRange (pass : Bool) (failPd : W64) (fails : List MemFail)
  | vddioMachCollapse
  | bankGroupZeroed (k : Fin 8)
  | domainResetArrival
  | domainSnapshotStart (ctx : Fin 64) (buf : W64) (knots : W64) (nknot : Nat) (seq : W64) (t : W64)
  | barrierWithdrawalAnswer (b : BitVec 8) (removed : Bool)
  | hostaccRead (fn : Fin 9) (a : RegAcc)
  deriving DecidableEq, Repr

end Sys2Proof
end

