-- ==== Sys2Proof/Decode.lean ====
section
/-! DEFINITION. Decode.lean: the commands that words spell. spec/opcode_table.json gives no row any bits (its rows are
packets as the queue carries them, instructions with their group, and events), so no word spells a command. -/
namespace Sys2Proof

/-- The command that the `nbits` bits `w` spell by the table's bits: none, since no row of the table has bits. -/
def decodeTableWord (nbits w : Nat) : Option Instr :=
  match nbits, w with
  | _, _ => none

end Sys2Proof
end

