-- ==== Sys2Proof/Config.lean ====
section
/-! DEFINITION. Config.lean: what the spec leaves open (free values, no body: nothing can be proved of the value) and
the functions of published standards that the spec names and does not write out. Every constant has a log entry. -/
namespace Sys2Proof.Config

/-- The free values of the step (DESIGN CHOICE, safe, log 2): the n-th value drawn. The step reads and advances `State.freeCtr`. -/
opaque freeValue : Nat → BitVec 64

/-- VALUE of a braid's knot that lies on another device, when it is read without a request of its own: time, values drawn, braid and
offset (06 R237, DESIGN CHOICE, safe, log 100). -/
opaque peerKnot : BitVec 64 → Nat → Nat → Nat → BitVec 64

/-- The check bits that each of the 64 data bits of a word turns over in the SECDED code (16 R542: the code itself is not given;
DESIGN CHOICE, unsafe, log 15). Columns that make no such code are not used (Machine/Ops.lean). -/
opaque secdedCols : List (BitVec 8)

/-- A VSFU result for operation code `op` (0 RCP ... 6 COS) on the FP32 code `x` (04 R146, DEDUCED, safe, log 16). -/
opaque vsfu : BitVec 8 → BitVec 32 → BitVec 32

/-- FIPS 204 ML-DSA-87 verification: public key, message, signature (20 R628, DESIGN CHOICE, safe, log 17). -/
opaque mldsaVerify : List (BitVec 8) → List (BitVec 8) → List (BitVec 8) → Bool
/-- FIPS 204 ML-DSA-87 key generation from a 32-byte seed: (public key, private key) (20 R632, DESIGN CHOICE, safe, log 17). -/
opaque mldsaKeyGen : List (BitVec 8) → List (BitVec 8) × List (BitVec 8)
/-- FIPS 204 ML-DSA-87 signature of a message with a private key (20 R632, R634, DESIGN CHOICE, safe, log 17). -/
opaque mldsaSign : List (BitVec 8) → List (BitVec 8) → List (BitVec 8)

/-- The Deflate body that the DZE's compressor writes for an input, with its flags DYN and FLUSH: R552 and R553 fix the
form and that it is a function of input and flags; the choice of matches and codes is the compressor's (DESIGN CHOICE, safe, log 18). A value
that has not the form of R552 and R554 is not used (Machine/Deflate.lean). -/
opaque deflate : Bool → Bool → List (BitVec 8) → List (BitVec 8)

/-- The DZE's choice of a compressed tile form (16 R282): header MODE and SECT, and slot bytes, for the tile bytes. -/
opaque tileCompress : List (BitVec 8) → BitVec 64 × List (BitVec 8)

/-- Where the GFE's exact result lies between two values that it can deliver, whether it delivers the upper one: 0 for FP32 values, 1 for a tie
between two multiples of 1/256 pixel; numerator and denominator of the exact result (08 R289, R290, DESIGN CHOICE, unsafe, log 19). -/
opaque gfeUp : BitVec 8 → Int → Nat → Bool

/-- The screen triangles of a triangle with a position, matrix element or viewport item that is not finite (08 R289 gives none): from matrix,
viewport and the positions of three vertices (FP32 codes, four each), for each of three corners sx and sy in 1/256 pixel and the FP32
codes of z/w and 1/w (DESIGN CHOICE, safe, log 97). -/
opaque gfeOdd : List (BitVec 32) → List (BitVec 32) → List (BitVec 32) → List (List (Int × Int × BitVec 32 × BitVec 32))

/-- Interpolation of an attribute or depth with a corner value that is not finite (08 R290, Table 8.5 INTERP): corner values (FP32 codes), corner
1/w codes, the three exact barycentric numerators and the perspective flag (DESIGN CHOICE, safe, log 97). -/
opaque interpolate : List (BitVec 32) → List (BitVec 32) → List Int → Bool → BitVec 32

/-- The filtered texture sample (08 R304) from the level of detail code, filter word and the texels read (DESIGN CHOICE, safe, log 21). -/
opaque texFilter : BitVec 32 → BitVec 16 → List (BitVec 32) → List (BitVec 32) → List (BitVec 32)

/-- The implicit level of detail from a quad's coordinates (04 R152), FP32 code (DESIGN CHOICE, safe, log 21). -/
opaque texLod : List (BitVec 32) → BitVec 32 → BitVec 32

/-- LPDDR training (16 R538): the trained data rate in MT/s and channel mask for the configuration section's bytes, and
MiB per channel; a zero mask means that training failed (DESIGN CHOICE, safe, log 22). -/
opaque lpddrTrain : List (BitVec 8) → BitVec 14 × BitVec 4 × Nat

end Sys2Proof.Config
end

