-- ==== Sys2Proof/Machine/State.lean ====
section
/-! DEFINITION. State.lean: the state of the KF32 as plain data, its reset, and the reasons a step may stop.
Registers that software reads as words are bit vectors; internal modes are inductive types. Each structure names the
chapter of spec/ that gives its fields. -/
namespace Sys2Proof.Machine

/-- The reasons a step may end in a fault. The spec gives every command of the table an effect, so no meaning raises one. -/
inductive Fault where
  /-- Raised by no meaning: the spec names no event that stops the block (safe: unreachable). -/
  | blockStopped
  deriving DecidableEq, Repr

/-- The reasons a step may be refused. -/
inductive Refusal where
  /-- Raised by `exec` for a command that has no meaning yet; none is left (safe). -/
  | notModelled (mnemonic : String)
  deriving DecidableEq, Repr

/-! ### Memory (16) -/

/-- Check state of an 8-byte word that is not clean (R542-R545, R550): stored poison, or raw check bits that are not the
code of its data. -/
inductive Mark where
  | poison
  | raw (check : Byte)
  deriving DecidableEq, Repr

/-- A byte memory: bytes that differ from 0 by address, rising; words that are not clean by granule number, rising. -/
structure Mem where
  cells : List Host.Cell := []
  marks : List (Nat × Mark) := []
  deriving DecidableEq, Repr

/-! ### Position timebase (02) -/

/-- Tracking mode of an axis (AX_STATUS.MODE): disabled, coarse or unlocked, fine, locked. -/
inductive AxMode where
  | disabled | coarse | fine | locked
  deriving DecidableEq, Repr

/-- One axis. `cfg` ... `rate` are its registers; `pos` is the position set by the last event, `c` and `te` are C and te
of R52 (for a mains axis `te` is the boundary tb of R56), `base` is the base of R40, `k` the cycle number of R56 counted from `base`. -/
structure Axis where
  cfg   : W32 := 0
  filt  : W32 := 0x04
  stall : W32 := 0x000F4240
  mains : W32 := 0x0E10
  zload : W64 := 0
  moffs : W32 := 0
  rate  : W32 := 0
  hostLo : W32 := 0
  zlatch : W64 := 0
  late : W32 := 0
  inputErr : W32 := 0
  drops : W32 := 0
  coarseCnt : W32 := 0
  mode  : AxMode := .disabled
  rev   : Bool := false
  pos   : W64 := 0
  c     : W64 := 0
  base  : W64 := 0
  te    : W64 := 0
  tEn   : W64 := 0
  k     : Nat := 0
  /-- PTE time of the last counted edge or qualified pulse, if any since enabling (or the return to coarse mode). -/
  lastT : Option W64 := none
  /-- The last intervals or periods in ns, newest first: at most 8 (R50), or 4 (R58). -/
  ivals : List Nat := []
  /-- Levels of A and B last qualified (R46). -/
  lvA : Bool := true
  lvB : Bool := true
  /-- PTE times at which a transition of A (or a pulse of MPH), of B and of Z last qualified, for the filter of R45. -/
  qA : Option W64 := none
  qB : Option W64 := none
  qZ : Option W64 := none
  deriving DecidableEq, Repr

/-- A pending hit (R63): target, direction, action, width, tag, and its place in the order of acceptance (R54, R64). -/
structure PendHit where
  target : W64
  rev    : Bool
  action : BitVec 3
  width  : W32
  tag    : W32
  seq    : Nat
  deriving DecidableEq, Repr

/-- One output SO0-SO31, TRG0-TRG3. `until'` is U of R66, none for infinity; `force` is the level an outside source holds
on the ball, if any. -/
structure Output where
  cfg     : W32 := 0
  defw    : W32 := 0
  written : Bool := false
  active  : Bool := false
  until'  : Option W64 := some 0
  pend    : List PendHit := []
  fired   : W32 := 0
  lasttag : W32 := 0
  force   : Option Bool := none
  deriving DecidableEq, Repr

/-- A trigger generator; `k` is the number of targets reached (R73). -/
structure TrigGen where
  cfg : W32 := 0
  width : W32 := 0x64
  start : W64 := 0
  pitch : W64 := 0
  count : W32 := 0
  seq : W32 := 0
  lastpos : W64 := 0
  lasttime : W64 := 0
  skip : W32 := 0
  k : Nat := 0
  deriving DecidableEq, Repr

structure Pte where
  safeState : Bool := true
  cfgLock   : Bool := false
  alarm     : W32 := 0
  hitrej    : W32 := 0
  hitHigh   : Nat := 0
  axes      : Tab Axis 8 := Vector.replicate 8 {}
  outs      : Tab Output 36 := Vector.replicate 36 {}
  tgs       : Tab TrigGen 4 := #v[{}, { cfg := 0x10 }, { cfg := 0x20 }, { cfg := 0x30 }]
  /-- Upper words latched by lower-word reads and not yet read, by offset (R79). -/
  latch     : List (Nat × W32) := []
  nextSeq   : Nat := 0
  deriving DecidableEq, Repr

/-! ### Safety island and self-test (19) -/

inductive SfiState where
  | boot | hold | arming | armed
  deriving DecidableEq, Repr

structure CauseEntry where
  code : Byte := 0
  unit : Byte := 0
  detail : W32 := 0
  time : W64 := 0
  deriving DecidableEq, Repr

structure BraidMon where
  window : BitVec 16
  missLim : BitVec 16
  lateLim : BitVec 16
  required : Bool
  deriving DecidableEq, Repr

structure AxisMon where
  window : BitVec 16
  lateLim : BitVec 16
  deriving DecidableEq, Repr

/-- The safety configuration block as applied (Table 19.3). -/
structure Scb where
  rearm : Bool
  safeOut : BitVec 36
  level : Tab Byte 36
  braids : Tab BraidMon 16
  axes : Tab AxisMon 8
  deriving DecidableEq, Repr

structure Sfi where
  state : SfiState := .boot
  latchA : Bool := false
  armIn : Bool := false
  /-- While ARMING: whether SAFE_A_N and SAFE_B_N follow their release (R608). -/
  armOk : Bool × Bool := (true, true)
  /-- What the SFI commands on SAFE_A_N and SAFE_B_N: asserted? (Table 19.4) -/
  cmdA : Bool := true
  cmdB : Bool := true
  /-- The level an outside source holds on SAFE_A_N, SAFE_B_N (asserted?), if any. -/
  forceA : Option Bool := none
  forceB : Option Bool := none
  scb : Option Scb := none
  scbDigest : BitVec 512 := 0
  cause : Byte := 0
  /-- The SFI entered HOLD with cause POWER alone (R607). -/
  powerOnly : Bool := false
  /-- Class B conditions found by the last software-assisted diagnostics: (cause, unit). -/
  diag : List (Byte × Byte) := []
  trips : W32 := 0
  arms : W32 := 0
  refused : W32 := 0
  causeSeq : W32 := 0
  log : Tab CauseEntry 16 := Vector.replicate 16 {}
  /-- Times of counted events while armed (R615): misses and late hits per braid, late hits per axis. -/
  misses : Tab (List W64) 16 := Vector.replicate 16 []
  lates : Tab (List W64) 16 := Vector.replicate 16 []
  axLates : Tab (List W64) 8 := Vector.replicate 8 []
  /-- AX_CFG and OUT_CFG as they stood at arming (Table 19.6, configuration diagnostic). -/
  armAx : Tab W32 8 := Vector.replicate 8 0
  armOut : Tab W32 36 := Vector.replicate 36 0
  /-- The lockstep pair has halted (R602). -/
  halted : Bool := false
  /-- Clocks and rails now out of range (R610). -/
  badClock : BitVec 4 := 0
  badRail : BitVec 2 := 0
  /-- The keeper of R643 holds the balls. -/
  keeper : Bool := false
  deriving DecidableEq, Repr

/-- A self-test result: the shutdown record in Wisp SRAM, and the ST registers (R618-R620). -/
structure TestRec where
  pass : Bool
  failPd : W64
  fails : List MemFail
  deriving DecidableEq, Repr

structure SelfTest where
  source : BitVec 2 := 0
  pass : Bool := false
  repaired : Bool := false
  failPd : W64 := 0
  fails : List MemFail := []
  slices : Tab W64 32 := Vector.replicate 32 0
  sliceFail : W32 := 0
  /-- The shutdown self-test is running (R617). -/
  testing : Bool := false
  /-- The shutdown record in Wisp SRAM, while it is intact (R618, R619). -/
  shutRec : Option TestRec := none
  deriving DecidableEq, Repr

/-! ### Boot and security (20), test port (21) -/

structure Fuses where
  vkh : BitVec 512 := 0
  ckh : BitVec 512 := 0
  cust : Bool := false
  rollback : W64 := 0
  uds : BitVec 256 := 0
  debugLock : Bool := false
  deriving DecidableEq, Repr

structure Boot where
  stage : BitVec 4 := 0
  err : BitVec 4 := 0
  rstsrc : BitVec 2 := 1
  img : W64 := 0
  size : W32 := 0
  fails : W32 := 0
  digest : BitVec 512 := 0
  fwver : W32 := 0
  svn : Byte := 0
  measure : BitVec 512 := 0
  udsLocked : Bool := false
  aliasPk : List Byte := []
  aliasSk : List Byte := []
  devPk : List Byte := []
  endorse : List Byte := []
  /-- Bytes of the image copy kept in LPDDR (Table 20.6). -/
  copySize : Nat := 0
  deriving DecidableEq, Repr

/-! ### Power, Wisp, AVSBus, thermal (18, 21) -/

/-- Level of a power domain (PD_STATE). -/
inductive PdLevel where
  | off | retention | on
  deriving DecidableEq, Repr

structure Pwr where
  state : PState := .run
  budget : W32 := 1
  mode : BitVec 3 := 0
  wakeLast : BitVec 4 := 0
  wakeMask : BitVec 7 := 0
  wakeTimer : W64 := BitVec.allOnes 64
  pd : Tab PdLevel 64 := Vector.replicate 64 .off
  entries : Tab W32 6 := Vector.replicate 6 0
  aborts : Tab W32 6 := Vector.replicate 6 0
  offacc : W32 := 0
  deriving DecidableEq, Repr

structure WispFilter where
  cfg : W64 := 0
  value : W32 := 0
  produced : Nat := 0
  /-- Times of rising debounced edges (KIND 2). -/
  edges : List W64 := []
  /-- Background block means (KIND 3), empty before the first frame. -/
  back : List Nat := []
  deriving DecidableEq, Repr

structure Wisp where
  ctrl : W32 := 0
  pins : Tab W32 8 := Vector.replicate 8 0x2000
  levels : Tab Bool 8 := Vector.replicate 8 true
  filts : Tab WispFilter 8 := Vector.replicate 8 {}
  rules : Tab W32 4 := Vector.replicate 4 0
  runs : Tab Nat 4 := Vector.replicate 4 0
  fired : BitVec 4 := 0
  frame : List Byte := []
  deriving DecidableEq, Repr

/-- A voltage request of one rail (R592, R593): none, sent n times and unacknowledged, acknowledged and settling, failed. -/
inductive AvsReq where
  | idle
  | sent (mv : BitVec 16) (n : Nat)
  | settling (mv : BitVec 16)
  deriving DecidableEq, Repr

structure Avs where
  cfg : W32 := 0x1032
  vout : Tab (BitVec 16) 2 := Vector.replicate 2 0
  alarm : BitVec 2 := 0
  req : Tab AvsReq 2 := Vector.replicate 2 .idle
  deriving DecidableEq, Repr

structure Therm where
  tj : Int := 25
  /-- Thermal step (R652) and the step the last acknowledged VDD_ARITH allows (R650). -/
  step : Fin 5 := 0
  vstep : Fin 5 := 0
  /-- Clock step in force (R650, R592). -/
  clk : Fin 5 := 0
  thermN : Bool := false
  deriving DecidableEq, Repr

/-! ### Host interface (11) -/

structure MsixEntry where
  addr : W64 := 0
  data : W32 := 0
  ctrl : W32 := 1
  pend : Bool := false
  deriving DecidableEq, Repr

/-- One function of the PCI Express endpoint: PF (0), VF0-VF7 (1-8). -/
structure Func where
  rootqOn : Bool := false
  rootqBase : W64 := 0
  rootqCbase : W64 := 0
  rootqCfg : W32 := 0
  mirror : W64 := 0
  /-- The next publication writes the whole view into the mirror (R409, R411). -/
  mirrorWhole : Bool := true
  bar2Map : W64 := 0
  alarm : W32 := 0
  doorbellErr : W32 := 0
  bar2Fault : W32 := 0
  msix : List MsixEntry := []
  busMaster : Bool := false
  memDecode : Bool := false
  /-- MSI-X Enable and Function Mask of the function's MSI-X capability (R407). -/
  msixEn : Bool := false
  msixMask : Bool := false
  /-- Identity (Table 11.1): Device ID and class code. -/
  devId : BitVec 16 := 0x0B33
  classCode : BitVec 24 := 0x120000
  /-- Max payload size and max read request size as programmed: 2^(7 + code) bytes (Table 11.1). -/
  maxPayload : BitVec 3 := 0
  maxRead : BitVec 3 := 2
  /-- Power state D3hot, and ASPM L1 enabled (Table 11.1). -/
  d3hot : Bool := false
  aspmL1 : Bool := false
  /-- L1 substates enabled (bit 0 L1.2, bit 1 L1.1), LTR, ECRC generation and checking, and 10-bit tags as requester (Table 11.1). -/
  l1sub : BitVec 2 := 0
  ltr : Bool := false
  ecrcGen : Bool := false
  ecrcCheck : Bool := false
  tags10 : Bool := false
  /-- First VF Offset and VF Stride of the PF's SR-IOV capability (Table 11.1). -/
  vfOffset : BitVec 16 := 1
  vfStride : BitVec 16 := 1
  /-- AER uncorrectable error status: bit 12 poisoned TLP received. -/
  aer : W32 := 0
  /-- Size code of BAR2: 2^(20 + code) bytes (R389). -/
  bar2Size : W32 := 8
  /-- Function enabled (always for the PF; by VF Enable for a VF). -/
  enabled : Bool := true
  deriving DecidableEq, Repr

structure Pcie where
  up : Bool := false
  rate : Fin 5 := 0
  width : Fin 4 := 0
  deriving DecidableEq, Repr

structure IcnSrc where
  en : Bool := false
  sense : BitVec 3 := 0
  prio : BitVec 4 := 0
  target : BitVec 4 := 0
  pending : Bool := false
  active : Bool := false
  input : Bool := false
  deriving DecidableEq, Repr

structure IcnTgt where
  cfg : W32 := 0
  outstanding : Bool := false
  deriving DecidableEq, Repr

structure Icn where
  srcs : Tab IcnSrc 256 := Vector.replicate 256 {}
  tgts : Tab IcnTgt 9 := Vector.replicate 9 {}
  deriving DecidableEq, Repr

/-- States of queues and contexts (Table 13.1). -/
inductive Life where
  | free | live | destroying
  deriving DecidableEq, Repr

/-- A completion record waiting for room (R405): status, tag, opcode, context byte, RESULT, and whether IRQ was asked. -/
structure WaitRec where
  dws : List W32
  irq : Bool
  deriving DecidableEq, Repr

/-- A packet that stands in a queue's command ring and that the front end has not taken: its words, and whether its header or
another of its slots arrives poisoned. -/
structure RingPkt where
  pkt : Pkt
  hdrPoison : Bool := false
  anyPoison : Bool := false
  deriving DecidableEq, Repr

/-- A queue: its record (Table 10.4), rings and doorbell counts (R396-R405). -/
structure Queue where
  life : Life := .free
  root : Bool := false
  fn : Fin 9 := 0
  ctx : Fin 64 := 0
  kind : BitVec 2 := 0
  share : BitVec 4 := 0
  size : Nat := 0
  csize : Nat := 0
  vector : Nat := 0
  ring : W64 := 0
  cring : W64 := 0
  lost : Bool := false
  lastStatus : BitVec 16 := 0
  lastTag : BitVec 16 := 0
  accepted : W64 := 0
  completed : W64 := 0
  fetch : W64 := 0
  tail : W32 := 0
  written : W32 := 0
  chead : W32 := 0
  /-- Completion records that wait for room, oldest first (R405). -/
  waitRecs : List WaitRec := []
  /-- Packets in the ring that have been handed in and not yet taken, in ring order (R397, R510). -/
  slots : List RingPkt := []
  /-- The slot fetch waits for FAULT_RESUME (R402). -/
  stalled : Bool := false
  /-- The slot whose fetch was aborted is treated as poisoned (R498): whether it is the packet's header slot. -/
  abortFetch : Option Bool := none
  deriving DecidableEq, Repr

/-! ### Commands (12) -/

/-- A trap report (R134). -/
structure TrapRep where
  status : BitVec 16
  engine : Byte
  quarter : BitVec 2
  age : W32
  pc : W32
  mask : W32
  deriving DecidableEq, Repr

/-- A LAUNCH or one stage of a MIXED_STEP being dispatched (R427, R508, R511, R268). -/
structure Dispatching where
  code : Nat
  nblock : Nat
  next : Nat := 0
  groups : Nat
  cluster : Nat
  lmSize : Nat
  bank0 : List Byte
  /-- Bound CBUF banks: address and size; a MODEL binding holds its 16 bytes. -/
  banks : List (Nat × Nat × List Byte)
  /-- Texture descriptors as read (R275), 64 bytes each. -/
  texs : List (List Byte)
  /-- Affinity A(n) per core (R511). -/
  aff : List Nat
  /-- Cores a stage is bound to (R268), empty for a LAUNCH. -/
  bound : List (Fin 32) := []
  claim : Option (Fin 32) := none
  /-- PTE time since which its next block has found no core (R509). -/
  noCoreSince : Option W64 := none
  deriving DecidableEq, Repr

/-- One entry of a MIXED_STEP (Table 7.8) with its exclusion status. -/
structure StepEntry where
  seq : W64
  tokens : W64
  out : W64
  start : W32
  count : BitVec 16
  logits : Byte
  excluded : Bool := false
  deriving DecidableEq, Repr

/-- What a MODEL_LOAD copies (07 R244): the data segments in table order, each with the address of its bytes, its destination
offset, its size and whether it lies on this device; the context that reads them; and whether the image has contents on other
devices that are not seen here. -/
structure Loading where
  srcs : List (Nat × Nat × Nat × Bool)
  from' : Fin 64
  blind : Bool
  deriving DecidableEq, Repr

/-- What an accepted, started, unfinished command is doing. -/
inductive Work where
  | single
  | blocks (d : Dispatching)
  | knotWait (k : Place)
  | drain (b : Fin 16)
  | evict (m : Fin 1024)
  | select
  /-- MIXED_STEP in stage `stage`, or waiting to enter it while `d.nblock` is 0. -/
  | step (m : Fin 1024) (stage : Nat) (entries : List StepEntry) (scratch : W64) (d : Dispatching)
  /-- MODEL_LOAD whose model is LOADING, with the copy that it has still to make. -/
  | load (m : Fin 1024) (todo : Option Loading)
  /-- COPY or DOMAIN_BROADCAST: the engine that serves it, and its progress in bytes. -/
  | copy (eng : Nat) (bytes : Nat)
  | render (pass : Nat)
  | latch (outs : List (Fin 2))
  /-- Waiting for invalidations; the frames its entries add at its completion, and whether it changes frame counts (R459, R463). -/
  | inval (ids : List Nat) (add : List (Bool × Nat)) (counts : Bool)
  | graph (gid : Fin 256) (ver : Nat) (rest : List Pkt)
  | snap
  | barrier (b : BitVec 8)
  | join
  | domReset
  | slice (core : Fin 32) (n : BitVec 6)
  | shutdownTest
  | destroy (c : Fin 64)
  | passWait
  deriving DecidableEq, Repr

/-- Phase of an accepted command: waiting to start (R374), running, work ended (R352 not yet done). -/
inductive Phase where
  | waiting | running | done
  deriving DecidableEq, Repr

/-- An accepted command whose completion has not been published. `parent` is the GRAPH_LAUNCH it runs in (R435). -/
structure Cmd where
  id : Nat
  q : Fin 256
  pkt : Pkt
  phase : Phase := .waiting
  /-- When R374 first allowed it to start (R424). -/
  startT : Option W64 := none
  work : Work := .single
  status : BitVec 16 := 0
  res : List W32 := [0, 0, 0, 0]
  sat : Nat := 0
  trap : Option TrapRep := none
  parent : Option Nat := none
  /-- The packet's number in its graph version, and its code object as installed there (R433). -/
  gidx : Nat := 0
  gcode : Option Nat := none
  /-- Models that its binding table names (R250). -/
  models : List (Fin 1024) := []
  /-- It has dispatched a block (15 R531). -/
  dispatched : Bool := false
  /-- A KILL = 0 timeout is draining until this time (R425). -/
  drainEnd : Option W64 := none
  deriving DecidableEq, Repr

/-! ### Cores, blocks, groups (03, 04) -/

/-- An installed code object (R174). -/
structure Code where
  id : Nat
  strand : Bool
  tile : Bool
  vregs : Nat
  lmSize : Nat
  entry : Nat
  cbSize : Nat
  text : List W64
  const : List Byte
  binds : List (Nat × Nat)
  deriving DecidableEq, Repr

/-- A claim on a core (R509 by a command, R622 by a BIST slice). -/
inductive Claim where
  | cmd (c : Nat)
  | bist
  deriving DecidableEq, Repr

/-- A line of a far-read cache: its place and its bytes with their marks. -/
structure FarLine where
  pl : Place
  bytes : List (Byte × Bool)
  /-- Filled from a STREAM page: replaced first (14 Table 14.2). -/
  stream : Bool := false
  deriving DecidableEq, Repr

structure Core where
  lm : Mem := {}
  /-- The far-read cache, newest line first (R126, R130). -/
  far : List FarLine := []
  ageCtr : W64 := 0
  cycles : W64 := 0
  claim : Option Claim := none
  /-- Passes that reserve LM for tile buffers here, from the top, and their bytes (R90, R285). -/
  tileRes : List (Nat × Nat) := []
  /-- For R88: per quarter and context, the registers and the group slots that are the context's or may have had it as their last
occupant, at most; and the context that had each 1 KiB of LM last. -/
  regCtx : Tab (List (Fin 64 × Nat × Nat)) 4 := Vector.replicate 4 []
  lmCtx : Tab (Option (Fin 64)) 256 := Vector.replicate 256 none
  deriving DecidableEq, Repr

/-- Who a block works for. -/
inductive Owner where
  | cmd (c : Nat)
  | strand (b : Fin 16) (s : Nat)
  | tile (pass : Nat)
  deriving DecidableEq, Repr

/-- Inputs of a tile-shading group kept for its EXIT (R297-R299): the tile, the draw, the pixels and depths of its lanes. -/
structure TileJob where
  tile : Nat
  draw : Nat
  px : List (Nat × Nat)
  cover : W32
  depth : List W32
  /-- What each lane left at its EXIT (08 R297): v0 to v15, and p7. -/
  outs : List (Fin 32 × List (W32 × Bool) × Bool) := []
  deriving DecidableEq, Repr

structure Block where
  id : Nat
  owner : Owner
  ctx : Fin 64
  part : Fin 8
  tier : Nat
  share : BitVec 4
  index : Nat
  nblock : Nat
  core : Fin 32
  lmBase : Nat
  lmSize : Nat
  code : Nat
  cluster : Option Nat
  rank : Nat
  parked : Bool := false
  bank0 : List Byte := []
  banks : List (Nat × Nat × List Byte) := []
  texs : List (List Byte) := []
  tile : Option TileJob := none
  ngroup : Nat := 1
  deriving DecidableEq, Repr

/-- A vector register of a group: 32 lanes and a poison mark per lane (R118). -/
structure VReg where
  lanes : List W32
  poison : W32 := 0
  deriving DecidableEq, Repr

/-- An entry of the divergence stack (R161). -/
structure DivEntry where
  mask : W32
  elseMask : W32
  elsePc : Nat
  joinPc : Nat
  phase : Bool
  deriving DecidableEq, Repr

/-- Why a group is not ready (R85, R133, R490). A knot wait holds its place, threshold, DST, SC, TRAPAB, deadline and the
pc that follows it. -/
inductive GWait where
  | ready
  | blockBar
  | clusterBar
  | knot (k : Place) (thr : W64) (dst pred : Byte) (trapab : Bool) (deadline : Option W64) (next : Nat)
  | stall (pmt : Nat)
  | remote (i : Nat)
  /-- The group has trapped with a status; its command is stopped before the step ends (R133). -/
  | trapped (st : BitVec 16)
  deriving DecidableEq, Repr

structure Group where
  id : Nat
  blk : Nat
  core : Fin 32
  quarter : Fin 4
  age : W64
  cls0 : Bool
  idx : Nat
  v : List VReg
  u : List W32
  uPoison : W64 := 0
  p : List W32
  pPoison : List W32
  active : W32
  exited : W32 := 0
  stack : List DivEntry := []
  pc : Nat
  wait : GWait := .ready
  deriving DecidableEq, Repr

/-! ### Braids (06) -/

inductive BState where
  | free | defined | running | draining | stopped | faulted
  deriving DecidableEq, Repr

structure Strand where
  code : Nat := 0
  cbuf : W64 := 0
  cores : W32 := 0
  blocks : Nat := 0
  groups : Nat := 0
  cbSize : Nat := 0
  dev : Byte := 0xFF
  io : List Byte := []
  result : Bool := false
  affinity : W64 := 0
  affLen : W32 := 0
  banks : List (Nat × Nat × List Byte) := []
  texs : List (List Byte) := []
  deriving DecidableEq, Repr

structure Channel where
  base : W64 := 0
  slotSize : Nat := 128
  slots : Nat := 2
  deriving DecidableEq, Repr

structure Braid where
  state : BState := .free
  ctx : Fin 64 := 0
  flags : BitVec 16 := 0
  source : Byte := 0
  axis : BitVec 3 := 0
  late : BitVec 2 := 0
  deadline : W32 := 0
  outmask : BitVec 36 := 0
  strands : List Strand := []
  chans : List Channel := []
  knotBase : Nat := 0
  admitted : W64 := 0
  dropsPend : W32 := 0
  overrun : W32 := 0
  deadlineMiss : W32 := 0
  posted : W32 := 0
  lates : W32 := 0
  refused : W32 := 0
  satcount : W32 := 0
  maxlat : W32 := 0
  unresHigh : Nat := 0
  status : BitVec 16 := 0
  trap : Option (Nat × TrapRep) := none
  /-- Admission times T(n) of units not yet resolved, and whether each was counted as missed (R225, R226). -/
  units : List (W64 × W64 × Bool) := []
  /-- Units resolved before their deadline, until it comes (R225). -/
  early : List (W64 × W64 × Bool) := []
  /-- FLUSHHITS of the command that is ending the braid's drain (R231, R233). -/
  flush : Bool := false
  /-- The drain's TIMEOUT ends at this time (R230). -/
  drainEnd : W64 := 0
  /-- The channel knots were abandoned because the result knot reached ADMITTED (R229). -/
  drained : Bool := false
  deriving DecidableEq, Repr

/-! ### Models and graphs (07, 10) -/

inductive MState where
  | empty | loading | resident | evicting
  deriving DecidableEq, Repr

structure Stage where
  code : Nat := 0
  blocks : Nat := 1
  groups : Nat := 1
  affOfs : W32 := 0
  affLen : W32 := 0
  dev : Byte := 0xFF
  deriving DecidableEq, Repr

structure Model where
  state : MState := .empty
  residency : Byte := 0xFF
  ctx : Fin 64 := 0
  /-- The partition of the context that loaded it (R251). -/
  part : Fin 8 := 0
  shared : Bool := false
  lm : Bool := false
  span : Bool := false
  regions : W32 := 0
  wframes : W32 := 0
  wbase : W64 := 0
  wsize : W32 := 0
  paramOfs : W32 := 0
  paramSize : W32 := 0
  kvTokBytes : W32 := 0
  vocab : W32 := 0
  actTokBytes : W32 := 0
  pageTokens : BitVec 16 := 0
  maxPages : BitVec 16 := 0
  stages : List Stage := []
  devmask : BitVec 16 := 0
  loadseq : W64 := 0
  /-- Offsets and sizes of the touched WEIGHTS and PARAM ranges in the weight range. -/
  touched : List (Nat × Nat) := []
  codes : List Nat := []
  hasParam : Bool := false
  digest : BitVec 512 := 0
  /-- Its context was destroyed while another context's braid selects it: evicted once that ends (R261). -/
  orphan : Bool := false
  deriving DecidableEq, Repr

/-- A live graph version: number, slot, packets, accepted unfinished launches bound to it, with those that wait for room in the
count of 0xFFFF (R365). -/
structure GVer where
  ver : Nat
  slot : Fin 4
  pkts : List Pkt
  /-- Code objects by packet number, installed once for the version (R433). -/
  codes : List (Nat × Nat) := []
  launches : Nat := 0
  deriving DecidableEq, Repr

structure Graph where
  live : Bool := false
  ctx : Fin 64 := 0
  current : Nat := 0
  curSlot : Fin 4 := 0
  vers : List GVer := []
  deriving DecidableEq, Repr

/-! ### Rendering (08) -/

/-- A surface as its descriptor gives it (Table 8.2). -/
structure Surface where
  base : W64 := 0
  hdr : W64 := 0
  sig : W64 := 0
  pitch : Nat := 0
  width : Nat := 1
  height : Nat := 1
  format : Byte := 1
  compressed : Bool := false
  sigreset : Bool := false
  load : BitVec 2 := 0
  store : BitVec 2 := 0
  clear : List W32 := []
  deriving DecidableEq, Repr

/-- A draw as recorded in its pass (Table 8.5). -/
structure DrawState where
  code : Nat := 0
  bank0 : List Byte := []
  banks : List (Nat × Nat × List Byte) := []
  texs : List (List Byte) := []
  nattr : Nat := 0
  depth : Byte := 0
  interp : BitVec 16 := 0
  blend : List Byte := []
  scissor : List Nat := []
  deriving DecidableEq, Repr

/-- A primitive record (Table 8.6): draw, index, facing, three corners of sx, sy (1/256 pixel), z/w, 1/w and attributes. -/
structure Prim where
  draw : Nat
  index : Nat
  front : Bool
  corners : List (Int × Int × W32 × W32 × List W32)
  poison : List Bool := []
  /-- Offset of its record in the bin pool, in 64-byte units (R293). -/
  ofs : Nat := 0
  deriving DecidableEq, Repr

/-- Where a pass is: binning, in a final render with tiles left, finished. -/
inductive PassPhase where
  | binning | rendering | finished
  deriving DecidableEq, Repr

/-- A tile being shaded: its attachments' pixels (32 x 32, row-major) with poison, and primitives left to shade. -/
structure TileBuf where
  tile : Nat
  core : Fin 32
  pix : List (List (W64 × Bool))
  prims : List (Nat × Nat)
  /-- Of each attachment already dealt with at the tile's end: was it written, was it skipped by its signature (08 R311)? -/
  done : List (Bool × Bool) := []
  deriving DecidableEq, Repr

structure Pass where
  id : Nat
  q : Fin 256
  ctx : Fin 64
  part : Fin 8
  direct : Bool := false
  tilecores : W32
  colours : List Surface
  depth : Option Surface
  pool : W64 := 0
  poolUnits : Nat := 0
  draws : List DrawState := []
  prims : List Prim := []
  /-- Bins: primitive numbers per tile in submission order, only non-empty tiles (R276). -/
  bins : List (Nat × List Nat) := []
  /-- First and last bin chunk of each non-empty tile (Table 8.6). -/
  chunks : List (Nat × Nat × Nat) := []
  used : Nat := 0
  /-- Primitives transformed and not yet binned, and the first tile of the first of them still to bin (R294). -/
  toBin : List Prim := []
  binFrom : Nat := 0
  phase : PassPhase := .binning
  todo : List Nat := []
  /-- Tile buffers in use, each core's older one first: that one is shaded (R285). -/
  bufs : List TileBuf := []
  /-- Surfaces whose signature arrays this render has still to prepare (R310). -/
  prep : List Surface := []
  /-- Cores that the present primitive of a direct draw has been on: it stops only between primitives (R315). -/
  held : List (Fin 32) := []
  /-- Attachment numbers of `colours`, in their order. -/
  slots : List Nat := [0, 1, 2, 3]
  /-- Tiles stored by an earlier partial render (R294). -/
  stored : List Nat := []
  tilesStored : Nat := 0
  tilesSkipped : Nat := 0
  partials : Nat := 0
  cmd : Option Nat := none
  failed : BitVec 16 := 0
  /-- The present render is a partial one (R294). -/
  partialNow : Bool := false
  deriving DecidableEq, Repr

/-- A signature-directory entry (R310); `used` orders entries by last use, `ctx` owns the last storing pass (R313). -/
structure SigEntry where
  sig : W64
  base : W64
  format : Byte
  width : Nat
  height : Nat
  pitch : Nat
  ctx : Fin 64
  used : Nat
  deriving DecidableEq, Repr

/-! ### Cameras, composition, display (09) -/

structure Stamp where
  pos : W64
  time : W64
  seq : W32
  fine : Bool
  rev : Bool
  axis : BitVec 3
  deriving DecidableEq, Repr

/-- A unit in progress at a port: its stamp fields, bytes so far, whether admitted, its start time (R215, R322). -/
structure OpenUnit where
  admitted : Bool
  n : W64
  pos : W64
  time : W64
  seq : W32
  flags : W32
  axis : BitVec 3
  drops : W32 := 0
  /-- Payload bytes written. -/
  len : Nat := 0
  trunc : Bool := false
  /-- The braid that admitted or refused it. -/
  braid : Option (Fin 16) := none
  /-- It has been counted in OVERRUN. -/
  counted : Bool := false
  deriving DecidableEq, Repr

structure Cam where
  en : Bool := false
  cphy : Bool := false
  lanes : BitVec 3 := 0
  frame : Bool := false
  dest : BitVec 2 := 0
  vc : BitVec 5 := 0
  dt : BitVec 6 := 0
  /-- The context that configured the port last, and its GENERATION then (R325). -/
  ctx : Fin 64 := 0
  ctxGen : W64 := 0
  rate : BitVec 16 := 0
  swmin : W32 := 0
  swmax : W32 := 0xFFFFFFFF
  axis : BitVec 3 := 0
  ring : Channel := {}
  filled : W64 := 0
  freed : W64 := 0
  units : W64 := 0
  drops : W32 := 0
  rx : Bool := false
  lastHdr : W64 := 0
  open' : Option OpenUnit := none
  fifo : List Stamp := []
  alarm : W32 := 0
  cUnits : W32 := 0
  cOverrun : W32 := 0
  cCrc : W32 := 0
  cEcc : W32 := 0
  cStale : W32 := 0
  cOvf : W32 := 0
  cFrame : W32 := 0
  cFaults : W32 := 0
  deriving DecidableEq, Repr

/-- One set (shadow or active) of a layer's parameters (Table 9.3). -/
structure LayerSet where
  en : Bool := false
  output : Fin 2 := 0
  format : BitVec 4 := 0
  compressed : Bool := false
  continuous : Bool := false
  blend : BitVec 2 := 0
  alpha : Byte := 0
  nbuf : Nat := 1
  bufs : List W64 := []
  hdrs : List W64 := []
  pitch : Nat := 0
  bw : Nat := 0
  bh : Nat := 0
  sx : Nat := 0
  sy : Nat := 0
  w : Nat := 0
  h : Nat := 0
  x : Nat := 0
  y : Nat := 0
  ready : W64 := 0
  shown : W64 := 0
  ctx : Fin 64 := 0
  deriving DecidableEq, Repr

structure Layer where
  shadow : LayerSet := {}
  active : LayerSet := {}
  dirty : Bool := false
  shownVal : W64 := 0
  /-- The frame shown since the last latch, none while transparent (R335). -/
  frame : Option W64 := none
  repeats : W32 := 0
  faults : W32 := 0
  poison : W32 := 0
  underrun : W32 := 0
  deriving DecidableEq, Repr

structure Writeback where
  shadow : LayerSet := {}
  active : LayerSet := {}
  dirty : Bool := false
  written : W32 := 0
  skip : W32 := 0
  w : W64 := 0
  /-- A frame is being written since the last latch (R341). -/
  writing : Bool := false
  deriving DecidableEq, Repr

structure Dpo where
  ctrl : W32 := 0
  h : W32 := 0
  hs : W32 := 0
  v : W32 := 0
  vs : W32 := 0
  pclk : W32 := 0
  drate : W32 := 0
  bg : W32 := 0
  hpd : Bool := false
  link : Bool := false
  trainErr : Bool := false
  modeErr : Bool := false
  training : Bool := false
  /-- Line of the timing generator at PTE time `lineT` (DPO_STATUS.LINE). -/
  line : BitVec 16 := 0
  lineT : W64 := 0
  frames : W32 := 0
  latches : W32 := 0
  msgCtl : W32 := 0
  busy : Bool := false
  done' : Bool := false
  nack : Bool := false
  timeout : Bool := false
  rlen : BitVec 5 := 0
  data : BitVec 128 := 0
  /-- The message in progress: MSGCTL and its bytes as they stood at GO, and whether it waits for vertical blanking (R345). -/
  msgOf : W32 := 0
  msgBytes : List Byte := []
  msgHeld : Bool := false
  /-- The last frame scanned out, by rows: R, G, B of each pixel at the output's bits per channel, B lowest (R338). -/
  image : List (List W32) := []
  deriving DecidableEq, Repr

/-! ### Contexts and partitions (13, 15) -/

structure Ctx where
  life : Life := .free
  part : Fin 8 := 0
  fn : Fin 9 := 0
  generation : W64 := 0
  abandoned : W32 := 0
  lastStatus : BitVec 16 := 0
  root : W64 := 0
  sigset : List W64 := []
  deriving DecidableEq, Repr

/-- Turn bookkeeping of one share class (R513-R519). -/
structure ShareClass where
  debt : W32 := 0
  turns : W32 := 0
  maxover : W32 := 0
  deriving DecidableEq, Repr

structure Partition where
  en : Bool := false
  vf : BitVec 4 := 0
  cluster : Bool := false
  cores : W32 := 0
  peat : W32 := 0
  lpBase : W64 := 0
  lpSize : W64 := 0
  shares : List Byte := []
  /-- Shares of 256, which the byte cannot hold, per regulator (Table 13.4). -/
  full : List Bool := []
  window : W32 := 0
  /-- What the Causeway, LPDDR and Peat buckets lack of full, in units of 1/16000 byte (R472, R474): more than their depth while the
  bytes of a transfer still pass at the rate of the refill. -/
  short : List Nat := []
  /-- PTE time up to which the buckets have been refilled. -/
  bucketT : W64 := 0
  turn : Option (Fin 16) := none
  turnStart : W64 := 0
  /-- The turn's length counts from here (R517), none while the holder is the only backlogged class. -/
  turnFrom : Option W64 := none
  turnLen : W32 := 0
  classes : Tab ShareClass 16 := Vector.replicate 16 {}
  /-- Overruns being measured: class, end of its turn, blocks still running (R519). -/
  overruns : List (Fin 16 × W64 × List Nat) := []
  deriving DecidableEq, Repr

/-! ### Translation (14) -/

structure TlbEntry where
  ctx : Fin 64
  page : Nat
  entry : W64
  deriving DecidableEq, Repr

/-- Who waits on a faulted page (R488, R493, R498). -/
inductive Requester where
  | group (g : Nat)
  | cmd (c : Nat)
  | fetch (q : Fin 256)
  /-- A request of an engine itself, neither of a group nor of a command that the model holds (WALK_COMPLETE). -/
  | engine (e : Fin 46)
  deriving DecidableEq, Repr

/-- A request that waits: who makes it, in which context, for which engine (none for a CMP request), at which address, of which kind. -/
structure PmtReq where
  who : Requester
  ctx : Fin 64
  eng : Option (Fin 46)
  va : Nat
  kind : Access
  deriving DecidableEq, Repr

structure PmtEntry where
  idx : Nat
  gen : Byte
  page : Nat
  reqs : List PmtReq
  recId : BitVec 16
  words : List W64
  posted : Bool
  deriving DecidableEq, Repr

/-- A running invalidation (R501, R502): context, first page, number of pages, frames to subtract at its end (R459),
and what waits for it. -/
structure Inval where
  id : Nat
  ctx : Fin 64
  page : Nat
  npages : Nat
  subPeat : List Nat
  subLpddr : List Nat
  /-- XL_INVALIDATE, MEM_MAP, MEM_UNMAP (a command) or CONTEXT_DESTROY. -/
  cmd : Option Nat
  deriving DecidableEq, Repr

structure Xlu where
  fqbase : W64 := 0
  fqcfg : W32 := 0x0A
  tail : W32 := 0
  head : W32 := 0
  headErr : Bool := false
  /-- A wait for room began since the last epoch (R496). -/
  fqWaited : Bool := false
  walks : W32 := 0
  waits : W32 := 0
  infoLost : W32 := 0
  zeroed : W32 := 0
  seq : W64 := 0
  tlb : List TlbEntry := []
  dirs : List TlbEntry := []
  pmt : List PmtEntry := []
  gens : List (Nat × Byte) := []
  /-- Misses that wait at their source for a pending-miss entry, in order (R488). -/
  missq : List PmtReq := []
  invals : List Inval := []
  nextInval : Nat := 0
  refq : W64 := 0
  /-- XL_REFQ as the last accepted GO found it: the range of the scan that runs or waits (R463). -/
  scanQ : W64 := 0
  scanning : Bool := false
  scanPending : Bool := false
  scanErr : Bool := false
  nonzero : Nat := 0
  maxcount : W32 := 0
  /-- Contexts whose release walk is pending: XLROOT, and the partition as it was at step 7 of the destroy (R461). -/
  walksPend : List (W64 × Partition) := []
  /-- Frame counts above zero by frame number (R458). -/
  cntPeat : List (Nat × Nat) := []
  cntLpddr : List (Nat × Nat) := []
  /-- How much of them is for entries of target 3 on other devices (R458, 17 R564). -/
  cntFar : Nat := 0
  /-- Frame-count changes held while a scan runs (R463): target, frame, up or down. -/
  heldCnt : List (Bool × Nat × Bool) := []
  deriving DecidableEq, Repr

/-! ### Memory control (16) -/

structure EccUnit where
  ce : W32 := 0
  ue : W32 := 0
  poisonRead : W32 := 0
  scrubFix : W32 := 0
  deriving DecidableEq, Repr

structure ScrubSt where
  laps : W32 := 0
  lastLap : W32 := 0
  lapStart : W64 := 0
  deriving DecidableEq, Repr

structure MemCtl where
  ctrl : W32 := 3
  alarm : W32 := 0
  uelogLo : W64 := 0
  uelogTime : W64 := 0
  mts : BitVec 14 := 0
  chmask : BitVec 4 := 0
  mibPerCh : Nat := 0
  initDone : Bool := false
  scrub : Tab ScrubSt 2 := Vector.replicate 2 {}
  units : Tab EccUnit 36 := Vector.replicate 36 {}
  /-- Next word offset of each unit's scrubber (R548). -/
  scrubPos : Tab Nat 36 := Vector.replicate 36 0
  /-- Words each unit's scrubber has covered since its lap began (R549). -/
  scrubCnt : Tab Nat 36 := Vector.replicate 36 0
  testAddr : W64 := 0
  testData : W64 := 0
  testCheck : Byte := 0
  testErr : Bool := false
  /-- Bank groups whose zeroing after turn-on has not finished (R537). -/
  zeroing : BitVec 8 := 0
  deriving DecidableEq, Repr

/-! ### Hawser (17) -/

/-- An outstanding remote operation issued here (R569-R572). -/
structure RemoteReq where
  id : Nat
  link : Fin 4
  dev : Fin 16
  isStore : Bool
  /-- Address and kind of the access in the issuing context. -/
  va : W64 := 0
  kind : Access := .load
  ctx : Fin 64 := 0
  group : Option Nat
  cmd : Option Nat
  /-- The engine that asks, if it has an ID (01 R31). -/
  eng : Option (Fin 46) := none
  /-- The braid that it serves: of the strand that asks, or of the camera that stores to a channel on another device (06 R238). -/
  braid : Option (Fin 16) := none
  /-- Destination of a load: registers of the group or none. -/
  dst : List Byte
  /-- An acquire: when it completes, its core's far-read cache is dropped (03 R126). -/
  acq : Bool := false
  /-- A returning atomic: its word, and the operands of the lanes that it combines, in their order (03 R113-R115). -/
  atom : Option (W64 × List (Nat × (Nat × Bool) × (Nat × Bool))) := none
  /-- Registers and lanes that later instructions of the group have written since: the answer does not reach them. -/
  lost : List (Nat × Nat) := []
  issued : W64
  deriving DecidableEq, Repr

/-- The classes of flits (R560). -/
inductive FlitClass where
  | global | data
  deriving DecidableEq, Repr

structure Link where
  en : Bool := true
  /-- Flits that wait to be sent, in the order in which they will be, and the PTE time, in half nanoseconds, at which the flit that is being
  sent ends (R559, R560). -/
  txq : List FlitClass := []
  busy : Nat := 0
  up : Bool := false
  width : BitVec 3 := 0
  peer : BitVec 4 := 0
  peerErr : Bool := false
  alarm : W32 := 0
  replays : W32 := 0
  downs : W32 := 0
  timeouts : W32 := 0
  dropped : W32 := 0
  txflits : W32 := 0
  rxflits : W32 := 0
  lastFlit : W64 := 0
  /-- How often in succession the flit that is due from the peer has arrived broken, and the flit at the head of the replay buffer has been
  asked for again (R561). -/
  failRun : Nat := 0
  againRun : Nat := 0
  /-- Flits in the replay buffer (R559). -/
  replayBuf : Nat := 0
  deriving DecidableEq, Repr

structure Domain where
  id : BitVec 4 := 0
  size : BitVec 5 := 0
  member : Bool := false
  degraded : Bool := false
  resetting : Bool := false
  barriers : W32 := 0
  resets : W32 := 0
  /-- Barriers at which this device has arrived, and the withdrawals it has sent (R574, R575). -/
  arrived : List (BitVec 8) := []
  withdrawn : List (BitVec 8) := []
  reqs : List RemoteReq := []
  nextReq : Nat := 0
  deriving DecidableEq, Repr

/-! ### Coherent state (10), alarms and rings (12) -/

structure QRec where
  state : Byte := 0
  ctx : Byte := 0
  flags : Byte := 0
  lastStatus : BitVec 16 := 0
  lastTag : BitVec 16 := 0
  accepted : W64 := 0
  completed : W64 := 0
  fetch : W64 := 0
  deriving DecidableEq, Repr

structure CRec where
  state : Byte := 0
  part : Byte := 0
  nqueue : BitVec 16 := 0
  abandoned : W32 := 0
  generation : W64 := 0
  sigset : W32 := 0
  lastStatus : BitVec 16 := 0
  deriving DecidableEq, Repr

structure PageHdr where
  flags : W32 := 0
  pwrstate : Byte := 0
  knotStale : W64 := 0
  partials : W64 := 0
  repeats : W64 := 0
  lateHits : W64 := 0
  faults : W64 := 0
  alarms : W64 := 0
  logDrops : W64 := 0
  contexts : BitVec 16 := 0
  queues : BitVec 16 := 0
  deriving DecidableEq, Repr

/-- The published image of the state page (Tables 10.2-10.7): header and records as bytes per record. -/
structure Page where
  epoch : W64 := 0
  pubtime : W64 := 0
  layout : Byte := 0
  hdr : PageHdr := {}
  queues : Tab QRec 256 := Vector.replicate 256 {}
  ctxs : Tab CRec 64 := Vector.replicate 64 {}
  braids : Tab (List Byte) 16 := Vector.replicate 16 []
  models : Tab (List Byte) 1024 := Vector.replicate 1024 []
  graphs : Tab (List Byte) 256 := Vector.replicate 256 []
  snap : List Byte := []
  /-- The partition of each VF when the page was published (R384, R409). -/
  vfs : Tab (Option (Fin 8)) 8 := Vector.replicate 8 none
  deriving DecidableEq, Repr

/-- A registered waiter of a knot that is a KNOT_WAIT command (R358); waiting groups hold theirs in `Group.wait`. -/
structure KnotWaiter where
  cmd : Nat
  k : Place
  thr : W64
  deriving DecidableEq, Repr

structure AlarmEntry where
  code : BitVec 16
  unit : BitVec 16
  count : W32
  first : W64
  last : W64
  detail : W64
  deriving DecidableEq, Repr

structure RingCfg where
  en : Bool := false
  level : BitVec 3 := 0
  thresh : W32 := 0
  events : W32 := 0
  buf : W64 := 0
  entries : W32 := 0
  written : W64 := 0
  drops : W64 := 0
  /-- CONSUMED as last read (R446). -/
  consumed : W64 := 0
  shift : BitVec 5 := 0
  /-- Events of each type seen since the last one recorded (R447). -/
  phase : Tab Nat 32 := Vector.replicate 32 0
  ctx : Option (Fin 64) := none
  fn : Fin 9 := 0
  deriving DecidableEq, Repr

/-- An operation held by a snapshot (R368). -/
inductive Held where
  | signal (fn : Fin 9) (k : Place) (v : W64)
  | abandon (fn : Fin 9) (k : Place)
  /-- A KNOT_RESET that reaches its port from another device. -/
  | reset (k : Place) (v : W64)
  | hit (r : HitRec) (src : HitSrc)
  | publish
  | completion (q : Fin 256)
  /-- A packet command: configuration steps and resets wait with the packet that brings them. -/
  | fetch
  deriving DecidableEq, Repr

/-- The snapshot in progress (R367-R373). -/
structure Snap where
  cmd : Option Nat
  ctx : Fin 64
  trigger : BitVec 2
  axis : Fin 8
  rev : Bool
  tp : W64
  domain : Bool
  buf : W64
  knots : List W64
  triggered : Bool := false
  lateCut : Bool := false
  trigTime : W64 := 0
  /-- Bytes 0x100-0x3FF latched at the trigger cycle (R369). -/
  latched : List Byte := []
  exec : W64 := 0
  deriving DecidableEq, Repr

structure SnapSt where
  cur : Option Snap := none
  held : List Held := []
  seq : W64 := 0
  lastTrig : W64 := 0
  lastStatus : BitVec 16 := 0
  deriving DecidableEq, Repr

/-- The part (Table 0.1). -/
inductive Part where
  | ae | ac
  deriving DecidableEq, Repr

/-- Host side (11) and the coherent page (10), alarms and rings (12). -/
structure HostIf where
  pcie : Pcie := {}
  /-- The PF (0) and VF0-VF7 (1-8). -/
  funcs : Tab Func 9 := Vector.replicate 9 {}
  icn : Icn := {}
  page : Page := {}
  alarms : List AlarmEntry := []
  logr : RingCfg := {}
  trcr : RingCfg := {}
  knotStale : W64 := 0
  partials : W64 := 0
  faults : W64 := 0
  alarmCnt : W64 := 0
  logDrops : W64 := 0
  deriving DecidableEq, Repr

/-- Queues, contexts, partitions, commands, code, cores, blocks and groups (03, 12, 13, 15). -/
structure Exec where
  queues : Tab Queue 256 := Vector.replicate 256 {}
  /-- The queue number from which the front end looks next, by tier (R510). -/
  feFrom : Tab Nat 3 := Vector.replicate 3 0
  ctxs : Tab Ctx 64 := Vector.replicate 64 {}
  parts : Tab Partition 8 := Vector.replicate 8 {}
  cmds : List Cmd := []
  nextCmd : Nat := 0
  waiters : List KnotWaiter := []
  codes : List Code := []
  nextCode : Nat := 0
  cores : Tab Core 32 := Vector.replicate 32 {}
  blocks : List Block := []
  groups : List Group := []
  nextObj : Nat := 0
  deriving DecidableEq, Repr

/-- Shared objects: braids (06), models (07), graphs (10). -/
structure Objects where
  braids : Tab Braid 16 := Vector.replicate 16 {}
  models : Tab Model 1024 := Vector.replicate 1024 {}
  graphs : Tab Graph 256 := Vector.replicate 256 {}
  deriving DecidableEq, Repr

/-- Rendering (08), cameras, layers and displays (09). -/
structure Media where
  passes : List Pass := []
  sigdir : List SigEntry := []
  sigUse : Nat := 0
  cams : Tab Cam 4 := Vector.replicate 4 {}
  layers : Tab Layer 16 := Vector.replicate 16 {}
  wb : Writeback := {}
  dpos : Tab Dpo 2 := Vector.replicate 2 {}
  deriving DecidableEq, Repr

/-- Device memory as it stood before the writes at a PTE time. -/
structure OldMem where
  before : W64
  peat : Mem
  lpddr : Mem
  deriving DecidableEq, Repr

/-- Memories, translation and memory control (14, 16). -/
structure Memory where
  peat : Mem := {}
  lpddr : Mem := {}
  host : Mem := {}
  /-- While an output scans: device memory before its first write at each PTE time, newest first, for the lines scanned before
  that write (09 R336). -/
  old : List OldMem := []
  xl : Xlu := {}
  ctl : MemCtl := {}
  deriving DecidableEq, Repr

/-- The whole state of the block. `pending` is the queue of commands; `freeCtr` and the `read` fields are the model's own. -/
structure State where
  pending : List Instr := []
  freeCtr : Nat := 0
  readData : W64 := 0
  /-- All bytes of the last BAR2 read, and whether the last read completed with the poisoned-TLP bit (R388). -/
  readBytes : List Byte := []
  readPoison : Bool := false
  part : Part := .ae
  time : W64 := 0
  pte : Pte := {}
  sfi : Sfi := {}
  st : SelfTest := {}
  fuses : Fuses := {}
  boot : Boot := {}
  pwr : Pwr := {}
  wisp : Wisp := {}
  avs : Avs := {}
  therm : Therm := {}
  hi : HostIf := {}
  ex : Exec := {}
  ob : Objects := {}
  gx : Media := {}
  mm : Memory := {}
  links : Tab Link 4 := Vector.replicate 4 {}
  dom : Domain := {}
  snap : SnapSt := {}
  /-- Instruction register of the test port, and what its selected data register captured (21 Table 21.9). -/
  jtagIr : Byte := 0xFF
  tdo : List Byte := []
  wakeN : Bool := false
  deriving DecidableEq, Repr

/-! ### Reset -/

/-- Partition 0 after reset (13 Table 13.4): every core and region of KF32-AE, CLUSTER 1, shares of 256, window 1,000 µs. Its
LPDDR carve-out has size LPDDR_MIB, 0 until the channels are trained. -/
def Partition.reset0 : Partition :=
  { en := true, vf := 0xF, cluster := true, cores := 0xFFFFFFFF, peat := 0xFFFFFFFF, shares := [0, 0, 0], full := [true, true, true]
    window := 1000 }

/-- Domains that are on in RUN with the reset configuration (R580): all but LPDDR channels (untrained), display outputs and
camera ports. -/
def pdReset : Tab PdLevel 64 := Vector.ofFn fun i => if 44 ≤ i.val ∧ i.val ≤ 47 ∨ 50 ≤ i.val ∧ i.val ≤ 55 then .off else .on

/-- A function of the endpoint after reset, with the vectors of its MSI-X table. -/
def Func.reset (pf : Bool) : Func :=
  { msix := List.replicate (if pf then 64 else 8) {}, enabled := pf, devId := if pf then 0x0B32 else 0x0B33 }

/-- The block right after a power-on reset, STAGE 0 (20 R631): every field at its reset value (DESIGN CHOICE, unsafe, log 5 and INVENTORY.md name the
values that the spec does not state). -/
def State.reset : State :=
  { ex := { parts := Vector.ofFn fun i => if i.val = 0 then Partition.reset0 else {} }
    hi := { funcs := Vector.ofFn fun i => Func.reset (i.val == 0) }
    pwr := { pd := pdReset } }

end Sys2Proof.Machine
end

