-- ==== Sys2Proof/Machine/Bits.lean ====
section
/-! DEFINITION. Bits.lean: bit-field and byte-order helpers. Byte order is little-endian and bit numbering is from the
least significant bit throughout (00 R9). -/
namespace Sys2Proof.Machine

/-- The outcome of a command. -/
abbrev Res := Host.Outcome State Fault Refusal

/-- Bits `hi:lo` of a word as a number. -/
def fld {n : Nat} (x : BitVec n) (hi lo : Nat) : Nat := (x.toNat >>> lo) % 2 ^ (hi + 1 - lo)

/-- Bit `i` of a word. -/
def bit {n : Nat} (x : BitVec n) (i : Nat) : Bool := x.toNat.testBit i

/-- The word with bits `hi:lo` set to `v`. -/
def setFld {n : Nat} (x : BitVec n) (hi lo v : Nat) : BitVec n :=
  let m := (2 ^ (hi + 1 - lo) - 1) <<< lo
  BitVec.ofNat n ((x.toNat ^^^ (x.toNat &&& m)) ||| ((v <<< lo) &&& m))

/-- The word with bit `i` set to `b`. -/
def setBit {n : Nat} (x : BitVec n) (i : Nat) (b : Bool) : BitVec n := setFld x i i b.toNat

/-- A Bool as a one or zero. -/
def b2n (b : Bool) : Nat := if b then 1 else 0

/-- Little-endian value of bytes. -/
def leVal : List Byte → Nat
  | [] => 0
  | b :: bs => b.toNat + 256 * leVal bs

/-- The low `n` bytes of a value, least significant first. -/
def leBytes : Nat → Nat → List Byte
  | 0, _ => []
  | n + 1, v => BitVec.ofNat 8 v :: leBytes n (v / 256)

/-- Bytes of 32-bit words in order. -/
def wordsBytes (ws : List W32) : List Byte := ws.flatMap fun w => leBytes 4 w.toNat

/-- 32-bit words of bytes; a last part shorter than four bytes is extended with zeros. -/
def bytesWordsN : Nat → List Byte → List W32
  | 0, _ => []
  | n + 1, bs => BitVec.ofNat 32 (leVal (bs.take 4)) :: bytesWordsN n (bs.drop 4)

def bytesWords (bs : List Byte) : List W32 := bytesWordsN ((bs.length + 3) / 4) bs

/-- `n` bytes from offset `o`, zeros past the end. -/
def sliceB (bs : List Byte) (o n : Nat) : List Byte :=
  let r := (bs.drop o).take n
  r ++ List.replicate (n - r.length) 0

/-- The value of `n` bytes at offset `o`. -/
def leAt (bs : List Byte) (o n : Nat) : Nat := leVal (sliceB bs o n)

/-- Bytes with those at offset `o` replaced by `v` (kept at their length). -/
def putB (bs : List Byte) (o : Nat) (v : List Byte) : List Byte :=
  ((bs.take o) ++ v ++ bs.drop (o + v.length)).take bs.length

/-- Words joined into one number, the first least significant (64-bit fields stand in two words, R397). -/
def joinW : List W32 → Nat
  | [] => 0
  | w :: ws => w.toNat + 4294967296 * joinW ws

/-- Packet word DWi; words a packet does not carry read 0. -/
def dw (p : Pkt) (i : Nat) : W32 := p.dws.getD i 0
/-- A 64-bit field of a packet whose low word is DWi. -/
def dq (p : Pkt) (i : Nat) : Nat := (dw p i).toNat + 4294967296 * (dw p (i + 1)).toNat

/-- A 32-bit counter that saturates (R25). -/
def satInc (x : W32) : W32 := if x = BitVec.allOnes 32 then x else x + 1
/-- `n` added to a 32-bit counter that saturates. -/
def satAdd (x : W32) (n : Nat) : W32 := if x.toNat + n < 4294967296 then BitVec.ofNat 32 (x.toNat + n) else BitVec.allOnes 32

/-- The value of a two's-complement field of `w` bits. -/
def sextNat (w v : Nat) : Int := if v < 2 ^ (w - 1) then (v : Int) else (v : Int) - (2 : Int) ^ w

/-- An integer as an `n`-bit word. -/
def ofI (n : Nat) (v : Int) : BitVec n := BitVec.ofInt n v

/-- Is every named bit range of a word zero? -/
def zeroRanges {n : Nat} (x : BitVec n) (rs : List (Nat × Nat)) : Bool := rs.all fun r => fld x r.1 r.2 == 0

/-- The numbers below `n` in rising order. -/
def upTo (n : Nat) : List Nat := List.range n

/-- Entry `i` of a table, and `d` past its end. -/
def tabD {α : Type} {n : Nat} (v : Tab α n) (i : Nat) (d : α) : α := v.toArray.getD i d

/-- The table with entry `i` changed by `f`; unchanged past its end. -/
def tabUpd {α : Type} {n : Nat} (v : Tab α n) (i : Nat) (f : α → α) : Tab α n :=
  if h : i < n then v.set i (f v[i]) else v

/-- A number below `n + 1` as an index (numbers outside wrap). -/
def fin' (n : Nat) (i : Nat) : Fin (n + 1) := Fin.ofNat (n + 1) i

/-- Change the entries of a list that satisfy `p`. -/
def updWhere {α : Type} (p : α → Bool) (f : α → α) (l : List α) : List α := l.map fun a => if p a then f a else a

/-- Floor of a quotient, 0 for a zero divisor (used only where the divisor is not 0). -/
def ceilDiv (a b : Nat) : Nat := (a + b - 1) / b

/-- Number of ones. -/
def popcount {n : Nat} (x : BitVec n) : Nat := ((List.range n).filter fun i => x.toNat.testBit i).length

/-- The lowest set bit of a mask, if any. -/
def lowestSet {n : Nat} (x : BitVec n) : Option Nat := (List.range n).find? fun i => x.toNat.testBit i

/-- The set bits of a mask, rising. -/
def setBits {n : Nat} (x : BitVec n) : List Nat := (List.range n).filter fun i => x.toNat.testBit i

/-- A mask with the named bits set. -/
def maskOf (n : Nat) (is : List Nat) : BitVec n := BitVec.ofNat n (is.foldl (fun a i => a ||| 1 <<< i) 0)

/-- PTE time advances to the time an event carries, never back (R11, DESIGN CHOICE, unsafe, log 1). -/
def timeMax (a b : W64) : W64 := if a.toNat < b.toNat then b else a

/-- The state at the time an event carries (DESIGN CHOICE, unsafe, log 1). -/
def State.at (s : State) (t : W64) : State := { s with time := timeMax s.time t }

/-- PTE time as a number of nanoseconds. -/
def State.now (s : State) : Nat := s.time.toNat

/-- Draw a free value (DESIGN CHOICE, safe, log 2). -/
def State.draw (s : State) : W64 × State := (Config.freeValue s.freeCtr, { s with freeCtr := s.freeCtr + 1 })

end Sys2Proof.Machine
end

