-- ==== Sys2Proof/Machine/Operands.lean ====
section
/-! DEFINITION. Operands.lean: the fields of instruction words, every operand form, guards and poison of a group's
registers, and which words are assigned encodings (04 R135-R143, 03 R118, R119, Table 4.20). -/
namespace Sys2Proof.Machine

/-! ### Fields (Table 4.1) -/

def iCls (w : W64) : Nat := fld w 3 0
def iOp (w : W64) : Nat := fld w 11 4
def iPred (w : W64) : Nat := fld w 15 12
def iNeg (w : W64) : Bool := bit w 16
def iExt (w : W64) : Bool := bit w 17
def iDst (w : W64) : Nat := fld w 25 18
def iSa (w : W64) : Nat := fld w 33 26
def iSb (w : W64) : Nat := fld w 41 34
def iSc (w : W64) : Nat := fld w 49 42
def iKa (w : W64) : Nat := fld w 51 50
def iKb (w : W64) : Nat := fld w 53 52
def iKc (w : W64) : Nat := fld w 55 54
def iType (w : W64) : Nat := fld w 58 56
def iMod (w : W64) : Nat := fld w 63 59
/-- The signed offset of a control instruction, in 8-byte words. -/
def iOfs (w : W64) : Int := sextNat 24 (fld w 49 26)
/-- Bytes of an instruction. -/
def iLen (w : W64) : Nat := if iExt w then 16 else 8

/-! ### Registers of a group -/

/-- A value of one lane, with its poison mark. -/
abbrev PV := W32 × Bool

def vregD : VReg := { lanes := List.replicate 32 0 }

/-- Vector register `r`, lane `l`; VZ reads zero without poison (Table 4.2). -/
def rdV (g : Group) (r l : Nat) : PV :=
  if r = 0xFF then (0, false)
  else let v := g.v.getD r vregD; (v.lanes.getD l 0, bit v.poison l)

/-- Uniform register `r`. -/
def rdU (g : Group) (r : Nat) : PV := (g.u.getD r 0, bit g.uPoison r)

/-- A uniform pair as 64 bits. -/
def rdUPair (g : Group) (r : Nat) : Nat × Bool :=
  let a := rdU g r
  let b := rdU g (r + 1)
  (a.1.toNat + 2 ^ 32 * b.1.toNat, a.2 || b.2)

/-- A predicate in one lane. -/
def rdP (g : Group) (p l : Nat) : Bool × Bool := (bit (g.p.getD p 0) l, bit (g.pPoison.getD p 0) l)

/-- A source by kind (Table 4.2), one register on from its field: `i` is 0 except in operands of several registers. -/
def rdSrc (g : Group) (kind field i l : Nat) (ext : W64) : PV :=
  match kind with
  | 0 => if field = 0xFF then (0, false) else rdV g (field + i) l
  | 1 => rdU g (field + i)
  | _ => if i = 0 then (BitVec.ofNat 32 ext.toNat, false) else (0, false)

/-- A 64-bit source: a register pair, or an immediate zero-extended (R138). -/
def rdSrc64 (g : Group) (kind field l : Nat) (ext : W64) : Nat × Bool :=
  let a := rdSrc g kind field 0 l ext
  let b := rdSrc g kind field 1 l ext
  (a.1.toNat + 2 ^ 32 * b.1.toNat, a.2 || b.2)

/-- Write lanes of a vector register: lane `l` of `mask` takes `vals l`; destination 0xFF discards (R139). -/
def wrV (r : Nat) (mask : W32) (vals : Nat → PV) (g : Group) : Group :=
  if r = 0xFF then g
  else
    let old := g.v.getD r vregD
    let lanes := (List.range 32).map fun l => if bit mask l then (vals l).1 else old.lanes.getD l 0
    let poison := maskOf 32 ((List.range 32).filter fun l => if bit mask l then (vals l).2 else bit old.poison l)
    { g with v := g.v.set r { lanes := lanes, poison := poison } }

/-- Write `n` consecutive vector registers: register `i` of lane `l` takes `vals i l`. -/
def wrVs (r n : Nat) (mask : W32) (vals : Nat → Nat → PV) (g : Group) : Group :=
  if r = 0xFF then g else (List.range n).foldl (fun g i => wrV (r + i) mask (vals i) g) g

def wrU (r : Nat) (v : PV) (g : Group) : Group :=
  { g with u := g.u.set r v.1, uPoison := setBit g.uPoison r v.2 }

/-- Write lanes of a predicate. -/
def wrP (p : Nat) (mask : W32) (vals : Nat → Bool × Bool) (g : Group) : Group :=
  let old := g.p.getD p 0
  let oldP := g.pPoison.getD p 0
  let pick (f : Nat → Bool) (o : W32) : W32 := maskOf 32 ((List.range 32).filter fun l => if bit mask l then f l else bit o l)
  { g with p := g.p.set p (pick (fun l => (vals l).1) old), pPoison := g.pPoison.set p (pick (fun l => (vals l).2) oldP) }

def allLanes : W32 := 0xFFFFFFFF

/-! ### Guards (R142, Table 3.4) -/

/-- Lanes in which the guard is true, and whether it is poisoned in an active lane. -/
def guardMask (g : Group) (w : W64) : W32 × Bool :=
  if iPred w = 8 then (if iNeg w then 0 else allLanes, false)
  else
    let m := g.p.getD (iPred w) 0
    (if iNeg w then ~~~m else m, (g.pPoison.getD (iPred w) 0) &&& g.active != 0)

/-- Lanes that execute the instruction: active and guarded. -/
def execMask (g : Group) (w : W64) : W32 := g.active &&& (guardMask g w).1

def anyLane (m : W32) (f : Nat → Bool) : Bool := (List.range 32).any fun l => bit m l && f l

/-! ### Assigned encodings (Table 4.20, second row) -/

/-- A uniform field: bits [7:6] zero. -/
def uOk (f : Nat) : Bool := decide (f < 64)
/-- A predicate destination: the other bits zero. -/
def pOk (f : Nat) : Bool := decide (f < 8)
/-- A vector operand of `n` registers: VZ (or the discarding 0xFF), or aligned and below the declared count. -/
def vOk (nv n f : Nat) : Bool := f == 0xFF || (f % n == 0 && decide (f + n ≤ nv))
/-- A vector operand that must be registers. -/
def vReg (nv n f : Nat) : Bool := f != 0xFF && f % n == 0 && decide (f + n ≤ nv)
/-- A source of one register by kind; `imm`: an immediate is allowed. -/
def srcOk (nv kind f : Nat) (imm : Bool) : Bool :=
  match kind with
  | 0 => vOk nv 1 f
  | 1 => uOk f
  | 2 => imm && f == 0
  | _ => false
/-- A 64-bit source: aligned pair or immediate. -/
def srcOk64 (nv kind f : Nat) (imm : Bool) : Bool :=
  match kind with
  | 0 => vOk nv 2 f
  | 1 => uOk f && f % 2 == 0
  | 2 => imm && f == 0
  | _ => false

/-- Is the extension word right: an immediate needs it and uses [31:0]; unused bits are zero (R138). -/
def extOk (w ext : W64) (imms : Nat) : Bool :=
  decide (imms ≤ 1) && (if iExt w then (if imms = 1 then fld ext 63 32 == 0 else ext == 0) else imms == 0)

def immCount (ks : List Nat) : Nat := (ks.filter (· == 2)).length

/-- Types an arithmetic operation allows (Table 4.4): 0 FP32, 1 and 2 pairs, 3 S32, 4 U32. -/
def arithType (op t : Nat) : Bool :=
  if op ≤ 7 || op == 0xF || op == 0x10 then decide (t ≤ 4)
  else if op ≤ 0xE || op == 0x11 then t == 3 || t == 4
  else t == 4

/-- Sources that an arithmetic operation reads. -/
def arithSrcs (op : Nat) : Nat := if op = 3 then 3 else if op = 6 ∨ op = 7 ∨ op = 0xB ∨ op = 0x12 ∨ op = 0x13 then 1 else 2

/-- Modifiers of arithmetic (R145). -/
def arithMod (op t m : Nat) : Bool :=
  if op = 0x10 then (m / 16 == 0) && (m / 8 == 0 || t == 1 || t == 2)
  else if t ≤ 2 then m / 16 == 0 else m == 0

/-- VALU and UALU words; `uni`: uniform forms. -/
def arithOk (nv : Nat) (uni : Bool) (w ext : W64) : Bool :=
  let op := iOp w
  let n := arithSrcs op
  let src (k f : Nat) : Bool := if uni then (k == 1 && uOk f) || (k == 2 && f == 0) else srcOk nv k f true
  let unused (k f : Nat) : Bool := k == 0 && f == 0
  let ks := [iKa w] ++ (if 2 ≤ n then [iKb w] else []) ++ (if n = 3 then [iKc w] else [])
  decide (op ≤ 0x13) && arithType op (iType w) && (!uni || iType w == 0 || iType w == 3 || iType w == 4) &&
  arithMod op (iType w) (iMod w) && src (iKa w) (iSa w) &&
  (if 2 ≤ n then src (iKb w) (iSb w) else unused (iKb w) (iSb w)) &&
  (if n = 3 then src (iKc w) (iSc w) else if op = 0xF then iKc w == 0 && pOk (iSc w) else unused (iKc w) (iSc w)) &&
  (if op = 0x10 then pOk (iDst w) else if uni then uOk (iDst w) else vOk nv 1 (iDst w)) && extOk w ext (immCount ks)

def ctrlOk (w ext : W64) : Bool :=
  let plain := fld w 25 18 == 0 && fld w 63 56 == 0
  match iOp w with
  | 0 => plain && fld w 55 26 == 0 && extOk w ext 0
  | 1 => fld w 25 18 == 0 && fld w 55 50 == 0 && fld w 58 56 == 0 && fld w 63 60 == 0 && extOk w ext 0
  | 2 => plain && fld w 55 50 == 0 && iExt w && fld ext 63 24 == 0
  | 3 => plain && fld w 55 26 == 0 && extOk w ext 0
  | 4 => plain && fld w 55 26 == 0 && extOk w ext 0
  | 5 => uOk (iDst w) && fld w 55 50 == 0 && fld w 63 56 == 0 && extOk w ext 0
  | 6 => plain && uOk (iSa w) && fld w 49 34 == 0 && iKa w == 1 && fld w 55 52 == 0 && extOk w ext 0
  | _ => false

def moveOk (nv : Nat) (w ext : W64) : Bool :=
  let rest := iSb w == 0 && iSc w == 0 && iKb w == 0 && iKc w == 0
  match iOp w with
  | 0 => srcOk nv (iKa w) (iSa w) true && vOk nv 1 (iDst w) && rest && iType w == 0 && iMod w == 0 && extOk w ext (immCount [iKa w])
  | 1 => ((iKa w == 1 && uOk (iSa w)) || (iKa w == 2 && iSa w == 0)) && uOk (iDst w) && rest && iType w == 0 && iMod w == 0
      && extOk w ext (immCount [iKa w])
  | 2 => srcOk nv (iKa w) (iSa w) true && vOk nv 1 (iDst w) && rest && decide (iType w ≤ 4) && decide (iMod w % 8 ≤ 4)
      && extOk w ext (immCount [iKa w])
  | 3 => decide (iSa w ≤ 0xB) && iKa w == 0 && vOk nv 1 (iDst w) && rest && iType w == 0 && iMod w == 0 && extOk w ext 0
  | 4 => decide (iSa w ≤ 0xB) && iKa w == 0 && uOk (iDst w) && rest && iType w == 0 && iMod w == 0 && extOk w ext 0
  | _ => false

/-- Registers that an access of SIZE uses (Table 4.7). -/
def sizeRegs (sz : Nat) : Nat := if sz ≤ 2 then 1 else if sz = 3 then 2 else 4
def sizeBytes (sz : Nat) : Nat := 2 ^ sz

/-- LDL, STL, LDG and STG words (Table 4.7). -/
def memOk (nv : Nat) (dev store : Bool) (w ext : W64) : Bool :=
  let ord := fld w 61 60
  let sz := iType w
  decide (iKa w ≤ 1) &&
  (if dev then srcOk64 nv (iKa w) (iSa w) false else srcOk nv (iKa w) (iSa w) false) &&
  fld w 55 52 == 0 && decide (sz ≤ 4) && vOk nv (sizeRegs sz) (iDst w) &&
  (!(bit w 59) || (!store && decide (sz ≤ 1))) && (ord == 0 || ord == (if store then 2 else 1)) &&
  (ord != 0 || fld w 63 62 == 0) && extOk w ext 0

def ldcOk (w ext : W64) : Bool :=
  iKa w == 1 && decide (iSa w < 16) && (iType w == 2 || iType w == 3) && fld w 55 52 == 0 && iMod w == 0 &&
  uOk (iDst w) && (iType w == 2 || iDst w % 2 == 0) && extOk w ext 0

/-- TEX, TLD and TRES. SC may be an immediate, and VZ may stand for three registers (R137, R138, R140; DESIGN CHOICE, unsafe, log 109). -/
def texOk (nv : Nat) (w ext : W64) : Bool :=
  let n := if bit w 59 then 3 else 2
  let lod := fld w 61 60
  let coords := iKa w == 0 && (iSa w == 0xFF || (decide (iSa w + n ≤ nv) && (n == 3 || iSa w % 2 == 0)))
  let lodOk := if lod = 0 then iSc w == 0 && iKc w == 0 else srcOk nv (iKc w) (iSc w) true
  decide (iOp w ≤ 2) && coords && iKb w == 0 && lod != 3 && fld w 63 62 == 0 && lodOk &&
  (if iOp w = 2 then pOk (iDst w) && iType w == 0
   else decide (iType w ≤ 1) && vOk nv (if iType w = 0 then 4 else 2) (iDst w)) &&
  extOk w ext (if lod = 0 then 0 else immCount [iKc w])

def overlap8 (a b : Nat) : Bool := a != 0xFF && b != 0xFF && decide (a < b + 8) && decide (b < a + 8)

/-- Element width code of a matrix format (R153). -/
def fmtBits (c : Nat) : Nat := if c = 0 then 32 else if c ≤ 2 then 16 else if c ≤ 6 then 8 else 4
def fmtInt (c : Nat) : Bool := c == 5 || c == 6 || c == 8
/-- Formats that take block scales (R184). -/
def fmtScaled (c : Nat) : Bool := c == 3 || c == 4 || c == 7

/-- A destination of several registers coincides with a source of the same length or overlaps none (R141); sources are
(first, length). -/
def dstClear (d n : Nat) (srcs : List (Nat × Nat)) : Bool :=
  d == 0xFF || n ≤ 1 || srcs.all fun s =>
    s.1 == 0xFF || (s.1 == d && s.2 == n) || decide (s.1 + s.2 ≤ d) || decide (d + n ≤ s.1)

def mtxOk (nv : Nat) (w ext : W64) : Bool :=
  let addr := iKa w == 1 && uOk (iSa w) && (!(bit w 63) || iSa w % 2 == 0) && iKb w == 1 && uOk (iSb w)
  match iOp w with
  | 0 => vReg nv 8 (iDst w) && addr && iSc w == 0 && iKc w == 0 && decide (fld w 59 56 ≤ 8) && !(bit w 62) &&
      (!(bit w 60) || fld w 59 56 == 0) && (!(bit w 61) || decide (8 ≤ fmtBits (fld w 59 56))) && extOk w ext 0
  | 1 =>
    let a := fld w 59 56
    let b := fld w 63 60
    vReg nv 8 (iDst w) && vOk nv 8 (iSa w) && vOk nv 8 (iSb w) && vOk nv 8 (iSc w) && fld w 55 50 == 0 &&
    decide (a ≤ 8) && decide (b ≤ 8) && fmtBits a == fmtBits b && fmtInt a == fmtInt b &&
    !(overlap8 (iDst w) (iSa w)) && !(overlap8 (iDst w) (iSb w)) &&
    (if iExt w then fmtScaled a && fmtScaled b && fld ext 63 16 == 0 && vOk nv 1 (fld ext 7 0) && vOk nv 1 (fld ext 15 8) &&
        dstClear (iDst w) 8 [(fld ext 7 0, 1), (fld ext 15 8, 1)]
     else true)
  | 2 => vOk nv 8 (iDst w) && addr && decide (fld w 59 56 ≤ 8) &&
      ((iKc w == 1 && uOk (iSc w)) || (iKc w == 0 && iSc w == 0xFF)) &&
      (if iExt w then fld ext 63 17 == 0 && (fld ext 7 0 == 0xFF || uOk (fld ext 7 0)) &&
        (fld ext 15 8 == 0xFF || (uOk (fld ext 15 8) && fld ext 15 8 % 2 == 0)) else true)
  | _ => false

def gopOk (nv : Nat) (w ext : W64) : Bool :=
  let width := decide (iMod w % 8 ≤ 4) && iMod w / 8 == 0
  let scz := iSc w == 0 && iKc w == 0
  let sbz := iSb w == 0 && iKb w == 0
  let val := iKa w == 0 && vOk nv 1 (iSa w)
  width && (match iOp w with
  | 0x08 => pOk (iDst w) && iKa w == 0 && pOk (iSa w) && sbz && scz && iType w == 0 && extOk w ext 0
  | 0x09 => pOk (iDst w) && iKa w == 0 && pOk (iSa w) && sbz && scz && iType w == 0 && extOk w ext 0
  | 0x0A => vOk nv 1 (iDst w) && iKa w == 0 && pOk (iSa w) && sbz && iKc w == 0 &&
      (iSc w == 0xFF || (uOk (iSc w) && iMod w % 8 == 4)) && iType w == 0 && extOk w ext 0
  | 0x0B => pOk (iDst w) && val && sbz && scz && iType w == 0 && extOk w ext 0
  | 0x0C => vOk nv 1 (iDst w) && val && sbz && scz && iType w == 0 && extOk w ext 0
  | op =>
    if op ≤ 3 then vOk nv 1 (iDst w) && val && srcOk nv (iKb w) (iSb w) true && scz && iType w == 0 && extOk w ext (immCount [iKb w])
    else if 0x10 ≤ op && op ≤ 0x15 then
      vOk nv 1 (iDst w) && val && sbz && scz && (iType w == 3 || iType w == 4 || (iType w == 0 && decide (op ≤ 0x12))) && extOk w ext 0
    else false)

def syncOk (w ext : W64) : Bool :=
  let rest := fld w 58 18 == 0
  match iOp w with
  | 0 => rest && iMod w == 0 && extOk w ext 0
  | 1 => rest && iMod w == 0 && extOk w ext 0
  | 2 => rest && (bit w 59 || bit w 60) && decide (fld w 63 61 ≤ 4) && extOk w ext 0
  | _ => false

/-- 64-bit types of an atomic. -/
def atomWide (t : Nat) : Bool := t == 3 || t == 4
/-- Types each atomic takes (R167). -/
def atomType (op t : Nat) : Bool :=
  match op with
  | 1 => t == 2
  | 2 => decide (t ≤ 4)
  | 3 => decide (t ≤ 4)
  | 4 => t == 0 || t == 3
  | 5 => t == 0 || t == 3
  | 6 => t == 0 || t == 3
  | _ => decide (op ≤ 8) && decide (t ≤ 4) && t != 2

def atomOk (nv : Nat) (w ext : W64) : Bool :=
  let wide := atomWide (iType w)
  let dev := bit w 59
  let opnd (k f : Nat) : Bool := if wide then srcOk64 nv k f true else srcOk nv k f true
  atomType (iOp w) (iType w) && decide (iKa w ≤ 1) &&
  (if dev then srcOk64 nv (iKa w) (iSa w) false else srcOk nv (iKa w) (iSa w) false) &&
  opnd (iKb w) (iSb w) && (if iOp w = 8 then opnd (iKc w) (iSc w) else iSc w == 0 && iKc w == 0) &&
  vOk nv (if wide then 2 else 1) (iDst w) &&
  extOk w ext (immCount (if iOp w = 8 then [iKb w, iKc w] else [iKb w]))

def knotOk (w ext : W64) : Bool :=
  let addr := iKa w == 1 && uOk (iSa w) && iSa w % 2 == 0
  let val := (iKb w == 1 && uOk (iSb w) && iSb w % 2 == 0) || (iKb w == 2 && iSb w == 0 && iExt w)
  match iOp w with
  | 0 => addr && val && iDst w == 0 && iSc w == 0 && iKc w == 0 && iType w == 0 && iMod w == 0 && extOk w ext (immCount [iKb w])
  | 1 => addr && val && pOk (iSc w) && iKc w == 0 && (iDst w == 0xFF || (uOk (iDst w) && iDst w % 2 == 0)) && iType w == 0 &&
      iMod w / 2 == 0 && (!(iExt w) || iKb w == 2 || fld ext 31 0 == 0)
  | _ => false

def hitOk (nv : Nat) (w ext : W64) : Bool :=
  iOp w == 0 && iDst w == 0 && iSa w != 0xFF && iSa w % 8 == 0 && decide (iSa w + 5 ≤ nv) && fld w 63 34 == 0 && extOk w ext 0

/-- Instructions that act once per group take no guard (R143). -/
def perGroup (w : W64) : Bool :=
  match iCls w with
  | 0 => iOp w != 1 && iOp w != 2 && iOp w != 4
  | 3 => true
  | 4 => iOp w == 1 || iOp w == 4
  | 6 => iOp w == 2
  | 8 => true
  | 10 => true
  | 12 => true
  | _ => false

/-- R141 for the loads, atomics and texture fetches, whose vector sources are the address, the operands or coordinates. -/
def noOverlap (w : W64) : Bool :=
  match iCls w with
  | 5 => iOp w != 0 || dstClear (iDst w) (sizeRegs (iType w)) (if iKa w = 0 then [(iSa w, 1)] else [])
  | 6 => iOp w != 0 || dstClear (iDst w) (sizeRegs (iType w)) (if iKa w = 0 then [(iSa w, 2)] else [])
  | 7 => iOp w == 2 || dstClear (iDst w) (if iType w = 0 then 4 else 2)
      ((iSa w, if bit w 59 then 3 else 2) :: (if fld w 61 60 != 0 && iKc w == 0 then [(iSc w, 1)] else []))
  | 11 =>
    let n := if atomWide (iType w) then 2 else 1
    dstClear (iDst w) n ((if iKa w = 0 then [(iSa w, if bit w 59 then 2 else 1)] else []) ++
      (if iKb w = 0 then [(iSb w, n)] else []) ++ (if iOp w == 8 && iKc w == 0 then [(iSc w, n)] else []))
  | _ => true

/-- Is a base word, with its extension word, an assigned encoding for a code object that declares `nv` vector registers? VSFU's SA may be an
immediate (R137, R138; DESIGN CHOICE, unsafe, log 109). -/
def wordOk (nv : Nat) (w ext : W64) : Bool :=
  decide (iPred w ≤ 8) && (!(perGroup w) || (iPred w == 8 && !(iNeg w))) && noOverlap w &&
  (match iCls w with
   | 0 => ctrlOk w ext
   | 1 => arithOk nv false w ext
   | 2 => decide (iOp w ≤ 6) && srcOk nv (iKa w) (iSa w) true && iSb w == 0 && iSc w == 0 && iKb w == 0 && iKc w == 0 &&
       iType w == 0 && iMod w == 0 && vOk nv 1 (iDst w) && extOk w ext (immCount [iKa w])
   | 3 => arithOk nv true w ext
   | 4 => moveOk nv w ext
   | 5 => decide (iOp w ≤ 1) && memOk nv false (iOp w == 1) w ext
   | 6 => if iOp w = 2 then ldcOk w ext else decide (iOp w ≤ 1) && memOk nv true (iOp w == 1) w ext
   | 7 => texOk nv w ext
   | 8 => mtxOk nv w ext
   | 9 => gopOk nv w ext
   | 10 => syncOk w ext
   | 11 => atomOk nv w ext
   | 12 => knotOk w ext
   | 13 => hitOk nv w ext
   | _ => false)

end Sys2Proof.Machine
end

