-- ==== Sys2Proof/Machine/Flags.lean ====
section
/-! DEFINITION. Flags.lean: the status codes of completed commands and traps (12 R442, Table 12.17) and the flag bits of
packet headers (12 R420). -/
namespace Sys2Proof.Machine

/-- A 16-bit status. -/
abbrev Status := BitVec 16

namespace St
def success : Status := 0x0000
def partialStep : Status := 0x0001
def packetLength : Status := 0x0101
def packetOpcode : Status := 0x0102
def packetVersion : Status := 0x0103
def packetContext : Status := 0x0104
def packetReserved : Status := 0x0105
def paramRange : Status := 0x0106
def privileged : Status := 0x0107
def resourceAbsent : Status := 0x0108
def hitRecord : Status := 0x0109
def copyOverlap : Status := 0x010A
def binding : Status := 0x010B
def knotAddress : Status := 0x0170
def graphState : Status := 0x0171
def snapshotParam : Status := 0x0172
def spliceInvalid : Status := 0x0173
def spliceStale : Status := 0x0174
def graphContent : Status := 0x0175
def dzStream : Status := 0x0180
def dzCheck : Status := 0x0181
def contextLimit : Status := 0x0201
def queueLimit : Status := 0x0202
def graphStoreFull : Status := 0x0203
def versionLimit : Status := 0x0204
def knotWaiters : Status := 0x0205
def signalSetFull : Status := 0x0206
def frameCountLimit : Status := 0x0207
def hitQueueFull : Status := 0x0210
def dzOutputFull : Status := 0x0241
def timeoutDrained : Status := 0x0301
def timeoutKilled : Status := 0x0302
def timeoutUnchanged : Status := 0x0303
def xlUnmapped : Status := 0x0401
def xlPermission : Status := 0x0402
def xlAborted : Status := 0x0403
def poisonKnot : Status := 0x0503
def poisonHost : Status := 0x0504
def poisonGeometry : Status := 0x0505
def poisonPacket : Status := 0x0506
def abandoned : Status := 0x0601
def contextDestroyed : Status := 0x0602
def queueDestroyed : Status := 0x0603
def safeStateActive : Status := 0x0701
def safetyLocked : Status := 0x0702
def linkDown : Status := 0x0801
def remoteTimeout : Status := 0x0802
def domainState : Status := 0x0803
end St

/-- Statuses of class 0x00xx are success (R442). -/
def statusOk (st : Status) : Bool := st.toNat < 256

/-- OPCODE, VERSION, LENGTH, TAG and CONTEXT of a packet's header (Table 11.4). -/
def pktOpcode (p : Pkt) : Nat := fld (dw p 0) 7 0
def pktVersion (p : Pkt) : Nat := fld (dw p 0) 11 8
def pktLength (p : Pkt) : Nat := fld (dw p 0) 31 24
def pktTag (p : Pkt) : BitVec 16 := BitVec.ofNat 16 (fld (dw p 1) 15 0)
def pktContext (p : Pkt) : Nat := fld (dw p 1) 23 16
/-- Common flags (Table 12.2) and bit 5, which RENDER_PASS defines (Table 12.11). -/
def pktIrq (p : Pkt) : Bool := bit (dw p 0) 12
def pktOverlap (p : Pkt) : Bool := bit (dw p 0) 13
def pktKill (p : Pkt) : Bool := bit (dw p 0) 14
def pktSignal (p : Pkt) : Bool := bit (dw p 0) 15
def pktSigAlways (p : Pkt) : Bool := bit (dw p 0) 16
def pktEnd (p : Pkt) : Bool := bit (dw p 0) 17
/-- TIMEOUT in nanoseconds: 0 stands for 100 ms (Table 12.1). -/
def pktTimeoutNs (p : Pkt) : Nat := (if (dw p 2).toNat = 0 then 100000 else (dw p 2).toNat) * 1000
def pktCknot (p : Pkt) : Nat := dq p 4
def pktCkval (p : Pkt) : W64 := BitVec.ofNat 64 (dq p 6)

end Sys2Proof.Machine
end

