-- ==== Sys2Proof/Machine/Ops.lean ====
section
/-! DEFINITION. Ops.lean: the named operations that the families share: byte memory with its canonical form, error
correction and poison (16), host memory (11), alarms (12), the interrupt concentrator and MSI-X (11). -/
namespace Sys2Proof.Machine

/-! ### Byte memory in canonical form (DESIGN CHOICE, unsafe, log 7) -/

/-- Write one byte into the sorted list of bytes that differ from 0. -/
def cellPut : List Host.Cell → Nat → Byte → List Host.Cell
  | [], a, b => if b = 0 then [] else [(a, b)]
  | (x, v) :: r, a, b =>
    if a < x then (if b = 0 then (x, v) :: r else (a, b) :: (x, v) :: r)
    else if a = x then (if b = 0 then r else (a, b) :: r)
    else (x, v) :: cellPut r a b

/-- Read one byte; what is not listed reads 0. -/
def cellGet : List Host.Cell → Nat → Byte
  | [], _ => 0
  | (x, v) :: r, a => if x = a then v else cellGet r a

/-- Set or clear an entry of a sorted list of pairs. -/
def pairPut {α : Type} : List (Nat × α) → Nat → Option α → List (Nat × α)
  | [], k, some v => [(k, v)]
  | [], _, none => []
  | (x, w) :: r, k, v =>
    if k < x then (match v with | some v => (k, v) :: (x, w) :: r | none => (x, w) :: r)
    else if k = x then (match v with | some v => (k, v) :: r | none => r)
    else (x, w) :: pairPut r k v

/-- Look up an entry. -/
def pairGet {α : Type} : List (Nat × α) → Nat → Option α
  | [], _ => none
  | (x, v) :: r, k => if x = k then some v else pairGet r k

/-- The keys of a list of pairs rise strictly from above `lo`. -/
def rising {α : Type} : Option Nat → List (Nat × α) → Bool
  | _, [] => true
  | none, (x, _) :: r => rising (some x) r
  | some l, (x, _) :: r => decide (l < x) && rising (some x) r

/-- Canonical form of a memory: addresses strictly rising, no listed byte 0, granules of marks strictly rising. -/
def Mem.wf (m : Mem) : Bool := rising none m.cells && m.cells.all (fun c => c.2 != 0) && rising none m.marks

def Mem.byte (m : Mem) (a : Nat) : Byte := cellGet m.cells a
def Mem.putByte (m : Mem) (a : Nat) (b : Byte) : Mem := { m with cells := cellPut m.cells a b }
def Mem.putMark (m : Mem) (g : Nat) (k : Option Mark) : Mem := { m with marks := pairPut m.marks g k }

/-- Write bytes from address `a` up. -/
def Mem.putBytes (m : Mem) (a : Nat) : List Byte → Mem
  | [] => m
  | b :: bs => (m.putByte a b).putBytes (a + 1) bs

/-- `n` bytes from address `a`, as stored, without correction. -/
def Mem.bytes (m : Mem) (a n : Nat) : List Byte := (List.range n).map fun i => m.byte (a + i)

/-- Bytes with their poison marks. -/
abbrev PB := List (Byte × Bool)
def clean (bs : List Byte) : PB := bs.map fun b => (b, false)
def dataOf (p : PB) : List Byte := p.map Prod.fst
def anyPoison (p : PB) : Bool := p.any Prod.snd

/-- What a read of an 8-byte word finds (R543-R545). -/
inductive Found where
  | good | corrected | uncorrectable | stored
  deriving DecidableEq, Repr

/-- Do 64 columns make a SECDED (72,64) code (R542): no two and no three of the 72 cancel; and is no column the pattern of
inverted check bits (R545)? -/
def secdedOk (cs : List Byte) : Bool :=
  let all := cs ++ (List.range 8).map fun i => (1#8 <<< i)
  cs.length == 64 && all.eraseDups.length == 72 && !(all.contains 0) && !(all.contains 0xFF) &&
  all.all fun a => all.all fun b => a == b || !(all.contains (a ^^^ b))

/-- A code that has the form: the columns of three ones, and the first eight of five. -/
def oddCols : List Byte :=
  let ones (n : Nat) : List Byte := ((List.range 256).map (BitVec.ofNat 8)).filter fun b => ((List.range 8).filter fun i => b.getLsbD i).length == n
  ones 3 ++ (ones 5).take 8

/-- The eight check bits of a word. -/
def secdedCheck (d : W64) : Byte :=
  let cs := if secdedOk Config.secdedCols then Config.secdedCols else oddCols
  (List.range 64).foldl (fun c i => if d.getLsbD i then c ^^^ cs.getD i 0 else c) 0

/-- The single-bit flip of the 72 bits of a word that makes its check bits `c` the code of its data, if one does: the
corrected data. The code is the SECDED code of R542 (DESIGN CHOICE, unsafe, log 15). -/
def secdedFix (d : W64) (c : Byte) : Option W64 :=
  match (List.range 64).find? (fun i => secdedCheck (d ^^^ (1#64 <<< i)) == c) with
  | some i => some (d ^^^ (1#64 <<< i))
  | none => if (List.range 8).any (fun i => secdedCheck d == c ^^^ (1#8 <<< i)) then some d else none

/-- Read the word at granule `g`: the data delivered and what the decoder found. Inverted check bits are stored poison,
also with one further flipped bit (R545). -/
def wordFound (d : W64) (mk : Option Mark) : W64 × Found :=
  match mk with
  | none => (d, .good)
  | some .poison => (d, .stored)
  | some (.raw c) =>
    if secdedCheck d = c then (d, .good)
    else if ~~~ (secdedCheck d) = c then (d, .stored)
    else match secdedFix d c with
      | some d' => (d', .corrected)
      | none => match secdedFix d (~~~ c) with
        | some _ => (d, .stored)
        | none => (d, .uncorrectable)

def Mem.word (m : Mem) (g : Nat) : W64 × Found := wordFound (BitVec.ofNat 64 (leVal (m.bytes (8 * g) 8))) (pairGet m.marks g)

/-- Store a whole word, clean or as stored poison. -/
def Mem.putWord (m : Mem) (g : Nat) (d : List Byte) (poison : Bool) : Mem :=
  (m.putBytes (8 * g) d).putMark g (if poison then some .poison else none)

/-! ### Presence of cores, regions and frames (00 R1-R4, 01 R19, R24) -/

/-- Cores and Peat regions present: 32, or 24 on KF32-AC. -/
def presentCores (p : Part) : Nat := match p with | .ae => 32 | .ac => 24
def coreMask (p : Part) : W32 := match p with | .ae => 0xFFFFFFFF | .ac => 0x00FFFFFF
def linksPresent (p : Part) : Bool := match p with | .ae => true | .ac => false
/-- Engine IDs that the part has (Table 1.3, R3): on KF32-AC neither SC24-SC31 nor the Hawser DMA of HL0-HL3. -/
def engPresent (p : Part) (e : Nat) : Bool :=
  decide (e < 46) && match p with | .ae => true | .ac => !(decide (24 ≤ e ∧ e ≤ 31) || decide (41 ≤ e ∧ e ≤ 44))
/-- Bytes of one Peat region (12 MiB) and of Peat. -/
def regionBytes : Nat := 12582912
def peatBytes (p : Part) : Nat := presentCores p * regionBytes
/-- Usable LPDDR in MiB (R540). -/
def lpddrMib (s : State) : Nat := popcount s.mm.ctl.chmask * s.mm.ctl.mibPerCh * 7 / 8 - 4
/-- Bytes of LPDDR data space, the top 4 MiB of the frame counts included (R460, R540). -/
def lpddrBytes (s : State) : Nat := popcount s.mm.ctl.chmask * s.mm.ctl.mibPerCh * 7 / 8 * 1048576

/-- The unit that counts errors of an address (16, register section): the Peat region, or 32 + LPDDR channel (R539). -/
def eccUnit (s : State) (lp : Bool) (a : Nat) : Nat :=
  if lp then
    let ch := setBits s.mm.ctl.chmask
    32 + ch.getD ((a >>> 12) % (max ch.length 1)) 0
  else a / regionBytes

/-! ### Host memory (11) -/

/-- Do a function's transactions reach the host (R381)? A function in D3hot sends none. -/
def busOn (s : State) (fn : Nat) : Bool :=
  let f := tabD s.hi.funcs fn {}
  s.hi.pcie.up && f.busMaster && !f.d3hot

/-- The marks of `n` granules from `g` after a write of bytes that begin at offset `off` of the first: a granule that takes poison is
marked, one written whole and clean is not. -/
def noteGrans : Nat → Nat → Nat → PB → Mem → Mem
  | 0, _, _, _, m => m
  | n + 1, g, off, bs, m =>
    let here := bs.take (8 - off)
    let m := if anyPoison here then m.putMark g (some .poison) else if here.length = 8 then m.putMark g none else m
    noteGrans n (g + 1) 0 (bs.drop (8 - off)) m

/-- A posted write of a function to host memory; dropped under R381. Its poisoned bytes are sent as poisoned TLPs (Table 11.1, R118).
The host keeps them so: what the device reads back from such a granule arrives poisoned until it is written clean (PRESUMED,
unsafe, log 86). -/
def hostWriteP (fn : Nat) (a : Nat) (bs : PB) (s : State) : State :=
  if busOn s fn then
    { s with mm := { s.mm with host := noteGrans ((a + bs.length + 7) / 8 - a / 8) (a / 8) (a % 8) bs (s.mm.host.putBytes a (dataOf bs)) } }
  else s
def hostWrite (fn : Nat) (a : Nat) (bs : List Byte) (s : State) : State := hostWriteP fn a (clean bs) s

/-- The aligned 8-byte granules that a range touches. -/
def granCount (a n : Nat) : Nat := if n = 0 then 0 else (a + n - 1) / 8 - a / 8 + 1

/-- Does the granule of byte `a + i` of a read at `a` arrive poisoned? The free value of that granule, counted from the `c`-th (DESIGN
CHOICE, safe, log 106). -/
def freeMark (c a i : Nat) : Bool := (Config.freeValue (c + ((a + i) / 8 - a / 8))).getLsbD 0

/-- A read of host memory: granules whose completion arrives poisoned carry marks (R656), as free values say (DESIGN CHOICE, safe, log 106) and
where the host keeps poison (PRESUMED, unsafe, log 86); everything is poisoned while the function cannot reach the host (R381). A poisoned
completion also shows in the function's AER status. -/
def hostReadP (fn : Nat) (a n : Nat) (s : State) : PB × State :=
  let b := (List.range n).map fun i =>
    (s.mm.host.byte (a + i), !(busOn s fn) || (pairGet s.mm.host.marks ((a + i) / 8)).isSome || freeMark s.freeCtr a i)
  let s := { s with freeCtr := s.freeCtr + granCount a n }
  (b, if busOn s fn && anyPoison b then { s with hi := { s.hi with funcs := tabUpd s.hi.funcs fn fun f => { f with aer := f.aer ||| 0x1000 } } } else s)

/-! ### Alarms (12 R443) -/

def alarmOlder (x y : AlarmEntry) : Bool :=
  if x.first ≠ y.first then decide (x.first.toNat < y.first.toNat)
  else if x.code ≠ y.code then decide (x.code.toNat < y.code.toNat)
  else decide (x.unit.toNat < y.unit.toNat)

/-- The oldest entry of those that satisfy `p`. -/
def oldestAlarm (p : AlarmEntry → Bool) (l : List AlarmEntry) : Option AlarmEntry :=
  l.foldl (fun o e => if p e then (match o with | none => some e | some x => if alarmOlder e x then some e else some x) else o) none

def alarmMerge (x y : AlarmEntry) : AlarmEntry :=
  let o := if y.first.toNat < x.first.toNat then y else x
  { code := x.code, unit := 0xFFFF, count := satAdd x.count y.count.toNat, first := o.first
    last := timeMax x.last y.last, detail := o.detail }

/-- Step 4 of R443: free one entry by merging. -/
def alarmShrink (l : List AlarmEntry) : List AlarmEntry :=
  match oldestAlarm (fun e => decide (1 < (l.filter fun x => x.code == e.code).length)) l with
  | none => l
  | some e =>
    let wide := l.find? fun x => x.code == e.code && x.unit == 0xFFFF
    let a := match wide with | some w => some w | none => oldestAlarm (fun x => x.code == e.code) l
    match a with
    | none => l
    | some a =>
      match oldestAlarm (fun x => x.code == e.code && x.unit != a.unit) l with
      | none => l
      | some b => (l.filter fun x => !(x.code == e.code && (x.unit == a.unit || x.unit == b.unit))) ++ [alarmMerge a b]

/-- Steps 1 to 3 of R443; `none` where no entry is free. -/
def alarmPlace (code unit : BitVec 16) (detail t : W64) (l : List AlarmEntry) : Option (List AlarmEntry) :=
  let hitIn (u : BitVec 16) : Bool := l.any fun e => e.code == code && e.unit == u
  let bump (u : BitVec 16) := l.map fun e =>
    if e.code == code && e.unit == u then { e with count := satInc e.count, last := t } else e
  if hitIn unit then some (bump unit)
  else if hitIn 0xFFFF then some (bump 0xFFFF)
  else if l.length < 64 then some (l ++ [{ code := code, unit := unit, count := 1, first := t, last := t, detail := detail }])
  else none

/-- Post an alarm (R443): one more in ALARMS, placed in the ring of 64 entries. -/
def postAlarm (code unit : Nat) (detail : Nat) (s : State) : State :=
  let c := BitVec.ofNat 16 code
  let u := BitVec.ofNat 16 unit
  let d := BitVec.ofNat 64 detail
  let l := match alarmPlace c u d s.time s.hi.alarms with
    | some l => l
    | none => (alarmPlace c u d s.time (alarmShrink s.hi.alarms)).getD s.hi.alarms
  { s with hi := { s.hi with alarms := l, alarmCnt := s.hi.alarmCnt + 1 } }

/-! ### MSI-X and the interrupt concentrator (11 R407-R418) -/

/-- Vectors of a function's MSI-X table. -/
def vectors (fn : Nat) : Nat := if fn = 0 then 64 else 8

/-- Send the message of a vector: while the entry or the whole function is masked it sets its pending bit, else the data word is
written to its address; a function whose MSI-X is not enabled sends none (R407, R408; DEDUCED, safe, log 13; PCI Express: PRESUMED, unsafe, log 86). -/
def msiSend (fn vec : Nat) (s : State) : State :=
  let f := tabD s.hi.funcs fn {}
  match f.msix[vec]? with
  | none => s
  | some e =>
    if !f.msixEn then s
    else if bit e.ctrl 0 || f.msixMask then
      { s with hi := { s.hi with funcs := tabUpd s.hi.funcs fn fun f => { f with msix := f.msix.set vec { e with pend := true } } } }
    else hostWrite fn e.addr.toNat (leBytes 4 e.data.toNat) s

/-- Fill of a ring: entries written and not consumed. -/
def ringFill (r : RingCfg) : Nat := r.written.toNat - r.consumed.toNat

/-- The levels of the level sources of Table 11.7. -/
def icnLevel (s : State) (src : Nat) : Bool :=
  match src with
  | 0 => s.mm.xl.tail != s.mm.xl.head
  | 1 => !s.hi.alarms.isEmpty
  | 2 => s.hi.logr.en && decide (s.hi.logr.thresh.toNat ≤ ringFill s.hi.logr)
  | 3 => s.hi.trcr.en && decide (3 * s.hi.trcr.entries.toNat < 4 * ringFill s.hi.trcr)
  | 4 => s.pte.alarm != 0
  | 5 => (tabD s.gx.cams 0 {}).alarm != 0
  | 6 => (tabD s.gx.cams 1 {}).alarm != 0
  | 7 => (tabD s.gx.cams 2 {}).alarm != 0
  | 8 => (tabD s.gx.cams 3 {}).alarm != 0
  | 9 => (tabD s.gx.dpos 0 {}).hpd
  | 10 => (tabD s.gx.dpos 1 {}).hpd
  | 11 => s.pte.safeState
  | 19 => (tabD s.hi.funcs 0 {}).alarm != 0
  | _ => false

/-- The level sources. -/
def levelSources : List Nat := [0, 1, 2, 3, 4, 5, 6, 7, 8, 9, 10, 11, 19]
/-- Sources that Table 11.7 assigns; reserved sources never become pending. -/
def icnAssigned (n : Nat) : Bool := n < 20 || (32 ≤ n && n < 128)
def icnIsPulse (n : Nat) : Bool := !(levelSources.contains n)

/-- SENSE with 5-7 acting as 0. -/
def icnSense (c : IcnSrc) : Nat := if c.sense.toNat < 5 then c.sense.toNat else 0

/-- PENDING of a source (R413): latched for pulses and edge senses, the sensed level otherwise. -/
def icnPending (n : Nat) (c : IcnSrc) : Bool :=
  if icnIsPulse n || 2 ≤ icnSense c then c.pending
  else c.en && (c.input != decide (icnSense c = 1))

/-- One level source takes its new input; a sensed edge of an enabled source latches PENDING (R413). -/
def icnInput (lvl : Bool) (c : IcnSrc) : IcnSrc :=
  let rise := lvl && !c.input
  let fall := !lvl && c.input
  let edge := match icnSense c with | 2 => rise | 3 => fall | 4 => rise || fall | _ => false
  { c with input := lvl, pending := c.pending || (c.en && edge) }

/-- A pulse of a source (R412: a rising edge under every SENSE). -/
def icnPulse (n : Nat) (s : State) : State :=
  { s with hi := { s.hi with icn := { s.hi.icn with
      srcs := tabUpd s.hi.icn.srcs n fun c => { c with pending := c.pending || c.en } } } }

/-- The target of a source: 9-15 act as 0. -/
def icnTargetOf (c : IcnSrc) : Nat := if c.target.toNat ≤ 8 then c.target.toNat else 0

/-- Eligible (R414). -/
def icnEligible (t thr : Nat) (n : Nat) (c : IcnSrc) : Bool :=
  c.en && icnPending n c && !c.active && decide (thr < c.prio.toNat) && decide (icnTargetOf c = t)

/-- The winner for a target (R414): highest PRIO, then lowest number. -/
def icnWinner (icn : Icn) (t : Nat) : Option Nat :=
  let thr := fld (tabD icn.tgts t {}).cfg 3 0
  (List.range 256).foldl (fun o n =>
    let c := tabD icn.srcs n {}
    if icnEligible t thr n c then
      match o with
      | none => some n
      | some m => if (tabD icn.srcs m {}).prio.toNat < c.prio.toNat then some n else some m
    else o) none

/-- VECTOR of a target; a VF VECTOR above 7 acts as 0. -/
def icnVector (t : Nat) (c : IcnTgt) : Nat :=
  let v := fld c.cfg 9 4
  if t ≠ 0 ∧ 7 < v then 0 else v

/-- A target with EN = 1, an eligible source and no outstanding message sends one (R415). -/
def icnNotify (t : Nat) (s : State) : State :=
  let c := tabD s.hi.icn.tgts t {}
  if bit c.cfg 10 && !c.outstanding && (icnWinner s.hi.icn t).isSome then
    msiSend t (icnVector t c)
      { s with hi := { s.hi with icn := { s.hi.icn with tgts := tabUpd s.hi.icn.tgts t fun c => { c with outstanding := true } } } }
  else s

/-- After an event the concentrator samples its level inputs and its targets send what they owe. -/
def icnSettle (s : State) : State :=
  let srcs := levelSources.foldl (fun v n => tabUpd v n (icnInput (icnLevel s n))) s.hi.icn.srcs
  let s := { s with hi := { s.hi with icn := { s.hi.icn with srcs := srcs } } }
  (List.range 9).foldl (fun s t => icnNotify t s) s

/-- The end of a command's effect: the concentrator settles. -/
def done (s : State) : Res := .next (icnSettle s)

/-! ### Error correction (16 R543-R547) -/

def eccAddrDetail (a : Nat) : Nat := a

def eccCount (lp : Bool) (a : Nat) (f : EccUnit → EccUnit) (s : State) : State :=
  { s with mm := { s.mm with ctl := { s.mm.ctl with units := tabUpd s.mm.ctl.units (eccUnit s lp a) f } } }
def eccAlarm (b : Nat) (s : State) : State :=
  { s with mm := { s.mm with ctl := { s.mm.ctl with alarm := setBit s.mm.ctl.alarm b true } } }

/-- R543: CE of the unit, ECC_ALARM.CE, ICN source 12, alarm 0x1B. -/
def eccCe (lp : Bool) (a : Nat) (s : State) : State :=
  postAlarm 0x1B (eccUnit s lp a) (eccAddrDetail a)
    (icnPulse 12 (eccAlarm 0 (eccCount lp a (fun u => { u with ce := satInc u.ce }) s)))

/-- R544: UE of the unit, ECC_UELOG, ICN source 13, alarm 0x1C. -/
def eccUe (lp : Bool) (a : Nat) (s : State) : State :=
  let u := eccUnit s lp a
  let log := BitVec.ofNat 64 (a % 2 ^ 35 + (b2n lp) * 2 ^ 35 + u * 2 ^ 36)
  let s := eccAlarm 1 (eccCount lp a (fun u => { u with ue := satInc u.ue }) s)
  let s := { s with mm := { s.mm with ctl := { s.mm.ctl with uelogLo := log, uelogTime := s.time } } }
  postAlarm 0x1C u (eccAddrDetail a) (icnPulse 13 s)

/-- R545: POISON_READ of the unit, ECC_ALARM.POISON, ICN source 13; no alarm. -/
def eccPoison (lp : Bool) (a : Nat) (s : State) : State :=
  icnPulse 13 (eccAlarm 2 (eccCount lp a (fun u => { u with poisonRead := satInc u.poisonRead }) s))

def devMem (lp : Bool) (s : State) : Mem := if lp then s.mm.lpddr else s.mm.peat
def setDevMem (lp : Bool) (m : Mem) (s : State) : State :=
  if lp then { s with mm := { s.mm with lpddr := m } } else { s with mm := { s.mm with peat := m } }

/-- Count what a read of a word found. -/
def eccNote (lp : Bool) (g : Nat) (f : Found) (s : State) : State :=
  match f with
  | .good => s
  | .corrected => eccCe lp (8 * g) s
  | .uncorrectable => eccUe lp (8 * g) s
  | .stored => eccPoison lp (8 * g) s

def foundPoison (f : Found) : Bool := match f with | .good => false | .corrected => false | _ => true

/-- Read granule `g`: eight bytes with a poison mark each, and the counting of R543-R545. -/
def readGran (lp : Bool) (g : Nat) (s : State) : PB × State :=
  let (d, f) := (devMem lp s).word g
  ((leBytes 8 d.toNat).map (fun b => (b, foundPoison f)), eccNote lp g f s)

/-- Read `k` granules from granule `g`. -/
def readGrans (lp : Bool) : Nat → Nat → State → PB × State
  | 0, _, s => ([], s)
  | k + 1, g, s =>
    let (b, s) := readGran lp g s
    let (bs, s) := readGrans lp k (g + 1) s
    (b ++ bs, s)

/-- Bytes of a Peat bank group (R20). -/
def groupBytes : Nat := 4 * regionBytes

/-- An access at a region port waits until its bank group has been zeroed: that has ended when the access is served (R536, R537; DESIGN
CHOICE, safe, log 107). -/
def portWait (lp : Bool) (a n : Nat) (s : State) : State :=
  if lp || s.mm.ctl.zeroing == 0 then s
  else
    let groups := (List.range 8).filter fun k => decide (a / groupBytes ≤ k) && decide (k ≤ (a + n - 1) / groupBytes)
    { s with mm := { s.mm with ctl := { s.mm.ctl with zeroing := s.mm.ctl.zeroing &&& ~~~ maskOf 8 groups } } }

/-- Read `n` bytes of device memory at `a`. -/
def readDev (lp : Bool) (a n : Nat) (s : State) : PB × State :=
  if n = 0 then ([], s) else
  let s := portWait lp a n s
  let g := a / 8
  let k := (a + n - 1) / 8 - g + 1
  let (bs, s) := readGrans lp k g s
  ((bs.drop (a % 8)).take n, s)

/-- Write some bytes of granule `g` (`none` keeps a byte): a full word, or the read-modify-write of R547. -/
def writeGran (lp : Bool) (g : Nat) (new : List (Option (Byte × Bool))) (s : State) : State :=
  let np := new.any fun x => match x with | some (_, p) => p | none => false
  if new.all Option.isSome then
    setDevMem lp ((devMem lp s).putWord g (new.map fun x => (x.getD (0, false)).1) np) s
  else
    let (old, s) := readGran lp g s
    let d := List.zipWith (fun x o => match x with | some (b, _) => b | none => o.1) new old
    setDevMem lp ((devMem lp s).putWord g d (np || anyPoison old)) s

/-- Write `k` granules from `g`; the bytes stand at offset `off` of the first. -/
def writeGrans (lp : Bool) : Nat → Nat → Nat → PB → State → State
  | 0, _, _, _, s => s
  | k + 1, g, off, bs, s =>
    let part := List.replicate off none ++ (bs.take (8 - off)).map some
    let part := part ++ List.replicate (8 - part.length) none
    writeGrans lp k (g + 1) 0 (bs.drop (8 - off)) (writeGran lp g part s)

/-- Before a write while an output scans: the memories as they stand are kept once per PTE time (09 R336). -/
def keepOld (s : State) : State :=
  if s.gx.dpos.toList.any (fun x => bit x.ctrl 0) && !((s.mm.old.head?.map fun o => o.before == s.time).getD false) then
    { s with mm := { s.mm with old := { before := s.time, peat := s.mm.peat, lpddr := s.mm.lpddr } :: s.mm.old } }
  else s

/-- Write bytes of device memory at `a` (R545, R547). -/
def writeDev (lp : Bool) (a : Nat) (bs : PB) (s : State) : State :=
  if bs.isEmpty then s else
  writeGrans lp ((a + bs.length - 1) / 8 - a / 8 + 1) (a / 8) (a % 8) bs (portWait lp a bs.length (keepOld s))

/-- Read `n` bytes at a place on behalf of function `fn`. What lies on another device of the domain is not part of this
model: bytes of a remote read by an engine, and the poison marks of their granules, are free values (DESIGN CHOICE, unsafe, log 23). -/
def readPlace (fn : Nat) (pl : Place) (n : Nat) (s : State) : PB × State :=
  match pl with
  | .peat a => readDev false a n s
  | .lpddr a => readDev true a n s
  | .host a => hostReadP fn a n s
  | .remote _ _ o =>
    let a := o.toNat
    ((List.range n).map (fun i => (BitVec.ofNat 8 (Config.freeValue (s.freeCtr + i)).toNat, freeMark (s.freeCtr + n) a i)),
      { s with freeCtr := s.freeCtr + n + granCount a n })

/-- Write bytes at a place on behalf of function `fn`; a write to another device leaves over its link (17). -/
def writePlace (fn : Nat) (pl : Place) (bs : PB) (s : State) : State :=
  match pl with
  | .peat a => writeDev false a bs s
  | .lpddr a => writeDev true a bs s
  | .host a => hostWriteP fn a bs s
  | .remote _ _ _ => s

/-- The place `o` bytes further on (within a page). -/
def placePlus (p : Place) (o : Nat) : Place :=
  match p with
  | .peat a => .peat (a + o)
  | .lpddr a => .lpddr (a + o)
  | .host a => .host (a + o)
  | .remote d f off => .remote d f (off + BitVec.ofNat 16 o)

end Sys2Proof.Machine
end

