-- ==== Sys2Proof/Machine/Axis.lean ====
section
/-! DEFINITION. Axis.lean: axis positions, outputs and what forces them (02 R39-R60, R66, R67, R69). -/
namespace Sys2Proof.Machine

/-! ### Configuration fields -/

def axEn (a : Axis) : Bool := bit a.cfg 0
def axSrc (a : Axis) : Nat := fld a.cfg 2 1
def axInput (a : Axis) : Nat := fld a.cfg 4 3
def axDecode (a : Axis) : Nat := fld a.cfg 6 5
def axZen (a : Axis) : Bool := bit a.cfg 7
def axInvert (a : Axis) : Bool := bit a.cfg 8
/-- Counts per mains cycle in 48.16; 0 acts as 3,600. -/
def axCpc (a : Axis) : Nat := (if fld a.mains 15 0 = 0 then 3600 else fld a.mains 15 0) * 65536
def outPol (o : Output) : Bool := bit o.cfg 0
def outSafe (o : Output) : Nat := if fld o.cfg 2 1 = 3 then 0 else fld o.cfg 2 1
def outPhase (o : Output) : Bool := bit o.cfg 3
def outAxis (o : Output) : Nat := fld o.cfg 6 4
def outDefact (o : Output) : Nat := fld o.cfg 8 7
def outEn (o : Output) : Bool := bit o.cfg 9
def tgEn (g : TrigGen) : Bool := bit g.cfg 0
def tgAxis (g : TrigGen) : Nat := fld g.cfg 3 1
def tgRev (g : TrigGen) : Bool := bit g.cfg 7

def axis (s : State) (a : Nat) : Axis := tabD s.pte.axes a {}
def output (s : State) (o : Nat) : Output := tabD s.pte.outs o {}
def updPte (f : Pte → Pte) (s : State) : State := { s with pte := f s.pte }
def updAxis (a : Nat) (f : Axis → Axis) (s : State) : State := updPte (fun p => { p with axes := tabUpd p.axes a f }) s
def updOut (o : Nat) (f : Output → Output) (s : State) : State := updPte (fun p => { p with outs := tabUpd p.outs o f }) s
def updTg (g : Nat) (f : TrigGen → TrigGen) (s : State) : State := updPte (fun p => { p with tgs := tabUpd p.tgs g f }) s

/-! ### The input filter (R45) -/

/-- Samples for which a new level must be stable to qualify: FILT + 1, 1 ns each. -/
def filtLen (a : Axis) : Nat := fld a.filt 7 0 + 1

/-- Can a transition qualify at `t`, `n` filter lengths after the line last qualified one at `last`? -/
def filtered (a : Axis) (n : Nat) (last : Option W64) (t : W64) : Bool :=
  match last with
  | none => true
  | some l => decide (l.toNat + n * filtLen a ≤ t.toNat)

/-- Can the levels `va` and `vb` of A and B qualify at `t`? Between two transitions of one line lie FILT + 1 samples. -/
def edgeFiltered (a : Axis) (va vb : Bool) (t : W64) : Bool :=
  (a.lvA == va || filtered a 1 a.qA t) && (a.lvB == vb || filtered a 1 a.qB t)

/-- The levels of A and B now qualified. -/
def noteEdge (va vb : Bool) (t : W64) (a : Axis) : Axis :=
  { a with lvA := va, lvB := vb, qA := if a.lvA == va then a.qA else some t, qB := if a.lvB == vb then a.qB else some t }

/-! ### Positions -/

/-- A 64-bit position as a signed difference (R41). -/
def sdiff (p t : W64) : Int := (p - t).toInt

/-- Has position `p` reached target `t` (R41)? -/
def reached (rev : Bool) (p t : W64) : Bool := if rev then decide (sdiff p t ≤ 0) else decide (0 ≤ sdiff p t)

def sumN (l : List Nat) : Nat := l.foldl (· + ·) 0

/-- Interpolated part of R52 in units of 2^-16 count: (now - te) / Î, at most 0xFFFF; Î is the mean of eight intervals. Its
magnitude is rounded down in both directions of motion (DESIGN CHOICE, unsafe, log 85: R52 names no rounding). -/
def fineFrac (a : Axis) (now : Nat) : Nat :=
  min ((now - a.te.toNat) * 8 * 65536 / max (sumN a.ivals) 1) 0xFFFF

/-- Interpolated part of R56 of a locked mains axis: (now - tb) / P of a cycle, below the next boundary; rounded down
(DESIGN CHOICE, unsafe, log 85: R56 names no rounding). -/
def lockedFrac (a : Axis) (now : Nat) : Nat :=
  min ((now - a.te.toNat) * 4 * axCpc a / max (sumN a.ivals) 1) (axCpc a - 1)

/-- The position of an axis at PTE time `now` (R39, R43, R49, R52, R56, R57). -/
def axPos (a : Axis) (now : Nat) : W64 :=
  match a.mode with
  | .disabled => a.pos
  | .coarse => a.pos
  | .locked => a.base + BitVec.ofNat 64 (a.k * axCpc a) + BitVec.ofNat 64 (lockedFrac a now)
  | .fine =>
    if axSrc a = 2 then a.base + BitVec.ofNat 64 ((now - a.tEn.toNat) * a.rate.toNat / 256)
    else if axSrc a = 0 then
      if a.rev then a.c - BitVec.ofNat 64 (fineFrac a now) else a.c + BitVec.ofNat 64 (fineFrac a now)
    else a.pos

/-- AX_EST: Î or P in 1/16 ns while fine (encoder) or locked, else zero. -/
def axEst (a : Axis) : W32 :=
  match a.mode with
  | .locked => BitVec.ofNat 32 (min (4 * sumN a.ivals) 0xFFFFFFFF)
  | .fine => if axSrc a = 0 then BitVec.ofNat 32 (min (2 * sumN a.ivals) 0xFFFFFFFF) else 0
  | _ => 0

/-- Do the newest `n` values lie within 1/`tol` of their mean and inside [`lo`, `hi`] (R50, R58)? -/
def steady (l : List Nat) (n tol lo hi : Nat) : Bool :=
  let l := l.take n
  let sum := sumN l
  l.length == n && l.all fun v =>
    decide (lo ≤ v) && decide (v ≤ hi) && decide (tol * (n * v) ≤ (tol + 1) * sum) && decide ((tol - 1) * sum ≤ tol * (n * v))

/-- The longest steady run of the newest values, at most `m` (CONSIST). Before fine mode R50 does not say what the consistent
intervals seen so far are consistent with: here the newest n count that lie within the tolerance of their own mean (DEDUCED,
unsafe, log 61). -/
def steadyRun (l : List Nat) (m tol lo hi : Nat) : Nat :=
  (List.range (m + 1)).foldl (fun b n => if steady l n tol lo hi then n else b) 0

def encConsist (l : List Nat) : Nat := steadyRun l 8 8 0 (2 ^ 64)
def mainsConsist (l : List Nat) : Nat := steadyRun l 4 100 12500000 25000000

/-- AX_STATUS.CONSIST. -/
def axConsist (a : Axis) : Nat :=
  match a.mode with
  | .disabled => 0
  | .locked => 4
  | .fine => if axSrc a = 0 then 8 else 0
  | .coarse => if axSrc a = 1 then mainsConsist a.ivals else encConsist a.ivals

def axModeCode (a : Axis) : Nat := match a.mode with | .disabled => 0 | .coarse => 1 | .fine => 2 | .locked => 3

/-- AX_STATUS. -/
def axStatus (a : Axis) : W32 := BitVec.ofNat 32 (axModeCode a + 4 * b2n a.rev + 256 * axConsist a)

/-! ### Alarms, drops, output actions -/

/-- A PTE_ALARM bit; each also posts its code (02 register section, Table 12.18). -/
def pteAlarm (b : Nat) (unit : Nat) (s : State) : State :=
  postAlarm b unit 0 (updPte (fun p => { p with alarm := setBit p.alarm b true }) s)

/-- Count `n` discarded hits in DROPS of an axis. -/
def countDrops (a n : Nat) (s : State) : State := updAxis a (fun x => { x with drops := satAdd x.drops n }) s

/-- Discard every pending hit of an output, each counted in DROPS of its axis (R44, R69, R78, FLUSH). -/
def discardHits (o : Nat) (s : State) : State :=
  let out := output s o
  countDrops (outAxis out) out.pend.length (updOut o (fun x => { x with pend := [] }) s)

/-- CLEAR of R66. -/
def actClear (now : W64) (o : Output) : Output := { o with active := false, until' := some now }
/-- SET of R66. -/
def actSet (o : Output) : Output := { o with active := true, until' := none }
/-- PULSE of R66: U becomes the greater of U and now + WIDTH. -/
def actPulse (now : W64) (w : Nat) (o : Output) : Output :=
  let e := now + BitVec.ofNat 64 w
  { o with active := true, until' := match o.until' with | none => none | some u => some (timeMax u e) }

/-- An action by its code: 0 SET, 1 CLEAR, 2 PULSE (Table 2.2). -/
def act (code : Nat) (w : Nat) (now : W64) (o : Output) : Output :=
  match code with
  | 0 => actSet o
  | 1 => actClear now o
  | _ => actPulse now w o

/-- Pulses whose U has come end (R66). -/
def endPulse (now : W64) (o : Output) : Output :=
  match o.until' with
  | some u => if o.active && decide (u.toNat ≤ now.toNat) then { o with active := false } else o
  | none => o

/-- Is a PHASE output barred from acting (R60): its axis is not a locked mains axis. -/
def phaseBarred (s : State) (o : Output) : Bool :=
  let a := axis s (outAxis o)
  outPhase o && !(axSrc a == 1 && a.mode == .locked)

/-! ### Ball levels (R67, R70, R72) -/

/-- The level an output drives, none at high impedance; keeper and BOOT levels are low (R67, R643). -/
def outDrive (s : State) (o : Output) : Option Bool :=
  if s.sfi.keeper || !o.written then some false
  else if s.pte.safeState then match outSafe o with | 1 => some true | 2 => none | _ => some false
  else some (o.active != outPol o)

/-- Is the output compared with its ball (R72)? -/
def outCompared (s : State) (o : Output) : Bool := (outDrive s o).isSome

/-- A ball that is held at another level than the output drives. -/
def outMismatch (s : State) (o : Output) : Bool :=
  match outDrive s o, o.force with
  | some d, some f => d != f
  | _, _ => false

/-! ### The forced safe state (R69) -/

/-- R69: every pending hit discarded, every output inactive, every generator stopped, SAFE_STATE set. -/
def pteSafe (s : State) : State :=
  let s := (List.range 36).foldl (fun s o => updOut o (actClear s.time) (discardHits o s)) s
  updPte (fun p => { p with safeState := true, tgs := p.tgs.map fun g => { g with cfg := setBit g.cfg 0 false } }) s

end Sys2Proof.Machine
end

