-- ==== Sys2Proof/Machine/Sfi.lean ====
section
/-! DEFINITION. Sfi.lean: the safety island: trips, monitors, arming, escalation (19 R601-R616, R643). -/
namespace Sys2Proof.Machine

def updSfi (f : Sfi → Sfi) (s : State) : State := { s with sfi := f s.sfi }

/-- PD1 is on, and the SFI with it, except in SLEEP and DORMANT (R609, Table 18.2). -/
def sfiOn (s : State) : Bool := match s.pwr.state with | .sleep => false | .dormant => false | _ => true

/-- Log a cause (SFI_CAUSELOG, CAUSESEQ); causes are numbered from 0. -/
def sfiLog (code unit detail : Nat) (s : State) : State :=
  let e : CauseEntry := { code := BitVec.ofNat 8 code, unit := BitVec.ofNat 8 unit, detail := BitVec.ofNat 32 detail, time := s.time }
  updSfi (fun x => { x with causeSeq := satInc x.causeSeq, log := tabUpd x.log (x.causeSeq.toNat % 16) (fun _ => e) }) s

def causePower : Nat := 0x0E

/-- A trip (R613, R614): the cause is logged, a class A cause latches; from ARMING or ARMED the outputs and both SAFE balls
are forced, HOLD is entered with that cause (R608, DEDUCED, unsafe, log 64), TRIPS counts and alarm 0x1E is posted; in BOOT and HOLD only the log and CAUSESEQ change. -/
def trip (code unit detail : Nat) (classA : Bool) (s : State) : State :=
  let was := s.sfi.state
  let s := sfiLog code unit detail s
  let s := updSfi (fun x => { x with latchA := x.latchA || classA, powerOnly := x.powerOnly && code == causePower }) s
  match was with
  | .boot => updSfi (fun x => { x with cause := if x.cause = 0 then BitVec.ofNat 8 code else x.cause }) s
  | .hold => updSfi (fun x => { x with cause := if x.cause = 0 then BitVec.ofNat 8 code else x.cause }) s
  | _ =>
    let s := pteSafe s
    let s := updSfi (fun x => { x with
      state := .hold, cmdA := true, cmdB := true, trips := satInc x.trips
      cause := BitVec.ofNat 8 code, powerOnly := code == causePower }) s
    postAlarm 0x1E 0xFFFF code s

/-! ### Balls and SFI_MON -/

def safeAAsserted (s : State) : Bool := s.sfi.forceA.getD (s.sfi.cmdA || s.sfi.keeper)
def safeBAsserted (s : State) : Bool := s.sfi.forceB.getD (s.sfi.cmdB || s.sfi.keeper)

/-- SFI_MON: CLOCK, VOLTAGE, READBACK, SAFE_BALL as they stand, CONFIG and BRAID as the last diagnostics found them. -/
def sfiMon (s : State) : BitVec 6 :=
  let rb := (List.range 36).any fun o => outMismatch s (output s o)
  let sb := s.sfi.forceA.any (· != s.sfi.cmdA) || s.sfi.forceB.any (· != s.sfi.cmdB)
  BitVec.ofNat 6 (b2n (s.sfi.badClock != 0) + 2 * b2n (s.sfi.badRail != 0) + 4 * b2n rb + 8 * b2n sb
    + 16 * b2n (s.sfi.diag.any fun d => d.1 == 0x0A) + 32 * b2n (s.sfi.diag.any fun d => d.1 == 0x09))

/-! ### The safety configuration block -/

/-- Is output `o` a safety output of the applied SCB? -/
def safetyOut (s : State) (o : Nat) : Bool := match s.sfi.scb with | some c => c.safeOut.toNat.testBit o | none => false
/-- Is axis `a` a safety axis: some safety output's OUT_CFG.AXIS points to it. -/
def safetyAxis (s : State) (a : Nat) : Bool := (List.range 36).any fun o => safetyOut s o && outAxis (output s o) == a
/-- Has braid `b` REQUIRED = 1? -/
def requiredBraid (s : State) (b : Nat) : Bool :=
  match s.sfi.scb with | some c => (c.braids.toArray[b]?).any (·.required) | none => false
def braidRunning (s : State) (b : Nat) : Bool := (tabD s.ob.braids b {}).state == .running
def requiredRunning (s : State) : Bool := (List.range 16).all fun b => !requiredBraid s b || braidRunning s b

/-- ARMED or ARMING: changes of R616 are refused. -/
def sfiArmed (s : State) : Bool := s.sfi.state == .armed || s.sfi.state == .arming

/-- The SFI writes POL and SAFE of every output from LEVEL and sets CFG_LOCK (R604). -/
def applyLevels (c : Scb) (s : State) : State :=
  let s := (List.range 36).foldl (fun s o =>
    updOut o (fun x => { x with cfg := setFld x.cfg 2 0 ((tabD c.level o 0).toNat % 8), written := true }) s) s
  updPte (fun p => { p with cfgLock := true }) s

/-! ### Escalation (R615) -/

/-- Times of events inside the window: the current 1 ms bucket and the WINDOW - 1 buckets before it. -/
def inWindow (now : Nat) (window : Nat) (l : List W64) : List W64 :=
  l.filter fun t => decide (now / 1000000 < t.toNat / 1000000 + window)

/-- One counted event at `now` against a window and a limit; 0xFFFF disables the escalation. -/
def windowAdd (now : W64) (window lim : Nat) (l : List W64) : List W64 × Bool :=
  let l := inWindow now.toNat window (l ++ [now])
  (l, lim != 0xFFFF && decide (lim < l.length))

/-- A deadline miss of braid `b` counts toward DEADLINE_ESC while the SFI is ARMED. -/
def escMiss (b : Nat) (s : State) : State :=
  match s.sfi.state, s.sfi.scb with
  | .armed, some c =>
    match c.braids.toArray[b]? with
    | none => s
    | some m =>
      let (l, past) := windowAdd s.time m.window.toNat m.missLim.toNat (tabD s.sfi.misses b [])
      let s := updSfi (fun x => { x with misses := tabUpd x.misses b (fun _ => l) }) s
      if past then trip 0x07 b l.length false s else s
  | _, _ => s

/-- A late strand hit of braid `b` counts toward LATE_ESC. -/
def escLateBraid (b : Nat) (s : State) : State :=
  match s.sfi.state, s.sfi.scb with
  | .armed, some c =>
    match c.braids.toArray[b]? with
    | none => s
    | some m =>
      let (l, past) := windowAdd s.time m.window.toNat m.lateLim.toNat (tabD s.sfi.lates b [])
      let s := updSfi (fun x => { x with lates := tabUpd x.lates b (fun _ => l) }) s
      if past then trip 0x08 b l.length false s else s
  | _, _ => s

/-- A late hit on an output bound to axis `a` counts toward LATE_ESC with UNIT 16 + a. -/
def escLateAxis (a : Nat) (s : State) : State :=
  match s.sfi.state, s.sfi.scb with
  | .armed, some c =>
    match c.axes.toArray[a]? with
    | none => s
    | some m =>
      let (l, past) := windowAdd s.time m.window.toNat m.lateLim.toNat (tabD s.sfi.axLates a [])
      let s := updSfi (fun x => { x with axLates := tabUpd x.axLates a (fun _ => l) }) s
      if past then trip 0x08 (16 + a) l.length false s else s
  | _, _ => s

/-! ### Events -/

/-- READBACK_MISMATCH (R72, R610): a ball held against its output for 64 ns outside blanking. An output at high impedance
is not compared. -/
def execReadbackMismatch (o : Fin 36) (t : W64) (s : State) : Res :=
  let s := s.at t
  match outDrive s (output s o), sfiOn s with
  | some d, true =>
    let s := updOut o (fun x => { x with force := some (!d) }) s
    done (trip 0x04 o 0 false (pteAlarm 4 o s))
  | _, _ => done s

/-- SAFE_BALL (R610): SAFE_A_N or SAFE_B_N differs from its command for 200 ns. -/
def execSafeBall (chB : Bool) (t : W64) (s : State) : Res :=
  let s := s.at t
  if sfiOn s then
    let s := if chB then updSfi (fun x => { x with forceB := some (!x.cmdB) }) s else updSfi (fun x => { x with forceA := some (!x.cmdA) }) s
    done (trip 0x0F 0 0 false s)
  else done s

/-- LOCKSTEP_SFI (R602, R610): the two SFI cores differ: class A, and the pair halts. -/
def execLockstepSfi (t : W64) (s : State) : Res :=
  let s := s.at t
  if sfiOn s then done (trip 0x01 0 0 true (updSfi (fun x => { x with halted := true }) s)) else done s

/-- LOCKSTEP_PTE (R610): the duplicated action logic of an output differs: class A. -/
def execLockstepPte (o : Fin 36) (t : W64) (s : State) : Res :=
  let s := s.at t
  if sfiOn s then done (trip 0x02 o 0 true s) else done s

/-- CLOCK (R610, R657): a clock deviates beyond 2 % in two windows. -/
def execClock (c : Fin 4) (t : W64) (s : State) : Res :=
  let s := s.at t
  if sfiOn s then done (trip 0x05 c 0 false (updSfi (fun x => { x with badClock := setBit x.badClock c true }) s)) else done s

/-- VOLTAGE (R610, R658): a rail outside 5 % of nominal for 200 ns. -/
def execVoltage (rail : Fin 2) (t : W64) (s : State) : Res :=
  let s := s.at t
  if sfiOn s then done (trip 0x06 rail 0 false (updSfi (fun x => { x with badRail := setBit x.badRail rail true }) s)) else done s

/-- CLOCK_IN_RANGE (R614): the class B condition is gone. -/
def execClockInRange (c : Fin 4) (s : State) : Res := done (updSfi (fun x => { x with badClock := setBit x.badClock c false }) s)

/-- VOLTAGE_IN_RANGE (R614). -/
def execVoltageInRange (rail : Fin 2) (s : State) : Res := done (updSfi (fun x => { x with badRail := setBit x.badRail rail false }) s)

/-- BALL_LEVEL_RESTORED (R614): nothing holds the ball against its command any longer. -/
def execBallLevelRestored (b : MonBall) (s : State) : Res :=
  match b with
  | .out o => done (updOut o (fun x => { x with force := none }) s)
  | .safeA => done (updSfi (fun x => { x with forceA := none }) s)
  | .safeB => done (updSfi (fun x => { x with forceB := none }) s)

/-- What the configuration and required-braid diagnostics find now (Table 19.6): cause and unit. -/
def diagFind (s : State) : List (Byte × Byte) :=
  match s.sfi.scb with
  | none => []
  | some c =>
    let armed := s.sfi.state == .armed
    let mask : W32 := 0x278
    let lvl := (List.range 36).filter fun o =>
      fld (output s o).cfg 2 0 != (tabD c.level o 0).toNat % 8 ||
      (armed && c.safeOut.toNat.testBit o && (output s o).cfg &&& mask != (tabD s.sfi.armOut o 0) &&& mask)
    let axs := (List.range 8).filter fun a =>
      armed && (List.range 36).any (fun o => c.safeOut.toNat.testBit o && fld (tabD s.sfi.armOut o 0) 6 4 == a) &&
      (axis s a).cfg != tabD s.sfi.armAx a 0
    let req := (List.range 16).filter fun b => armed && requiredBraid s b && !braidRunning s b
    lvl.map (fun o => (0x0A, BitVec.ofNat 8 o)) ++ axs.map (fun a => (0x0A, BitVec.ofNat 8 (16 + a)))
      ++ req.map (fun b => (0x09, BitVec.ofNat 8 b))

/-- SOFTWARE_ASSISTED_DIAGNOSTICS (R611): a condition found afresh trips with its cause; a faulty RAM cell and an
uncorrectable hit entry are class A. -/
def execSoftwareAssistedDiagnostics (ramFault hitFault : Option W32) (t : W64) (s : State) : Res :=
  let s := s.at t
  if sfiOn s && !s.sfi.halted && s.sfi.state != .boot then
    let found := diagFind s
    let old := s.sfi.diag
    let s := updSfi (fun x => { x with diag := found }) s
    let s := (found.filter fun f => !old.contains f).foldl (fun s f => trip f.1.toNat f.2.toNat 0 false s) s
    let s := match ramFault with | some w => trip 0x0B 0 w.toNat true s | none => s
    done (match hitFault with | some w => trip 0x03 0 w.toNat true s | none => s)
  else done s

/-- Why ARMING may not start (R606). -/
def armBarred (s : State) : Bool :=
  s.sfi.state != .hold || s.sfi.latchA || s.sfi.halted || sfiMon s != 0 || !requiredRunning s

/-- ARMING refused after a failed ball check (R608): no trip; cause SAFE_BALL logged, ARM_REFUSED counted. -/
def armFail (s : State) : State :=
  let s := sfiLog 0x0F 0 0 s
  updSfi (fun x => { x with state := .hold, cmdA := true, cmdB := true, refused := satInc x.refused, cause := 0x0F, powerOnly := false }) s

/-- ARMING begins with both balls reading asserted (R608, step 1); it lasts until the block idles (DESIGN CHOICE, unsafe, log 58). -/
def arming (okA okB : Bool) (s : State) : State :=
  if safeAAsserted s && safeBAsserted s then updSfi (fun x => { x with state := .arming, armOk := (okA, okB) }) s
  else armFail s

/-- The rest of R608: the balls are released in turn and checked; the counts and SAFE_STATE clear; ARMED. -/
def armFinish (s : State) : State :=
  if s.sfi.state != .arming || !(sfiOn s) || s.sfi.halted then s
  else if !s.sfi.armOk.1 || !s.sfi.armOk.2 then armFail s
  else
    let s := updSfi (fun x => { x with
      state := .armed, cmdA := false, cmdB := false, forceA := none, forceB := none, arms := satInc x.arms, cause := 0, powerOnly := false
      misses := Vector.replicate 16 [], lates := Vector.replicate 16 [], axLates := Vector.replicate 8 []
      armAx := Vector.ofFn fun i => (axis s i.val).cfg
      armOut := Vector.ofFn fun i => (output s i.val).cfg }) s
    updPte (fun p => { p with safeState := false }) s

/-- SFI_ARM_N_FALLING_EDGE (R606): ARMING if its conditions hold, else ARM_REFUSED. `okA`, `okB`: the balls follow their
release within 10 µs. -/
def execSfiArmNFallingEdge (okA okB : Bool) (t : W64) (s : State) : Res :=
  let s := s.at t
  let s := updSfi (fun x => { x with armIn := true }) s
  if !(sfiOn s) then done s
  else if armBarred s then done (updSfi (fun x => { x with refused := satInc x.refused }) s)
  else done (arming okA okB s)

/-- DISARM (R609): a rising edge of debounced SFI_ARM_N trips an armed SFI. -/
def execDisarm (t : W64) (s : State) : Res :=
  let s := s.at t
  let s := updSfi (fun x => { x with armIn := false }) s
  if sfiArmed s && sfiOn s then done (trip 0x0D 0 0 false s) else done s

end Sys2Proof.Machine
end

