-- ==== Sys2Proof/Machine/Pte.lean ====
section
/-! DEFINITION. Pte.lean: the position timebase: hits, generators, edges, pulses and register writes (02). -/
namespace Sys2Proof.Machine

/-! ### Hit records (Table 2.2) -/

def hitOutput (r : HitRec) : Nat := fld r.dw2 5 0
def hitAction (r : HitRec) : Nat := fld r.dw2 8 6
def hitRev (r : HitRec) : Bool := bit r.dw2 9
def hitLate (r : HitRec) : Nat := fld r.dw2 11 10

/-- R62 but for R42: fields, width, output enabled, axis enabled. -/
def hitFormatOk (s : State) (r : HitRec) : Bool :=
  let o := output s (hitOutput r)
  decide (hitOutput r ≤ 35) && decide (hitAction r ≤ 2) && decide (hitLate r ≤ 2) && fld r.dw2 31 12 == 0 && r.rsv == 0 &&
  (if hitAction r = 2 then decide (4 ≤ r.width.toNat) else r.width == 0) &&
  outEn o && axEn (axis s (outAxis o))

/-- R42: a target exactly 2^47 counts away cannot be judged; every other target is nearer, the short way round. -/
def hitRangeOk (s : State) (r : HitRec) : Bool :=
  r.target - axPos (axis s (outAxis (output s (hitOutput r)))) s.now != 0x8000000000000000

/-- Pending hits of all lists (HITQ.USED). -/
def hitsUsed (s : State) : Nat := s.pte.outs.toList.foldl (fun n o => n + o.pend.length) 0

/-- An action performed by a hit: counted in OUT_FIRED, TAG to OUT_LASTTAG (R654). -/
def hitAct (code w : Nat) (tag : W32) (o : Nat) (s : State) : State :=
  updOut o (fun x => { act code w s.time x with fired := x.fired + 1, lasttag := tag }) s

/-- A pending hit fires (R53); on a barred PHASE output it is discarded and counted in DROPS (R60). -/
def fireHit (o : Nat) (h : PendHit) (s : State) : State :=
  let out := output s o
  if phaseBarred s out then countDrops (outAxis out) 1 s
  else hitAct h.action.toNat h.width.toNat h.tag o s

/-- Fire what is due on an output, in order of acceptance (R53, R54, R63). -/
def fireDue (o : Nat) (s : State) : State :=
  let out := output s o
  let p := axPos (axis s (outAxis out)) s.now
  let due := out.pend.filter fun h => reached h.rev p h.target
  if due.isEmpty then s
  else
    let s := updOut o (fun x => { x with pend := x.pend.filter fun h => !(reached h.rev p h.target) }) s
    due.foldl (fun s h => fireHit o h s) s

/-! ### Trigger generators (R73-R76) -/

/-- The next target (R74). -/
def tgTarget (g : TrigGen) : W64 :=
  if tgRev g then g.start - BitVec.ofNat 64 (g.k * g.pitch.toNat) else g.start + BitVec.ofNat 64 (g.k * g.pitch.toNat)

/-- Targets that the present position reaches: with PITCH 0 one, ever; never beyond TG_COUNT. -/
def tgReached (g : TrigGen) (p : W64) : Nat :=
  if !(reached (tgRev g) p (tgTarget g)) then 0
  else if g.pitch = 0 then (if g.k = 0 then 1 else 0)
  else
    let d := if tgRev g then sdiff (tgTarget g) p else sdiff p (tgTarget g)
    let n := d.toNat / g.pitch.toNat + 1
    if g.count = 0 then n else min n (g.count.toNat - g.k)

def updCam (p : Nat) (f : Cam → Cam) (s : State) : State := { s with gx := { s.gx with cams := tabUpd s.gx.cams p f } }
/-- A CAM_ALARM bit; each posts its code (Table 12.18). -/
def camAlarm (b p : Nat) (s : State) : State :=
  postAlarm (8 + b) p 0 (updCam p (fun c => { c with alarm := setBit c.alarm b true }) s)

/-- A stamp reaches a camera port's FIFO of 16; at a full FIFO it is discarded and counted (R327). -/
def camStamp (p : Nat) (st : Stamp) (s : State) : State :=
  let c := tabD s.gx.cams p {}
  if c.fifo.length < 16 then updCam p (fun c => { c with fifo := c.fifo ++ [st] }) s
  else camAlarm 3 p (updCam p (fun c => { c with cOvf := satInc c.cOvf }) s)

/-- A generator fires for the targets reached in this cycle: one PULSE, stamps, SEQ, SKIP; it stops at TG_COUNT (R73-R76).
A pulse on a barred PHASE output has no effect on it (R60); the generator still latches, advances SEQ and hands its stamp, for R75
ties these to the firing cycle (DESIGN CHOICE, unsafe, log 85). -/
def tgRun (g : Nat) (s : State) : State :=
  let x := tabD s.pte.tgs g {}
  let a := axis s (tgAxis x)
  let p := axPos a s.now
  let n := if tgEn x then tgReached x p else 0
  if n = 0 then s
  else
    let o := 32 + g
    let s := if phaseBarred s (output s o) then s
      else updOut o (fun y => { actPulse s.time (max x.width.toNat 4) y with fired := y.fired + 1 }) s
    let stop := x.count != 0 && decide (x.count.toNat ≤ x.k + n)
    let s := updTg g (fun x => { x with
      k := x.k + n, seq := x.seq + BitVec.ofNat 32 n, skip := satAdd x.skip (n - 1), lastpos := p, lasttime := s.time
      cfg := if stop then setBit x.cfg 0 false else x.cfg }) s
    if bit x.cfg 6 then
      camStamp (fld x.cfg 5 4) { pos := p, time := s.time, seq := x.seq + BitVec.ofNat 32 n,
                                 fine := a.mode == .fine || a.mode == .locked, rev := a.rev, axis := BitVec.ofNat 3 (tgAxis x) } s
    else s

/-- An axis has moved: hits on its outputs and its generators act in this cycle. -/
def settleAxis (a : Nat) (s : State) : State :=
  let s := (List.range 36).foldl (fun s o => if outAxis (output s o) = a then fireDue o s else s) s
  (List.range 4).foldl (fun s g => if tgAxis (tabD s.pte.tgs g {}) = a then tgRun g s else s) s

/-- Pulses whose end has come. -/
def endPulses (s : State) : State := updPte (fun p => { p with outs := p.outs.map (endPulse s.time) }) s

/-- One cycle of the timing clock: pulses end, due hits and generators fire. The PTE is off in SLEEP and DORMANT. -/
def pteTick (s : State) : State :=
  let s := { s with time := s.time + 1 }
  if sfiOn s then (List.range 8).foldl (fun s a => settleAxis a s) (endPulses s) else s

/-! ### The hit port (R64, R65, R68, R70) -/

/-- How the hit port answers a record. -/
inductive HitAns where
  | accepted
  | late
  | refused (st : Status)
  deriving DecidableEq, Repr

/-- A late hit takes its LATE policy (R68), or is dropped on a barred PHASE output (R60). -/
def lateHit (r : HitRec) (s : State) : State :=
  let o := hitOutput r
  let out := output s o
  let a := outAxis out
  let s := pteAlarm 5 a (updAxis a (fun x => { x with late := satInc x.late }) s)
  let s := if phaseBarred s out then countDrops a 1 s
    else match hitLate r with
      | 0 => hitAct (hitAction r) r.width.toNat r.tag o s
      | 1 => s
      | _ => match outDefact out with
        | 0 => s
        | 3 => hitAct 2 (max out.defw.toNat 4) r.tag o s
        | d => hitAct (d - 1) 0 r.tag o s
  escLateAxis a s

/-- A record arrives at the hit port: rejected (R62, R42), refused (R70, R65), late (R68) or queued (R64). -/
def hitArrive (r : HitRec) (s : State) : HitAns × State :=
  if !(hitFormatOk s r) then (.refused St.hitRecord, s)
  else if s.pte.safeState then (.refused St.safeStateActive, s)
  else if !(hitRangeOk s r) then (.refused St.hitRecord, s)
  else
    let o := hitOutput r
    let p := axPos (axis s (outAxis (output s o))) s.now
    if reached (hitRev r) p r.target then (.late, lateHit r s)
    else if 4096 ≤ hitsUsed s then
      (.refused St.hitQueueFull, pteAlarm 0 o (updPte (fun x => { x with hitrej := satInc x.hitrej }) s))
    else
      let h : PendHit := { target := r.target, rev := hitRev r, action := BitVec.ofNat 3 (hitAction r), width := r.width, tag := r.tag, seq := s.pte.nextSeq }
      let s := updOut o (fun x => { x with pend := x.pend ++ [h] }) s
      (.accepted, updPte (fun x => { x with nextSeq := x.nextSeq + 1, hitHigh := max x.hitHigh (hitsUsed s) }) s)

/-! ### Axis events -/

def oneCount (rev : Bool) (c : W64) : W64 := if rev then c - 0x10000 else c + 0x10000

/-- The return to coarse mode (R49, R51): the position holds where interpolation had brought it; counted in COARSE. The edges
and intervals seen stay: R50 asks for nine consecutive edges in one direction, wherever they began. -/
def toCoarse (now : Nat) (a : Axis) : Axis :=
  match a.mode with
  | .fine => { a with mode := .coarse, pos := axPos a now, coarseCnt := satInc a.coarseCnt }
  | _ => a

/-- The run of consecutive edges in one direction ends (R50): a change of direction, an input fault. -/
def breakRun (now : Nat) (a : Axis) : Axis := { toCoarse now a with ivals := [], lastT := none }

/-- The decoder (R46): the direction of a qualified change of A or B, none where it does not count. -/
def decodeEdge (dec : Nat) (oldA oldB newA newB inv : Bool) : Option Bool :=
  let d := if oldA != newA then
      (match dec with
       | 0 => some (newA == oldB)
       | 1 => some (newA == oldB)
       | 2 => if newA then some oldB else none
       | _ => if newA then some (!oldB) else none)
    else if oldB != newB then (if dec = 0 then some (newB != oldA) else none)
    else none
  d.map fun r => r != inv

/-- One counted edge at time `t` (R49-R52): its interval joins the run of R50, unless the direction changed. -/
def countEdge (rev : Bool) (t : W64) (a : Axis) : Axis :=
  let iv := t.toNat - (a.lastT.getD t).toNat
  let s8 := sumN a.ivals
  let wide := decide (3 * s8 < 16 * iv) || decide (16 * iv < s8)
  let a :=
    if a.rev != rev then breakRun t.toNat a
    else if a.lastT.isNone then a
    else
      let b := if wide then toCoarse t.toNat a else a
      { b with ivals := (iv :: b.ivals).take 8 }
  let c := oneCount rev a.c
  let a := { a with c := c, pos := c, te := t, lastT := some t, rev := rev }
  if a.mode == .coarse && encConsist a.ivals == 8 then { a with mode := .fine } else a

/-- QUALIFIED_EDGE (R45-R52): the levels of A and B now qualified at an axis. A transition that comes before the filter can have
passed it is none. Both changed at once is an input fault (R47). A disabled axis, or one of another source, only keeps the
levels. A transition that DECODE does not count is no edge of R50-R52: it restarts neither the stall time nor the run of
intervals (DEDUCED, unsafe, log 61). -/
def execQualifiedEdge (ax : Fin 8) (a b : Bool) (t : W64) (s : State) : Res :=
  let s := s.at t
  let x := axis s ax
  if !(edgeFiltered x a b s.time) then done s
  else
    let s := updAxis ax (noteEdge a b s.time) s
    if axSrc x != 0 || x.mode == .disabled then done s
    else if x.lvA != a && x.lvB != b then
      let s := updAxis ax (fun y => { breakRun s.now y with inputErr := satInc y.inputErr }) s
      done (settleAxis ax (pteAlarm 1 ax s))
    else match decodeEdge (axDecode x) x.lvA x.lvB a b (axInvert x) with
      | none => done s
      | some rev => done (settleAxis ax (updAxis ax (countEdge rev s.time) s))

/-- Z_EDGE (R48): the position of an encoder axis goes to AX_ZLATCH, enabled or not, and of an enabled one it is replaced with ZEN
by AX_ZLOAD: a disabled axis holds its position (R44). Between two rising edges lie two filter lengths (R45). An axis of another
source has no Z line (DESIGN CHOICE, unsafe, log 85). -/
def execZEdge (ax : Fin 8) (t : W64) (s : State) : Res :=
  let s := s.at t
  let x := axis s ax
  if axSrc x != 0 || !(filtered x 2 x.qZ s.time) then done s
  else
    let s := updAxis ax (fun y => { y with zlatch := axPos y s.now, qZ := some s.time }) s
    if axZen x && x.mode != .disabled then
      done (settleAxis ax (updAxis ax (fun y => { y with c := y.zload, pos := y.zload, base := y.zload, te := s.time }) s))
    else done s

/-- AX_STALL_EXPIRY (R51): AX_STALL nanoseconds without a qualified edge return an encoder axis to coarse mode. -/
def execAxStallExpiry (a : Fin 8) (t : W64) (s : State) : Res :=
  let s := s.at t
  let x := axis s a
  let due := match x.lastT with | some l => decide (l.toNat + x.stall.toNat ≤ s.now) | none => false
  if axSrc x == 0 && x.mode == .fine && due then
    done (settleAxis a (updAxis a (fun y => toCoarse s.now y) s))
  else done s

/-- Loss of lock (R57, R59): the position holds, LOCK_LOST is set, and PHASE outputs bound to the axis are cleared. -/
def unlockAxis (a : Nat) (s : State) : State :=
  let s := updAxis a (fun y => { y with mode := .coarse, pos := axPos y s.now, coarseCnt := satInc y.coarseCnt }) s
  let s := (List.range 36).foldl (fun s o =>
    let x := output s o
    if outAxis x = a && outPhase x then updOut o (actClear s.time) s else s) s
  pteAlarm 2 a s

/-- The cycle number of the next boundary above the position (R55, R57): the axis stands in cycle `k`, at its boundary or past it. -/
def nextCycle (a : Axis) : Nat := a.k + 1

/-- Is a pulse `per` ns after the last one too short (R55)? -/
def shortPulse (a : Axis) (per : Nat) : Bool :=
  match a.mode with
  | .locked => decide (8 * per < sumN a.ivals)
  | _ => match a.ivals.head? with | some p => decide (2 * per < p) | none => false

/-- Does a period lie outside 5 % of P (R59)? -/
def offPeriod (a : Axis) (per : Nat) : Bool :=
  let s4 := sumN a.ivals
  decide (21 * s4 < 80 * per) || decide (80 * per < 19 * s4)

/-- The edge that AX_CFG.EDGE selects: 0 rising, 1 falling (R55). -/
def mphSelects (a : Axis) (rise : Bool) : Bool := rise != bit a.cfg 9

/-- MAINS_PULSE (R55-R59): an edge of MPH, a filter length or more after the last (R45). On the edge that AX_CFG.EDGE selects a pulse has
qualified: it moves the axis to the next cycle boundary; four steady periods lock it from the next timing cycle. -/
def execMainsPulse (ax : Fin 8) (e : MphEdge) (s : State) : Res :=
  let s := s.at e.t
  let x := axis s ax
  if axSrc x != 1 || x.mode == .disabled || !(filtered x 1 x.qA s.time) then done s
  else
    let s := updAxis ax (fun y => { y with qA := some s.time }) s
    if !(mphSelects x e.rise) then done s else
    let per := x.lastT.map fun l => s.now - l.toNat
    if per.any (shortPulse x) then
      done (pteAlarm 1 ax (updAxis ax (fun y => { y with inputErr := satInc y.inputErr }) s))
    else
      let s := if x.mode == .locked && per.any (offPeriod x) then unlockAxis ax s else s
      let s := updAxis ax (fun y =>
        let k := nextCycle y
        { y with ivals := match per with | some p => (p :: y.ivals).take 4 | none => y.ivals
                 lastT := some s.time, k := k, pos := y.base + BitVec.ofNat 64 (k * axCpc y)
                 te := s.time - BitVec.ofNat 64 (fld y.moffs 19 0) }) s
      let s := settleAxis ax s
      done (updAxis ax (fun y => if y.mode == .coarse && mainsConsist y.ivals == 4 then { y with mode := .locked } else y) s)

/-- MAINS_PULSE_MISSING (R59): no pulse within 1.5 × P of the previous one. -/
def execMainsPulseMissing (a : Fin 8) (t : W64) (s : State) : Res :=
  let s := s.at t
  let x := axis s a
  let due := match x.lastT with | some l => decide (3 * sumN x.ivals ≤ 8 * (s.now - l.toNat)) | none => false
  if axSrc x == 1 && x.mode == .locked && due then done (settleAxis a (unlockAxis a s)) else done s

/-- HIT_FIRE (R53, R54): the hits due on an output fire. `bad`: the entry read before firing holds an uncorrectable error,
which trips the SFI with its index as DETAIL (HITQ_ECC, R610). -/
def execHitFire (o : Fin 36) (bad : Option W32) (t : W64) (s : State) : Res :=
  let s := s.at t
  match bad with
  | some e => done (trip 0x03 0 e.toNat true s)
  | none => done (fireDue o (endPulses s))

/-- PULSE_END (R66): an output returns to inactive in the cycle in which PTE time reaches U. -/
def execPulseEnd (o : Fin 36) (t : W64) (s : State) : Res :=
  let s := s.at t
  done (updOut o (endPulse s.time) s)

/-- TG_FIRE (R73-R76): a generator's axis has reached its next target. -/
def execTgFire (g : Fin 4) (t : W64) (s : State) : Res := done (tgRun g (endPulses (s.at t)))

/-- TG_COUNT_REACHED (R73): a generator that has reached TG_COUNT targets clears TG_CFG.EN; a pulse in progress ends at its
width. -/
def execTgCountReached (g : Fin 4) (s : State) : Res :=
  let x := tabD s.pte.tgs g {}
  if tgEn x && x.count != 0 && decide (x.count.toNat ≤ x.k) then done (updTg g (fun x => { x with cfg := setBit x.cfg 0 false }) s)
  else done s

/-! ### Configuration (R40, R44, R71, R77, R78, R439, R655) -/

/-- An ignored field write (CFG_WR_IGNORED). -/
def cfgIgnored (s : State) : State := pteAlarm 3 0xFFFF s

/-- The cycle boundary AX_ZLOAD + j x CPC at or below a position. -/
def cycleBase (a : Axis) (p : W64) : W64 := p - BitVec.ofInt 64 (sdiff p a.zload % (axCpc a : Int))

/-- Enabling an axis (R40): the position becomes AX_ZLOAD, or is kept with KEEP (R439); tracking starts afresh. With KEEP R439
names no base: the kept position is the base of an encoder or time axis, and a mains axis counts its cycles from the boundary
AX_ZLOAD + j x CPC at or below it (DESIGN CHOICE, unsafe, log 85). -/
def enableAxis (a : Nat) (keep : Bool) (s : State) : State :=
  let s := updAxis a (fun y =>
    let p := if keep then y.pos else y.zload
    let m := if axSrc y = 0 ∨ axSrc y = 1 then AxMode.coarse else AxMode.fine
    { y with cfg := setBit y.cfg 0 true, mode := m, pos := p, c := p, base := if axSrc y = 1 then cycleBase y p else p
             te := s.time, tEn := s.time, k := 0, lastT := none, ivals := [], rev := if axSrc y = 1 ∨ axSrc y = 2 then false else y.rev }) s
  settleAxis a s

/-- Disabling an axis (R44): its position holds; unless kept, its generators stop and its outputs' hits are discarded. -/
def disableAxis (a : Nat) (keep : Bool) (s : State) : State :=
  let s := updAxis a (fun y => { y with cfg := setBit y.cfg 0 false, pos := axPos y s.now, mode := .disabled, ivals := [], lastT := none }) s
  if keep then s
  else
    let s := (List.range 4).foldl (fun s g =>
      updTg g (fun x => if tgAxis x = a then { x with cfg := setBit x.cfg 0 false } else x) s) s
    (List.range 36).foldl (fun s o => if outAxis (output s o) = a then discardHits o s else s) s

/-- A write to AX_CFG (R77). -/
def writeAxCfg (a : Nat) (v : W32) (s : State) : State :=
  let x := axis s a
  let v := v &&& 0x3FF
  if axEn x then
    let s := if v ||| 1 != x.cfg then cfgIgnored s else s
    if bit v 0 then s else disableAxis a false s
  else
    let s := updAxis a (fun y => { y with cfg := setBit v 0 false }) s
    if bit v 0 then enableAxis a false s else s

/-- A write to another register of an axis: ignored while the axis is enabled (R77). -/
def writeAxReg (a : Nat) (changed : Axis → Bool) (f : Axis → Axis) (s : State) : State :=
  let x := axis s a
  if axEn x then (if changed x then cfgIgnored s else s) else updAxis a f s

/-- A write to OUT_CFG (R71, R77, R78). -/
def writeOutCfg (o : Nat) (v : W32) (s : State) : State :=
  let x := output s o
  let v := v &&& 0x3FF
  let lockLvl := s.pte.cfgLock
  let lockAx := !x.pend.isEmpty
  let v1 := if lockLvl then setFld v 2 0 (fld x.cfg 2 0) else v
  let v2 := if lockAx then setFld v1 6 4 (fld x.cfg 6 4) else v1
  let s := if v2 != v then cfgIgnored s else s
  let s := if outEn x && !(bit v2 9) then discardHits o s else s
  updOut o (fun y => { y with cfg := v2, written := true }) s

/-- A write to TG_CFG (R77, R655). Enabling starts from the first target. -/
def writeTgCfg (g : Nat) (v : W32) (s : State) : State :=
  let x := tabD s.pte.tgs g {}
  let v := v &&& 0xFF
  if tgEn x then
    let s := if v ||| 1 != x.cfg then cfgIgnored s else s
    if bit v 0 then s else updTg g (fun y => { y with cfg := setBit y.cfg 0 false }) s
  else if bit v 0 then
    if axEn (axis s (fld v 3 1)) then tgRun g (updTg g (fun y => { y with cfg := v, k := 0 }) s)
    else cfgIgnored (updTg g (fun y => { y with cfg := setBit v 0 false }) s)
  else updTg g (fun y => { y with cfg := v }) s

/-- A write to a generator's other registers: ignored while TG_CFG.EN = 1 (R77). -/
def writeTgReg (g : Nat) (changed : TrigGen → Bool) (f : TrigGen → TrigGen) (s : State) : State :=
  let x := tabD s.pte.tgs g {}
  if tgEn x then (if changed x then cfgIgnored s else s) else updTg g f s

/-- A whole 8-byte write of AX_ZLOAD: one write, so an ignored one is counted and posted once (R77, log 53). -/
def writeZload (a : Nat) (v : W64) (s : State) : State := writeAxReg a (fun x => x.zload != v) (fun x => { x with zload := v }) s

/-- A whole 8-byte write of TG_START, or of TG_PITCH: one write (R77, log 53). -/
def writeTgWide (g : Nat) (start : Bool) (v : W64) (s : State) : State :=
  if start then writeTgReg g (fun x => x.start != v) (fun x => { x with start := v }) s
  else writeTgReg g (fun x => x.pitch != v) (fun x => { x with pitch := v }) s

/-- A host-driven position (R43): taken while the axis is enabled and host-driven; DIR is the sign of the change. -/
def hostPos (a : Nat) (v : W64) (s : State) : State :=
  let x := axis s a
  if axEn x && axSrc x == 3 then
    settleAxis a (updAxis a (fun y => { y with pos := v, rev := if sdiff v y.pos = 0 then y.rev else decide (sdiff v y.pos < 0) }) s)
  else s

/-- A write to AX_HOSTPOS, whole, or by halves with the upper word last. The lower half is kept whatever EN and SRC are, and an upper
half alone completes with the lower half last written (DESIGN CHOICE, unsafe, log 85). -/
def writeHostpos (a : Nat) (half : HalfSel) (v : W64) (s : State) : State :=
  match half with
  | .whole => hostPos a v s
  | .lower => updAxis a (fun y => { y with hostLo := BitVec.ofNat 32 v.toNat }) s
  | .upper => hostPos a (BitVec.ofNat 64 ((axis s a).hostLo.toNat + 2 ^ 32 * (v.toNat % 2 ^ 32))) s

/-- AX_CFG_WRITE. -/
def execAxCfgWrite (a : Fin 8) (v : W32) (s : State) : Res := done (writeAxCfg a v s)
/-- OUT_CFG_WRITE. -/
def execOutCfgWrite (o : Fin 36) (v : W32) (s : State) : Res := done (writeOutCfg o v s)
/-- TG_CFG_WRITE. -/
def execTgCfgWrite (g : Fin 4) (v : W32) (s : State) : Res := done (writeTgCfg g v s)
/-- AX_HOSTPOS_WRITE (R43). -/
def execAxHostposWrite (a : Fin 8) (half : HalfSel) (v : W64) (s : State) : Res := done (writeHostpos a half v s)
/-- FLUSH: OUT_CTRL.FLUSH discards an output's pending hits, counted in DROPS. -/
def execFlush (o : Fin 36) (s : State) : Res := done (discardHits o s)
/-- CLEAR: OUT_CTRL.CLEAR performs CLEAR now (R66); it is not counted in OUT_FIRED (R654). -/
def execClear (o : Fin 36) (s : State) : Res := done (updOut o (actClear s.time) s)

/-! ### Registers -/

/-- OUT_STATUS; at high impedance BALL is the level held from outside, else a free value (R72, DESIGN CHOICE, safe, log 2). -/
def outStatus (o : Nat) (s : State) : W32 × State :=
  let x := output s o
  let base := b2n x.active + x.pend.length * 65536
  match x.force, outDrive s x with
  | some f, _ => (BitVec.ofNat 32 (base + 2 * b2n f), s)
  | none, some d => (BitVec.ofNat 32 (base + 2 * b2n d), s)
  | none, none =>
    let (v, s) := s.draw
    (BitVec.ofNat 32 (base + 2 * (v.toNat % 2)), s)

/-- A half of a 64-bit value. -/
def half64 (v : W64) (hi : Bool) : W32 := BitVec.ofNat 32 (if hi then v.toNat / 2 ^ 32 else v.toNat)

/-- The 32-bit word at PTE offset `off` (from BAR0 0x10_0000). -/
def pteRead (off : Nat) (s : State) : W32 × State :=
  if off < 0x1000 then
    (match off with
     | 0x0 => BitVec.ofNat 32 (b2n s.pte.safeState + 2 * b2n s.pte.cfgLock)
     | 0x8 => half64 s.time false
     | 0xC => half64 s.time true
     | 0x10 => BitVec.ofNat 32 (hitsUsed s + s.pte.hitHigh * 65536)
     | 0x14 => s.pte.alarm
     | 0x18 => s.pte.hitrej
     | _ => 0, s)
  else if off < 0x1800 then
    let a := axis s ((off - 0x1000) / 0x100)
    (match off % 0x100 with
     | 0x0 => a.cfg
     | 0x4 => a.filt
     | 0x8 => a.stall
     | 0xC => a.mains
     | 0x10 => half64 (axPos a s.now) false
     | 0x14 => half64 (axPos a s.now) true
     | 0x18 => axStatus a
     | 0x1C => axEst a
     | 0x20 => half64 a.zlatch false
     | 0x24 => half64 a.zlatch true
     | 0x28 => half64 a.zload false
     | 0x2C => half64 a.zload true
     | 0x30 => a.moffs
     | 0x34 => a.rate
     | 0x40 => a.late
     | 0x44 => a.inputErr
     | 0x48 => a.drops
     | 0x4C => a.coarseCnt
     | _ => 0, s)
  else if 0x2000 ≤ off ∧ off < 0x2480 then
    let o := (off - 0x2000) / 0x20
    let x := output s o
    match off % 0x20 with
    | 0x0 => (x.cfg, s)
    | 0x4 => (x.defw, s)
    | 0x8 => outStatus o s
    | 0x10 => (x.fired, s)
    | 0x14 => (x.lasttag, s)
    | _ => (0, s)
  else if 0x3000 ≤ off ∧ off < 0x3100 then
    let g := tabD s.pte.tgs ((off - 0x3000) / 0x40) {}
    (match off % 0x40 with
     | 0x0 => g.cfg
     | 0x4 => g.width
     | 0x8 => half64 g.start false
     | 0xC => half64 g.start true
     | 0x10 => half64 g.pitch false
     | 0x14 => half64 g.pitch true
     | 0x18 => g.count
     | 0x1C => g.seq
     | 0x20 => half64 g.lastpos false
     | 0x24 => half64 g.lastpos true
     | 0x28 => half64 g.lasttime false
     | 0x2C => half64 g.lasttime true
     | 0x30 => g.skip
     | _ => 0, s)
  else (0, s)

/-- A 64-bit value with one half replaced. -/
def setHalf (x : W64) (hi : Bool) (v : W32) : W64 := if hi then setFld x 63 32 v.toNat else setFld x 31 0 v.toNat

/-- A 32-bit write at PTE offset `off`. -/
def pteWrite (off : Nat) (v : W32) (s : State) : State :=
  if off < 0x1000 then
    (if off = 0x14 then updPte (fun p => { p with alarm := p.alarm &&& ~~~v }) s else s)
  else if off < 0x1800 then
    let a := (off - 0x1000) / 0x100
    match off % 0x100 with
    | 0x0 => writeAxCfg a v s
    | 0x4 => writeAxReg a (fun x => x.filt != v &&& 0xFF) (fun x => { x with filt := v &&& 0xFF }) s
    | 0x8 => writeAxReg a (fun x => x.stall != v) (fun x => { x with stall := v }) s
    | 0xC => writeAxReg a (fun x => x.mains != v &&& 0xFFFF) (fun x => { x with mains := v &&& 0xFFFF }) s
    | 0x28 => writeAxReg a (fun x => half64 x.zload false != v) (fun x => { x with zload := setHalf x.zload false v }) s
    | 0x2C => writeAxReg a (fun x => half64 x.zload true != v) (fun x => { x with zload := setHalf x.zload true v }) s
    | 0x30 => writeAxReg a (fun x => x.moffs != v &&& 0xFFFFF) (fun x => { x with moffs := v &&& 0xFFFFF }) s
    | 0x34 => writeAxReg a (fun x => x.rate != v) (fun x => { x with rate := v }) s
    | 0x38 => writeHostpos a .lower (BitVec.ofNat 64 v.toNat) s
    | 0x3C => writeHostpos a .upper (BitVec.ofNat 64 v.toNat) s
    | _ => s
  else if 0x2000 ≤ off ∧ off < 0x2480 then
    let o := (off - 0x2000) / 0x20
    match off % 0x20 with
    | 0x0 => writeOutCfg o v s
    | 0x4 => updOut o (fun x => { x with defw := v }) s
    | 0xC =>
      let s := if bit v 0 then discardHits o s else s
      if bit v 1 then updOut o (actClear s.time) s else s
    | _ => s
  else if 0x3000 ≤ off ∧ off < 0x3100 then
    let g := (off - 0x3000) / 0x40
    match off % 0x40 with
    | 0x0 => writeTgCfg g v s
    | 0x4 => writeTgReg g (fun x => x.width != v) (fun x => { x with width := v }) s
    | 0x8 => writeTgReg g (fun x => half64 x.start false != v) (fun x => { x with start := setHalf x.start false v }) s
    | 0xC => writeTgReg g (fun x => half64 x.start true != v) (fun x => { x with start := setHalf x.start true v }) s
    | 0x10 => writeTgReg g (fun x => half64 x.pitch false != v) (fun x => { x with pitch := setHalf x.pitch false v }) s
    | 0x14 => writeTgReg g (fun x => half64 x.pitch true != v) (fun x => { x with pitch := setHalf x.pitch true v }) s
    | 0x18 => writeTgReg g (fun x => x.count != v) (fun x => { x with count := v }) s
    | _ => s
  else s

/-- Offsets of the lower words of the 64-bit registers that can be read. -/
def pteWide (off : Nat) : Bool :=
  off == 0x8 ||
  (decide (0x1000 ≤ off ∧ off < 0x1800) && ([0x10, 0x20, 0x28] : List Nat).contains (off % 0x100)) ||
  (decide (0x3000 ≤ off ∧ off < 0x3100) && ([0x8, 0x10, 0x20, 0x28] : List Nat).contains (off % 0x40))

/-- A 32-bit read (R79): the lower word of a 64-bit register latches its upper word for the next read of that word. -/
def pteRead32 (off : Nat) (s : State) : W32 × State :=
  match pairGet s.pte.latch off with
  | some v => (v, updPte (fun p => { p with latch := pairPut p.latch off none }) s)
  | none =>
    let (lo, s) := pteRead off s
    if pteWide off then
      let (hi, s) := pteRead (off + 4) s
      (lo, updPte (fun p => { p with latch := pairPut p.latch (off + 4) (some hi) }) s)
    else (lo, s)

/-- LOWER_WORD_READ (R79). -/
def execLowerWordRead (off : W32) (s : State) : Res :=
  if pteWide off.toNat then
    let (v, s) := pteRead32 off.toNat s
    done { s with readData := BitVec.ofNat 64 v.toNat }
  else done s

end Sys2Proof.Machine
end

