-- ==== Sys2Proof/Machine/Remote.lean ====
section
/-! DEFINITION. Remote.lean: routes over the domain's torus and what a link event does (17). -/
namespace Sys2Proof.Machine

/-- Width and height of the torus (Table 17.1). -/
def torus (size : Nat) : Nat × Nat :=
  if size ≤ 1 then (1, 1) else if size = 2 then (2, 1) else if size = 4 then (2, 2) else if size = 8 then (4, 2) else (4, 4)

/-- The direction in one dimension (R565, R566): false east or south, true west or north; a tie goes east or south, and in
a dimension of size 2 bit 12 of the address picks the link. -/
def hopBack (n from' to' : Nat) (bit12 : Bool) : Bool :=
  let d := (to' + n - from') % n
  if n = 2 then bit12 else decide (n < 2 * d)

/-- First-hop link from device `me` to device `dev` (R566): first along x, then along y; none to itself. -/
def firstLink (size me dev : Nat) (bit12 : Bool) : Option Nat :=
  let (w, h) := torus size
  let x := me % w
  let y := me / w
  let xd := dev % w
  let yd := dev / w
  if x ≠ xd then some (if hopBack w x xd bit12 then 1 else 0)
  else if y ≠ yd then some (if hopBack h y yd bit12 then 3 else 2)
  else none

/-- Links that the domain's shape uses on each device (Table 17.1). -/
def linksUsed (size : Nat) : List Nat := if size ≤ 1 then [] else if size = 2 then [0, 1] else [0, 1, 2, 3]

/-- The neighbour expected at the other end of link `k` (R565): HL0 east, HL1 west, HL2 south, HL3 north. -/
def neighbour (size me k : Nat) : Nat :=
  let (w, h) := torus size
  let x := me % w
  let y := me / w
  match k with
  | 0 => (x + 1) % w + w * y
  | 1 => (x + w - 1) % w + w * y
  | 2 => x + w * ((y + 1) % h)
  | _ => x + w * ((y + h - 1) % h)

/-- The first-hop link of an access to device `dev` at byte offset `off` of its page, if it is up. -/
def remoteLink (s : State) (dev : Nat) (off : Nat) : Option Nat :=
  if !s.dom.member then none else
  match firstLink s.dom.size.toNat s.dom.id.toNat dev (off.testBit 12) with
  | none => none
  | some k => if (tabD s.links k {}).up then some k else none

/-- The link an access would take, up or not, for counting (R570, R572). -/
def routeLink (s : State) (dev off : Nat) : Nat :=
  (firstLink s.dom.size.toNat s.dom.id.toNat dev (off.testBit 12)).getD 0

def updLink (k : Nat) (f : Link → Link) (s : State) : State := { s with links := tabUpd s.links k f }

/-- The link event of R561: an HL_ALARM bit, ICN source 14 + k and alarm 0x1D with UNIT k. -/
def linkEvent (k : Nat) (b : Nat) (s : State) : State :=
  postAlarm 0x1D k 0 (icnPulse (14 + k) (updLink k (fun l => { l with alarm := setBit l.alarm b true }) s))

/-- R570: one more in TIMEOUTS of the first-hop link, HL_ALARM.TIMEOUT and the link event. -/
def linkTimeout (k : Nat) (s : State) : State :=
  linkEvent k 4 (updLink k (fun l => { l with timeouts := satInc l.timeouts }) s)

/-- R571, R572: one more in DROPPED, HL_ALARM.DROP and the link event. -/
def linkDrop (k : Nat) (s : State) : State :=
  linkEvent k 5 (updLink k (fun l => { l with dropped := satInc l.dropped }) s)

/-- Half nanoseconds that a 72-byte flit takes: 4 GB/s a lane (R559; DESIGN CHOICE, unsafe, log 94). -/
def flitHalf (l : Link) : Nat := 36 / max l.width.toNat 1

/-- Send the flits whose turn has come by the time `now`, in half nanoseconds: the next one at each flit boundary. -/
def sendFlits (now : Nat) : Nat → Link → Link
  | 0, l => l
  | n + 1, l => match l.txq with
    | [] => l
    | _ :: r => if l.busy ≤ now then sendFlits now n { l with txq := r, txflits := l.txflits + 1, replayBuf := l.replayBuf + 1, busy := l.busy + flitHalf l } else l

/-- A link as it stands at a time. -/
def linkNow (t : W64) (l : Link) : Link := sendFlits (2 * t.toNat) l.txq.length l

/-- A waiting GLOBAL flit goes ahead of every DATA flit (R560). -/
def queueFlit (c : FlitClass) (q : List FlitClass) : List FlitClass :=
  match c with
  | .data => q ++ [.data]
  | .global => q.filter (· == .global) ++ .global :: q.filter (· == .data)

/-- A non-idle flit is handed to link `k`: an idle link sends it at once, else it waits for a flit boundary. -/
def linkSend (k : Nat) (c : FlitClass) (s : State) : State :=
  updLink k (fun l =>
    let l := linkNow s.time l
    linkNow s.time { l with txq := queueFlit c l.txq, busy := if l.txq.isEmpty then max l.busy (2 * s.now) else l.busy }) s
def linkTx (k : Nat) (s : State) : State := linkSend k .data s
/-- Barrier, broadcast control, snapshot and reset messages. -/
def linkGlobal (k : Nat) (s : State) : State := linkSend k .global s

/-- A GLOBAL message leaves on every link of the domain's shape that is up: the control of a broadcast or a snapshot (R560). -/
def toMembers (s : State) : State := (linksUsed s.dom.size.toNat).foldl (fun s k => if (tabD s.links k {}).up then linkGlobal k s else s) s

/-- DEGRADED is recomputed (R567): a link that the domain's shape requires is down. -/
def recomputeDegraded (s : State) : State :=
  let down := s.dom.member && (linksUsed s.dom.size.toNat).any fun k => !(tabD s.links k {}).up
  { s with dom := { s.dom with degraded := down } }

end Sys2Proof.Machine
end

