-- ==== Sys2Proof/Machine/Xlate.lean ====
section
/-! DEFINITION. Xlate.lean: address translation, faults, fault records and the fault queue (14). -/
namespace Sys2Proof.Machine

/-! ### Entries (Tables 14.1-14.3) -/

/-- Is a directory entry treated as invalid (R479)? -/
def dirBad (e : W64) : Bool := fld e 14 4 != 0 || fld e 63 35 != 0 || fld e 3 2 == 3
/-- Is a leaf entry treated as invalid (R480)? -/
def leafBad (e : W64) : Bool :=
  fld e 15 14 != 0 || fld e 63 44 != 0 || fld e 11 10 == 3 || fld e 13 12 == 3 || (fld e 6 3 != 0 && fld e 2 1 != 3)

def leafTgt (e : W64) : Nat := fld e 2 1
def leafFrame (e : W64) : Nat := fld e 43 16
def leafClass (e : W64) : Nat := fld e 13 12

/-- The place of page offset `o` under a valid leaf entry (Table 14.3). -/
def leafPlace (e : W64) (o : Nat) : Place :=
  match leafTgt e with
  | 0 => .peat (leafFrame e * 65536 + o)
  | 1 => .lpddr (leafFrame e * 65536 + o)
  | 2 => .host (leafFrame e * 65536 + o)
  | _ => .remote (fin' 15 (fld e 6 3)) (BitVec.ofNat 28 (leafFrame e)) (BitVec.ofNat 16 o)

/-- Has an entry the permission for an access (R481)? -/
def leafAllows (e : W64) (k : Access) : Bool :=
  let r := bit e 7
  let w := bit e 8
  let x := bit e 9
  match k with
  | .load => r
  | .store => w
  | .atomic => r && w
  | .exec => r && x

/-- Does a device-physical range lie in the Peat regions or the carve-out of a partition (R483)? -/
def inArea (s : State) (p : Partition) (lp : Bool) (a n : Nat) : Bool :=
  if lp then decide (p.lpBase.toNat ≤ a) && decide (a + n ≤ p.lpBase.toNat + p.lpSize.toNat)
  else decide (a + n ≤ peatBytes s.part) && p.peat.toNat.testBit (a / regionBytes)
    && p.peat.toNat.testBit ((a + n - 1) / regionBytes)
def inPartition (s : State) (part : Nat) (lp : Bool) (a n : Nat) : Bool := inArea s (tabD s.ex.parts part {}) lp a n

/-- What translating one access finds: a place with its entry, or a fault with KIND, class applied, FLAGS.DIRECTORY and
the entry read. -/
inductive XlOut where
  | ok (entry : W64) (pl : Place)
  | fault (kind cls : Nat) (dir : Bool) (entry : W64)
  deriving DecidableEq, Repr

def tlbFind (l : List TlbEntry) (c page : Nat) : Option W64 :=
  (l.find? fun e => e.ctx.val == c && e.page == page).map (·.entry)

/-- One 8-byte read of a walk in a partition (R483): whether it may be used, which one outside the partition or of a poisoned word may not;
and the word read. -/
def areaRead (p : Partition) (lp : Bool) (a : Nat) (s : State) : (Bool × W64) × State :=
  if inArea s p lp a 8 then
    let (bs, s) := readDev lp a 8 s
    ((!(anyPoison bs), BitVec.ofNat 64 (leVal (dataOf bs))), s)
  else ((false, 0), s)
def walkRead (part : Nat) (lp : Bool) (a : Nat) (s : State) : (Bool × W64) × State := areaRead (tabD s.ex.parts part {}) lp a s

/-- A valid leaf entry of target 0 or 1 names a frame inside the partition (R483). -/
def leafInside (s : State) (part : Nat) (e : W64) : Bool :=
  match leafTgt e with
  | 0 => inPartition s part false (leafFrame e * 65536) 65536
  | 1 => inPartition s part true (leafFrame e * 65536) 65536
  | _ => true

def xlUpd (f : Xlu → Xlu) (s : State) : State := { s with mm := { s.mm with xl := f s.mm.xl } }

/-- The directory entry for a VA: from the directory cache, else read and, when valid, cached (R482, R487); whether its read may be used
(R483). -/
def dirEntry (c part : Nat) (va : Nat) (s : State) : (Bool × W64) × State :=
  let d := va / 2 ^ 28
  match tlbFind s.mm.xl.dirs c d with
  | some e => ((true, e), s)
  | none =>
    let root := (tabD s.ex.ctxs c {}).root
    let (x, s) := walkRead part (bit root 35) (fld root 34 0 + 8 * d) s
    (x, if x.1 && bit x.2 0 && !dirBad x.2 then xlUpd (fun y => { y with dirs := y.dirs ++ [{ ctx := fin' 63 c, page := d, entry := x.2 }] }) s else s)

/-- A walk (R479-R483): it reads the directory entry and the leaf entry and fills the caches with a valid entry. -/
def walk (c va : Nat) (k : Access) (s : State) : XlOut × State :=
  let part := (tabD s.ex.ctxs c {}).part.val
  let s := xlUpd (fun x => { x with walks := x.walks + 1 }) s
  match dirEntry c part va s with
  | ((false, d), s) => (.fault 2 1 true d, s)
  | ((true, d), s) =>
    if dirBad d then (.fault 0 1 true d, s)
    else if !bit d 0 then (.fault 0 (fld d 3 2) true d, s)
    else
      match walkRead part (bit d 1) (fld d 34 15 * 32768 + 8 * (va / 65536 % 4096)) s with
      | ((false, e), s) => (.fault 2 1 false e, s)
      | ((true, e), s) =>
        if leafBad e then (.fault 0 1 false e, s)
        else if !bit e 0 then (.fault 0 (leafClass e) false e, s)
        else if !leafInside s part e then (.fault 1 1 false e, s)
        else
          let s := xlUpd (fun x => { x with tlb := x.tlb ++ [{ ctx := fin' 63 c, page := va / 65536, entry := e }] }) s
          if leafAllows e k then (.ok e (leafPlace e (va % 65536)), s) else (.fault 1 (leafClass e) false e, s)

/-- The knot area (R206, R354; DESIGN CHOICE, unsafe, log 20): one 64 KiB page of every context's address space, on the highest Peat frame. -/
def knotPage : Nat := 0xFFFFF0
def knotFrame (s : State) : Nat := peatBytes s.part / 65536 - 1
/-- KNOTBASE of braid `b`, as a virtual address and as a Peat address. -/
def knotBaseVa (b : Nat) : Nat := knotPage * 65536 + b * 4096
def knotBasePeat (b : Nat) (s : State) : Nat := knotFrame s * 65536 + b * 4096
def knotEntry (s : State) : W64 := BitVec.ofNat 64 (knotFrame s * 65536 + 0x581)

/-- The other member of the domain on which a braid's channel `c` is consumed (R237). -/
def chanPeer (s : State) (x : Braid) (c : Nat) : Option Nat :=
  match x.strands.find? (fun t => (t.io.take 2).any (·.toNat == c)) with
  | none => none
  | some t => let d := t.dev.toNat; if !s.dom.member || d == 0xFF || d == s.dom.id.toNat then none else some d

/-- Where the knot at offset `off` of braid `b`'s own area lies: a channel's two knots in the knot area of its consumer's device
(R237), the rest here. A member keeps the knots of member `i`'s braids on the `i`-th frame below its own (DESIGN CHOICE, unsafe, log 20). -/
def knotPl (b off : Nat) (s : State) : Place :=
  match (if off < 0x400 then chanPeer s (tabD s.ob.braids b {}) (off / 16) else none) with
  | some d => .remote (fin' 15 d) (BitVec.ofNat 28 (knotFrame s - 1 - s.dom.id.toNat)) (BitVec.ofNat 16 (b * 4096 + off))
  | none => .peat (knotBasePeat b s + off)

/-- The device's own entry for an offset of the knot area. -/
def knotEntryAt (o : Nat) (s : State) : W64 :=
  match knotPl (o / 4096) (o % 4096) s with
  | .remote d f _ => BitVec.ofNat 64 (f.toNat * 65536 + 0x587 + 8 * d.val)
  | _ => knotEntry s

/-- Frames of this device's knot area that hold the knots of other members' braids (R237). -/
def guestKnots (s : State) (a : Nat) : Bool := let f := a / 65536; s.dom.member && decide (knotFrame s ≤ f + 16) && decide (f < knotFrame s)

/-- Translate one access of context `c` (R475, R476, R487): the cached entry, else a walk. -/
def translate (c va : Nat) (k : Access) (s : State) : XlOut × State :=
  if 2 ^ 40 ≤ va then (.fault 3 1 false 0, s)
  else if va / 65536 = knotPage then
    let e := knotEntryAt (va % 65536) s
    if leafAllows e k then (.ok e (leafPlace e (va % 65536)), s) else (.fault 1 1 false e, s)
  else match tlbFind s.mm.xl.tlb c (va / 65536) with
    | some e =>
      if leafAllows e k then (.ok e (leafPlace e (va % 65536)), s) else (.fault 1 (leafClass e) false e, s)
    | none => walk c va k s

/-- Where a page is mapped, whatever its permissions. -/
def mapped (c va : Nat) (s : State) : Option Place × State :=
  match translate c va .load s with
  | (.ok _ pl, s) => (some pl, s)
  | (.fault 1 _ false e, s) =>
    (if va / 65536 = knotPage || leafInside s (tabD s.ex.ctxs c {}).part.val e then some (leafPlace e (va % 65536)) else none, s)
  | (_, s) => (none, s)

/-! ### Fault records (R492-R497) -/

/-- Records of the fault queue: log2 of its size; values outside 10-16 act as 10. -/
def fqSize (x : Xlu) : Nat := let n := fld x.fqcfg 4 0; if 10 ≤ n ∧ n ≤ 16 then n else 10
/-- Room for a record (R495). -/
def fqRoom (x : Xlu) : Bool := bit x.fqbase 0 && decide ((x.tail - x.head).toNat < 2 ^ fqSize x)

/-- Post a record (R492, R494): its SEQ is the count of records posted, itself included. -/
def fqPost (words : List W64) (s : State) : State :=
  let x := s.mm.xl
  let seq := x.seq + 1
  let rec' := (words.take 6 ++ [seq, 0])
  let a := fld x.fqbase 63 12 * 4096 + 64 * (x.tail.toNat % 2 ^ fqSize x)
  let s := hostWrite 0 a (rec'.flatMap fun w => leBytes 8 w.toNat) s
  let s := xlUpd (fun x => { x with tail := x.tail + 1, seq := seq }) s
  { s with hi := { s.hi with faults := s.hi.faults + 1 } }

/-- Who asks for an access: the requester that waits under STALL (none for requests that never wait, R491), the engine
with an ID, and the queue of a CMP request. -/
structure Rq where
  who : Option Requester := none
  eng : Option Nat := none
  queue : Option Nat := none
  deriving DecidableEq, Repr

/-- The words of a fault record but for SEQ (Table 14.6). -/
def faultWords (id kind cls c va : Nat) (info dir : Bool) (k : Access) (rq : Rq) (entry : W64) (t : W64) : List W64 :=
  let flags := b2n info + 2 * b2n (k == .store) + 4 * b2n (k == .exec) + 8 * b2n (k == .atomic) + 16 * b2n dir
  let w0 := id + kind * 2 ^ 16 + flags * 2 ^ 24 + (rq.queue.getD 0xFFFF) * 2 ^ 32 + cls * 2 ^ 48 + c * 2 ^ 56
  let req := match rq.eng with | some e => 2 ^ e | none => 0
  [BitVec.ofNat 64 w0, BitVec.ofNat 64 va, BitVec.ofNat 64 req, BitVec.ofNat 64 (2 ^ c), entry, t]

/-- An information record of a FAIL fault: posted if there is room, else counted in INFO_LOST (Table 14.5, R496). -/
def fqInfo (words : List W64) (s : State) : State :=
  if fqRoom s.mm.xl then fqPost words s else xlUpd (fun x => { x with infoLost := satInc x.infoLost }) s

/-- The answer to an access. -/
inductive XlAns where
  | ok (pl : Place)
  | zero
  | fail (st : Status)
  | stall
  deriving DecidableEq, Repr

/-- Is a miss of a requester waiting for FAULT_RESUME, or for a pending-miss entry (R488, R490)? -/
def stalls (p : Requester → Bool) (s : State) : Bool := s.mm.xl.pmt.any (fun e => e.reqs.any fun r => p r.who) || s.mm.xl.missq.any fun r => p r.who

/-- The lowest pending-miss index not in use. -/
def pmtFree (l : List PmtEntry) : Option Nat := (List.range 256).find? fun i => !(l.any fun e => e.idx == i)

/-- A request joins the entry of its page (R488, R493). -/
def pmtJoin (r : PmtReq) (s : State) : State :=
  xlUpd (fun x => { x with pmt := updWhere (fun e => e.page == r.va / 65536) (fun e =>
    if e.reqs.any (fun y => y.who == r.who && y.ctx == r.ctx) then e else { e with reqs := e.reqs ++ [r] }) x.pmt }) s

/-- A miss that finds no free entry waits at its source, behind those that wait already (R488). -/
def missWait (r : PmtReq) (s : State) : State :=
  xlUpd (fun x => { x with missq := if x.missq.any (fun y => y.who == r.who && y.ctx == r.ctx) then x.missq else x.missq ++ [r] }) s

/-- Is there an entry for a miss: 8 of the 256 are kept for cameras and the CMX, whose requests never wait (R488, R491)? -/
def pmtRoom (s : State) : Bool := decide (s.mm.xl.pmt.length < 248)

/-- A fault under STALL (R488, R493, R496): the requester joins the page's entry, or a new entry posts a record, or keeps it waiting for
room; with no entry free the miss waits at its source. -/
def stallFault (kind : Nat) (dir : Bool) (entry : W64) (queue : Option Nat) (r : PmtReq) (s : State) : State :=
  let page := r.va / 65536
  if s.mm.xl.pmt.any (fun e => e.page == page) then pmtJoin r s
  else match (if pmtRoom s then pmtFree s.mm.xl.pmt else none) with
    | none => missWait r s
    | some i =>
      let gen := (pairGet s.mm.xl.gens i).getD 0
      let id := i + 256 * gen.toNat
      let ws := faultWords id kind 0 r.ctx r.va false dir r.kind { who := some r.who, eng := r.eng.map (·.val), queue := queue } entry s.time
      let room := fqRoom s.mm.xl && s.mm.xl.pmt.all (·.posted)
      let e : PmtEntry := { idx := i, gen := gen, page := page, reqs := [r], recId := BitVec.ofNat 16 id, words := ws, posted := room }
      let s := xlUpd (fun x => { x with pmt := x.pmt ++ [e] }) s
      if room then fqPost ws s
      else postAlarm 0x18 0xFFFF 0 (xlUpd (fun x => { x with waits := satInc x.waits, fqWaited := true }) s)

/-- Must a miss wait before its walk: for the fault that its page's entry holds, which it joins, or behind misses that wait for an entry
(R488, R493)? -/
def missAhead (r : PmtReq) (s : State) : Option State :=
  if 2 ^ 40 ≤ r.va || r.va / 65536 == knotPage || (tlbFind s.mm.xl.tlb r.ctx (r.va / 65536)).isSome then none
  else if s.mm.xl.pmt.any (fun e => e.page == r.va / 65536) then some (pmtJoin r s)
  else if !(pmtRoom s) || !s.mm.xl.missq.isEmpty then some (missWait r s)
  else none

/-- The status of a FAIL fault (Table 14.5). -/
def failStatus (kind : Nat) : Status := if kind = 1 then St.xlPermission else St.xlUnmapped

/-- The queue that a fault record names (Table 14.6). -/
def recQueue (w0 : W64) : Option Nat := if fld w0 47 32 = 0xFFFF then none else some (fld w0 47 32)

/-- Engines whose requests never wait for a reply (R491): CMX, the cameras, the Wisp. -/
def neverWaits (e : Nat) : Bool := e == 33 || decide (35 ≤ e ∧ e ≤ 38) || e == 45

/-- The answer of a translation that has been made (Table 14.5, R489-R491). -/
def xlAnswer (c va : Nat) (k : Access) (rq : Rq) (x : XlOut × State) : XlAns × State :=
  match x with
  | (.ok _ pl, s) => (.ok pl, s)
  | (.fault kind cls dir entry, s) =>
    let info := fqInfo (faultWords 0xFFFF kind 1 c va true dir k rq entry s.time)
    match (if rq.who.isNone && rq.eng.any neverWaits then 1 else cls), rq.who with
    | 0, some who => (.stall, stallFault kind dir entry rq.queue { who := who, ctx := fin' 63 c, eng := rq.eng.map (fin' 45), va := va, kind := k } s)
    | 2, _ => (.zero, xlUpd (fun x => { x with zeroed := satInc x.zeroed }) s)
    | _, _ => (.fail (failStatus kind), info s)

/-- An access of context `c` at `va` (Table 14.5, R488-R493). A request that never waits (R491) makes its own walk. -/
def xl (c va : Nat) (k : Access) (rq : Rq) (s : State) : XlAns × State :=
  match rq.who.bind fun who => missAhead { who := who, ctx := fin' 63 c, eng := rq.eng.map (fin' 45), va := va, kind := k } s with
  | some s => (.stall, s)
  | none => xlAnswer c va k rq (translate c va k s)

/-! ### Ranges of virtual addresses -/

/-- A range cut at page boundaries: address and length of each piece. -/
def pieces : Nat → Nat → Nat → List (Nat × Nat)
  | 0, _, _ => []
  | f + 1, va, n =>
    if n = 0 then [] else
    let k := min n (65536 - va % 65536)
    (va, k) :: pieces f (va + k) (n - k)

def pagePieces (va n : Nat) : List (Nat × Nat) := pieces (n / 65536 + 2) va n

/-- How a ranged access ended. -/
inductive VaAns where
  | ok
  | fail (st : Status)
  | stall
  deriving DecidableEq, Repr

/-- Function of a context. -/
def ctxFn (s : State) (c : Nat) : Nat := (tabD s.ex.ctxs c {}).fn.val

/-- Is a place on another device whose route is down (R572)? -/
def routeDown (s : State) (pl : Place) : Bool :=
  match pl with
  | .remote d _ o => (remoteLink s d.val o.toNat).isNone
  | _ => false

def remoteDev (pl : Place) : Option (Nat × Nat) :=
  match pl with
  | .remote d _ o => some (d.val, o.toNat)
  | _ => none

/-! ### The far-read cache of a core (03 R123, R126, R130) -/

/-- Bytes of a line (DESIGN CHOICE, unsafe, log 91). -/
def farBytes : Nat := 64

/-- The line of a place, and the offset in it. -/
def farLine (pl : Place) : Place × Nat :=
  match pl with
  | .peat a => (.peat (a - a % farBytes), a % farBytes)
  | .lpddr a => (.lpddr (a - a % farBytes), a % farBytes)
  | .host a => (.host (a - a % farBytes), a % farBytes)
  | p => (p, 0)

/-- CACHE of the entry by which a page is reached (Table 14.2). -/
def cacheOf (s : State) (c va : Nat) : Option Nat := (tlbFind s.mm.xl.tlb c (va / 65536)).map fun e => fld e 11 10

/-- May the core hold lines of a place: not near Peat nor another device, and not on an UNCACHED page (Table 14.2)? -/
def farHolds (s : State) (core c va : Nat) (pl : Place) : Bool :=
  (match pl with | .peat a => a / regionBytes != core | .remote _ _ _ => false | _ => true) &&
  (match cacheOf s c va with | some k => k != 1 | none => false)

def updFar (core : Nat) (f : List FarLine → List FarLine) (s : State) : State :=
  { s with ex := { s.ex with cores := tabUpd s.ex.cores core fun k => { k with far := f k.far } } }

/-- Room for one more line: 128 KiB of lines stay; the oldest of a STREAM page goes first, else the oldest (Table 14.2). -/
def farRoom (l : List FarLine) : List FarLine :=
  if l.length < 131072 / farBytes then l
  else match l.reverse.find? (·.stream) with
    | some x => l.filter (·.pl != x.pl)
    | none => l.dropLast

/-- A line is fetched. -/
def farFill (core fn : Nat) (stream : Bool) (pl : Place) (s : State) : PB × State :=
  let (bs, s) := readPlace fn pl farBytes s
  (bs, updFar core (fun l => { pl := pl, bytes := bs, stream := stream } :: farRoom (l.filter (·.pl != pl))) s)

/-- A load within one line: a line that the cache holds may have been replaced since, which a free value decides (DESIGN CHOICE, safe, log 104). -/
def farRead (core fn : Nat) (stream : Bool) (pl : Place) (n : Nat) (s : State) : PB × State :=
  let x := farLine pl
  let part (bs : PB) : PB := (bs.drop x.2).take n
  match (tabD s.ex.cores core {}).far.find? (·.pl == x.1) with
  | some ln =>
    let v := Config.freeValue s.freeCtr
    let s := { s with freeCtr := s.freeCtr + 1 }
    if bit v 0 then (part ln.bytes, s) else let (bs, s) := farFill core fn stream x.1 s; (part bs, s)
  | none => let (bs, s) := farFill core fn stream x.1 s; (part bs, s)

/-- A load of `n` bytes, line by line. -/
def farReads (core fn : Nat) (stream : Bool) : Nat → Place → Nat → State → PB × State
  | 0, _, _, s => ([], s)
  | f + 1, pl, n, s =>
    if n = 0 then ([], s) else
    let k := min n (farBytes - (farLine pl).2)
    let (b, s) := farRead core fn stream pl k s
    let (r, s) := farReads core fn stream f (placePlus pl k) (n - k) s
    (b ++ r, s)

/-- The core whose group makes an access. -/
def Rq.core (rq : Rq) : Option Nat :=
  match rq.who, rq.eng with
  | some (.group _), some e => if e < 32 then some e else none
  | _, _ => none

/-- Read at a place that `va` translates to: a core's own accesses through its far-read cache. -/
def readAs (c va : Nat) (rq : Rq) (pl : Place) (n : Nat) (s : State) : PB × State :=
  match rq.core with
  | some core =>
    if farHolds s core c va pl then farReads core (ctxFn s c) (cacheOf s c va == some 2) (n / farBytes + 2) pl n s
    else readPlace (ctxFn s c) pl n s
  | none => readPlace (ctxFn s c) pl n s

/-- A write of the core passes through: a line that it hits takes the bytes. -/
def farStore (core : Nat) (pl : Place) (bs : PB) (s : State) : State :=
  let x := farLine pl
  if (tabD s.ex.cores core {}).far.any (·.pl == x.1) then
    updFar core (updWhere (·.pl == x.1) fun l => { l with bytes := l.bytes.take x.2 ++ bs ++ l.bytes.drop (x.2 + bs.length) }) s
  else s
/-- A longer write of the core, line by line. -/
def farStores (core : Nat) : Nat → Place → PB → State → State
  | 0, _, _, s => s
  | f + 1, pl, bs, s =>
    if bs.isEmpty then s else
    let k := min bs.length (farBytes - (farLine pl).2)
    farStores core f (placePlus pl k) (bs.drop k) (farStore core pl (bs.take k) s)
/-- A write by a requester: one of a core's group passes through its far-read cache. -/
def storeAs (rq : Rq) (pl : Place) (bs : PB) (s : State) : State :=
  match rq.core with | some core => farStores core (bs.length / farBytes + 2) pl bs s | none => s
/-- The line of a place goes: the core has changed the place otherwise. -/
def farLose (core : Nat) (pl : Place) (s : State) : State := updFar core (fun l => l.filter (·.pl != (farLine pl).1)) s

/-! ### Ranged reads and writes -/

/-- A posted write to another device leaves over its link; one of a command is awaited by the command's completion (R569, 03 R130). -/
def remotePost (rq : Rq) (c va dev off : Nat) (s : State) : State :=
  let k := routeLink s dev off
  match rq.who with
  | some (.cmd id) =>
    let r : RemoteReq :=
      { id := s.dom.nextReq, link := fin' 3 k, dev := fin' 15 dev, isStore := true, eng := rq.eng.map (fin' 45), va := BitVec.ofNat 64 va, kind := .store, ctx := fin' 63 c
        group := none, cmd := some id, dst := [], issued := s.time }
    linkTx k { s with dom := { s.dom with reqs := s.dom.reqs ++ [r], nextReq := s.dom.nextReq + 1 } }
  | _ => linkTx k s

/-- Read the pieces in order; the bytes read before a stop, and how it ended. A load on a route that is down delivers
poison and ends with 0x0801 (R572). -/
def readPieces (c : Nat) (k : Access) (rq : Rq) : List (Nat × Nat) → State → PB × VaAns × State
  | [], s => ([], .ok, s)
  | (va, n) :: r, s =>
    match xl c va k rq s with
    | (.ok pl, s) =>
      if routeDown s pl then
        let s := match remoteDev pl with | some (d, o) => linkTimeout (routeLink s d o) s | none => s
        (List.replicate n (0, true), .fail St.linkDown, s)
      else
        let (bs, s) := readAs c va rq pl n s
        let (cs, a, s) := readPieces c k rq r s
        (bs ++ cs, a, s)
    | (.zero, s) =>
      let (cs, a, s) := readPieces c k rq r s
      (List.replicate n (0, false) ++ cs, a, s)
    | (.fail st, s) => ([], .fail st, s)
    | (.stall, s) => ([], .stall, s)

/-- Read `n` bytes at `va`. -/
def readVa (c va n : Nat) (k : Access) (rq : Rq) (s : State) : PB × VaAns × State := readPieces c k rq (pagePieces va n) s

/-- Write the pieces in order: bytes written, and how it ended. -/
def writePieces (c : Nat) (rq : Rq) : List (Nat × Nat) → PB → State → Nat × VaAns × State
  | [], _, s => (0, .ok, s)
  | (va, n) :: r, bs, s =>
    match xl c va .store rq s with
    | (.ok pl, s) =>
      if routeDown s pl then
        let s := match remoteDev pl with | some (d, o) => linkDrop (routeLink s d o) s | none => s
        (0, .fail St.linkDown, s)
      else
        let s := storeAs rq pl (bs.take n) (writePlace (ctxFn s c) pl (bs.take n) s)
        let s := match remoteDev pl with | some (d, o) => remotePost rq c va d o s | none => s
        let (m, a, s) := writePieces c rq r (bs.drop n) s
        (n + m, a, s)
    | (.zero, s) =>
      let (m, a, s) := writePieces c rq r (bs.drop n) s
      (n + m, a, s)
    | (.fail st, s) => (0, .fail st, s)
    | (.stall, s) => (0, .stall, s)

/-- Write bytes at `va`. -/
def writeVa (c va : Nat) (bs : PB) (rq : Rq) (s : State) : Nat × VaAns × State := writePieces c rq (pagePieces va bs.length) bs s

/-- May the whole range be written? Nothing is written. -/
def writablePieces (c : Nat) (rq : Rq) : List (Nat × Nat) → State → VaAns × State
  | [], s => (.ok, s)
  | (va, _) :: r, s =>
    match xl c va .store rq s with
    | (.ok _, s) => writablePieces c rq r s
    | (.zero, s) => writablePieces c rq r s
    | (.fail st, s) => (.fail st, s)
    | (.stall, s) => (.stall, s)

/-! ### Replies and room (R496-R498) -/

/-- A record's words as they are posted: REQMASK and CTXMASK show the requesters at posting (R493). -/
def pmtWords (e : PmtEntry) : List W64 :=
  (e.words.set 2 (BitVec.ofNat 64 ((e.reqs.filterMap (·.eng)).foldl (fun a n => a ||| 2 ^ n.val) 0))).set 3
    (BitVec.ofNat 64 (e.reqs.foldl (fun a r => a ||| 2 ^ r.ctx.val) 0))

/-- Post waiting records in the order of their faults while there is room (R494, R496). -/
def fqDrain : Nat → State → State
  | 0, s => s
  | n + 1, s =>
    match s.mm.xl.pmt.find? (fun e => !e.posted) with
    | none => s
    | some e =>
      if fqRoom s.mm.xl then
        fqDrain n (fqPost (pmtWords e) (xlUpd (fun x => { x with pmt := updWhere (fun y => y.idx == e.idx) (fun y => { y with posted := true, words := pmtWords e }) x.pmt }) s))
      else s

/-- Free a pending-miss entry; its generation advances (R498). -/
def pmtRelease (i : Nat) (s : State) : State :=
  xlUpd (fun x => { x with
    pmt := x.pmt.filter (fun e => e.idx != i)
    gens := pairPut x.gens i (some ((pairGet x.gens i).getD 0 + 1)) }) s

/-- Withdraw requesters from every entry (R500); an entry whose last requester is withdrawn frees (R488). A record already
posted stays in the queue; one that waits for room is still posted when room comes only while its entry stands. -/
def withdraw (p : Requester → Fin 64 → Bool) (s : State) : State :=
  let pm := s.mm.xl.pmt.map fun e => { e with reqs := e.reqs.filter fun r => !(p r.who r.ctx) }
  let empty := pm.filter fun e => e.reqs.isEmpty
  let s := xlUpd (fun x => { x with pmt := pm, missq := x.missq.filter fun r => !(p r.who r.ctx) }) s
  empty.foldl (fun s e => pmtRelease e.idx s) s

/-! ### Invalidation (R501-R504) -/

/-- Drop the entries of a context and page range from the caches (R502): directory entries only where the range covers
them whole. -/
def xlDrop (c page npages : Nat) (s : State) : State :=
  xlUpd (fun x => { x with
    tlb := x.tlb.filter fun e => !(e.ctx.val == c && decide (page ≤ e.page) && decide (e.page < page + npages))
    dirs := x.dirs.filter fun e => !(e.ctx.val == c && decide (page ≤ e.page * 4096) && decide (e.page * 4096 + 4096 ≤ page + npages)) }) s

/-- Begin an invalidation; its number. -/
def invalStart (c page npages : Nat) (subP subL : List Nat) (cmd : Option Nat) (s : State) : Nat × State :=
  let i := s.mm.xl.nextInval
  (i, xlUpd (fun x => { x with nextInval := i + 1
                               invals := x.invals ++ [{ id := i, ctx := fin' 63 c, page := page, npages := npages, subPeat := subP, subLpddr := subL, cmd := cmd }] }) s)

/-! ### Frame counts (13 R458, R459, R463) -/

def bump (l : List (Nat × Nat)) (f : Nat) (up : Bool) : List (Nat × Nat) :=
  let n := (pairGet l f).getD 0
  let m := if up then n + 1 else n - 1
  pairPut l f (if m = 0 then none else some m)

/-- The counts lie in 4-byte words at the start of the top 4 MiB of LPDDR (R460, Table 20.6): those of the Peat frames first, then those of the LPDDR frames, two to
an aligned 8-byte word (DESIGN CHOICE, unsafe, log 108). The word of a frame's count by number, and which half it is. -/
def countIdx (lp : Bool) (f : Nat) : Nat := if lp then 6144 + f else f
def countGran (s : State) (lp : Bool) (f : Nat) : Nat := (lpddrBytes s - 4194304) / 8 + countIdx lp f / 2
/-- The frame of a count. -/
def countFrame (i : Nat) : Bool × Nat := if i < 6144 then (false, i) else (true, i - 6144)
/-- Does a granule of LPDDR hold counts: one of the first 2 MiB of its top 4 MiB (Table 20.6)? -/
def isCountGran (s : State) (g : Nat) : Bool := decide (4194304 ≤ lpddrBytes s) && decide ((lpddrBytes s - 4194304) / 8 ≤ g) && decide (8 * g + 2097152 < lpddrBytes s)

def countAt (s : State) (i : Nat) : Nat := let x := countFrame i; (pairGet (if x.1 then s.mm.xl.cntLpddr else s.mm.xl.cntPeat) x.2).getD 0
def putCount (i v : Nat) (s : State) : State :=
  let x := countFrame i
  let o := if v = 0 then none else some v
  if x.1 then xlUpd (fun y => { y with cntLpddr := pairPut y.cntLpddr x.2 o }) s else xlUpd (fun y => { y with cntPeat := pairPut y.cntPeat x.2 o }) s

/-- The word of a granule that holds counts, as stored, and storing one. -/
def countWord (s : State) (g : Nat) : W64 :=
  let i := 2 * (g - (lpddrBytes s - 4194304) / 8)
  BitVec.ofNat 64 (countAt s i + 2 ^ 32 * countAt s (i + 1))
def putCountWord (g : Nat) (d : W64) (s : State) : State :=
  let i := 2 * (g - (lpddrBytes s - 4194304) / 8)
  putCount (i + 1) (fld d 63 32) (putCount i (fld d 31 0) s)

/-- A change of a count is a narrow write of its word (16 R547): what the read finds is counted, and poison stays. -/
def countTouch (lp : Bool) (f : Nat) (s : State) : State :=
  let g := countGran s lp f
  match pairGet s.mm.lpddr.marks g with
  | none => s
  | some m =>
    let (d, k) := wordFound (countWord s g) (some m)
    let s := eccNote true g k (putCountWord g d s)
    setDevMem true (s.mm.lpddr.putMark g (if foundPoison k then some .poison else none)) s

/-- One frame-count change; while a scan runs it is held (R463). -/
def frameCount (lp : Bool) (f : Nat) (up : Bool) (s : State) : State :=
  if s.mm.xl.scanning then xlUpd (fun x => { x with heldCnt := x.heldCnt ++ [(lp, f, up)] }) s
  else
    let s := countTouch lp f s
    if lp then xlUpd (fun x => { x with cntLpddr := bump x.cntLpddr f up }) s
    else xlUpd (fun x => { x with cntPeat := bump x.cntPeat f up }) s

/-- The frame that a valid leaf entry counts: target 0 or 1. -/
def countedFrame (e : W64) : Option (Bool × Nat) :=
  if bit e 0 && !leafBad e then
    match leafTgt e with
    | 0 => some (false, leafFrame e)
    | 1 => some (true, leafFrame e)
    | _ => none
  else none

/-! ### Memory whose contents become unspecified (00 R17) -/

/-- Free bytes for what a discarded attachment holds. -/
def freeBytes (n : Nat) (s : State) : PB × State :=
  ((List.range n).map fun i => (BitVec.ofNat 8 (Config.freeValue (s.freeCtr + i)).toNat, false), { s with freeCtr := s.freeCtr + n })

/-- Free values over a range, as far as it is mapped. -/
def freePieces (c : Nat) : List (Nat × Nat) → State → State
  | [], s => s
  | (va, n) :: r, s =>
    match translate c va .store s with
    | (.ok _ pl, s) => let (bs, s) := freeBytes n s; freePieces c r (writePlace (ctxFn s c) pl bs s)
    | (_, s) => freePieces c r s

end Sys2Proof.Machine
end

