-- ==== Sys2Proof/Machine/Work.lean ====
section
/-! DEFINITION. Work.lean: commands, blocks and groups: looking them up, placing blocks on cores, ending them, local
memory (03 R80-R91, R96, R102, R111; 12; 15 R506, R512, R519, R532). -/
namespace Sys2Proof.Machine

def updEx (f : Exec → Exec) (s : State) : State := { s with ex := f s.ex }
def updOb (f : Objects → Objects) (s : State) : State := { s with ob := f s.ob }
def updHi (f : HostIf → HostIf) (s : State) : State := { s with hi := f s.hi }
def updGx (f : Media → Media) (s : State) : State := { s with gx := f s.gx }
def queueOf (s : State) (q : Nat) : Queue := tabD s.ex.queues q {}
def ctxOf (s : State) (c : Nat) : Ctx := tabD s.ex.ctxs c {}
def partOf (s : State) (p : Nat) : Partition := tabD s.ex.parts p {}
def coreOf (s : State) (c : Nat) : Core := tabD s.ex.cores c {}
def braidOf (s : State) (b : Nat) : Braid := tabD s.ob.braids b {}
def updQueue (q : Nat) (f : Queue → Queue) (s : State) : State := updEx (fun e => { e with queues := tabUpd e.queues q f }) s
def updCtx (c : Nat) (f : Ctx → Ctx) (s : State) : State := updEx (fun e => { e with ctxs := tabUpd e.ctxs c f }) s
def updPart (p : Nat) (f : Partition → Partition) (s : State) : State := updEx (fun e => { e with parts := tabUpd e.parts p f }) s
def updCore (c : Nat) (f : Core → Core) (s : State) : State := updEx (fun e => { e with cores := tabUpd e.cores c f }) s
def updBraid (b : Nat) (f : Braid → Braid) (s : State) : State := updOb (fun o => { o with braids := tabUpd o.braids b f }) s
def findCmd (s : State) (c : Nat) : Option Cmd := s.ex.cmds.find? (·.id == c)
def updCmd (c : Nat) (f : Cmd → Cmd) (s : State) : State := updEx (fun e => { e with cmds := updWhere (·.id == c) f e.cmds }) s
def findBlk (s : State) (b : Nat) : Option Block := s.ex.blocks.find? (·.id == b)
def updBlk (b : Nat) (f : Block → Block) (s : State) : State := updEx (fun e => { e with blocks := updWhere (·.id == b) f e.blocks }) s
def findGrp (s : State) (g : Nat) : Option Group := s.ex.groups.find? (·.id == g)
def updGrp (g : Nat) (f : Group → Group) (s : State) : State := updEx (fun e => { e with groups := updWhere (·.id == g) f e.groups }) s
def findCode (s : State) (k : Nat) : Option Code := s.ex.codes.find? (·.id == k)

/-- Tier of a queue (R506). -/
def queueTier (q : Queue) : Nat := if q.root then 1 else match q.kind.toNat with | 0 => 2 | 1 => 0 | _ => 1

/-- Vector registers a group of a code object takes (R87). -/
def codeRegs (s : State) (k : Nat) : Nat := ((((findCode s k).map (·.vregs)).getD 0) + 7) / 8 * 8

/-! ### Versions of a graph and the launches bound to them (10 R365) -/

def graphOf (s : State) (g : Nat) : Graph := tabD s.ob.graphs g {}
def updGraph (g : Nat) (f : Graph → Graph) (s : State) : State := updOb (fun o => { o with graphs := tabUpd o.graphs g f }) s

/-- Versions that are not current and bound to no launch are freed (R365, R438). -/
def settleGraph (g : Nat) (s : State) : State :=
  let x := graphOf s g
  let keep (v : GVer) : Bool := (x.live && v.ver == x.current) || v.launches != 0
  let gone := ((x.vers.filter fun v => !(keep v)).flatMap (·.codes)).map (·.2)
  let s := updGraph g (fun x => { x with vers := x.vers.filter keep }) s
  let s := updEx (fun e => { e with codes := e.codes.filter fun k => !gone.contains k.id }) s
  if (graphOf s g).vers.isEmpty && !x.live then updGraph g (fun _ => {}) s else s

/-- A launch's version loses one launch. -/
def unbindGraph (g v : Nat) (s : State) : State :=
  settleGraph g (updGraph g (fun x => { x with vers := updWhere (·.ver == v) (fun y => { y with launches := y.launches - 1 }) x.vers }) s)

/-- A GRAPH_LAUNCH that has not ended and will no longer run takes its count from its version. -/
def unbindLaunch (c : Nat) (s : State) : State :=
  match findCmd s c with
  | some y => (match y.work with | .graph g v _ => if y.phase == .done then s else unbindGraph g v s | _ => s)
  | none => s

/-! ### Misses that wait for a pending-miss entry (14 R488) -/

/-- The group of a request that waited at its source issues again. -/
def missGo (r : PmtReq) (s : State) : State :=
  match r.who with
  | .group g => updGrp g (fun x => match x.wait with | .stall _ => { x with wait := .ready } | _ => x) s
  | _ => s

/-- The first miss in the queue takes an entry and its walk is made: it has its translation, its fault waits in the entry, or it asks again
and faults. -/
def missTake (r : PmtReq) (s : State) : State :=
  if s.mm.xl.pmt.any (fun e => e.page == r.va / 65536) then pmtJoin r s
  else match translate r.ctx r.va r.kind s with
    | (.ok _ _, s) => missGo r s
    | (.fault kind 0 dir e, s) => stallFault kind dir e (match r.who with | .fetch q => some q.val | _ => none) r s
    | _ => missGo r s

/-- Misses take entries in their order while there are any. -/
def missDrain : Nat → State → State
  | 0, s => s
  | n + 1, s =>
    match s.mm.xl.missq with
    | [] => s
    | r :: l => if pmtRoom s then missDrain n (missTake r (xlUpd (fun x => { x with missq := l }) s)) else s

/-! ### Ending commands -/

/-- The work of a command has ended with a status; its completion is published later (R352). Its waiters and stalled
requests go (R500), and a launch takes its count from its graph version (R365). Work that ends in the allowance after its timeout ends drained (R425). -/
def finish (c : Nat) (st : Status) (s : State) : State :=
  let s := withdraw (fun r _ => r == .cmd c) (unbindLaunch c s)
  let s := updEx (fun e => { e with waiters := e.waiters.filter (·.cmd != c)
                                    cores := e.cores.map fun k => if k.claim == some (.cmd c) then { k with claim := none } else k }) s
  updCmd c (fun x => if x.phase == .done then x else { x with phase := .done, status := if x.drainEnd.isSome && statusOk st then St.timeoutDrained else st }) s

/-- Has a command, or a packet of its graph launch, remote stores that are not acknowledged? Its completion, a release at SYSTEM scope, waits
for them (R130, 17 R569). -/
def acksDue (s : State) (c : Nat) : Bool :=
  s.dom.reqs.any fun r => r.isStore && (r.cmd == some c || s.ex.cmds.any fun k => k.parent == some c && r.cmd == some k.id)

def setRes (c : Nat) (ws : List W32) (s : State) : State := updCmd c (fun x => { x with res := ws }) s
/-- DW4 of a result. -/
def setRes0 (c : Nat) (v : Nat) (s : State) : State := setRes c [BitVec.ofNat 32 v, 0, 0, 0] s
/-- A 64-bit count in DW4-DW5. -/
def setRes64 (c : Nat) (v : Nat) (s : State) : State := setRes c [BitVec.ofNat 32 v, BitVec.ofNat 32 (v / 2 ^ 32), 0, 0] s

/-! ### Local memory (R89-R91, R96): poison marks stand per 4-byte word -/

def lmBytes : Nat := 262144
def lmRead (core a n : Nat) (s : State) : PB :=
  let m := (coreOf s core).lm
  (List.range n).map fun i => (m.byte (a + i), (pairGet m.marks ((a + i) / 4)).isSome)

/-- A store of bytes with one poison mark: the words it touches take the mark (R96). -/
def lmWrite (core a : Nat) (bs : List Byte) (poison : Bool) (s : State) : State :=
  updCore core (fun c =>
    let m := c.lm.putBytes a bs
    let ws := (List.range ((a + bs.length - 1) / 4 - a / 4 + 1)).map (a / 4 + ·)
    { c with lm := if bs.isEmpty then m else ws.foldl (fun m w => m.putMark w (if poison then some .poison else none)) m }) s

/-- Blocks resident on a core. -/
def blocksOn (s : State) (core : Nat) : List Block := s.ex.blocks.filter (·.core.val == core)
def groupsOn (s : State) (core : Nat) : List Group := s.ex.groups.filter (·.core.val == core)

/-- Is `[b, b + n)` clear of the allocations? -/
def lmClear (l : List (Nat × Nat)) (b n : Nat) : Bool := l.all fun x => decide (b + n ≤ x.1) || decide (x.1 + x.2 ≤ b)

/-- Bytes of LM that a core holds back for tile buffers: it serves one pass at a time (R286), so the largest reservation (R90; DESIGN CHOICE,
unsafe, log 109). -/
def tileTop (c : Core) : Nat := c.tileRes.foldl (fun m x => max m x.2) 0

/-- Does a reservation of `n` bytes fit above the block allocations of a core (R90)? -/
def resFits (s : State) (core n : Nat) : Bool := (blocksOn s core).all fun b => b.lmSize == 0 || decide (b.lmBase + b.lmSize + n ≤ lmBytes)

/-- The lowest free LM range of a core for a block (R89), below the tile reservation (R90). -/
def lmPlace (s : State) (core n : Nat) : Option Nat :=
  let l := ((blocksOn s core).map fun b => (b.lmBase, b.lmSize)).filter fun x => x.2 != 0
  let cands := 0 :: l.map (fun x => x.1 + x.2)
  let ok := cands.filter fun b => decide (b + n ≤ lmBytes - tileTop (coreOf s core)) && lmClear l b n
  ok.foldl (fun o b => match o with | none => some b | some x => some (min x b)) none

/-! ### Placing a block (R80-R84, R87, R107, R132) -/

/-- The quarter with the fewest resident groups, the lowest on a tie (R82). -/
def quarter0 (s : State) (core : Nat) : Nat :=
  let n (q : Nat) := ((groupsOn s core).filter (·.quarter.val == q)).length
  (List.range 4).foldl (fun b q => if n q < n b then q else b) 0

/-- Does one quarter hold `k` more groups of `regs` registers? -/
def quarterFits (s : State) (core q k regs : Nat) : Bool :=
  let gs := (groupsOn s core).filter (·.quarter.val == q)
  let used := gs.foldl (fun n g => n + g.v.length) 0
  decide (gs.length + k ≤ 16) && decide (used + k * regs ≤ 512)

/-- Groups of a block that go to quarter `q` when the first goes to `q0`. -/
def quarterShare (groups q0 q : Nat) : Nat := ((List.range groups).filter fun g => (q0 + g) % 4 == q).length

/-- Can a core take a block now (R80, R81, R87)? -/
def coreFits (s : State) (core groups regs lm : Nat) : Bool :=
  let q0 := quarter0 s core
  decide ((blocksOn s core).length < 32) && decide ((groupsOn s core).length + groups ≤ 64) &&
  (List.range 4).all (fun q => quarterFits s core q (quarterShare groups q0 q) regs) && (lmPlace s core lm).isSome

/-- Does a block fit on an empty core (R83)? -/
def fitsEmpty (groups regs lm : Nat) : Bool :=
  decide (groups ≤ 32) && decide ((groups + 3) / 4 * regs ≤ 512) && decide (lm ≤ lmBytes)

/-- Bytes of LM a pass reserves on each of its cores (R285). -/
def formatBytes (f : Nat) : Nat := match f with | 4 => 8 | 5 => 1 | 6 => 2 | 7 => 2 | _ => 4
def passSurfaces (p : Pass) : List Surface := p.colours ++ p.depth.toList
def passReserve (p : Pass) : Nat :=
  let f := 1024 * sumN ((passSurfaces p).map fun x => formatBytes x.format.toNat)
  (2 * f + 32767) / 32768 * 32768

/-- Has pass `p` its reservation on a core? -/
def reserved (s : State) (p core : Nat) : Bool := (coreOf s core).tileRes.any (·.1 == p)

/-- Tile work needs a reservation on this core that does not fit (R132). -/
def tileWaits (s : State) (core : Nat) : Bool :=
  s.gx.passes.any fun p => p.phase == .rendering && bit p.tilecores core && !(reserved s p.id core) && !(resFits s core (passReserve p))

/-- The far-read cache of a core is dropped, by an acquire at DEVICE or SYSTEM scope (R126). -/
def dropFar (core : Nat) (s : State) : State := updFar core (fun _ => []) s

/-- A 32-bit free value. -/
def free32 (n : Nat) : W32 := BitVec.ofNat 32 (Config.freeValue n).toNat

/-- A vector register of a new group: zero without poison, or unspecified, poison marks too, where its space may have been the same
context's (R88; DESIGN CHOICE, safe, log 90). -/
def newReg (same : Bool) (ctr : Nat) : VReg :=
  if same then { lanes := (List.range 32).map fun l => free32 (ctr + l), poison := free32 (ctr + 32) } else { lanes := List.replicate 32 0 }

/-- The draws from `n` on, of `k` words, or zeros. -/
def newWords (same : Bool) (n k : Nat) : List W32 := if same then (List.range k).map fun r => free32 (n + r) else List.replicate k 0

/-- One group of a block; `same` says of its vector registers, and of its uniforms and predicates, whether they are unspecified. -/
def newGroup (same : Bool × Bool) (ctr id blk core quarter : Nat) (age : W64) (cls0 : Bool) (idx regs entry : Nat) : Group :=
  let n := ctr + 33 * regs
  { id := id, blk := blk, core := fin' 31 core, quarter := fin' 3 quarter, age := age, cls0 := cls0, idx := idx
    v := (List.range regs).map fun r => newReg same.1 (ctr + 33 * r)
    u := newWords same.2 n 64, uPoison := if same.2 then Config.freeValue (n + 64) else 0
    p := newWords same.2 (n + 65) 8, pPoison := newWords same.2 (n + 73) 8, active := 0xFFFFFFFF, pc := entry }

/-- Draws that one group of unspecified registers takes. -/
def groupDraws (regs : Nat) : Nat := 33 * regs + 81

/-- LM of a new block of context `c`: unspecified, with its poison marks, where the same context had it last, cleared elsewhere (R88;
DESIGN CHOICE, safe, log 90). -/
def newLm (occ : Tab (Option (Fin 64)) 256) (c : Fin 64) (ctr base n : Nat) (m : Mem) : Mem :=
  let mine (i : Nat) : Bool := tabD occ ((base + i) / 1024) none == some c
  let bs : List Byte := (List.range n).map fun i => if mine i then BitVec.ofNat 8 (Config.freeValue (ctr + i)).toNat else 0
  (List.range (n / 4)).foldl (fun m w =>
    m.putMark (base / 4 + w) (if mine (4 * w) && (Config.freeValue (ctr + n + w)).getLsbD 0 then some .poison else none)) (m.putBytes base bs)
/-- Draws that LM of `n` bytes takes. -/
def lmDraws (n : Nat) : Nat := n + n / 4

/-- Context `c` takes bytes `base` to `base + n - 1` of a core's LM. -/
def takeLm (c : Fin 64) (base n : Nat) (k : Core) : Core :=
  { k with lmCtx := Vector.ofFn fun i => if base / 1024 ≤ i.val ∧ 1024 * i.val < base + n then some c else k.lmCtx[i] }

/-- The renders that go on reserve their tile buffers on every core of TILECORES where they fit (R90, R132, R285). -/
def reserveTiles (s : State) : State :=
  (s.gx.passes.filter (·.phase == .rendering)).foldl (fun s p =>
    (setBits p.tilecores).foldl (fun s k =>
      let n := passReserve p
      if reserved s p.id k || !(resFits s k n) then s
      else updCore k (fun c => takeLm p.ctx (lmBytes - n) n { c with tileRes := c.tileRes ++ [(p.id, n)] }) s) s) s

/-- A pass gives its reservations back. -/
def releaseTiles (p : Nat) (s : State) : State :=
  updEx (fun e => { e with cores := e.cores.map fun c => { c with tileRes := c.tileRes.filter (·.1 != p) } }) s

/-- Registers and group slots of a quarter that groups of a context, or of any context, hold now. -/
def quarterHeld (s : State) (core q : Nat) (c : Option (Fin 64)) : Nat × Nat :=
  let gs := (groupsOn s core).filter fun g => g.quarter.val == q && (match c with | some c => ((findBlk s g.blk).map (·.ctx)) == some c | none => true)
  (gs.foldl (fun n g => n + g.v.length) 0, gs.length)

/-- What `regCtx` says of one context. -/
def regsOf (k : Core) (q : Nat) (c : Fin 64) : Nat × Nat := (((tabD k.regCtx q []).find? fun x => x.1 == c).map (·.2)).getD (0, 0)

/-- Free registers and slots of a quarter that may have had context `c` as their last occupant: R88 leaves which ones a group takes. -/
def residue (s : State) (core q : Nat) (c : Fin 64) : Nat × Nat :=
  let u := regsOf (coreOf s core) q c
  let l := quarterHeld s core q (some c)
  (u.1 - l.1, u.2 - l.2)

/-- A group of context `c` takes `n` registers and a slot of a quarter: at most as many free ones as are left then may still be any
context's, and the group's own are its context's from now on (R88; DESIGN CHOICE, safe, log 90). -/
def takeRegs (s : State) (core q : Nat) (c : Fin 64) (n : Nat) (k : Core) : Core :=
  let held := quarterHeld s core q none
  let free := (512 - held.1 - n, 16 - held.2 - 1)
  let l := tabD k.regCtx q []
  let l := if l.any (fun x => x.1 == c) then l else (c, 0, 0) :: l
  let keep (x : Fin 64 × Nat × Nat) : Fin 64 × Nat × Nat :=
    let live := quarterHeld s core q (some x.1)
    let r := residue s core q x.1
    let own := if x.1 == c then (n, 1) else (0, 0)
    (x.1, live.1 + min r.1 free.1 + own.1, live.2 + min r.2 free.2 + own.2)
  { k with regCtx := tabUpd k.regCtx q fun _ => l.map keep }

/-- One group goes to a quarter of its core. -/
def placeGroup (core q blk id : Nat) (cls0 : Bool) (idx regs entry : Nat) (c : Fin 64) (s : State) : State :=
  let r := residue s core q c
  let g := newGroup (decide (0 < r.1), decide (0 < r.2)) s.freeCtr id blk core q (coreOf s core).ageCtr cls0 idx regs entry
  let s := { updCore core (fun k => { takeRegs s core q c regs k with ageCtr := k.ageCtr + 1 }) s with freeCtr := s.freeCtr + groupDraws regs }
  updEx (fun e => { e with groups := e.groups ++ [g] }) s

/-- Put a block with its groups on a core (R82, R84, R88, R89). `b` carries everything but its number, core and LM place. -/
def placeBlock (core groups regs lm entry : Nat) (cls0 : Bool) (b : Block) (s : State) : State :=
  match lmPlace s core lm with
  | none => s
  | some base =>
    let id := s.ex.nextObj
    let q0 := quarter0 s core
    let ctr := s.freeCtr + groups * groupDraws regs
    let s := updCore core (fun c => takeLm b.ctx base lm { c with lm := newLm c.lmCtx b.ctx ctr base lm c.lm }) s
    let s := updEx (fun e => { e with nextObj := id + 1 + groups, blocks := e.blocks ++ [{ b with id := id, core := fin' 31 core, lmBase := base, lmSize := lm, ngroup := groups }] }) s
    let s := (List.range groups).foldl (fun s g => placeGroup core ((q0 + g) % 4) id (id + 1 + g) cls0 g regs entry b.ctx s) s
    { s with freeCtr := ctr + lmDraws lm }

/-! ### Ending blocks (R102, R111, R519) -/

/-- A class's overrun has been measured: it goes to DEBT and MAXOVER, in whole microseconds (R519). -/
def chargeOverrun (t : W64) (p : Partition) (c : Fin 16) (since : W64) : Partition :=
  let us := (t.toNat - since.toNat) / 1000
  { p with classes := tabUpd p.classes c fun k =>
      { k with debt := satAdd k.debt us, maxover := BitVec.ofNat 32 (max k.maxover.toNat (min us 0xFFFFFFFF)) } }

/-- Blocks have ended or been parked: overruns that waited for the last of them are charged. -/
def overrunEnd (ids : List Nat) (s : State) : State :=
  updEx (fun e => { e with parts := e.parts.map fun p =>
    let os := p.overruns.map fun (c, t, l) => (c, t, l.filter fun b => !ids.contains b)
    let p := (os.filter fun o => o.2.2.isEmpty).foldl (fun p o => chargeOverrun s.time p o.1 o.2.1) p
    { p with overruns := os.filter fun o => !o.2.2.isEmpty } }) s

/-- Blocks and their groups go at once; stalled requests of the groups are withdrawn (R500). -/
def dropBlocks (ids : List Nat) (s : State) : State :=
  if ids.isEmpty then s else
  let gs := (s.ex.groups.filter fun g => ids.contains g.blk).map (·.id)
  let s := withdraw (fun r _ => match r with | .group g => gs.contains g | _ => false) s
  let s := updEx (fun e => { e with groups := e.groups.filter (fun g => !ids.contains g.blk), blocks := e.blocks.filter fun b => !ids.contains b.id }) s
  overrunEnd ids s

/-- Stop every block of an owner (R133, R425). -/
def stopOwner (p : Owner → Bool) (s : State) : State := dropBlocks ((s.ex.blocks.filter fun b => p b.owner).map (·.id)) s
def stopCmd (c : Nat) (s : State) : State := stopOwner (· == .cmd c) s

/-- Has a block groups left? -/
def blockLive (s : State) (b : Nat) : Bool := s.ex.groups.any (·.blk == b)

/-- Blocks to free once a block has no group left: itself, or its whole cluster when every block of it has ended (R111). -/
def endedWith (s : State) (b : Block) : List Nat :=
  match b.cluster with
  | none => [b.id]
  | some k =>
    let peers := s.ex.blocks.filter fun x => x.cluster == some k && x.owner == b.owner
    if peers.any (fun x => blockLive s x.id) then [] else peers.map (·.id)

/-- Saturations counted for the owner of a block (R197, R240). -/
def addSat (o : Owner) (n : Nat) (s : State) : State :=
  match o with
  | .cmd c => updCmd c (fun x => { x with sat := x.sat + n }) s
  | .strand b _ => updBraid b (fun x => { x with satcount := satAdd x.satcount n }) s
  | .tile p => match s.gx.passes.find? (·.id == p) with
    | some x => (match x.cmd with | some c => updCmd c (fun y => { y with sat := y.sat + n }) s | none => s)
    | none => s

end Sys2Proof.Machine
end

