-- ==== Sys2Proof/Machine/Bulk.lean ====
section
/-! DEFINITION. Bulk.lean: the bandwidth regulators of a partition (13 R472-R474, Table 13.5). Fills are held in units of
1/16000 byte, in which every refill rate is a whole number a nanosecond (DESIGN CHOICE, unsafe, log 36). -/
namespace Sys2Proof.Machine

/-- Share of regulator `i` (0 Causeway, 1 LPDDR, 2 Peat): 0 acts as 1. -/
def shareOf (p : Partition) (i : Nat) : Nat :=
  if p.full.getD i false then 256 else max (p.shares.getD i 0).toNat 1

/-- Units a nanosecond: s / 256 x C, with C of 1,024 GB/s or 16 B x the LPDDR data rate. -/
def bucketRate (mts : Nat) (p : Partition) (i : Nat) : Nat := shareOf p i * (if i = 1 then mts else 64000)

/-- Depth D = rate x W. -/
def bucketDepth (mts : Nat) (p : Partition) (i : Nat) : Nat := bucketRate mts p i * ((max p.window.toNat 1) * 1000)

/-- The buckets refilled up to now: what each lacks of full falls at its rate. -/
def refill (mts : Nat) (now : W64) (p : Partition) : Partition :=
  let dt := now.toNat - p.bucketT.toNat
  { p with short := (List.range 3).map fun i => p.short.getD i 0 - bucketRate mts p i * dt, bucketT := timeMax p.bucketT now }

/-- Is a regulated bucket empty (R472)? -/
def bucketEmpty (mts : Nat) (p : Partition) (i : Nat) : Bool := shareOf p i != 256 && bucketDepth mts p i != 0 && decide (bucketDepth mts p i ≤ p.short.getD i 0)

/-- Bytes that a request of an engine at core stop `near` moves through each regulator: near-port accesses of a core are not
counted. -/
def bulkNeeds (near : Option Nat) (pl : Place) (n : Nat) : List Nat :=
  match pl with
  | .peat a => if near = some (a / regionBytes) then [0, 0, 0] else [n, 0, n]
  | .lpddr _ => [n, n, 0]
  | _ => [n, 0, 0]

def addNeeds (a b : List Nat) : List Nat := (List.range 3).map fun i => a.getD i 0 + b.getD i 0

/-- Regulator `i` admits a request while its bucket is not empty (R472). -/
def bucketOk (mts : Nat) (p : Partition) (need : List Nat) (i : Nat) : Bool := need.getD i 0 == 0 || !(bucketEmpty mts p i)

/-- The bytes leave the buckets; a regulator at 256 keeps its fill. Bytes beyond what a bucket holds pass at the rate of its refill, and later
requests wait until they have (R473; DESIGN CHOICE, unsafe, log 36). -/
def bucketTake (need : List Nat) (p : Partition) : Partition :=
  { p with short := (List.range 3).map fun i => if shareOf p i = 256 then p.short.getD i 0 else p.short.getD i 0 + 16000 * need.getD i 0 }

/-- Consume the bytes of a request, or nothing where it must wait (R472). -/
def bulk (part : Nat) (need : List Nat) (s : State) : Option State :=
  let mts := s.mm.ctl.mts.toNat
  let p := refill mts s.time (partOf s part)
  if (List.range 3).all (bucketOk mts p need) then some (updPart part (fun _ => bucketTake need p) s) else none

/-- Charge a transfer that does not wait in the model (a draw's geometry, a tile's load or store, a BAR2 access, an access that arrives
over a link): later requests wait until its bytes have passed (DESIGN CHOICE, unsafe, log 36). -/
def bulkDebt (part : Nat) (need : List Nat) (s : State) : State :=
  updPart part (fun p => bucketTake need (refill s.mm.ctl.mts.toNat s.time p)) s

/-- Charge the bytes of a range by where its pages lie (R18), for an engine at core stop `near` or, with none, at a stop of its own. -/
def chargeVa (near : Option Nat) (part : Fin 8) (c : Fin 64) (va n : Nat) (s : State) : State :=
  (pagePieces va n).foldl (fun s x => match mapped c x.1 s with
    | (some pl, s) => bulkDebt part (bulkNeeds near pl x.2) s
    | (none, s) => s) s

/-- A read, and a write, whose bytes are charged once they have passed. -/
def chargedRead (near : Option Nat) (part : Fin 8) (c : Fin 64) (va n : Nat) (rq : Rq) (s : State) : PB × VaAns × State :=
  match readVa c va n .load rq s with
  | (bs, .ok, s) => (bs, .ok, chargeVa near part c va n s)
  | r => r
def chargedWrite (near : Option Nat) (part : Fin 8) (c : Fin 64) (va : Nat) (bs : PB) (rq : Rq) (s : State) : Nat × VaAns × State :=
  let (m, a, s) := writeVa c va bs rq s
  (m, a, chargeVa near part c va m s)

/-- Is some regulated bucket of the partition empty, so that its requests wait at their source (R472)? -/
def bulkEmpty (part : Nat) (s : State) : Bool :=
  let mts := s.mm.ctl.mts.toNat
  let p := refill mts s.time (partOf s part)
  (List.range 3).any (bucketEmpty mts p)

end Sys2Proof.Machine
end

