-- ==== Sys2Proof/Machine/Float.lean ====
section
/-! DEFINITION. Float.lean: number formats, exact arithmetic and rounding (05; 04 R145, R146, R199). A finite value is
(-1)^neg × m × 2^e with exact integers; every operation is exact and rounds once. -/
namespace Sys2Proof.Machine

/-- A floating-point value. -/
inductive FV where
  | nan
  | inf (neg : Bool)
  | fin (neg : Bool) (m : Nat) (e : Int)
  deriving DecidableEq, Repr

/-- A binary format: exponent bits, fraction bits, bias, IEEE special codes or the short formats' (R178-R180). -/
structure Fmt where
  eb : Nat
  mb : Nat
  bias : Nat
  ieee : Bool
  deriving DecidableEq, Repr

def fp32 : Fmt := ⟨8, 23, 127, true⟩
def fp16 : Fmt := ⟨5, 10, 15, true⟩
def bf16 : Fmt := ⟨8, 7, 127, true⟩
def ek8a : Fmt := ⟨4, 3, 7, false⟩
def ek8b : Fmt := ⟨5, 2, 15, false⟩
def ek4 : Fmt := ⟨2, 1, 1, false⟩

/-- The sign bit of a code's width. -/
def signBit (f : Fmt) : Nat := 2 ^ (f.eb + f.mb)

/-- Canonical NaN (Table 5.2). -/
def nanCode (f : Fmt) : Nat := if f.ieee then (2 ^ f.eb - 1) * 2 ^ f.mb + 2 ^ (f.mb - 1) else signBit f

/-- The value of a code (R178-R180). -/
def decodeF (f : Fmt) (x : Nat) : FV :=
  let s := x.testBit (f.eb + f.mb)
  let e := x / 2 ^ f.mb % 2 ^ f.eb
  let m := x % 2 ^ f.mb
  if f.ieee && e == 2 ^ f.eb - 1 then (if m = 0 then .inf s else .nan)
  else if e = 0 then (if !f.ieee && s && m == 0 then .nan else .fin s m (1 - (f.bias : Int) - f.mb))
  else .fin s (m + 2 ^ f.mb) ((e : Int) - f.bias - f.mb)

/-- Rounding modes: 0 nearest-even, 1 toward zero, 2 upward, 3 downward. Is a magnitude with remainder rounded away? -/
def roundUp (rm : Nat) (neg odd : Bool) (rem half : Nat) (sticky : Bool) : Bool :=
  match rm with
  | 0 => decide (half < rem) || (rem == half && half != 0 && (sticky || odd))
  | 1 => false
  | 2 => !neg && (rem != 0 || sticky)
  | _ => neg && (rem != 0 || sticky)

/-- m × 2^e (and a nonzero part below it when `sticky`) rounded to a multiple of 2^q, as that multiple. -/
def roundAt (rm : Nat) (neg : Bool) (m : Nat) (e q : Int) (sticky : Bool) : Nat :=
  if q ≤ e then m * 2 ^ (e - q).toNat
  else
    let sh := (q - e).toNat
    let t := m / 2 ^ sh
    t + b2n (roundUp rm neg (t % 2 == 1) (m % 2 ^ sh) (2 ^ (sh - 1)) sticky)

def bitLen (m : Nat) : Nat := if m = 0 then 0 else Nat.log2 m + 1

/-- The spacing exponent of a value in a format: its precision, not below the subnormal spacing. -/
def spacing (f : Fmt) (m : Nat) (e : Int) : Int := max (e + bitLen m - (f.mb + 1)) (1 - (f.bias : Int) - f.mb)

/-- A magnitude to the format's precision with no upper exponent limit: (m', q) with value m' × 2^q. -/
def roundPrec (f : Fmt) (rm : Nat) (neg : Bool) (m : Nat) (e : Int) (sticky : Bool) : Nat × Int :=
  let q := spacing f m e
  (roundAt rm neg m e q sticky, q)

/-- The code of a magnitude already on the format's grid (m × 2^q), none where it exceeds the finite range. -/
def encodeMag (f : Fmt) (m : Nat) (q : Int) : Option Nat :=
  let (m, q) := if 2 ^ (f.mb + 1) ≤ m then (m / 2, q + 1) else (m, q)
  if m < 2 ^ f.mb then some m
  else
    let ex := (q + f.mb + f.bias).toNat
    if ex < 2 ^ f.eb - (if f.ieee then 1 else 0) then some (ex * 2 ^ f.mb + (m - 2 ^ f.mb)) else none

def maxFinite (f : Fmt) : Nat := if f.ieee then (2 ^ f.eb - 1) * 2 ^ f.mb - 1 else 2 ^ (f.eb + f.mb) - 1
def infCode (f : Fmt) : Nat := (2 ^ f.eb - 1) * 2 ^ f.mb
def withSign (f : Fmt) (neg : Bool) (mag : Nat) : Nat := mag + b2n neg * signBit f

/-- IEEE rounding of an exact magnitude to a code, overflow by rounding mode (R178). -/
def roundIeee (f : Fmt) (rm : Nat) (neg : Bool) (m : Nat) (e : Int) (sticky : Bool) : Nat :=
  if m = 0 && !sticky then withSign f neg 0
  else
    let (m, q) := roundPrec f rm neg m e sticky
    match encodeMag f m q with
    | some c => withSign f neg c
    | none =>
      let toInf := match rm with | 0 => true | 1 => false | 2 => !neg | _ => neg
      withSign f neg (if toInf then infCode f else maxFinite f)

def encodeFV (f : Fmt) (rm : Nat) (v : FV) : Nat :=
  match v with
  | .nan => nanCode f
  | .inf s => withSign f s (infCode f)
  | .fin s m e => roundIeee f rm s m e false

def negFV (v : FV) : FV := match v with | .nan => .nan | .inf s => .inf (!s) | .fin s m e => .fin (!s) m e
def signed (s : Bool) (m : Nat) : Int := if s then -(m : Int) else m

/-- Exact sum of finite values as n × 2^e. -/
def sumExact (a : Int × Int) (b : Int × Int) : Int × Int :=
  let e := min a.2 b.2
  (a.1 * 2 ^ (a.2 - e).toNat + b.1 * 2 ^ (b.2 - e).toNat, e)

/-- The value of an exact sum; an exact zero takes the sign `z`. -/
def ofExact (z : Bool) (a : Int × Int) : FV := if a.1 = 0 then .fin z 0 0 else .fin (decide (a.1 < 0)) a.1.natAbs a.2

/-- Exact product. -/
def mulFV (x y : FV) : FV :=
  match x, y with
  | .nan, _ => .nan
  | _, .nan => .nan
  | .inf s, .inf t => .inf (s != t)
  | .inf s, .fin t m _ => if m = 0 then .nan else .inf (s != t)
  | .fin s m _, .inf t => if m = 0 then .nan else .inf (s != t)
  | .fin s m e, .fin t n g => .fin (s != t) (m * n) (e + g)

/-- Exact sum with IEEE signs of zero under a rounding mode. -/
def addFV (rm : Nat) (x y : FV) : FV :=
  match x, y with
  | .nan, _ => .nan
  | _, .nan => .nan
  | .inf s, .inf t => if s = t then .inf s else .nan
  | .inf s, _ => .inf s
  | _, .inf t => .inf t
  | .fin s m e, .fin t n g =>
    if m = 0 ∧ n = 0 then .fin (if s = t then s else rm == 3) 0 0
    else ofExact (rm == 3) (sumExact (signed s m, e) (signed t n, g))

/-- IEEE order of two values that are no NaN: -1, 0, 1. -/
def cmpFV (x y : FV) : Int :=
  match x, y with
  | .inf s, .inf t => if s = t then 0 else if s then -1 else 1
  | .inf s, _ => if s then -1 else 1
  | _, .inf t => if t then 1 else -1
  | .fin s m e, .fin t n g => (sumExact (signed s m, e) (-(signed t n), g)).1.sign
  | _, _ => 0

def isNan (v : FV) : Bool := match v with | .nan => true | _ => false
def negOf (v : FV) : Bool := match v with | .nan => false | .inf s => s | .fin s _ _ => s

/-- IEEE 754-2019 minimum and maximum: a NaN operand gives NaN; -0 is below +0. -/
def minFV (x y : FV) : FV :=
  if isNan x || isNan y then .nan
  else if cmpFV x y = 0 then (if negOf x then x else y) else if cmpFV x y < 0 then x else y
def maxFV (x y : FV) : FV :=
  if isNan x || isNan y then .nan
  else if cmpFV x y = 0 then (if negOf x then y else x) else if cmpFV x y < 0 then y else x

/-- A comparison (R145): 0 EQ, 1 NE, 2 LT, 3 LE, 4 GT, 5 GE, 6 ORD, 7 UNORD. -/
def cmpCode (c : Nat) (unord : Bool) (o : Int) : Bool :=
  match c with
  | 0 => !unord && o == 0
  | 1 => unord || o != 0
  | 2 => !unord && decide (o < 0)
  | 3 => !unord && decide (o ≤ 0)
  | 4 => !unord && decide (0 < o)
  | 5 => !unord && decide (0 ≤ o)
  | 6 => !unord
  | _ => unord

/-- Largest r with r × r ≤ n, bit by bit from 2^k. -/
def isqrtBits : Nat → Nat → Nat → Nat
  | 0, _, r => r
  | k + 1, n, r => isqrtBits k n (if (r + 2 ^ k) * (r + 2 ^ k) ≤ n then r + 2 ^ k else r)
def isqrt (n : Nat) : Nat := isqrtBits (bitLen n / 2 + 1) n 0

/-- Square root, correctly rounded to nearest (Table 4.5). -/
def sqrtCode (f : Fmt) (v : FV) : Nat :=
  match v with
  | .nan => nanCode f
  | .inf s => if s then nanCode f else infCode f
  | .fin s m e =>
    if m = 0 then withSign f s 0
    else if s then nanCode f
    else
      let k := 2 * (f.mb + 4) + (if (e - 2 * (f.mb + 4 : Int)) % 2 = 0 then 0 else 1)
      let n := m * 2 ^ k
      let r := isqrt n
      roundIeee f 0 false r ((e - k) / 2) (r * r != n)

/-- Magnitude code of 1/x toward zero and whether it is exact; none where it overflows. -/
def recipTrunc (f : Fmt) (m : Nat) (e : Int) : Nat × Bool :=
  let k := bitLen m + f.mb + 4
  let q := 2 ^ k / m
  let ex := 2 ^ k % m = 0
  (roundIeee f 1 false q (-e - k) (!ex), decide ex)

/-- Does 1/x exceed the finite range? It is then infinite, as IEEE 754-2019 has it (R178). -/
def recipOver (m : Nat) (e : Int) : Bool :=
  let k := bitLen m + fp32.mb + 4
  decide (128 < (bitLen (2 ^ k / m) : Int) - e - k)

/-- Magnitude code of 1/√x toward zero and whether it is exact. -/
def rsqrtTrunc (f : Fmt) (m : Nat) (e : Int) : Nat × Bool :=
  let (m, e) := if e % 2 = 0 then (m, e) else (2 * m, e - 1)
  let k := 2 * (bitLen m + f.mb + 4)
  let n := 2 ^ k / m
  let r := isqrt n
  (roundIeee f 1 false r (-(k / 2 : Nat) - e / 2) true, r * r * m == 2 ^ k)

/-- A free candidate kept within `u` units of the exact value that lies at or above the truncated magnitude (R146, DEDUCED, safe, log 16);
outside, the truncated magnitude. -/
def nearBound (u : Nat) (t : Nat × Bool) (cand : Nat) : Nat :=
  if decide (t.1 ≤ cand + (if t.2 then u else u - 1)) && decide (cand ≤ t.1 + u) then cand else t.1

/-! Fixed-point enclosures for the free special functions (DEDUCED, safe, log 16): magnitudes in units of 2^-128, far below an ulp. -/

/-- `y` × 2^128 for `y = 2^(2^-j)`, from its square. -/
def fxSqrt (y : Nat) : Nat := isqrt (y * 2 ^ 128)
/-- 2^f for the fraction bits of `f` below 2^k, highest first; `r` is 2^(2^-j) of the bit before. -/
def fxPow (f : Nat) : Nat → Nat → Nat → Nat
  | 0, _, a => a
  | k + 1, r, a => let r := fxSqrt r; fxPow f k r (if f.testBit k then a * r / 2 ^ 128 else a)
/-- Fraction bits of log2 of `y` in [1, 2). -/
def fxLog : Nat → Nat → Nat → Nat
  | 0, _, a => a
  | k + 1, y, a => let y := y * y / 2 ^ 128; if 2 ^ 129 ≤ y then fxLog k (y / 2) (2 * a + 1) else fxLog k y (2 * a)
/-- A finite value in units of 2^-p, rounded down. -/
def fxOf (p : Nat) (s : Bool) (m : Nat) (e : Int) : Int :=
  let k := e + p
  if 0 ≤ k then signed s m * 2 ^ k.toNat else signed s m / 2 ^ (-k).toNat
/-- Terms of the sine or cosine series of `r` from term `t` of order `n` on. -/
def fxSeries (r : Int) : Nat → Nat → Int → Int → Int
  | 0, _, _, a => a
  | k + 1, n, t, a => let u := -(t * r / 2 ^ 128 * r / 2 ^ 128) / ((n + 1) * (n + 2) : Nat); fxSeries r k (n + 2) u (a + u)
/-- 2 × pi in units of 2^-128. -/
def fxTwoPi : Nat := 2 * 0x3243F6A8885A308D313198A2E03707344

/-- EX2 of a finite value of moderate size: its magnitude code toward zero, and whether that is exact. -/
def exp2Trunc (s : Bool) (m : Nat) (e : Int) : Nat × Bool :=
  let x := fxOf 64 s m e
  let i := x / 2 ^ 64
  let whole := decide (signed s m = 0) || (if 0 ≤ e then true else m % 2 ^ (-e).toNat == 0)
  (roundIeee fp32 1 false (fxPow (x % 2 ^ 64).toNat 64 (2 ^ 129) (2 ^ 128)) (i - 128) (!whole), whole)
/-- LG2 of a positive value: sign, magnitude code toward zero, exact. -/
def log2Trunc (m : Nat) (e : Int) : Bool × Nat × Bool :=
  let l := bitLen m
  let t : Int := (e + l - 1) * 2 ^ 72 + fxLog 72 (m * 2 ^ 128 / 2 ^ (l - 1)) 0
  let whole := m == 2 ^ (l - 1)
  let mag := if whole || decide (0 ≤ t) then t.natAbs else t.natAbs - 1
  (decide (t < 0), roundIeee fp32 1 false mag (-72) (!whole), whole)
/-- Is a candidate within 2^-21 of the sine or cosine of a value (R146)? The value it is held against. -/
def trigNear (cos : Bool) (s : Bool) (m : Nat) (e : Int) : Int :=
  let r := fxOf 128 s m e % fxTwoPi
  if cos then fxSeries r 30 0 (2 ^ 128) (2 ^ 128) else fxSeries r 30 1 r r

/-- A free result kept within the error bound of Table 4.5, for a finite operand (R146, DEDUCED, safe, log 16): a free magnitude within the
bound, or the exact value rounded toward zero where the free one is not. -/
def vsfuFin (op : Nat) (s : Bool) (m : Nat) (e : Int) (cand : W32) : Nat :=
  let mag := cand.toNat % 2 ^ 31
  let inf := infCode fp32
  match op with
  | 0 => if m = 0 || recipOver m e then withSign fp32 s inf else withSign fp32 s (nearBound 1 (recipTrunc fp32 m e) mag)
  | 1 => if m = 0 then withSign fp32 s inf else if s then nanCode fp32 else nearBound 2 (rsqrtTrunc fp32 m e) mag
  | 3 =>
    if !s && decide (128 ≤ fxOf 0 s m e) then inf
    else if s && decide (fxOf 0 s m e < -160) then nearBound 2 (0, false) mag
    else min inf (nearBound 2 (exp2Trunc s m e) mag)
  | 4 =>
    if m = 0 then withSign fp32 true inf else if s then nanCode fp32
    else let t := log2Trunc m e; withSign fp32 t.1 (nearBound 2 t.2 mag)
  | _ =>
    if (50 * fxTwoPi : Nat) < (fxOf 128 false m e).toNat then (if isNan (decodeF fp32 cand.toNat) then nanCode fp32 else cand.toNat)
    else
      let v := trigNear (op == 6) s m e
      match decodeF fp32 cand.toNat with
      | .fin n k g => if (fxOf 128 n k g - v).natAbs ≤ 2 ^ 107 then cand.toNat else roundIeee fp32 1 (decide (v < 0)) v.natAbs (-128) true
      | _ => roundIeee fp32 1 (decide (v < 0)) v.natAbs (-128) true

/-- A VSFU result on an FP32 code (R146, R178): SQRT is correctly rounded; the others keep their bounds; infinities and NaN
as IEEE 754-2019 has them, but SIN and COS of an infinity, which lies beyond 100 pi, is a free value. -/
def vsfuCode (op : Nat) (x : W32) : W32 :=
  let cand := Config.vsfu (BitVec.ofNat 8 op) x
  let code : Nat :=
    match op, decodeF fp32 x.toNat with
    | _, .nan => nanCode fp32
    | 2, v => sqrtCode fp32 v
    | op, .fin s m e => vsfuFin op s m e cand
    | 0, .inf s => withSign fp32 s 0
    | 1, .inf s => if s then nanCode fp32 else 0
    | 3, .inf s => if s then 0 else infCode fp32
    | 4, .inf s => if s then nanCode fp32 else infCode fp32
    | _, .inf _ => if isNan (decodeF fp32 cand.toNat) then nanCode fp32 else cand.toNat
  BitVec.ofNat 32 code

/-! ### Integers from values -/

/-- A finite magnitude rounded to an integer. -/
def toInt (rm : Nat) (s : Bool) (m : Nat) (e : Int) : Int := signed s (roundAt rm s m e 0 false)

def clampI (lo hi v : Int) : Int := if v < lo then lo else if hi < v then hi else v

/-- FP to S32 or U32 (R199): rounded, clamped; NaN gives 0. -/
def cvtToInt (rm : Nat) (lo hi : Int) (v : FV) : Int :=
  match v with
  | .nan => 0
  | .inf s => if s then lo else hi
  | .fin s m e => clampI lo hi (toInt rm s m e)

/-! ### Matrix formats (R153) -/

/-- Width in bits of a matrix format's elements. -/
def mtxWidth (c : Nat) : Nat :=
  if c = 0 then 32 else if c ≤ 2 then 16 else if c ≤ 6 then 8 else 4
def mtxIsInt (c : Nat) : Bool := c == 5 || c == 6 || c == 8
def mtxFmt (c : Nat) : Fmt := match c with | 0 => fp32 | 1 => fp16 | 2 => bf16 | 3 => ek8a | 4 => ek8b | _ => ek4
/-- The integer value of an integer element (R182). -/
def mtxInt (c x : Nat) : Int := match c with | 5 => sextNat 8 x | 6 => x | _ => sextNat 4 x

/-- Limits of an integer matrix format. -/
def mtxLimits (c : Nat) : Int × Int := match c with | 5 => (-128, 127) | 6 => (0, 255) | _ => (-8, 7)

/-- A conversion of a tensor operation (R193, R194): the code and whether it is counted. -/
def tensorConvert (c : Nat) (sat : Bool) (rm : Nat) (v : FV) : Nat × Bool :=
  if mtxIsInt c then
    let (lo, hi) := mtxLimits c
    let code (i : Int) : Nat := (i % 2 ^ mtxWidth c).toNat
    match v with
    | .nan => (0, true)
    | .inf s => (code (if s then lo else hi), true)
    | .fin s m e =>
      let i := toInt rm s m e
      (code (clampI lo hi i), decide (i < lo) || decide (hi < i))
  else
    let f := mtxFmt c
    match v with
    | .nan => (nanCode f, false)
    | .inf s => if f.ieee && !sat then (withSign f s (infCode f), false) else (withSign f s (maxFinite f), true)
    | .fin s m e =>
      let (r, q) := roundPrec f rm s m e false
      if r = 0 then (0, false)
      else match encodeMag f r q with
        | some c => (withSign f s c, false)
        | none => if f.ieee && !sat then (withSign f s (infCode f), false) else (withSign f s (maxFinite f), true)

/-- Minimum and maximum of tensor operations (R195). -/
def plusZero (v : FV) : FV := match v with | .fin _ 0 _ => .fin false 0 0 | v => v
def tMax (a b : FV) : FV :=
  if isNan a then b else if isNan b then a
  else if cmpFV a b = 0 then plusZero a else if cmpFV a b < 0 then b else a
def tMin (a b : FV) : FV :=
  if isNan a then b else if isNan b then a
  else if cmpFV a b = 0 then plusZero a else if cmpFV a b < 0 then a else b

/-- Rounding to FP32 precision inside MST, with no exponent limit at either end (R196). -/
def round32Wide (v : FV) : FV :=
  match v with
  | .fin s m e =>
    let q := max e (e + bitLen m - (fp32.mb + 1))
    .fin s (roundAt 0 s m e q false) q
  | v => v

end Sys2Proof.Machine
end

