-- ==== Sys2Proof/Machine/Alu.lean ====
section
/-! DEFINITION. Alu.lean: what arithmetic, conversion, group-operation and matrix instructions compute from a group's
registers (04 R144-R147, R157-R159, R164; 03 R97-R100, R119-R121; 05). -/
namespace Sys2Proof.Machine

/-! ### Arithmetic (Table 4.4, R144, R145) -/

/-- One FP operation on codes of a format; `m` is MOD. -/
def fpOp (f : Fmt) (op m a b c : Nat) : Nat :=
  let sgn := signBit f
  let a := if m.testBit 2 then a ^^^ sgn else a
  let c := if m.testBit 3 then c ^^^ sgn else c
  let rm := m % 4
  let x := decodeF f a
  let y := decodeF f b
  match op with
  | 0 => encodeFV f rm (addFV rm x y)
  | 1 => encodeFV f rm (addFV rm x (negFV y))
  | 2 => encodeFV f rm (mulFV x y)
  | 3 => encodeFV f rm (addFV rm (mulFV x y) (decodeF f c))
  | 4 => encodeFV f rm (minFV x y)
  | 5 => encodeFV f rm (maxFV x y)
  | 6 => a % sgn
  | _ => a ^^^ sgn

/-- One integer operation modulo 2^32; `sg`: S32. -/
def intOp (sg : Bool) (op : Nat) (a b c : W32) : W32 :=
  let lt (x y : W32) : Bool := if sg then decide (x.toInt < y.toInt) else decide (x.toNat < y.toNat)
  match op with
  | 0x00 => a + b
  | 0x01 => a - b
  | 0x02 => a * b
  | 0x03 => a * b + c
  | 0x04 => if lt b a then b else a
  | 0x05 => if lt a b then b else a
  | 0x06 => if sg && decide (a.toInt < 0) then -a else a
  | 0x07 => -a
  | 0x08 => a &&& b
  | 0x09 => a ||| b
  | 0x0A => a ^^^ b
  | 0x0B => ~~~a
  | 0x0C => a <<< (b.toNat % 32)
  | 0x0D => a >>> (b.toNat % 32)
  | 0x0E => BitVec.sshiftRight a (b.toNat % 32)
  | 0x11 => if sg then ofI 32 (a.toInt * b.toInt / 2 ^ 32) else BitVec.ofNat 32 (a.toNat * b.toNat / 2 ^ 32)
  | 0x12 => BitVec.ofNat 32 (popcount a)
  | _ => BitVec.ofNat 32 (32 - bitLen a.toNat)

/-- The format of an FP type code. -/
def typeFmt (t : Nat) : Fmt := match t with | 0 => fp32 | 1 => fp16 | _ => bf16

def loHalf (a : W32) : Nat := a.toNat % 65536
def hiHalf (a : W32) : Nat := a.toNat / 65536
def pairOf (l h : Nat) : W32 := BitVec.ofNat 32 (l % 65536 + h % 65536 * 65536)

/-- The value of an arithmetic operation other than SEL and SETP. -/
def arithVal (op t m : Nat) (a b c : W32) : W32 :=
  match t with
  | 0 => BitVec.ofNat 32 (fpOp fp32 op m a.toNat b.toNat c.toNat)
  | 3 => intOp true op a b c
  | 4 => intOp false op a b c
  | _ => pairOf (fpOp (typeFmt t) op m (loHalf a) (loHalf b) (loHalf c)) (fpOp (typeFmt t) op m (hiHalf a) (hiHalf b) (hiHalf c))

/-- SEL: SA with its sign negated by MOD[61] for FP types, or SB. -/
def selVal (t m : Nat) (p : Bool) (a b : W32) : W32 :=
  if p then
    (if m.testBit 2 && decide (t ≤ 2) then (if t = 0 then a ^^^ 0x80000000 else a ^^^ 0x80008000) else a)
  else b

def fpCompare (f : Fmt) (cc a b : Nat) : Bool :=
  let x := decodeF f a
  let y := decodeF f b
  let un := isNan x || isNan y
  cmpCode cc un (if un then 0 else cmpFV x y)

/-- SETP (R145). -/
def setpVal (t m : Nat) (a b : W32) : Bool :=
  let cc := m % 8
  match t with
  | 0 => fpCompare fp32 cc a.toNat b.toNat
  | 3 => cmpCode cc false ((a.toInt - b.toInt).sign)
  | 4 => cmpCode cc false (((a.toNat : Int) - b.toNat).sign)
  | _ =>
    let f := typeFmt t
    let l := fpCompare f cc (loHalf a) (loHalf b)
    let h := fpCompare f cc (hiHalf a) (hiHalf b)
    if m.testBit 3 then l || h else l && h

/-- A vector or uniform arithmetic instruction: operands read by `rd kind field`, the predicate of SEL by `pr`. -/
def arithRead (w : W64) (rd : Nat → Nat → PV) (pr : Nat → Bool × Bool) : PV :=
  let op := iOp w
  let n := arithSrcs op
  let a := rd (iKa w) (iSa w)
  let b := if 2 ≤ n then rd (iKb w) (iSb w) else (0, false)
  let c := if n = 3 then rd (iKc w) (iSc w) else (0, false)
  let poison := a.2 || b.2 || c.2
  if op = 0xF then
    let p := pr (iSc w)
    (selVal (iType w) (iMod w) p.1 a.1 b.1, poison || p.2)
  else (arithVal op (iType w) (iMod w) a.1 b.1 c.1, poison)

/-- SETP's result and poison. -/
def setpRead (w : W64) (rd : Nat → Nat → PV) : Bool × Bool :=
  let a := rd (iKa w) (iSa w)
  let b := rd (iKb w) (iSb w)
  (setpVal (iType w) (iMod w) a.1 b.1, a.2 || b.2)

/-- VALU on the lanes `m`. -/
def valuGroup (w ext : W64) (m : W32) (g : Group) : Group :=
  if iOp w = 0x10 then wrP (iDst w) m (fun l => setpRead w (fun k f => rdSrc g k f 0 l ext)) g
  else wrV (iDst w) m (fun l => arithRead w (fun k f => rdSrc g k f 0 l ext) (fun p => rdP g p l)) g

/-- UALU (R144, R145): SETP writes every lane; `lane` is the lane whose predicate SEL reads. -/
def ualuGroup (w ext : W64) (lane : Nat) (g : Group) : Group :=
  let rd (k f : Nat) : PV := rdSrc g k f 0 0 ext
  if iOp w = 0x10 then let v := setpRead w rd; wrP (iDst w) allLanes (fun _ => v) g
  else wrU (iDst w) (arithRead w rd (fun p => rdP g p lane)) g

/-- VSFU on the lanes `m`. -/
def vsfuGroup (w ext : W64) (m : W32) (g : Group) : Group :=
  wrV (iDst w) m (fun l => let a := rdSrc g (iKa w) (iSa w) 0 l ext; (vsfuCode (iOp w) a.1, a.2)) g

/-! ### Conversion (R147, R199) -/

/-- One value from a source type, given as its code, to a destination type's code. -/
def cvtOne (src dst rm : Nat) (x : Nat) : Nat :=
  let w : W32 := BitVec.ofNat 32 x
  let fromInt (v : Int) : Nat :=
    if dst = 3 then (clampI (-2147483648) 2147483647 v % 2 ^ 32).toNat
    else if dst = 4 then (clampI 0 4294967295 v).toNat
    else roundIeee (typeFmt dst) rm (decide (v < 0)) v.natAbs 0 false
  if src = 3 then fromInt w.toInt
  else if src = 4 then fromInt w.toNat
  else
    let v := decodeF (typeFmt src) x
    if dst = 3 then (cvtToInt rm (-2147483648) 2147483647 v % 2 ^ 32).toNat
    else if dst = 4 then (cvtToInt rm 0 4294967295 v).toNat
    else encodeFV (typeFmt dst) rm v

def isPair (t : Nat) : Bool := t == 1 || t == 2

/-- CVT of a register (R199). -/
def cvtVal (src dst rm : Nat) (a : W32) : W32 :=
  if src = dst then a
  else if isPair src && isPair dst then pairOf (cvtOne src dst rm (loHalf a)) (cvtOne src dst rm (hiHalf a))
  else
    let x := if isPair src then loHalf a else a.toNat
    BitVec.ofNat 32 (cvtOne src dst rm x)

def cvtGroup (w ext : W64) (m : W32) (g : Group) : Group :=
  wrV (iDst w) m (fun l => let a := rdSrc g (iKa w) (iSa w) 0 l ext; (cvtVal (iMod w % 8) (iType w) (iMod w / 8) a.1, a.2)) g

/-- MOV: an immediate or any register, with its mark. -/
def movGroup (w ext : W64) (m : W32) (g : Group) : Group := wrV (iDst w) m (fun l => rdSrc g (iKa w) (iSa w) 0 l ext) g
def umovGroup (w ext : W64) (g : Group) : Group := wrU (iDst w) (rdSrc g (iKa w) (iSa w) 0 0 ext) g

/-! ### Group operations (R97-R100, R121, R164) -/

def gopWidth (w : W64) : Nat := 2 ^ (iMod w % 8 + 1)
def segBase (wd l : Nat) : Nat := l / wd * wd
/-- Active lanes of lane `l`'s segment. -/
def segLanes (wd : Nat) (m : W32) (l : Nat) : List Nat := ((List.range wd).map (segBase wd l + ·)).filter fun i => bit m i

/-- Source lane of a shuffle (R97). -/
def shflLane (op wd l o : Nat) : Nat :=
  let b := segBase wd l
  match op with
  | 0 => b + o % wd
  | 1 => if b + o ≤ l then l - o else l
  | 2 => if l + o < b + wd then l + o else l
  | _ => let x := l ^^^ o; if segBase wd x = b then x else l

/-- A shuffle's poisoned index in an executing lane (Table 3.4). -/
def shflFault (w ext : W64) (m : W32) (g : Group) : Bool := anyLane m fun l => (rdSrc g (iKb w) (iSb w) 0 l ext).2

def shflGroup (w ext : W64) (m : W32) (g : Group) : Group :=
  wrV (iDst w) m (fun l => rdV g (iSa w) (shflLane (iOp w) (gopWidth w) l (rdSrc g (iKb w) (iSb w) 0 l ext).1.toNat)) g

/-- VOTE.ALL, ANY, BALLOT and UNI over the executing lanes of each segment. -/
def voteGroup (w : W64) (m : W32) (g : Group) : Group :=
  let wd := gopWidth w
  let pr (l : Nat) := rdP g (iSa w) l
  let ppois (l : Nat) : Bool := (segLanes wd m l).any fun i => (pr i).2
  match iOp w with
  | 0x08 => wrP (iDst w) m (fun l => ((segLanes wd m l).all (fun i => (pr i).1), ppois l)) g
  | 0x09 => wrP (iDst w) m (fun l => ((segLanes wd m l).any (fun i => (pr i).1), ppois l)) g
  | 0x0A =>
    let ballot (l : Nat) : PV := (maskOf 32 ((segLanes wd m l).filter fun i => (pr i).1), ppois l)
    let g' := wrV (iDst w) m ballot g
    if iSc w = 0xFF || m == 0 then g' else wrU (iSc w) (ballot 0) g'
  | _ =>
    let val (l : Nat) := rdV g (iSa w) l
    let vpois (l : Nat) : Bool := (segLanes wd m l).any fun i => (val i).2
    wrP (iDst w) m (fun l => ((segLanes wd m l).all (fun i => (val i).1 == (val l).1), vpois l)) g

def matchGroup (w : W64) (m : W32) (g : Group) : Group :=
  let wd := gopWidth w
  let val (l : Nat) := rdV g (iSa w) l
  wrV (iDst w) m (fun l => (maskOf 32 ((segLanes wd m l).filter fun i => (val i).1 == (val l).1),
    (segLanes wd m l).any fun i => (val i).2)) g

/-- One combination of a reduction; an inactive lane is the identity. -/
def redOp (op t : Nat) (a b : Option W32) : Option W32 :=
  match a, b with
  | none, y => y
  | x, none => x
  | some x, some y =>
    let o := match op with | 0x10 => 0x00 | 0x11 => 0x04 | 0x12 => 0x05 | 0x13 => 0x08 | 0x14 => 0x09 | _ => 0x0A
    some (arithVal o t 0 x y 0)

/-- The fixed pairwise tree (R100) over a list whose length is a power of two. -/
def redPairs (op t : Nat) : List (Option W32) → List (Option W32)
  | a :: b :: r => redOp op t a b :: redPairs op t r
  | l => l
def redTree (op t : Nat) : Nat → List (Option W32) → Option W32
  | 0, l => (l.head?).getD none
  | n + 1, l => redTree op t n (redPairs op t l)

/-- A NaN that a reduction of FP32 values produces is the canonical one, of a single lane too (R181). -/
def canonNan (t : Nat) (v : W32) : W32 := if t = 0 && isNan (decodeF fp32 v.toNat) then BitVec.ofNat 32 (nanCode fp32) else v

def redGroup (w : W64) (m : W32) (g : Group) : Group :=
  let wd := gopWidth w
  let val (l : Nat) := rdV g (iSa w) l
  let seg (l : Nat) := (List.range wd).map fun i => let x := segBase wd l + i; if bit m x then some (val x).1 else none
  wrV (iDst w) m (fun l => (canonNan (iType w) ((redTree (iOp w) (iType w) (iMod w % 8 + 1) (seg l)).getD 0),
    (segLanes wd m l).any fun i => (val i).2)) g

/-! ### Matrix fragments (R154, R157, R158, R186-R191) -/

/-- The 64 bytes of row (or column) `r` of a fragment as a number. -/
def fragRow (g : Group) (base r : Nat) : Nat :=
  (List.range 16).foldl (fun a i => a + (rdV g (base + i % 8) (r + 16 * (i / 8))).1.toNat * 2 ^ (32 * i)) 0
/-- Is any element of the row poisoned? -/
def fragPoison (g : Group) (base r : Nat) : Bool :=
  (List.range 16).any fun i => (rdV g (base + i % 8) (r + 16 * (i / 8))).2
/-- With VZ as the operand every element is zero. -/
def fragRow' (g : Group) (f r : Nat) : Nat := if f = 0xFF then 0 else fragRow g f r
def fragPoison' (g : Group) (f r : Nat) : Bool := f != 0xFF && fragPoison g f r

/-- Element `k` of a row. -/
def fragElem (bits row k : Nat) : Nat := row / 2 ^ (bits * k) % 2 ^ bits

/-- The scale code of element `k` of row `r` (R158, R183): byte b of the half row's lane. -/
def scaleCode (g : Group) (reg bits r k : Nat) : Nat × Bool :=
  let per := 256 / bits
  let v := if reg = 0xFF then (0, false) else rdV g reg (r + 16 * (k / per))
  (v.1.toNat / 2 ^ (8 * (k % per / 32)) % 256, v.2)

/-- An element's value with its block scale. -/
def scaled (v : FV) (sc : Option Nat) : FV :=
  match sc, v with
  | none, v => v
  | some 0xFF, _ => .nan
  | some s, .fin n m e => .fin n m (e + s - 127)
  | _, v => v

/-- Exact sum of FP values with the specials of R188; an exact zero is +0. -/
def sumFV (l : List FV) : FV :=
  if l.any isNan then .nan
  else
    let ip := l.any fun v => v == .inf false
    let im := l.any fun v => v == .inf true
    if ip && im then .nan else if ip then .inf false else if im then .inf true
    else ofExact false (l.foldl (fun a v => match v with | .fin s m e => sumExact a (signed s m, e) | _ => a) (0, 0))

/-- One output element of an FP MMA (R187-R189): chunks of 16 exact products, one FP32 rounding each. -/
def mmaChunks : List FV → Nat → Nat → FV
  | ps, acc, n =>
    match n with
    | 0 => decodeF fp32 acc
    | n + 1 =>
      let v := sumFV (decodeF fp32 acc :: ps.take 16)
      let c := encodeFV fp32 0 (plusZero v)
      mmaChunks (ps.drop 16) (if c = 0x80000000 then 0 else c) n

/-- The code of an FP32 result of a tensor operation: never -0 (R194). -/
def tensorCode (v : FV) : Nat := let c := encodeFV fp32 0 v; if c = 0x80000000 then 0 else c

/-- One output element of an MMA: its code and whether it saturated (R190). -/
def mmaElem (fa fb : Nat) (rowA colB c : Nat) (sa sb : Nat → Option Nat) : Nat × Bool :=
  let bits := mtxWidth fa
  let k := 512 / bits
  if mtxIsInt fa then
    let s := (List.range k).foldl (fun (a : Int) i => a + mtxInt fa (fragElem bits rowA i) * mtxInt fb (fragElem bits colB i))
      (BitVec.ofNat 32 c).toInt
    ((clampI (-2147483648) 2147483647 s % 2 ^ 32).toNat, decide (s < -2147483648) || decide (2147483647 < s))
  else
    let ps := (List.range k).map fun i => mulFV (scaled (decodeF (mtxFmt fa) (fragElem bits rowA i)) (sa i))
      (scaled (decodeF (mtxFmt fb) (fragElem bits colB i)) (sb i))
    (tensorCode (mmaChunks ps c (k / 16)), false)

/-- MMA on a group (R157, R158, R120): the group, and the number of saturated elements. -/
def mmaGroup (w ext : W64) (g : Group) : Group × Nat :=
  let fa := fld w 59 56
  let fb := fld w 63 60
  let bits := mtxWidth fa
  let sc (reg r : Nat) (i : Nat) : Option Nat := if iExt w then some (scaleCode g reg bits r i).1 else none
  let scPois (reg r : Nat) : Bool := iExt w && reg != 0xFF && ((rdV g reg r).2 || (rdV g reg (r + 16)).2)
  let cAt (r c : Nat) : PV := if iSc w = 0xFF then (0, false) else rdV g (iSc w + c % 8) (r + 16 * (c / 8))
  let rows := (List.range 16).map fun r => (fragRow' g (iSa w) r, fragPoison' g (iSa w) r || scPois (fld ext 7 0) r)
  let cols := (List.range 16).map fun c => (fragRow' g (iSb w) c, fragPoison' g (iSb w) c || scPois (fld ext 15 8) c)
  let out : List (List (PV × Bool)) := (List.range 16).map fun r => (List.range 16).map fun c =>
    let ra := rows.getD r (0, false)
    let cb := cols.getD c (0, false)
    let cc := cAt r c
    let e := mmaElem fa fb ra.1 cb.1 cc.1.toNat (sc (fld ext 7 0) r) (sc (fld ext 15 8) c)
    ((BitVec.ofNat 32 e.1, ra.2 || cb.2 || cc.2), e.2)
  let at' (r c : Nat) : PV := ((out.getD r []).getD c ((0, false), false)).1
  let sats := (out.map fun row => (row.filter (·.2)).length).foldl (· + ·) 0
  (wrVs (iDst w) 8 allLanes (fun j l => at' (l % 16) (8 * (l / 16) + j)) g, sats)

/-- One output element of MST (R159, R196): code, counted. -/
def mstElem (fmt : Nat) (nosat : Bool) (rm : Nat) (aint : Bool) (a scale bias : Nat) (clip : Option (Nat × Nat)) : Nat × Bool :=
  let v := if aint then
      let i := (BitVec.ofNat 32 a).toInt
      decodeF fp32 (roundIeee fp32 0 (decide (i < 0)) i.natAbs 0 false)
    else decodeF fp32 a
  let v := round32Wide (addFV 0 (mulFV v (decodeF fp32 scale)) (decodeF fp32 bias))
  let v := match clip with
    | none => v
    | some (lo, hi) => tMin (tMax v (decodeF fp32 lo)) (decodeF fp32 hi)
  tensorConvert fmt (!nosat) rm v

end Sys2Proof.Machine
end

