-- ==== Sys2Proof/Machine/Hash.lean ====
section
/-! DEFINITION. Hash.lean: SHA3-512 and SHAKE256 of FIPS 202 (07 R246, 20 R628, R632), CRC-32 and Adler-32 of the gzip and
zlib formats (16 R553, R556), and the CRC-64 of signatures (08 R309). -/
namespace Sys2Proof.Machine

/-! ### Keccak -/

/-- Round constants of Keccak-f[1600]. -/
def keccakRc : List W64 :=
  [0x0000000000000001, 0x0000000000008082, 0x800000000000808A, 0x8000000080008000, 0x000000000000808B, 0x0000000080000001,
   0x8000000080008081, 0x8000000000008009, 0x000000000000008A, 0x0000000000000088, 0x0000000080008009, 0x000000008000000A]
  ++ [0x000000008000808B, 0x800000000000008B, 0x8000000000008089, 0x8000000000008003, 0x8000000000008002, 0x8000000000000080,
   0x000000000000800A, 0x800000008000000A, 0x8000000080008081, 0x8000000000008080, 0x0000000080000001, 0x8000000080008008]

/-- Rotation offsets, lane x + 5y. -/
def keccakRot : List Nat :=
  [0, 1, 62, 28, 27, 36, 44, 6, 55, 20, 3, 10, 43, 25, 39, 41, 45, 15, 21, 8, 18, 2, 61, 56, 14]

def lane (a : List W64) (i : Nat) : W64 := a.getD i 0

/-- One round: theta, rho, pi, chi, iota. -/
def keccakRound (a : List W64) (rc : W64) : List W64 :=
  let c := (List.range 5).map fun x => lane a x ^^^ lane a (x + 5) ^^^ lane a (x + 10) ^^^ lane a (x + 15) ^^^ lane a (x + 20)
  let d := (List.range 5).map fun x => lane c ((x + 4) % 5) ^^^ (lane c ((x + 1) % 5)).rotateLeft 1
  let t := (List.range 25).map fun i => (lane a i ^^^ lane d (i % 5)).rotateLeft (keccakRot.getD i 0)
  -- pi: lane (x, y) of the result is lane (x + 3y, x) of t
  let b := (List.range 25).map fun i => let x := i % 5; let y := i / 5; lane t ((x + 3 * y) % 5 + 5 * x)
  let r := (List.range 25).map fun i => let x := i % 5; let y := i / 5 * 5; lane b i ^^^ (~~~(lane b ((x + 1) % 5 + y)) &&& lane b ((x + 2) % 5 + y))
  r.set 0 (lane r 0 ^^^ rc)

def keccakF (a : List W64) : List W64 := keccakRc.foldl keccakRound a

/-- 64-bit words of bytes. -/
def bytesW64N : Nat → List Byte → List W64
  | 0, _ => []
  | n + 1, bs => BitVec.ofNat 64 (leVal (bs.take 8)) :: bytesW64N n (bs.drop 8)
def bytesW64 (bs : List Byte) : List W64 := bytesW64N (bs.length / 8) bs

/-- Absorb whole blocks of `rate` bytes. -/
def keccakAbsorb (rate : Nat) : Nat → List Byte → List W64 → List W64
  | 0, _, a => a
  | n + 1, bs, a =>
    let m := bytesW64 (bs.take rate)
    keccakAbsorb rate n (bs.drop rate) (keccakF ((List.range 25).map fun i => lane a i ^^^ lane m i))

/-- Padding with the domain byte and the final bit. -/
def keccakPad (rate : Nat) (dom : Byte) (bs : List Byte) : List Byte :=
  let n := rate - bs.length % rate
  if n = 1 then bs ++ [dom ||| 0x80] else bs ++ [dom] ++ List.replicate (n - 2) 0 ++ [0x80]

/-- The first `n` bytes (at most `rate`) of the sponge's output. -/
def keccak (rate : Nat) (dom : Byte) (n : Nat) (bs : List Byte) : List Byte :=
  let p := keccakPad rate dom bs
  let a := keccakAbsorb rate (p.length / rate) p (List.replicate 25 0)
  (a.flatMap fun w => leBytes 8 w.toNat).take n

def sha3_512 (bs : List Byte) : List Byte := keccak 72 0x06 64 bs
/-- SHAKE256 with at most 136 bytes of output. -/
def shake256 (n : Nat) (bs : List Byte) : List Byte := keccak 136 0x1F n bs

/-! ### Checks -/

def crcBits {n : Nat} (poly : BitVec n) : Nat → BitVec n → BitVec n
  | 0, c => c
  | k + 1, c => crcBits poly k (if c.getLsbD 0 then (c >>> 1) ^^^ poly else c >>> 1)

/-- A reflected CRC with initial value and final exclusive-or all ones. -/
def crcRefl {n : Nat} (poly : BitVec n) (bs : List Byte) : BitVec n :=
  ~~~(bs.foldl (fun c b => crcBits poly 8 (c ^^^ b.setWidth n)) (BitVec.allOnes n))

def crc32 (bs : List Byte) : W32 := crcRefl 0xEDB88320 bs
/-- ECMA-182, reflected. -/
def crc64 (bs : List Byte) : W64 := crcRefl 0xC96C5795D7870F42 bs

def adler32 (bs : List Byte) : W32 :=
  let r := bs.foldl (fun (p : Nat × Nat) b => let a := (p.1 + b.toNat) % 65521; (a, (p.2 + a) % 65521)) (1, 0)
  BitVec.ofNat 32 (r.2 * 65536 + r.1)

/-- The digest as one number, byte 0 least significant. -/
def digestVal (bs : List Byte) : BitVec 512 := BitVec.ofNat 512 (leVal bs)

end Sys2Proof.Machine
end

