-- ==== Sys2Proof/Machine/Inflate.lean ====
section
/-! DEFINITION. Inflate.lean: the decoder of RFC 1951 streams and of the zlib and gzip wrappers (16 R555-R557; 08 R282). -/
namespace Sys2Proof.Machine

/-- How decoding ended: the stream was complete, the input ended early, the input breaks the format, the output is full. -/
inductive InfEnd where
  | complete | short | bad | full
  deriving DecidableEq, Repr

/-- Decoder state: bits not yet read, output newest first, its length, the most it may hold. -/
structure Inf where
  bits : List Bool
  out : List Byte := []
  n : Nat := 0
  max : Nat
  deriving DecidableEq, Repr

def byteBits (b : Byte) : List Bool := (List.range 8).map fun i => b.getLsbD i
def toBits (bs : List Byte) : List Bool := bs.flatMap byteBits

/-- `k` bits as a number, least significant first. -/
def takeBits : Nat → List Bool → Option (Nat × List Bool)
  | 0, l => some (0, l)
  | _ + 1, [] => none
  | k + 1, b :: l => match takeBits k l with
    | some (v, r) => some (b.toNat + 2 * v, r)
    | none => none

/-- Output one byte. -/
def Inf.put (b : Byte) (x : Inf) : Except InfEnd Inf :=
  if x.n < x.max then .ok { x with out := b :: x.out, n := x.n + 1 } else .error .full

/-- Copy `k` bytes from distance `d`. -/
def Inf.copy (d : Nat) : Nat → Inf → Except (InfEnd × Inf) Inf
  | 0, x => .ok x
  | k + 1, x => match x.put (x.out.getD (d - 1) 0) with
    | .ok y => Inf.copy d k y
    | .error e => .error (e, x)

/-- A canonical Huffman code: the number of codes of each length 1-15 and the symbols by length, then value. -/
structure Huff where
  counts : List Nat
  syms : List Nat
  deriving DecidableEq, Repr

def mkHuff (lens : List Nat) : Huff :=
  let idx := List.range lens.length
  { counts := (List.range 15).map fun k => (lens.filter (· == k + 1)).length
    syms := (List.range 15).flatMap fun k => idx.filter fun i => lens.getD i 0 == k + 1 }

/-- Codes left unused at length 15; negative when over-subscribed. -/
def huffLeft (h : Huff) : Int := h.counts.foldl (fun (l : Int) (c : Nat) => 2 * l - (c : Int)) (1 : Int)

/-- Read one symbol: counts still to try, with the code, the first code and the index of its length. -/
def huffSym (syms : List Nat) : List Nat → Nat → Nat → Nat → List Bool → Option (Nat × List Bool)
  | [], _, _, _, _ => none
  | _ :: _, _, _, _, [] => none
  | c :: cs, code, first, index, b :: r =>
    let code := code + b.toNat
    if code < first + c then some (syms.getD (index + (code - first)) 0, r)
    else huffSym syms cs (2 * code) (2 * (first + c)) (index + c) r

def Huff.read (h : Huff) (l : List Bool) : Option (Nat × List Bool) := huffSym h.syms h.counts 0 0 0 l

def lenBase : List Nat := [3, 4, 5, 6, 7, 8, 9, 10, 11, 13, 15, 17, 19, 23, 27, 31, 35, 43, 51, 59, 67, 83, 99, 115, 131, 163, 195, 227, 258]
def lenExtra : List Nat := [0, 0, 0, 0, 0, 0, 0, 0, 1, 1, 1, 1, 2, 2, 2, 2, 3, 3, 3, 3, 4, 4, 4, 4, 5, 5, 5, 5, 0]
def distBase : List Nat :=
  [1, 2, 3, 4, 5, 7, 9, 13, 17, 25, 33, 49, 65, 97, 129, 193, 257, 385, 513, 769, 1025, 1537, 2049, 3073, 4097, 6145, 8193, 12289, 16385, 24577]
def distExtra : List Nat := (List.range 30).map fun i => if i < 2 then 0 else i / 2 - 1

/-- Is a stream exhausted, or does it hold a code that nothing assigns? -/
def shortOr (l : List Bool) : InfEnd := if l.length < 15 then .short else .bad

/-- Symbols of a block with Huffman codes; `fuel` bounds the symbols. -/
def infSyms (lit dist : Huff) : Nat → Inf → Except (InfEnd × Inf) Inf
  | 0, x => .error (.short, x)
  | f + 1, x =>
    match lit.read x.bits with
    | none => .error (shortOr x.bits, x)
    | some (s, r) =>
      if s < 256 then
        match ({ x with bits := r } : Inf).put (BitVec.ofNat 8 s) with
        | .ok y => infSyms lit dist f y
        | .error e => .error (e, x)
      else if s = 256 then .ok { x with bits := r }
      else if 286 ≤ s then .error (.bad, x)
      else
        match takeBits (lenExtra.getD (s - 257) 0) r with
        | none => .error (.short, x)
        | some (le, r) =>
          match dist.read r with
          | none => .error (shortOr r, x)
          | some (ds, r) =>
            if 30 ≤ ds then .error (.bad, x)
            else match takeBits (distExtra.getD ds 0) r with
              | none => .error (.short, x)
              | some (de, r) =>
                let d := distBase.getD ds 1 + de
                if x.n < d then .error (.bad, x)
                else match Inf.copy d (lenBase.getD (s - 257) 3 + le) { x with bits := r } with
                  | .ok y => infSyms lit dist f y
                  | .error e => .error e

def fixedLit : Huff := mkHuff (List.replicate 144 8 ++ List.replicate 112 9 ++ List.replicate 24 7 ++ List.replicate 8 8)
def fixedDist : Huff := mkHuff (List.replicate 30 5)

/-- Code lengths of a dynamic block (RFC 1951, 3.2.7). -/
def infLens (cl : Huff) (total : Nat) : Nat → List Nat → List Bool → Except InfEnd (List Nat × List Bool)
  | 0, _, _ => .error .bad
  | f + 1, acc, l =>
    if acc.length = total then .ok (acc, l)
    else match cl.read l with
      | none => .error (if l.length < 7 then .short else .bad)
      | some (s, r) =>
        if s < 16 then infLens cl total f (acc ++ [s]) r
        else
          let (eb, base, v) := if s = 16 then (2, 3, acc.getLast?) else if s = 17 then (3, 3, some 0) else (7, 11, some 0)
          match v, takeBits eb r with
          | none, _ => .error .bad
          | _, none => .error .short
          | some v, some (e, r) =>
            if total < acc.length + base + e then .error .bad else infLens cl total f (acc ++ List.replicate (base + e) v) r

def clOrder : List Nat := [16, 17, 18, 0, 8, 7, 9, 6, 10, 5, 11, 4, 12, 3, 13, 2, 14, 1, 15]

/-- `k` code-length code lengths of 3 bits. -/
def clLens : Nat → List Bool → Option (List Nat × List Bool)
  | 0, l => some ([], l)
  | k + 1, l => match takeBits 3 l with
    | none => none
    | some (v, r) => match clLens k r with
      | none => none
      | some (vs, r) => some (v :: vs, r)

/-- The codes of a dynamic block. -/
def infDyn (l : List Bool) : Except InfEnd (Huff × Huff × List Bool) :=
  match takeBits 14 l with
  | none => .error .short
  | some (h, r) =>
    let nlit := h % 32 + 257
    let ndist := h / 32 % 32 + 1
    let ncl := h / 1024 + 4
    if 286 < nlit then .error .bad
    else match clLens ncl r with
      | none => .error .short
      | some (cls, r) =>
        let lens := (List.range 19).map fun i => match (clOrder.take ncl).findIdx? (· == i) with | some k => cls.getD k 0 | none => 0
        let cl := mkHuff lens
        if huffLeft cl ≠ 0 then .error .bad
        else match infLens cl (nlit + ndist) (nlit + ndist + 1) [] r with
          | .error e => .error e
          | .ok (ls, r) =>
            let lit := mkHuff (ls.take nlit)
            let dist := mkHuff (ls.drop nlit)
            if ls.getD 256 0 = 0 ∨ huffLeft lit ≠ 0 ∨ huffLeft dist < 0 ∨ (0 < huffLeft dist ∧ !((ls.drop nlit).all fun n => n == 0 || n == 1)) ∨ (0 < huffLeft dist ∧ 1 < dist.syms.length) then .error .bad
            else .ok (lit, dist, r)

/-- Bytes of a stored block. -/
def infStored : Nat → Inf → Except (InfEnd × Inf) Inf
  | 0, x => .ok x
  | k + 1, x => match takeBits 8 x.bits with
    | none => .error (.short, x)
    | some (b, r) => match ({ x with bits := r } : Inf).put (BitVec.ofNat 8 b) with
      | .ok y => infStored k y
      | .error e => .error (e, x)

/-- Skip to a byte boundary: the number of bits left is a multiple of 8 there. -/
def alignBits (l : List Bool) : List Bool := l.drop (l.length % 8)

/-- Blocks until the final one; `flush`: the input may end on a byte boundary after a non-final block (R555). -/
def infBlocks (flush : Bool) : Nat → Inf → InfEnd × Inf
  | 0, x => (.short, x)
  | f + 1, x =>
    if flush && x.n != 0 && x.bits.isEmpty then (.complete, x)
    else match takeBits 3 x.bits with
    | none => (.short, x)
    | some (h, r) =>
      let go (e : Except (InfEnd × Inf) Inf) : InfEnd × Inf :=
        match e with
        | .error (e, y) => (e, y)
        | .ok y => if h % 2 = 1 then (.complete, y) else if flush && y.bits.isEmpty then (.complete, y) else infBlocks flush f y
      match h / 2 with
      | 0 =>
        (match takeBits 32 (alignBits r) with
         | none => (.short, x)
         | some (v, r) => if v % 65536 + v / 65536 ≠ 65535 then (.bad, x) else go (infStored (v % 65536) { x with bits := r }))
      | 1 => go (infSyms fixedLit fixedDist (r.length + 1) { x with bits := r })
      | 2 =>
        (match infDyn r with
         | .error e => (e, x)
         | .ok (lit, dist, r) => go (infSyms lit dist (r.length + 1) { x with bits := r }))
      | _ => (.bad, x)

/-- What decoding gives: how it ended, bytes produced, bytes consumed. -/
structure InfRes where
  fin : InfEnd
  out : List Byte
  used : Nat
  deriving DecidableEq, Repr

/-- Decode a raw stream with at most `max` bytes of output. -/
def inflateRaw (flush : Bool) (bs : List Byte) (max : Nat) : InfRes :=
  let b := toBits bs
  let (e, x) := infBlocks flush (b.length + 1) { bits := b, max := max }
  { fin := e, out := x.out.reverse, used := bs.length - x.bits.length / 8 }

/-- A slot's tile bytes: exactly 4,096 bytes within the sectors (R282). -/
def inflateTile (bs : List Byte) : Option (List Byte) :=
  let r := inflateRaw false bs 4096
  if r.fin == .complete && r.out.length == 4096 then some r.out else none

/-- Skip a zero-terminated field. -/
def skipZ : List Byte → Option (List Byte)
  | [] => none
  | b :: r => if b = 0 then some r else skipZ r

/-- Length of a gzip header, none where the input ends early or breaks it. -/
def gzipHeader (bs : List Byte) : Except InfEnd Nat :=
  if bs.length < 10 then .error .short
  else if leAt bs 0 2 ≠ 0x8B1F ∨ leAt bs 2 1 ≠ 8 ∨ leAt bs 3 1 / 32 ≠ 0 then .error .bad
  else
    let fl := leAt bs 3 1
    let r := bs.drop 10
    let r : Except InfEnd (List Byte) := if fl.testBit 2 then
        (if r.length < 2 ∨ r.length < 2 + leAt r 0 2 then .error .short else .ok (r.drop (2 + leAt r 0 2))) else .ok r
    let z (f : Nat) (r : Except InfEnd (List Byte)) : Except InfEnd (List Byte) :=
      match r with
      | .error e => .error e
      | .ok l => if fl.testBit f then (match skipZ l with | some l => .ok l | none => .error .short) else .ok l
    match z 4 (z 3 r) with
    | .error e => .error e
    | .ok l =>
      let n := bs.length - l.length
      if fl.testBit 1 then
        (if l.length < 2 then .error .short
         else if leAt l 0 2 ≠ (crc32 (bs.take n)).toNat % 65536 then .error .bad else .ok (n + 2))
      else .ok n

/-- Outcome of a whole decompression: status class and counts. -/
inductive DzEnd where
  | ok | stream | check | full
  deriving DecidableEq, Repr

def dzOfInf (e : InfEnd) : DzEnd := match e with | .complete => .ok | .full => .full | _ => .stream

/-- Decompress with WRAP 0 raw, 1 zlib, 2 gzip: end, output, bytes consumed (R555, R556). -/
def decompress (wrap : Nat) (flush : Bool) (bs : List Byte) (max : Nat) : DzEnd × List Byte × Nat :=
  match wrap with
  | 0 => let r := inflateRaw flush bs max; (dzOfInf r.fin, r.out, r.used)
  | 1 =>
    let h := leAt bs 0 1 * 256 + leAt bs 1 1
    if bs.length < 2 ∨ leAt bs 0 1 % 16 ≠ 8 ∨ 7 < leAt bs 0 1 / 16 ∨ h % 31 ≠ 0 ∨ (leAt bs 1 1).testBit 5 then (.stream, [], 0)
    else
      let r := inflateRaw flush (bs.drop 2) max
      if r.fin ≠ .complete then (dzOfInf r.fin, r.out, 2 + r.used)
      else
        let t := bs.drop (2 + r.used)
        if t.length < 4 then (.stream, r.out, bs.length)
        else
          let a := leAt t 0 1 * 16777216 + leAt t 1 1 * 65536 + leAt t 2 1 * 256 + leAt t 3 1
          (if a = (adler32 r.out).toNat then .ok else .check, r.out, 2 + r.used + 4)
  | _ =>
    match gzipHeader bs with
    | .error _ => (.stream, [], 0)
    | .ok n =>
      let r := inflateRaw flush (bs.drop n) max
      if r.fin ≠ .complete then (dzOfInf r.fin, r.out, n + r.used)
      else
        let t := bs.drop (n + r.used)
        if t.length < 8 then (.stream, r.out, bs.length)
        else (if leAt t 0 4 = (crc32 r.out).toNat ∧ leAt t 4 4 = r.out.length % 2 ^ 32 then .ok else .check, r.out, n + r.used + 8)

end Sys2Proof.Machine
end

