-- ==== Sys2Proof/Machine/Knot.lean ====
section
/-! DEFINITION. Knot.lean: knots: signals, abandonment, reset, registered waiters, signal sets, and what a braid's own knots
set off (10 R354-R362; 04 R170; 06 R203, R220, R221, R225, R226; 15 R526). -/
namespace Sys2Proof.Machine

/-- A snapshot holds knot operations, hits, publications and completions (R368). -/
def holding (s : State) : Bool := match s.snap.cur with | some c => c.triggered | none => false
def hold (h : Held) (s : State) : State := { s with snap := { s.snap with held := s.snap.held ++ [h] } }

/-- VALUE and ABANDON of a knot word (R354). -/
def knotVal (w : W64) : Nat := fld w 62 0
def knotAband (w : W64) : Bool := bit w 63

/-- Where a wait stands whose knot address faults under ZERO: it loads 0 (Table 14.5). No knot lies in LPDDR (R354), so the
place names none and nothing ever signals it (DEDUCED, unsafe, log 73). -/
def zeroKnot : Place := .lpddr (2 ^ 40)

/-- The knot word at a place, and whether it reads poisoned. -/
def knotRead (fn : Nat) (pl : Place) (s : State) : W64 × Bool × State :=
  match pl with
  | .lpddr _ => (0, false, s)
  | _ =>
    let (bs, s) := readPlace fn pl 8 s
    (BitVec.ofNat 64 (leVal (dataOf bs)), anyPoison bs, s)
def knotStore (fn : Nat) (pl : Place) (w : W64) (s : State) : State := writePlace fn pl (clean (leBytes 8 w.toNat)) s

/-- Value of a knot of the braid's own area, and of its result knot (R203), as a read delivers it (16 R543, R544); of one on another device,
what that device holds (DESIGN CHOICE, safe, log 100). -/
def bKnotVal (b off : Nat) (s : State) : Nat :=
  match knotPl b off s with
  | .peat a => fld (s.mm.peat.word (a / 8)).1 62 0
  | _ => fld (Config.peerKnot s.time s.freeCtr b off) 62 0
/-- What a read of one of the device's own words in Peat finds is counted (16 R543-R545). -/
def noteWord (a : Nat) (s : State) : State := eccNote false (a / 8) (s.mm.peat.word (a / 8)).2 s
/-- What the device's own read of such a knot finds. -/
def noteKnot (b off : Nat) (s : State) : State := match knotPl b off s with | .peat a => noteWord a s | _ => s
def resolved (b : Nat) (s : State) : Nat := bKnotVal b 0x400 s

/-! ### Deadlines, admission and resolution of a braid (06) -/

/-- One deadline miss of braid `b` (R226): counted, alarm 0x1A, ICN source 32 + b, the escalation of R615. -/
def braidMiss (b : Nat) (s : State) : State :=
  let s := updBraid b (fun x => { x with deadlineMiss := satInc x.deadlineMiss }) s
  escMiss b (postAlarm 0x1A b 0 (icnPulse (32 + b) s))

/-- Units that were resolved before their deadline, and whose deadline has not come: the monitor still reads the knot then (R225). -/
def keepEarly (now : Nat) (x : Braid) (us : List (W64 × W64 × Bool)) : List (W64 × W64 × Bool) :=
  us.filter fun u => !u.2.2 && x.deadline != 0 && decide (now < u.2.1.toNat + x.deadline.toNat)

/-- Admit unit `n` with T(n) = `t` (R218, R220, R221): beyond 2,048 unresolved units it is a miss at once. A unit whose result
knot stands above `n` already is resolved (R203). -/
def admitUnit (b : Nat) (t : W64) (s : State) : State :=
  let early := decide ((braidOf s b).admitted.toNat < resolved b s)
  let past := !early && decide (2048 ≤ (braidOf s b).units.length)
  let s := updBraid b (fun x =>
    let u := (x.admitted, t, past)
    if early then { x with admitted := x.admitted + 1, early := keepEarly s.now x (x.early ++ [u]) }
    else { x with admitted := x.admitted + 1, units := x.units ++ [u], unresHigh := max x.unresHigh (min 2048 (x.units.length + 1)) }) s
  if past then braidMiss b s else s

def admitUnits (b : Nat) : Nat → State → State
  | 0, s => s
  | k + 1, s => admitUnits b k (admitUnit b s.time s)

/-- The result knot has reached `v`: units below it are resolved (R203); MAXLAT. -/
def resolveUnits (b v : Nat) (s : State) : State :=
  updBraid b (fun x =>
    let lat := (x.units.filter fun u => decide (u.1.toNat < v)).foldl (fun m u => max m (s.now - u.2.1.toNat)) x.maxlat.toNat
    { x with units := x.units.filter (fun u => !decide (u.1.toNat < v)), maxlat := BitVec.ofNat 32 (min lat 0xFFFFFFFF)
             early := keepEarly s.now x (x.early ++ x.units.filter fun u => decide (u.1.toNat < v)) }) s

/-- The braid whose knot area holds a Peat address, with the offset from its KNOTBASE (DESIGN CHOICE, unsafe, log 20). -/
def braidKnot (s : State) (pl : Place) : Option (Nat × Nat) :=
  match pl with
  | .peat a => if a / 65536 = knotFrame s then some (a % 65536 / 4096, a % 4096) else none
  | _ => none

/-- What a rise of a braid's own knot sets off: host units are admitted (R220), units are resolved (R203). -/
def braidHook (pl : Place) (old new : Nat) (s : State) : State :=
  match braidKnot s pl with
  | none => s
  | some (b, off) =>
    let x := braidOf s b
    if off = 0 ∧ x.source = 0x0F ∧ x.state = .running then admitUnits b (new - old) s
    else if off = 0x400 then resolveUnits b new s
    else s

/-- A host unit of a braid whose first strand is on another device: FILLED of channel 0 lies there, and what was signalled to it from here
stands in ADMITTED (R220, R237; DEDUCED, unsafe, log 110). -/
def farAdmit (pl : Place) (v : Nat) (s : State) : State :=
  match (List.range 16).find? fun b => let x := braidOf s b; x.source == 0x0F && x.state == .running && knotPl b 0 s == pl with
  | some b => admitUnits b (v - (braidOf s b).admitted.toNat) s
  | none => s

/-! ### Waits -/

/-- How a wait stands (R170): satisfied decides over abandoned, abandoned over timed out. -/
inductive KnotCase where
  | wait | sat | abandoned | timeout
  deriving DecidableEq, Repr

def knotCase (w thr : W64) (late : Bool) : KnotCase :=
  if knotVal thr ≤ knotVal w then .sat else if knotAband w then .abandoned else if late then .timeout else .wait

def isLate (s : State) (deadline : Option W64) : Bool := match deadline with | some t => decide (t.toNat ≤ s.now) | none => false

/-- A group's wait completes: the word to DST, *unsatisfied* to every lane of SC, the group goes on (R170). -/
def kwaitDone (w : W64) (dst pred : Byte) (unsat : Bool) (next : Nat) (g : Group) : Group :=
  let g := if dst = 0xFF then g
    else wrU (dst.toNat + 1) (half64 w true, false) (wrU dst.toNat (half64 w false, false) g)
  { wrP pred.toNat allLanes (fun _ => (unsat, false)) g with pc := next, wait := .ready }

/-- Evaluate a group's knot wait against the word read: a poisoned word traps with 0x0503, a TRAPAB wait that ends
abandoned with 0x0601. -/
def kwaitEval (s : State) (w : W64) (poison : Bool) (g : Group) : Group :=
  match g.wait with
  | .knot _ thr dst pred trapab deadline next =>
    if poison then { g with wait := .trapped St.poisonKnot }
    else match knotCase w thr (isLate s deadline) with
      | .wait => g
      | .sat => kwaitDone w dst pred false next g
      | .abandoned => if trapab then { g with wait := .trapped St.abandoned } else kwaitDone w dst pred true next g
      | .timeout => kwaitDone w dst pred true next g
  | _ => g

/-- A group's wait evaluated, with the acquire of one that completes (R126, R129). -/
def evalWait (w : W64) (poison : Bool) (g : Group) (s : State) : State :=
  let y := kwaitEval s w poison g
  let s := updGrp g.id (fun _ => y) s
  if y.wait == .ready then dropFar g.core s else s

def waitsOn (pl : Place) (g : Group) : Bool := match g.wait with | .knot k .. => k == pl | _ => false
def isParked (s : State) (b : Nat) : Bool := ((findBlk s b).map (·.parked)).getD false

/-- Is any waiter registered on the knot (R358, R526)? -/
def hasWaiters (pl : Place) (s : State) : Bool := s.ex.waiters.any (·.k == pl) || s.ex.groups.any (waitsOn pl)

/-- A KNOT_WAIT ends: the knot word in DW4-DW5 (R358). -/
def knotWaitEval (w : W64) (poison : Bool) (x : KnotWaiter) (s : State) : State :=
  if poison then finish x.cmd St.poisonKnot (setRes64 x.cmd w.toNat s)
  else match knotCase w x.thr false with
    | .sat => finish x.cmd St.success (setRes64 x.cmd w.toNat s)
    | .abandoned => finish x.cmd St.abandoned (setRes64 x.cmd w.toNat s)
    | _ => s

/-- Every registered waiter of a knot is evaluated against its word (R355, R359); waits of parked blocks wait on (R526). A wait that
completes is an acquire (R129). -/
def knotWake (pl : Place) (w : W64) (poison : Bool) (s : State) : State :=
  let s := (s.ex.waiters.filter (·.k == pl)).foldl (fun s x => knotWaitEval w poison x s) s
  let parked := isParked s
  let mine (g : Group) : Bool := waitsOn pl g && !parked g.blk
  let cores := (s.ex.groups.filter fun g => mine g && (kwaitEval s w poison g).wait == .ready).map (·.core.val)
  cores.foldl (fun s c => dropFar c s) (updEx (fun e => { e with groups := updWhere mine (kwaitEval s w poison) e.groups }) s)

/-! ### Operations at a port (R355-R362) -/

/-- An operation on a remote knot leaves over its link, or is dropped where the route is down (R572). -/
def knotLink (pl : Place) (s : State) : State :=
  match pl with
  | .remote d _ o => if routeDown s pl then linkDrop (routeLink s d o.toNat) s else linkTx (routeLink s d o.toNat) s
  | _ => s

/-- A signal takes effect (R355). A remote knot's word lies on its own device: the signal leaves over the link (R572), and
what is known here is only that the word has reached `v` (DESIGN CHOICE, unsafe, log 23). -/
def signalNow (fn : Nat) (pl : Place) (v : W64) (s : State) : State :=
  if bit v 63 then s else
  match pl with
  | .remote _ _ _ => if routeDown s pl then knotLink pl s else knotWake pl v false (farAdmit pl v.toNat (knotLink pl s))
  | _ =>
    let (w, poison, s) := knotRead fn pl s
    if poison then knotWake pl w true s
    else if v.toNat < knotVal w then knotWake pl w false (updHi (fun h => { h with knotStale := h.knotStale + 1 }) s)
    else if v.toNat = knotVal w then knotWake pl w false s
    else
      let w' := setFld w 62 0 v.toNat
      knotWake pl w' false (braidHook pl (knotVal w) v.toNat (knotStore fn pl w' s))

/-- A signal reaches a knot's port; a snapshot holds it (R368). -/
def signal (fn : Nat) (pl : Place) (v : W64) (s : State) : State :=
  if holding s then hold (.signal (fin' 8 fn) pl v) s else signalNow fn pl v s

/-- Abandonment (R359). Of a remote knot it is known here that ABANDON is set; its VALUE is a free value (DESIGN CHOICE, unsafe,
log 23). -/
def abandonNow (fn : Nat) (pl : Place) (s : State) : State :=
  match pl with
  | .remote _ _ _ =>
    if routeDown s pl then knotLink pl s
    else
      let (w, _, s) := knotRead fn pl (knotLink pl s)
      knotWake pl (setBit w 63 true) false s
  | .lpddr _ => s
  | _ =>
    let (w, poison, s) := knotRead fn pl s
    if poison then knotWake pl w true s
    else
      let w' := setBit w 63 true
      knotWake pl w' false (knotStore fn pl w' s)

def abandon (fn : Nat) (pl : Place) (s : State) : State :=
  if holding s then hold (.abandon (fin' 8 fn) pl) s else abandonNow fn pl s

/-- KNOT_RESET reaches a knot's port (R361): with a waiter registered it changes nothing, and the waiters are evaluated (R357);
else the word is `v`, and units that it resolves are resolved (R203). -/
def knotResetNow (fn : Nat) (pl : Place) (v : W64) (s : State) : Bool × State :=
  if hasWaiters pl s then
    let (w, poison, s) := knotRead fn pl s
    (false, knotWake pl w poison s)
  else
    let s := knotStore fn pl (setBit v 63 false) (knotLink pl s)
    (true, match braidKnot s pl with
      | some (b, 0x400) => resolveUnits b v.toNat s
      | _ => s)

/-! ### Knot addresses of packets and groups -/

/-- Where a knot address leads (R354). -/
inductive KnotAns where
  | ok (pl : Place)
  | bad
  | zero
  | fail (st : Status)
  | stall
  deriving DecidableEq, Repr

def knotAddr (c va : Nat) (k : Access) (rq : Rq) (s : State) : KnotAns × State :=
  if va % 8 ≠ 0 then (.bad, s) else
  match xl c va k rq s with
  | (.ok (.lpddr _), s) => (.bad, s)
  | (.ok pl, s) => (.ok pl, s)
  | (.zero, s) => (.zero, s)
  | (.fail st, s) => (.fail st, s)
  | (.stall, s) => (.stall, s)

/-- A signal to a knot named by address, whose translation never makes it wait: cameras, layers, completion knots. Whether
the translation held. -/
def signalRq (rq : Rq) (c va : Nat) (v : W64) (s : State) : Bool × State :=
  match knotAddr c va .store rq s with
  | (.ok pl, s) => (true, signal (ctxFn s c) pl v s)
  | (_, s) => (false, s)
def signalVa (c va : Nat) (v : W64) (s : State) : State := (signalRq {} c va v s).2

/-- VALUE of a knot named by address; none where its translation faults. A poisoned word reads as 0 (DESIGN CHOICE, unsafe, log 103). -/
def knotValRq (rq : Rq) (c va : Nat) (s : State) : Option Nat × State :=
  match knotAddr c va .load rq s with
  | (.ok pl, s) => let (w, p, s) := knotRead (ctxFn s c) pl s; (some (if p then 0 else knotVal w), s)
  | (_, s) => (none, s)

/-! ### Signal sets (R360) -/

def sigCount (s : State) : Nat := s.ex.ctxs.toList.foldl (fun n c => n + c.sigset.length) 0

/-- Add knot addresses to a context's signal set; none where it would pass 65,536 entries across all contexts. -/
def addSigs (c : Nat) (vas : List Nat) (s : State) : Option State :=
  let cur := (ctxOf s c).sigset
  let new := vas.foldl (fun l va => let w := BitVec.ofNat 64 va; if cur.contains w || l.contains w then l else l ++ [w]) []
  if 65536 < sigCount s + new.length then none
  else some (updCtx c (fun x => { x with sigset := x.sigset ++ new }) s)

end Sys2Proof.Machine
end

