-- ==== Sys2Proof/Machine/Raster.lean ====
section
/-! DEFINITION. Raster.lean: tiles of a pass, the pixels that a primitive covers, and the groups that shade them (08 R276, R290, R297). -/
namespace Sys2Proof.Machine

def tilesX (w : Nat) : Nat := (w + 31) / 32
def passW (p : Pass) : Nat := ((passSurfaces p).head?.map (·.width)).getD 1
def passH (p : Pass) : Nat := ((passSurfaces p).head?.map (·.height)).getD 1
def passTiles (p : Pass) : Nat := tilesX (passW p) * ((passH p + 31) / 32)
def tileOrigin (p : Pass) (t : Nat) : Nat × Nat := (t % tilesX (passW p) * 32, t / tilesX (passW p) * 32)

/-- Twice the signed area on the screen in 1/65536 square pixels: positive when the corners run clockwise, y downward. -/
def area2 (p : Nat → Int × Int) : Int :=
  ((p 1).1 - (p 0).1) * ((p 2).2 - (p 0).2) - ((p 2).1 - (p 0).1) * ((p 1).2 - (p 0).2)

/-- Corner positions of a primitive. -/
def corner (pr : Prim) (i : Nat) : Int × Int := match pr.corners[i]? with | some (x, y, _) => (x, y) | none => (0, 0)

/-! ### Coverage (R290) -/

/-- Edge function of the edge a-b at a point. -/
def edgeAt (a b : Int × Int) (x y : Int) : Int := (b.1 - a.1) * (y - a.2) - (b.2 - a.2) * (x - a.1)

/-- Corners in clockwise order. -/
def cwCorners (pr : Prim) : List (Int × Int) :=
  if 0 < area2 (corner pr) then [corner pr 0, corner pr 1, corner pr 2] else [corner pr 0, corner pr 2, corner pr 1]

/-- Is a centre on or inside an edge of a clockwise triangle? On the edge only where it is a top or left edge. -/
def edgeIn (a b : Int × Int) (x y : Int) : Bool :=
  let e := edgeAt a b x y
  decide (0 < e) || (e == 0 && ((a.2 == b.2 && decide (a.1 < b.1)) || decide (b.2 < a.2)))

/-- Is the centre of pixel (x, y) covered? -/
def covers (pr : Prim) (x y : Nat) : Bool :=
  let cx : Int := 256 * x + 128
  let cy : Int := 256 * y + 128
  match cwCorners pr with
  | [a, b, c] => edgeIn a b cx cy && edgeIn b c cx cy && edgeIn c a cx cy
  | _ => false

/-- The exact barycentric numerators of the three corners at a pixel's centre. -/
def baryAt (pr : Prim) (x y : Nat) : List Int :=
  let cx : Int := 256 * x + 128
  let cy : Int := 256 * y + 128
  [edgeAt (corner pr 1) (corner pr 2) cx cy, edgeAt (corner pr 2) (corner pr 0) cx cy, edgeAt (corner pr 0) (corner pr 1) cx cy]

def scissorIn (dr : DrawState) (x y : Nat) : Bool :=
  decide (dr.scissor.getD 0 0 ≤ x) && decide (x < dr.scissor.getD 2 0) && decide (dr.scissor.getD 1 0 ≤ y) && decide (y < dr.scissor.getD 3 0)

def drawOf (p : Pass) (k : Nat) : DrawState := p.draws.getD k {}

/-- Does a primitive write pixel (x, y) of its pass, tests apart? -/
def pixelIn (p : Pass) (pr : Prim) (x y : Nat) : Bool :=
  decide (x < passW p) && decide (y < passH p) && scissorIn (drawOf p pr.draw) x y && covers pr x y

/-- The 2 × 2 quads of a tile that a primitive covers, row by row. -/
def tileQuads (p : Pass) (pr : Prim) (t : Nat) : List (Nat × Nat) :=
  let (ox, oy) := tileOrigin p t
  ((List.range 16).flatMap fun j => (List.range 16).map fun i => (ox + 2 * i, oy + 2 * j)).filter fun q =>
    pixelIn p pr q.1 q.2 || pixelIn p pr (q.1 + 1) q.2 || pixelIn p pr q.1 (q.2 + 1) || pixelIn p pr (q.1 + 1) (q.2 + 1)

/-- Tiles that a primitive covers, rising. -/
def primTiles (p : Pass) (pr : Prim) : List Nat := (List.range (passTiles p)).filter fun t => !(tileQuads p pr t).isEmpty

/-! ### Bins (R276) -/

def binOf (p : Pass) (t : Nat) : List Nat := (pairGet p.bins t).getD []

/-- Groups that shade a tile: (primitive, group) in submission order. -/
def tileWork (p : Pass) (t : Nat) : List (Nat × Nat) :=
  let ks := if p.direct then [0] else binOf p t
  ks.flatMap fun k => match p.prims[k]? with
    | some pr => (List.range (((tileQuads p pr t).length + 7) / 8)).map fun g => (k, g)
    | none => []

end Sys2Proof.Machine
end

