-- ==== Sys2Proof/Machine/Texture.lean ====
section
/-! DEFINITION. Texture.lean: pixel formats, surfaces, compressed tiles and texture sampling (08 R279-R284, R302-R308; 04
R151, R152). Filtered values between their texels, and the level of detail, are free (DESIGN CHOICE, safe, log 21). -/
namespace Sys2Proof.Machine

/-! ### Formats (Table 8.3, R279) -/

/-- An FP32 code to a normalised channel of `n` bits. -/
def toNorm (n : Nat) (x : W32) : Nat :=
  match decodeF fp32 x.toNat with
  | .nan => 0
  | .inf s => if s then 0 else 2 ^ n - 1
  | .fin s m e => if s then 0 else min (roundAt 0 false (m * (2 ^ n - 1)) e 0 false) (2 ^ n - 1)

/-- A normalised channel as the nearest FP32 code. -/
def fromNorm (n k : Nat) : W32 :=
  let d := 2 ^ n - 1
  BitVec.ofNat 32 (roundIeee fp32 0 false (k * 2 ^ 60 / d) (-60) (k * 2 ^ 60 % d != 0))

def toHalf (x : W32) : Nat := encodeFV fp16 0 (decodeF fp32 x.toNat)
def fromHalf (k : Nat) : W32 := BitVec.ofNat 32 (encodeFV fp32 0 (decodeF fp16 (k % 65536)))
def one32 : W32 := 0x3F800000
def chan (l : List W32) (i : Nat) : W32 := l.getD i 0

/-- A pixel's value to R, G, B, A. -/
def decodePixel (f v : Nat) : List W32 :=
  let b (i : Nat) : Nat := v / 2 ^ (8 * i) % 256
  match f with
  | 1 => [fromNorm 8 (b 0), fromNorm 8 (b 1), fromNorm 8 (b 2), fromNorm 8 (b 3)]
  | 2 => [fromNorm 8 (b 2), fromNorm 8 (b 1), fromNorm 8 (b 0), fromNorm 8 (b 3)]
  | 3 => [fromNorm 10 (v % 1024), fromNorm 10 (v / 1024 % 1024), fromNorm 10 (v / 1048576 % 1024), fromNorm 2 (v / 1073741824 % 4)]
  | 4 => [fromHalf v, fromHalf (v / 65536), fromHalf (v / 2 ^ 32), fromHalf (v / 2 ^ 48)]
  | 5 => [fromNorm 8 (b 0), 0, 0, one32]
  | 6 => [fromNorm 8 (b 0), fromNorm 8 (b 1), 0, one32]
  | 7 => [fromHalf v, 0, 0, one32]
  | _ => [BitVec.ofNat 32 v, 0, 0, one32]

/-- R, G, B, A to a pixel's value. -/
def encodePixel (f : Nat) (c : List W32) : Nat :=
  let n (k i : Nat) : Nat := toNorm k (chan c i)
  match f with
  | 1 => n 8 0 + 256 * n 8 1 + 65536 * n 8 2 + 16777216 * n 8 3
  | 2 => n 8 2 + 256 * n 8 1 + 65536 * n 8 0 + 16777216 * n 8 3
  | 3 => n 10 0 + 1024 * n 10 1 + 1048576 * n 10 2 + 1073741824 * n 2 3
  | 4 => toHalf (chan c 0) + 65536 * toHalf (chan c 1) + 2 ^ 32 * toHalf (chan c 2) + 2 ^ 48 * toHalf (chan c 3)
  | 5 => n 8 0
  | 6 => n 8 0 + 256 * n 8 1
  | 7 => toHalf (chan c 0)
  | _ => (chan c 0).toNat

/-! ### Compressed tiles (R280-R283) -/

/-- Bytes of the slot that a header entry makes a reader read; none where the entry is not one of Table 8.4, or SOLID. -/
def slotRead (h : PB) : Nat :=
  let v := BitVec.ofNat 64 (leVal (dataOf h))
  let sect := fld v 8 2
  if anyPoison h || fld v 31 9 != 0 then 0
  else match fld v 1 0 with
    | 0 => if sect = 64 then 4096 else 0
    | 1 => if 1 ≤ sect ∧ sect ≤ 64 then 64 * sect else 0
    | _ => 0

/-- The 4,096 tile bytes that a header entry and what was read of its slot stand for; poison where they stand for none (R282). -/
def tileBody (h bs : PB) : PB :=
  let broken : PB := List.replicate 4096 (0, true)
  let v := BitVec.ofNat 64 (leVal (dataOf h))
  if anyPoison h || fld v 31 9 != 0 then broken
  else match fld v 1 0 with
    | 0 => if fld v 8 2 = 64 then bs else broken
    | 1 =>
      if bs.isEmpty || anyPoison bs then broken
      else (match inflateTile (dataOf bs) with | some d => clean d | none => broken)
    | 2 => if fld v 8 2 ≠ 0 then broken else clean ((List.replicate 1024 (leBytes 4 (fld v 63 32))).flatten)
    | _ => broken

/-- The 4,096 tile bytes of a compressed tile, read by `read`. -/
def readTileBy (read : Nat → Nat → State → PB × VaAns × State) (base hdr t : Nat) (s : State) : PB × VaAns × State :=
  match read (hdr + 8 * t) 8 s with
  | (h, .ok, s) =>
    (match (if slotRead h = 0 then (([] : PB), VaAns.ok, s) else read (base + t * 4096) (slotRead h) s) with
     | (bs, .ok, s) => (tileBody h bs, .ok, s)
     | (_, a, s) => ([], a, s))
  | (_, a, s) => ([], a, s)
def readTileC (c : Nat) (rq : Rq) (base hdr t : Nat) (s : State) : PB × VaAns × State := readTileBy (fun va n s => readVa c va n .load rq s) base hdr t s

/-! ### Texture descriptors (Table 8.10, R303) -/

def txBase (d : List Byte) : Nat := leAt d 0 8
def txHdr (d : List Byte) : Nat := leAt d 8 8
def txRes (d : List Byte) : Nat := leAt d 16 8
def txW (d : List Byte) : Nat := leAt d 0x1C 2
def txH (d : List Byte) : Nat := leAt d 0x1E 2
def txFmt (d : List Byte) : Nat := leAt d 0x20 1
def txLevels (d : List Byte) : Nat := leAt d 0x21 1
def txLayers (d : List Byte) : Nat := leAt d 0x24 2
def txBilinear (d : List Byte) : Bool := leAt d 0x22 1 % 4 == 1
def txMip (d : List Byte) : Nat := leAt d 0x22 1 / 4 % 4
def txAddrU (d : List Byte) : Nat := leAt d 0x23 1 % 4
def txAddrV (d : List Byte) : Nat := leAt d 0x23 1 / 4 % 4
def txBorder (d : List Byte) : List W32 := (List.range 4).map fun i => BitVec.ofNat 32 (leAt d (0x30 + 4 * i) 4)
def roundUp' (n k : Nat) : Nat := (n + k - 1) / k * k
def levelW (d : List Byte) (l : Nat) : Nat := max (txW d / 2 ^ l) 1
def levelH (d : List Byte) (l : Nat) : Nat := max (txH d / 2 ^ l) 1
def levelPitch (d : List Byte) (l : Nat) : Nat := if l = 0 then leAt d 0x18 4 else roundUp' (levelW d l * formatBytes (txFmt d)) 64
def levelBytes (d : List Byte) (l : Nat) : Nat :=
  if txHdr d != 0 then tilesX (txW d) * ((txH d + 31) / 32) * 4096 else levelPitch d l * levelH d l

/-- Start of level `l` within a layer. -/
def levelOfs (d : List Byte) : Nat → Nat
  | 0 => 0
  | l + 1 => roundUp' (levelOfs d l + levelBytes d l) 256

/-- S of R303. -/
def layerBytes (d : List Byte) : Nat := roundUp' (levelOfs d (txLevels d - 1) + levelBytes d (txLevels d - 1)) 65536

/-- The answer of a sampler or memory access for one lane. -/
inductive LaneAns (α : Type) where
  | ok (a : α)
  | trap (st : Status)
  | stall
  deriving DecidableEq, Repr

/-- One texel of a level and layer. -/
def readTexel (c : Nat) (rq : Rq) (d : List Byte) (l k x y : Nat) (s : State) : LaneAns (List W32 × Bool) × State :=
  let n := formatBytes (txFmt d)
  let base := txBase d + k * layerBytes d
  let r := if txHdr d != 0 then
      let tx := tilesX (txW d)
      let t := y / 32 * tx + x / 32
      let (bs, a, s) := readTileC c rq base (txHdr d + 8 * k * (tx * ((txH d + 31) / 32))) t s
      ((bs.drop ((y % 32) * 128 + (x % 32) * 4)).take 4, a, s)
    else readVa c (base + levelOfs d l + y * levelPitch d l + x * n) n .load rq s
  match r with
  | (bs, .ok, s) => (.ok (decodePixel (txFmt d) (leVal (dataOf bs)), anyPoison bs), s)
  | (_, .fail st, s) => (.trap st, s)
  | (_, .stall, s) => (.stall, s)

/-! ### Sampling -/

/-- floor(x × n - h/2) of an FP32 code: 0 for what is not finite. -/
def texCoord (x : W32) (n h : Nat) : Int :=
  match decodeF fp32 x.toNat with
  | .fin sg m e =>
    let (v, g) := sumExact (signed sg (m * n), e) (-(h : Int), -1)
    toInt 3 (decide (v < 0)) v.natAbs g
  | _ => 0

/-- Address mode: the texel index, none for the border. -/
def texWrap (mode : Nat) (i : Int) (n : Nat) : Option Nat :=
  match mode with
  | 0 => some (i % (n : Int)).toNat
  | 1 => some (clampI 0 ((n : Int) - 1) i).toNat
  | 2 => let j := (i % (2 * n : Int)).toNat; some (if j < n then j else 2 * n - 1 - j)
  | _ => if 0 ≤ i ∧ i < (n : Int) then some i.toNat else none

/-- Texel positions a filter uses at a level, in the order top-left, top-right, bottom-left, bottom-right. -/
def footprint (d : List Byte) (l : Nat) (u v : W32) : List (Option Nat × Option Nat) :=
  let w := levelW d l
  let h := levelH d l
  let at' (i j : Int) : Option Nat × Option Nat := (texWrap (txAddrU d) i w, texWrap (txAddrV d) j h)
  if txBilinear d then
    let i := texCoord u w 1
    let j := texCoord v h 1
    [at' i j, at' (i + 1) j, at' i (j + 1), at' (i + 1) (j + 1)]
  else [at' (texCoord u w 0) (texCoord v h 0)]

def texLayer (d : List Byte) (z : W32) : Nat := (clampI 0 ((txLayers d : Int) - 1) (cvtToInt 0 (-(2 ^ 40)) (2 ^ 40) (decodeF fp32 z.toNat))).toNat

/-- Read the texels of a footprint. -/
def readFoot (c : Nat) (rq : Rq) (d : List Byte) (l k : Nat) : List (Option Nat × Option Nat) → State → LaneAns (List W32 × Bool) × State
  | [], s => (.ok ([], false), s)
  | (x, y) :: r, s =>
    match (match x, y with | some x, some y => readTexel c rq d l k x y s | _, _ => (.ok (txBorder d, false), s)) with
    | (.ok (v, p), s) =>
      (match readFoot c rq d l k r s with
       | (.ok (vs, q), s) => (.ok (v ++ vs, p || q), s)
       | (a, s) => (a, s))
    | (.trap st, s) => (.trap st, s)
    | (.stall, s) => (.stall, s)

/-- Levels that are read for a level of detail, none finer than `V`: none at all where no level is as coarse as that. -/
def texLevels (d : List Byte) (lod : W32) (v : Nat) : List Nat :=
  let top := txLevels d - 1
  if top < v then [] else
  let cl (i : Int) : Nat := min (max (clampI 0 top i).toNat v) top
  let lo := cvtToInt 3 (-64) 64 (decodeF fp32 lod.toNat)
  match txMip d with
  | 0 => [v]
  | 1 => [cl (cvtToInt 0 (-64) 64 (decodeF fp32 lod.toNat))]
  | _ => [cl lo, cl (lo + 1)]

/-- Regions of 128 × 128 texels of level 0 (R305) that a texel of level `l` covers. -/
def texRegions (d : List Byte) (l : Nat) (p : Option Nat × Option Nat) : List (Nat × Nat) :=
  let span (i n m : Nat) : List Nat :=
    let a := i * 2 ^ l / 128
    let b := (if i + 1 = m then n - 1 else min ((i + 1) * 2 ^ l) n - 1) / 128
    (List.range (b + 1 - a)).map (a + ·)
  match p with
  | (some x, some y) => (span y (txH d) (levelH d l)).flatMap fun j => (span x (txW d) (levelW d l)).map fun i => (i, j)
  | _ => []

/-- Largest residency value over regions, with the mark of poisoned map bytes (R122). -/
def resValue (c : Nat) (rq : Rq) (d : List Byte) (k : Nat) : List (Nat × Nat) → Nat × Bool → State → LaneAns (Nat × Bool) × State
  | [], m, s => (.ok m, s)
  | (x, y) :: r, m, s =>
    let rw := (txW d + 127) / 128
    let rh := (txH d + 127) / 128
    match readVa c (txRes d + (k * rh + y) * rw + x) 1 .load rq s with
    | (bs, .ok, s) => resValue c rq d k r (max m.1 (leVal (dataOf bs)), m.2 || anyPoison bs) s
    | (_, .fail st, s) => (.trap st, s)
    | (_, .stall, s) => (.stall, s)

/-- V of R306: over the regions that the footprint, at the levels of the level of detail before it is clamped, covers at level 0 (DEDUCED,
unsafe, log 98); 0 for a texture that is not sparse. -/
def resOf (c : Nat) (rq : Rq) (d : List Byte) (k : Nat) (u v lod : W32) (s : State) : LaneAns (Nat × Bool) × State :=
  if txRes d = 0 then (.ok (0, false), s)
  else resValue c rq d k (((texLevels d lod 0).flatMap fun l => (footprint d l u v).flatMap (texRegions d l)).eraseDups) (0, false) s

def readLevels (c : Nat) (rq : Rq) (d : List Byte) (k : Nat) (u v : W32) : List Nat → State → LaneAns (List W32 × Bool) × State
  | [], s => (.ok ([], false), s)
  | l :: r, s =>
    match readFoot c rq d l k (footprint d l u v) s with
    | (.ok (a, p), s) =>
      (match readLevels c rq d k u v r s with
       | (.ok (b, q), s) => (.ok (a ++ b, p || q), s)
       | (x, s) => (x, s))
    | (x, s) => (x, s)

/-- A NaN that a sample produces is the canonical one (05 R181). -/
def texNan (x : W32) : W32 := if isNan (decodeF fp32 x.toNat) then 0x7FC00000 else x

/-- One channel of a filtered sample: between the least and the greatest of the texels that have weight, as a weighted mean is; the only one;
NaN where one of them is NaN; free where one is infinite, or there is none (DESIGN CHOICE, safe, log 21). -/
def texMean (vals : List W32) (free : W32) : W32 :=
  let v (x : W32) : FV := decodeF fp32 x.toNat
  let finite (x : W32) : Bool := match v x with | .fin _ _ _ => true | _ => false
  match vals with
  | [] => texNan free
  | [a] => texNan a
  | a :: _ =>
    if vals.any fun x => isNan (v x) then 0x7FC00000
    else if !(vals.all finite) then texNan free
    else if finite free && (vals.any fun x => decide (cmpFV (v x) (v free) ≤ 0)) && (vals.any fun x => decide (0 ≤ cmpFV (v x) (v free))) then free
    else a

/-- Does a coordinate lie between two texels of a bilinear filter, so that the second has weight? -/
def texBetween (x : W32) (n : Nat) : Bool :=
  match decodeF fp32 x.toNat with
  | .fin sg m e =>
    let (v, g) := sumExact (signed sg (m * n), e) (-1, -1)
    toInt 2 (decide (v < 0)) v.natAbs g != toInt 3 (decide (v < 0)) v.natAbs g
  | _ => false

/-- Which of the texels read have weight: of a level, those that the coordinates lie between; of two levels, the second where the level of detail
lies between them. -/
def texWeighs (d : List Byte) (u v lod : W32) (ls : List Nat) : List Bool :=
  (List.range ls.length).flatMap fun i =>
    let l := ls.getD i 0
    let here := i == 0 || cvtToInt 3 (-64) 64 (decodeF fp32 lod.toNat) != cvtToInt 2 (-64) 64 (decodeF fp32 lod.toNat)
    if txBilinear d then
      let bu := texBetween u (levelW d l)
      let bv := texBetween v (levelH d l)
      [here, here && bu, here && bv, here && bu && bv]
    else [here]

/-- The sample from the texels read at the levels `ls`, four values each. -/
def texFilter (d : List Byte) (u v lod : W32) (ls : List Nat) (t : List W32) : List W32 :=
  let w := texWeighs d u v lod ls
  let f := Config.texFilter lod (BitVec.ofNat 16 (leAt d 0x22 2)) [u, v] t
  (List.range 4).map fun i => texMean (((List.range (t.length / 4)).filter fun k => w.getD k false).map fun k => chan t (4 * k + i)) (chan f i)

/-- A filtered sample (R304, R306): R, G, B, A and their poison. -/
def texSample (c : Nat) (rq : Rq) (d : List Byte) (u v z lod : W32) (s : State) : LaneAns (List W32 × Bool) × State :=
  let k := texLayer d z
  match resOf c rq d k u v lod s with
  | (.ok (m, z), s) =>
    if m = 0xFF then (.ok ([0, 0, 0, 0], z), s) else
    (match readLevels c rq d k u v (texLevels d lod m) s with
     | (.ok (t, p), s) => (.ok (texFilter d u v lod (texLevels d lod m) t, p || z), s)
     | (x, s) => (x, s))
  | (.trap st, s) => (.trap st, s)
  | (.stall, s) => (.stall, s)

/-- A texel fetch with integer coordinates; zero outside the level or layer (R304). -/
def texFetch (c : Nat) (rq : Rq) (d : List Byte) (x y z l : W32) (s : State) : LaneAns (List W32 × Bool) × State :=
  if l.toNat < txLevels d ∧ z.toNat < txLayers d ∧ x.toNat < levelW d l.toNat ∧ y.toNat < levelH d l.toNat then
    readTexel c rq d l.toNat z.toNat x.toNat y.toNat s
  else (.ok ([0, 0, 0, 0], false), s)

/-- TRES (R307), with the mark of a poisoned map byte. -/
def texResident (c : Nat) (rq : Rq) (d : List Byte) (u v z lod : W32) (s : State) : LaneAns (Bool × Bool) × State :=
  match resOf c rq d (texLayer d z) u v lod s with
  | (.ok (m, p), s) => (.ok (m != 0xFF && decide ((m : Int) ≤ cvtToInt 3 (-64) 64 (decodeF fp32 lod.toNat)) || (txRes d == 0), p), s)
  | (.trap st, s) => (.trap st, s)
  | (.stall, s) => (.stall, s)

end Sys2Proof.Machine
end

