-- ==== Sys2Proof/Machine/Gfe.lean ====
section
/-! DEFINITION. Gfe.lean: the transform, the clipper and the interpolation of the geometry front end (08 R289, R290). The expressions
of the spec are taken exactly; a result that is stored in FP32 is one of the two FP32 values next to it (DESIGN CHOICE, unsafe, log 19). -/
namespace Sys2Proof.Machine

def val32 (x : W32) : FV := decodeF fp32 x.toNat

/-- m × 2^e. -/
def ratScale (m e : Int) : Rat := if 0 ≤ e then ((m * 2 ^ e.toNat : Int) : Rat) else mkRat m (2 ^ (-e).toNat)

/-- The value of an FP32 code, none where it is not finite. -/
def ratOf (x : W32) : Option Rat := match val32 x with | .fin s m e => some (ratScale (signed s m) e) | _ => none

/-- The codes of a list, none unless all are finite. -/
def ratsOf : List W32 → Option (List Rat)
  | [] => some []
  | x :: r => match ratOf x, ratsOf r with | some a, some l => some (a :: l) | _, _ => none

def ratAt (l : List Rat) (i : Nat) : Rat := l.getD i 0

/-- An exact value under a rounding mode. -/
def ratCode (rm : Nat) (r : Rat) : W32 :=
  let k := bitLen r.den + 200
  let n := r.num.natAbs * 2 ^ k
  BitVec.ofNat 32 (roundIeee fp32 rm (decide (r.num < 0)) (n / r.den) (-(k : Int)) (n % r.den != 0))

/-- FP32 of an exact value: itself, or one of its two neighbours. -/
def gRound (r : Rat) : W32 := if Config.gfeUp 0 r.num r.den then ratCode 2 r else ratCode 3 r

/-- The nearest multiple of 1/256 pixel, in that unit; either one at a tie. -/
def gSnap (r : Rat) : Int :=
  let f := (r * 256).floor
  let d := r * 256 - (f : Rat)
  if d < mkRat 1 2 then f else if mkRat 1 2 < d then f + 1 else f + b2n (Config.gfeUp 1 r.num r.den)

/-- c = M × p, M column-major: x, y, z, w. -/
def gTransform (m p : List Rat) : List Rat := (List.range 4).map fun r => (List.range 4).foldl (fun a k => a + ratAt m (4 * k + r) * ratAt p k) 0

/-- A corner of the polygon that the clipper works on: its position, and the weights of the three source vertices. -/
abbrev ClipCorner := List Rat × List Rat

/-- The clip planes of R289: not negative on the side that is kept. -/
def gPlane (c : List Rat) (i : Nat) : Rat :=
  let x := ratAt c 0
  let y := ratAt c 1
  let z := ratAt c 2
  let w := ratAt c 3
  ([w - mkRat 1 1048576, z, w - z, 32768 * w + x, 32768 * w - x, 32768 * w + y, 32768 * w - y] : List Rat).getD i 0

def lerp (t : Rat) (a b : List Rat) : List Rat := a.zipWith (fun x y => x + t * (y - x)) b

/-- What plane `i` keeps of the edge from `a` to `b`: `a` itself, and where the edge crosses the plane. -/
def clipEdge (i : Nat) (a b : ClipCorner) : List ClipCorner :=
  let da := gPlane a.1 i
  let db := gPlane b.1 i
  (if 0 ≤ da then [a] else []) ++
  (if (da < 0 ∧ 0 < db) ∨ (0 < da ∧ db < 0) then [(lerp (da / (da - db)) a.1 b.1, lerp (da / (da - db)) a.2 b.2)] else [])

def clipPoly (i : Nat) (l : List ClipCorner) : List ClipCorner := (l.zip (l.drop 1 ++ l.take 1)).flatMap fun e => clipEdge i e.1 e.2

/-- Triangles of a convex polygon, all with its corner `a` (DESIGN CHOICE, unsafe, log 19). -/
def fan {α : Type} (a : α) : List α → List (List α)
  | b :: c :: r => [a, b, c] :: fan a (c :: r)
  | _ => []
def fanOf {α : Type} (l : List α) : List (List α) := match l with | a :: r => fan a r | [] => []

/-- A corner on the screen: sx, sy, z ÷ w, 1 ÷ w, and the weights of the source vertices. -/
abbrev ScreenCorner := Int × Int × W32 × W32 × List Rat

/-- VX + (x ÷ w + 1) × VW ÷ 2. -/
def gScreen (x w v0 size : Rat) : Int := gSnap (v0 + (x / w + 1) * size / 2)

def gCorner (vp : List Rat) (c : ClipCorner) : ScreenCorner :=
  let w := ratAt c.1 3
  (gScreen (ratAt c.1 0) w (ratAt vp 0) (ratAt vp 2), gScreen (ratAt c.1 1) w (ratAt vp 1) (ratAt vp 3), gRound (ratAt c.1 2 / w), gRound (1 / w), c.2)

def oneHot (i : Nat) : List Rat := (List.range 3).map fun j => if i = j then 1 else 0

/-- The screen triangles of a triangle after transform and clip (R289). -/
def gfeTris (m vp : List W32) (ps : List (List W32)) : List (List ScreenCorner) :=
  match ratsOf m, ratsOf vp, ratsOf ps.flatten with
  | some m, some vp, some p =>
    let cs : List ClipCorner := (List.range 3).map fun i => (gTransform m ((p.drop (4 * i)).take 4), oneHot i)
    (fanOf ((List.range 7).foldl (fun l i => clipPoly i l) cs)).map fun t => t.map (gCorner vp)
  | _, _, _ => (Config.gfeOdd m vp ps.flatten).map fun t => ((List.range 3).zip t).map fun k => (k.2.1, k.2.2.1, k.2.2.2.1, k.2.2.2.2, oneHot k.1)

/-- Interpolation from the corners (R290, Table 8.5 INTERP). -/
def gInterp (vals invw : List W32) (bary : List Int) (persp : Bool) : W32 :=
  match ratsOf vals, ratsOf invw with
  | some v, some q =>
    let wt (i : Nat) : Rat := let b : Rat := (bary.getD i 0 : Int); if persp then b * ratAt q i else b
    let den := wt 0 + wt 1 + wt 2
    if den = 0 then Config.interpolate vals invw bary persp else gRound ((wt 0 * ratAt v 0 + wt 1 * ratAt v 1 + wt 2 * ratAt v 2) / den)
  | _, _ => Config.interpolate vals invw bary persp

/-- An attribute at a clipped corner: the vertex's own value, or its weighted sum. -/
def cornerAttr (ws : List Rat) (vs : List W32) : W32 :=
  match (List.range 3).find? fun i => decide (ws = oneHot i) with
  | some i => chan vs i
  | none => match ratsOf vs with
    | some v => gRound (ratAt ws 0 * ratAt v 0 + ratAt ws 1 * ratAt v 1 + ratAt ws 2 * ratAt v 2)
    | none => Config.interpolate vs [] [] false

end Sys2Proof.Machine
end

