-- ==== Sys2Proof/Machine/CodeObj.lean ====
section
/-! DEFINITION. CodeObj.lean: what the command processor reads for a command: descriptors, code objects with the checks of
Table 4.20, binding tables and texture descriptors (04 R173-R176; 08 R302; 12 R428, R429; 16 R546). -/
namespace Sys2Proof.Machine

/-! ### Reads of the command processor -/

/-- What a command's read at its acceptance gives (R546, Table 14.5). -/
inductive Rd (α : Type) where
  | ok (a : α)
  | fail (st : Status) (ofs : Nat)
  | stall
  deriving DecidableEq, Repr

/-- The command on whose behalf a read is made: its number, context and queue. -/
structure Who where
  c : Nat
  ctx : Nat
  q : Nat
  deriving DecidableEq, Repr

def Who.rq (w : Who) : Rq := { who := some (.cmd w.c), queue := some w.q }

/-- Read bytes for a command: poison fails it with 0x0506. -/
def Who.read (w : Who) (va n : Nat) (k : Access) (s : State) : Rd (List Byte) × State :=
  match readVa w.ctx va n k w.rq s with
  | (bs, .ok, s) => (if anyPoison bs then .fail St.poisonPacket 0 else .ok (dataOf bs), s)
  | (_, .fail st, s) => (.fail st 0, s)
  | (_, .stall, s) => (.stall, s)

/-- Read on: the `n` bytes at `va`, of which the first, `h`, have been read; no byte is read twice. -/
def Who.readOn (w : Who) (va n : Nat) (h : List Byte) (k : Access) (s : State) : Rd (List Byte) × State :=
  match w.read (va + h.length) (n - h.length) k s with
  | (.ok bs, s) => (.ok (h ++ bs), s)
  | r => r

/-- How a command's start ends: it has run, goes on, waits for a fault's answer or for its turn. -/
inductive Go where
  | ended (st : Status)
  | running
  | blocked
  deriving DecidableEq, Repr

/-- Go on with what a read gave. -/
def Rd.run {α : Type} (r : Rd α × State) (f : α → State → Go × State) : Go × State :=
  match r with
  | (.ok a, s) => f a s
  | (.fail st _, s) => (.ended st, s)
  | (.stall, s) => (.blocked, s)

/-! ### Code objects (Tables 4.17-4.20) -/

/-- Base words of TEXT with their offsets and extension words (R135); an extension that is missing reads none. -/
def scanText : Nat → List W64 → List (Nat × W64 × Option W64)
  | _, [] => []
  | o, [w] => [(o, w, if iExt w then none else some 0)]
  | o, w :: e :: r => if iExt w then (o, w, some e) :: scanText (o + 16) r else (o, w, some 0) :: scanText (o + 8) (e :: r)

/-- Base-word offsets that a control instruction names (Table 4.12). -/
def ctrlTargets (o : Nat) (w : W64) (ext : W64) : List Int :=
  if iCls w ≠ 0 then [] else
  match iOp w with
  | 1 => [(o : Int) + 8 * iOfs w]
  | 2 => [(o : Int) + 8 * iOfs w, (o : Int) + 8 * sextNat 24 (fld ext 23 0)]
  | 5 => [(o : Int) + 8 * iOfs w]
  | _ => []

structure Sect where
  ty : Nat
  ofs : Nat
  size : Nat
  at' : Nat
  deriving DecidableEq, Repr

def sections (bs : List Byte) (n : Nat) : List Sect :=
  (List.range n).map fun i => { ty := leAt bs (64 + 16 * i) 4, ofs := leAt bs (68 + 16 * i) 4, size := leAt bs (72 + 16 * i) 4, at' := 64 + 16 * i }

def sectOf (l : List Sect) (ty : Nat) (bs : List Byte) : List Byte :=
  match l.find? (·.ty == ty) with | some x => sliceB bs x.ofs x.size | none => []
def sectCount (l : List Sect) (ty : Nat) : Nat := (l.filter (·.ty == ty)).length
def sectStart (l : List Sect) (ty : Nat) : Nat := match l.find? (·.ty == ty) with | some x => x.ofs | none => 0

/-- A header that breaks Table 4.17: the offset of the first failing field. -/
def headerBad (bs : List Byte) : Option Nat :=
  let z (o n : Nat) := leAt bs o n != 0
  if leAt bs 0 4 ≠ 0x4F434B45 then some 0
  else if leAt bs 4 2 ≠ 2 then some 4
  else if 4 ≤ leAt bs 6 2 then some 6
  else if leAt bs 8 2 = 0 ∨ 8 < leAt bs 8 2 then some 8
  else if leAt bs 10 1 = 0 then some 10
  else if z 11 1 then some 11
  else if z 0x16 2 then some 0x16
  else if leAt bs 0x18 4 < 64 + 16 * leAt bs 8 2 then some 0x18
  else if z 0x1C 36 then some 0x1C
  else none

/-- The first field of a section table entry that breaks Table 4.18, by its offset in the object. -/
def sectBad (bs : List Byte) (size : Nat) (l : List Sect) (x : Sect) : Option Nat :=
  let again := (l.filter (·.ty == x.ty)).head?.any (·.at' != x.at')
  let once := decide (1 ≤ x.ty) && decide (x.ty ≤ 4)
  let sizeBad := match x.ty with
    | 1 => decide (1048576 < x.size) || x.size % 8 != 0
    | 2 => decide (65536 < x.size)
    | 3 => x.size % 8 != 0 || decide (512 < x.size)
    | 4 => x.size % 8 != 0
    | _ => false
  if decide (x.ty = 0) || decide (5 < x.ty) || (once && again) then some x.at'
  else if x.ofs % 8 != 0 || decide (size < x.ofs) then some (x.at' + 4)
  else if sizeBad || decide (size < x.ofs + x.size) then some (x.at' + 8)
  else if leAt bs (x.at' + 12) 4 != 0 then some (x.at' + 12)
  else none

/-- BIND entries as (slot, kind). -/
def bindEntries (bs : List Byte) : List (Nat × Nat) := (List.range (bs.length / 8)).map fun i => (leAt bs (8 * i) 1, leAt bs (8 * i + 1) 1)

/-- The first BIND field that breaks Table 4.19, by its offset in the section: SLOT, KIND, reserved. -/
def bindBad (bs : List Byte) : Option Nat :=
  let es := bindEntries bs
  (List.range es.length).findSome? fun i =>
    let e := es.getD i (0, 0)
    if decide (63 < e.1) || (es.take i).any (·.1 == e.1) then some (8 * i)
    else if (e.2 != 1 && e.2 != 2) || (e.2 == 1 && decide (14 ≤ ((es.take i).filter (·.2 == 1)).length)) then some (8 * i + 1)
    else if leAt bs (8 * i + 2) 6 != 0 then some (8 * i + 2)
    else none

/-- Slots of a kind in ascending order (R173). -/
def slotsOf (es : List (Nat × Nat)) (kind : Nat) : List Nat := (List.range 64).filter fun s => es.any fun e => e.1 == s && e.2 == kind

/-- The value a relocation writes: bank 2 + i or descriptor index i (R173). -/
def relocVal (es : List (Nat × Nat)) (ty slot : Nat) : Option Nat :=
  let l := slotsOf es ty
  match (List.range l.length).find? fun i => l.getD i 64 == slot with
  | some i => some (if ty = 1 then 2 + i else i)
  | none => none

/-- Does the base word at a RELOC entry's OFFSET hold the field that the entry patches, with zero in it? -/
def relocHolds (ty : Nat) (w : W64) : Bool :=
  if ty = 1 then iCls w == 6 && iOp w == 2 && fld w 29 26 == 0 else iCls w == 7 && iSb w == 0

/-- The first RELOC field that breaks Table 4.19, by its offset in the section: OFFSET, TYPE, SLOT, reserved. -/
def relocBad (bs : List Byte) (es : List (Nat × Nat)) (ws : List (Nat × W64 × Option W64)) : Option Nat :=
  (List.range (bs.length / 8)).findSome? fun i =>
    let ty := leAt bs (8 * i + 4) 1
    let w := ws.find? (·.1 == leAt bs (8 * i) 4)
    if w.isNone || (decide (1 ≤ ty) && decide (ty ≤ 2) && !(w.any fun x => relocHolds ty x.2.1)) then some (8 * i)
    else if ty != 1 && ty != 2 then some (8 * i + 4)
    else if (relocVal es ty (leAt bs (8 * i + 5) 1)).isNone then some (8 * i + 5)
    else if leAt bs (8 * i + 6) 2 != 0 then some (8 * i + 6)
    else none

/-- TEXT with its relocations applied. -/
def relocate (bs : List Byte) (es : List (Nat × Nat)) (text : List W64) : List W64 :=
  (List.range (bs.length / 8)).foldl (fun t i =>
    let k := leAt bs (8 * i) 4 / 8
    let ty := leAt bs (8 * i + 4) 1
    let v := (relocVal es ty (leAt bs (8 * i + 5) 1)).getD 0
    t.set k (if ty = 1 then setFld (t.getD k 0) 29 26 v else setFld (t.getD k 0) 41 34 v)) text

/-- The first item that fails the encoding checks of Table 4.20: a base word of TEXT, which starts at `t0` (its encoding, its targets and HIT
together), then ENTRY (DEDUCED, unsafe, log 26). -/
def encodingBad (t0 nv entry : Nat) (strand : Bool) (ws : List (Nat × W64 × Option W64)) : Option Nat :=
  let base (o : Int) : Bool := ws.any fun x => (x.1 : Int) == o
  match ws.find? (fun x => match x.2.2 with
    | none => true
    | some e => !(wordOk nv x.2.1 e) || !((ctrlTargets x.1 x.2.1 e).all base) || (iCls x.2.1 == 0xD && !strand)) with
  | some x => some (t0 + x.1)
  | none => if base entry then none else some 0x10

/-- Validate a code object as read (R176): the object, or the status and the offset of the first failing item; encoding checks come after all
form checks, LMSIZE and CBSIZE last, and an object without TEXT reports NSECT (DEDUCED, unsafe, log 26). `cb`: inline
constant bytes of the packet; `lm`: LM allocation of the launch, if it has one; `need`: FLAGS bits that the use requires
(1 STRAND, 2 TILE), whose absence has status `needSt`. -/
def parseCode (bs : List Byte) (cb : Nat) (lm : Option Nat) : Except (Status × Nat) Code :=
  let fmt (o : Nat) : Except (Status × Nat) Code := .error (0x0118, o)
  match headerBad bs with
  | some o => fmt o
  | none =>
    let size := leAt bs 0x18 4
    let l := sections bs (leAt bs 8 2)
    match l.findSome? (sectBad bs size l) with
    | some o => fmt o
    | none =>
      if sectCount l 1 ≠ 1 then fmt 8 else
      let bb := sectOf l 3 bs
      match bindBad bb with
      | some o => fmt (sectStart l 3 + o)
      | none =>
        let es := bindEntries bb
        let rb := sectOf l 4 bs
        let text := bytesW64 (sectOf l 1 bs)
        let ws := scanText 0 text
        match relocBad rb es ws with
        | some o => fmt (sectStart l 4 + o)
        | none =>
          let flags := leAt bs 6 2
          match encodingBad (sectStart l 1) (leAt bs 10 1) (leAt bs 0x10 4) (flags.testBit 0) ws with
          | some o => .error (0x0119, o)
          | none =>
            let lms := leAt bs 12 4
            if decide (lmBytes < lms) || lm.any (fun n => decide (n < lms)) then .error (0x011A, 12)
            else if cb < leAt bs 0x14 2 then .error (0x011A, 0x14)
            else .ok { id := 0, strand := flags.testBit 0, tile := flags.testBit 1, vregs := leAt bs 10 1, lmSize := lms, entry := leAt bs 0x10 4
                       cbSize := leAt bs 0x14 2, text := relocate rb es text, const := sectOf l 2 bs, binds := es }

/-- Read and validate the code object at `va` (R174, R481). -/
def Who.code (w : Who) (va cb : Nat) (lm : Option Nat) (s : State) : Rd Code × State :=
  match w.read va 64 .exec s with
  | (.ok h, s) =>
    (match headerBad h with
     | some o => (.fail 0x0118 o, s)
     | none =>
       match w.readOn va (leAt h 0x18 4) h .exec s with
       | (.ok bs, s) =>
         (match parseCode bs cb lm with
          | .ok c => (.ok c, s)
          | .error (st, o) => (.fail st o, s))
       | (.fail st o, s) => (.fail st o, s)
       | (.stall, s) => (.stall, s))
  | (.fail st o, s) => (.fail st o, s)
  | (.stall, s) => (.stall, s)

/-- Install a code object; its number. -/
def install (c : Code) (s : State) : Nat × State :=
  let i := s.ex.nextCode
  (i, updEx (fun e => { e with nextCode := i + 1, codes := e.codes ++ [{ c with id := i }] }) s)

/-! ### Textures (Tables 8.3, 8.10) -/

def fmtColour (f : Nat) : Bool := decide (1 ≤ f) && decide (f ≤ 8)
def fmtCompressible (f : Nat) : Bool := f == 1 || f == 2 || f == 3 || f == 8

/-- Does a texture descriptor keep Table 8.10? -/
def texDescOk (d : List Byte) : Bool :=
  let fmt := leAt d 0x20 1
  let comp := leAt d 8 8 != 0
  let w := leAt d 0x1C 2
  let pitch := leAt d 0x18 4
  let lv := leAt d 0x21 1
  leAt d 0 8 % 256 == 0 && decide (1 ≤ fmt) && decide (fmt ≤ 9) && decide (1 ≤ w) && decide (w ≤ 8192) && decide (1 ≤ leAt d 0x1E 2) && decide (leAt d 0x1E 2 ≤ 8192) &&
  (if comp then pitch == 0 && fmtCompressible fmt && lv == 1
   else pitch % 64 == 0 && decide (w * formatBytes fmt ≤ pitch)) &&
  decide (1 ≤ lv) && decide (lv ≤ 14) && leAt d 0x22 1 % 4 ≤ 1 && leAt d 0x22 1 / 4 % 4 ≤ 2 && leAt d 0x22 1 / 16 == 0 && leAt d 0x23 1 / 16 == 0 &&
  decide (1 ≤ leAt d 0x24 2) && decide (leAt d 0x24 2 ≤ 2048) && leAt d 0x26 10 == 0

/-! ### Models as references (07 R245, R251) -/

/-- May context `c` refer to model `m`? 0x0131 unless RESIDENT, 0x0132 unless its own or SHARED in its partition. -/
def modelRef (s : State) (c m : Nat) : Option Status :=
  let x := tabD s.ob.models m {}
  if x.state ≠ .resident then some 0x0131
  else if x.ctx.val = c && !x.orphan then none
  else if x.shared ∧ x.part = (ctxOf s c).part then none
  else some 0x0132

def modelParam (x : Model) : Nat := if x.hasParam then x.wbase.toNat + x.paramOfs.toNat else 0

/-! ### Binding tables (Table 12.5, R428) -/

/-- What a binding table binds: CBUF banks (address, size, bytes of a MODEL binding), texture descriptors, models. -/
structure Bound where
  banks : List (Nat × Nat × List Byte) := []
  texs : List (List Byte) := []
  models : List (Fin 1024) := []
  deriving DecidableEq, Repr

/-- Bind the entries in ascending SLOT order; `t` holds the table's entries not yet taken. -/
def bindAll (w : Who) : List (Nat × Nat) → List Byte → Bound → State → Rd Bound × State
  | [], _, b, s => (.ok b, s)
  | (_, kind) :: r, t, b, s =>
    let k := leAt t 0 1
    let m := leAt t 2 2
    let size := leAt t 4 4
    let addr := leAt t 8 8
    let t' := t.drop 16
    if leAt t 1 1 ≠ 0 then (.fail St.binding 0, s)
    else if k = 1 ∧ kind = 1 ∧ m = 0 ∧ 1 ≤ size ∧ size ≤ 65536 then
      bindAll w r t' { b with banks := b.banks ++ [(addr, size, [])] } s
    else if k = 3 ∧ kind = 1 ∧ size = 0 ∧ addr = 0 ∧ m < 1024 then
      match modelRef s w.ctx m with
      | some st => (.fail st 0, s)
      | none =>
        let x := tabD s.ob.models m {}
        bindAll w r t' { b with banks := b.banks ++ [(0, 16, leBytes 8 x.wbase.toNat ++ leBytes 8 (x.wbase.toNat + x.paramOfs.toNat))]
                                models := b.models ++ [fin' 1023 m] } s
    else if k = 2 ∧ kind = 2 ∧ m = 0 ∧ size = 0 then
      match w.read addr 64 .load s with
      | (.ok d, s) => if texDescOk d then bindAll w r t' { b with texs := b.texs ++ [d] } s else (.fail 0x0142 0, s)
      | (.fail st o, s) => (.fail st o, s)
      | (.stall, s) => (.stall, s)
    else (.fail St.binding 0, s)

/-- BIND entries of a code object in ascending slot order. -/
def bindOrder (c : Code) : List (Nat × Nat) :=
  (List.range 64).filterMap fun s => c.binds.find? (·.1 == s)

/-- Read and check a binding table (R428); the command references the models that it names (07 R250). -/
def Who.bind (w : Who) (c : Code) (cnt va : Nat) (s : State) : Rd Bound × State :=
  if cnt ≠ c.binds.length then (.fail St.binding 0, s)
  else if cnt = 0 then (.ok {}, s)
  else if va % 16 ≠ 0 then (.fail St.paramRange 0, s)
  else match w.read va (16 * cnt) .load s with
    | (.ok t, s) =>
      (match bindAll w (bindOrder c) t {} s with
       | (.ok b, s) => (.ok b, updCmd w.c (fun y => { y with models := y.models ++ b.models.filter (fun m => !y.models.contains m) }) s)
       | x => x)
    | (.fail st o, s) => (.fail st o, s)
    | (.stall, s) => (.stall, s)

end Sys2Proof.Machine
end

