-- ==== Sys2Proof/Machine/Braid.lean ====
section
/-! DEFINITION. Braid.lean: braids: definition, start, stop, faults, hits of strands, deadlines and drains; and what a trap
does to its command, braid or pass (06; 03 R133, R134; 07 R253, R258, R259). -/
namespace Sys2Proof.Machine

/-- A braid's STATE changes: ICN source 32 + b pulses (Table 11.7). -/
def setBState (b : Nat) (st : BState) (s : State) : State :=
  if (braidOf s b).state = st then s else icnPulse (32 + b) (updBraid b (fun x => { x with state := st }) s)

def bActive (x : Braid) : Bool := x.state == .running || x.state == .draining
def isSpan (x : Braid) : Bool := bit x.flags 2
def lineSync (x : Braid) : Bool := bit x.flags 0
def chanKnots (x : Braid) : List Nat := (List.range x.chans.length).flatMap fun c => [16 * c, 16 * c + 8]
/-- Knots of the braid's own area are abandoned (R359); a snapshot holds it (R368). -/
def abandonKnots (b : Nat) (offs : List Nat) (s : State) : State := offs.foldl (fun s o => abandon 0 (knotPl b o s) s) s

/-- Step 2 of R228: a knot is set to zero; one with a parked wait still registered (R526) is left as it is (R361; DEDUCED, unsafe, log 28). -/
def zeroKnots (b : Nat) (offs : List Nat) (s : State) : State :=
  offs.foldl (fun s o => if hasWaiters (knotPl b o s) s then s else knotStore 0 (knotPl b o s) 0 (knotLink (knotPl b o s) s)) s

/-- Drains waiting on a braid complete (R231). -/
def endDrains (b : Nat) (st : Status) (s : State) : State :=
  (s.ex.cmds.filter fun c => c.phase == .running && (match c.work with | .drain x => x.val == b | _ => false)).foldl (fun s c => finish c.id st s) s

/-- A source stops admission at once (R232): the unit of the braid in progress at its port is discarded. -/
def refuseOpen (b p : Nat) (s : State) : State :=
  updGx (fun g => { g with cams := tabUpd g.cams p fun c =>
    { c with open' := c.open'.map fun o => if o.braid == some (fin' 15 b) then { o with admitted := false } else o } }) s

/-- HALT (R232): admission stops, every knot of the braid is abandoned, its groups stop, unresolved units are discarded. -/
def haltBraid (b : Nat) (st : BState) (s : State) : State :=
  let x := braidOf s b
  let s := refuseOpen b x.source.toNat s
  let s := stopOwner (fun o => match o with | .strand y _ => y.val == b | _ => false) s
  let s := abandonKnots b (chanKnots x ++ [0x400]) s
  setBState b st (updBraid b (fun x => { x with units := [], early := [], drained := false }) s)

/-- R233: the pending hits of every output in OUTMASK are discarded. -/
def flushMask (m : BitVec 36) (s : State) : State := (setBits m).foldl (fun s o => discardHits o s) s

/-- A fault of a braid (R234, R231). -/
def braidFault (b : Nat) (st : Status) (trap : Option (Nat × TrapRep)) (s : State) : State :=
  if bActive (braidOf s b) then
    let s := haltBraid b .faulted s
    endDrains b st (updBraid b (fun x => { x with status := st, trap := match trap with | some r => some r | none => x.trap }) s)
  else s

/-! ### Traps (R133, R134) -/

def updPass (p : Nat) (f : Pass → Pass) (s : State) : State := updGx (fun g => { g with passes := updWhere (·.id == p) f g.passes }) s

/-- Reservations and tile blocks of a pass go. -/
def dropPassCores (p : Nat) (s : State) : State := releaseTiles p (stopOwner (· == .tile p) s)

/-- A pass's render ends in failure: the command that renders fails with the status, END with the trap's pc in DW7 (Table
12.16). After a DRAW the failed pass stays open until its END. -/
def failPass (p : Nat) (st : Status) (pc : W32) (s : State) : State :=
  match s.gx.passes.find? (·.id == p) with
  | none => s
  | some x =>
    let s := dropPassCores p s
    let s := updPass p (fun x => { x with failed := st, todo := [], toBin := [], bufs := [], prep := [], phase := .finished, bins := [], chunks := [], prims := [] }) s
    match x.cmd with
    | none => s
    | some c =>
      let draw := ((findCmd s c).map fun y => pktOpcode y.pkt == 0x61).getD false
      if draw then finish c st (updPass p (fun x => { x with cmd := none }) s)
      else
        let s := if x.direct then s else setRes c [BitVec.ofNat 32 x.tilesStored, BitVec.ofNat 32 x.tilesSkipped, BitVec.ofNat 32 x.partials, pc] s
        finish c st (updGx (fun g => { g with passes := g.passes.filter (·.id != p) }) s)

/-- The report of a trapped group (R134). -/
def trapReport (g : Group) (st : Status) : TrapRep :=
  { status := st, engine := BitVec.ofNat 8 g.core.val, quarter := BitVec.ofNat 2 g.quarter.val, age := BitVec.ofNat 32 g.age.toNat, pc := BitVec.ofNat 32 g.pc, mask := g.active }

/-- MIXED_STEP that fails after its first stage has begun: its status goes to every included sequence. Which bytes of its pages hold
positions at or above LENGTH is the model's code's; they and the outputs keep what the blocks stored (R264, R270; DESIGN CHOICE, unsafe,
log 92). -/
def stepFailed (c : Nat) (st : Status) (s : State) : State :=
  match findCmd s c with
  | some x =>
    (match x.work with
     | .step _ k es _ d =>
       if k = 0 ∧ d.nblock = 0 then s else (es.filter fun e => !e.excluded).foldl (fun s e => (writeVa (pktContext x.pkt) (e.seq.toNat + 0x0A) (clean (leBytes 2 st.toNat)) {} s).2.2) s
     | _ => s)
  | none => s

/-- A trapped group's owner stops: its command fails, its braid faults or its pass fails. -/
def trapOwner (g : Group) (st : Status) (s : State) : State :=
  match ((findBlk s g.blk).map (·.owner) : Option Owner) with
  | none => updEx (fun e => { e with groups := e.groups.filter (·.id != g.id) }) s
  | some (.cmd c) =>
    let r := trapReport g st
    let s := stepFailed c st (stopCmd c s)
    finish c st (updCmd c (fun x => { x with trap := some r }) s)
  | some (.strand b k) => braidFault b st (some (k, trapReport g st)) s
  | some (.tile p) =>
    let r := trapReport g st
    let s := stopOwner (· == .tile p) s
    let s := match (s.gx.passes.find? (·.id == p)).bind (fun x => if x.direct then x.cmd else none) with
      | some c => updCmd c (fun y => { y with trap := some r }) s
      | none => s
    failPass p st (BitVec.ofNat 32 g.pc) s

def isTrapped (g : Group) : Option Status := match g.wait with | .trapped st => some st | _ => none

/-- Core, quarter and age as one number, in that order of weight. -/
def trapKey (g : Group) : Nat := (g.core.val * 4 + g.quarter.val) * 2 ^ 64 + g.age.toNat

/-- The trapped group that is reported first: lowest core, then quarter, then age (R134). -/
def firstTrap (s : State) : Option (Group × Status) :=
  s.ex.groups.foldl (fun o g => match isTrapped g with
    | none => o
    | some st => match o with
      | none => some (g, st)
      | some (h, _) => if trapKey g < trapKey h then some (g, st) else o) none

def settleTraps : Nat → State → State
  | 0, s => s
  | n + 1, s => match firstTrap s with
    | none => s
    | some (g, st) => settleTraps n (trapOwner g st s)

/-- The end of a command that can stop groups: traps take effect, then the concentrator settles. -/
def fin (s : State) : Res := done (settleTraps (s.ex.groups.length + 1) s)

/-- Group `g` traps. -/
def trapG (g : Nat) (st : Status) (s : State) : State := updGrp g (fun x => { x with wait := .trapped st }) s

/-! ### Hits of strands (R171, R223, R224) -/

/-- A record of a strand takes the braid's LATE policy (R171). -/
def strandHit (s : State) (b : Nat) (r : HitRec) : HitRec := { r with dw2 := setFld r.dw2 11 10 (braidOf s b).late.toNat }

/-- A record arrives at the hit port, from the host or from a strand. -/
def hitNow (r : HitRec) (src : HitSrc) (s : State) : HitAns × State :=
  match src with
  | .host => hitArrive r s
  | .strand b =>
    let (a, s) := hitArrive (strandHit s b r) s
    let s := updBraid b (fun x => { x with posted := satInc x.posted }) s
    match a with
    | .accepted => (a, s)
    | .late => (a, escLateBraid b (updBraid b (fun x => { x with lates := satInc x.lates }) s))
    | .refused st =>
      let s := updBraid b (fun x => { x with refused := satInc x.refused }) s
      (a, if bit (braidOf s b).flags 1 && (st == St.hitRecord || st == St.hitQueueFull) then braidFault b st none s else s)

/-- The same under a snapshot's hold (R368, R370). -/
def hitPort (r : HitRec) (src : HitSrc) (s : State) : State := if holding s then hold (.hit r src) s else (hitNow r src s).2

/-- HIT_PORT_ARRIVAL (R64, R223): a hit record reaches the hit port. -/
def execHitPortArrival (r : HitRec) (src : HitSrc) (t : W64) (s : State) : Res := fin (hitPort r src (s.at t))

/-- DEADLINE_MISS (R225): PTE time has reached T(n) + DEADLINE while the result knot of braid `b` is at most `n`. -/
def execDeadlineMiss (b : Fin 16) (n t : W64) (s : State) : Res :=
  let s := noteKnot b 0x400 (s.at t)
  let x := braidOf s b
  let due := (x.units ++ x.early).any fun u => u.1 == n && !u.2.2 && decide (u.2.1.toNat + x.deadline.toNat ≤ s.now)
  if bActive x && x.deadline != 0 && due && decide (resolved b s ≤ n.toNat) then
    fin (braidMiss b (updBraid b (fun x =>
      { x with units := updWhere (fun u => u.1 == n) (fun u => (u.1, u.2.1, true)) x.units, early := x.early.filter (·.1 != n) }) s))
  else fin s

/-! ### Draining (R229-R231) -/

/-- Are all admitted units of a braid resolved (R203, Table 6.8)? -/
def allResolved (s : State) (b : Nat) : Bool := decide ((braidOf s b).admitted.toNat ≤ resolved b s)

/-- DRAIN_RESULT_REACHED (R229): the result knot has reached ADMITTED: the channel knots are abandoned. -/
def execDrainResultReached (b : Fin 16) (s : State) : Res :=
  let s := noteKnot b 0x400 s
  let x := braidOf s b
  if x.state == .draining && !x.drained && allResolved s b then
    fin (abandonKnots b (chanKnots x) (updBraid b (fun x => { x with drained := true }) s))
  else fin s

def strandBlocks (s : State) (b : Nat) : List Block := s.ex.blocks.filter fun k => match k.owner with | .strand x _ => x.val == b | _ => false

/-- DRAIN_BLOCKS_ENDED (R229, R233): all blocks of a draining braid have ended: STOPPED; the channel
knots are abandoned by then. -/
def execDrainBlocksEnded (b : Fin 16) (s : State) : Res :=
  let s := noteKnot b 0x400 s
  let x := braidOf s b
  if x.state == .draining && allResolved s b && (strandBlocks s b).isEmpty then
    let s := if x.drained then s else abandonKnots b (chanKnots x) s
    let s := if x.flush then flushMask x.outmask s else s
    fin (endDrains b St.success (setBState b .stopped (updBraid b (fun x => { x with status := 0, units := [], early := [] }) s)))
  else fin s

/-- BRAID_DRAIN_TIMEOUT (R230): the drain timeout elapses: HALT, and the drains complete with 0x0302. -/
def execBraidDrainTimeout (b : Fin 16) (t : W64) (s : State) : Res :=
  let s := s.at t
  let x := braidOf s b
  if x.state == .draining && decide (x.drainEnd.toNat ≤ s.now) then
    let s := haltBraid b .stopped s
    let s := if x.flush then flushMask x.outmask s else s
    fin (endDrains b St.timeoutKilled (updBraid b (fun x => { x with status := St.timeoutKilled }) s))
  else fin s

/-! ### The selection log (R253, R258, R259) -/

/-- Words of Peat as the device's own reads deliver them (16 R543, R544). -/
def peatWords (a n : Nat) (s : State) : List Byte := (List.range n).flatMap fun i => leBytes 8 (s.mm.peat.word (a / 8 + i)).1.toNat
def selAddr (b k : Nat) (s : State) : Nat := knotBasePeat b s + 0x840 + 32 * (k % 16)
def selCount (b : Nat) (s : State) : Nat := leVal (peatWords (knotBasePeat b s + 0x800) 1 s)
def selRec (b k : Nat) (s : State) : List Byte := peatWords (selAddr b k s) 4 s
/-- What the reads of COUNT and of record `k` find is counted (16 R543-R545). -/
def noteSel (b k : Nat) (s : State) : State :=
  [0, 8, 16, 24].foldl (fun s i => noteWord (selAddr b k s + i) s) (noteWord (knotBasePeat b s + 0x800) s)
def selFrom (b k : Nat) (s : State) : Nat := leAt (selRec b k s) 0 8
def selModel (b k : Nat) (s : State) : Nat := leAt (selRec b k s) 8 2
def putSelRec (b k : Nat) (bs : List Byte) (s : State) : State := writeDev false (selAddr b k s) (clean bs) s
def putSelCount (b n : Nat) (s : State) : State := writeDev false (knotBasePeat b s + 0x800) (clean (leBytes 8 n)) s

/-- Is record `j` retired (R258, R259)? -/
def selRetired (b j : Nat) (s : State) : Bool :=
  let n := selCount b s
  let x := braidOf s b
  if n ≤ j + 1 then false
  else if !(bActive x) then true
  else
    let f := selFrom b (j + 1) s
    decide (f ≤ resolved b s) && (List.range x.chans.length).all fun c => decide (f ≤ bKnotVal b (16 * c + 8) s)

/-- Records still in the log. -/
def selLive (b : Nat) (s : State) : List Nat := let n := selCount b s; (List.range (min n 16)).map fun i => n - 1 - i

/-- Unretired records of defined braids that name model `m`. -/
def selUses (m : Nat) (s : State) : Nat :=
  ((List.range 16).flatMap fun b => if (braidOf s b).state == .free then [] else
    (selLive b s).filter fun k => !selRetired b k s && selModel b k s == m).length

/-! ### BRAID_DEFINE (Tables 6.1-6.4) -/

def cmdCtx (c : Cmd) : Nat := pktContext c.pkt
def Cmd.who (c : Cmd) : Who := { c := c.id, ctx := cmdCtx c, q := c.q.val }

/-- The code object of a command: a graph's packet runs the one that its version installed (R433). -/
def Cmd.code (c : Cmd) (va cb : Nat) (lm : Option Nat) (s : State) : Rd Code × State :=
  match c.gcode.bind (findCode s) with
  | some k => (.ok k, s)
  | none => c.who.code va cb lm s

def strandDesc (bs : List Byte) (i : Nat) : List Byte := sliceB bs (64 + 64 * i) 64
def chanDesc (bs : List Byte) (ns i : Nat) : List Byte := sliceB bs (64 + 64 * ns + 32 * i) 32
def strandIns (d : List Byte) : List Nat := [leAt d 0x18 1, leAt d 0x19 1].filter (· != 0xFF)
def strandOuts (d : List Byte) : List Nat := [leAt d 0x1A 1, leAt d 0x1B 1].filter (· != 0xFF)

def braidHeaderOk (h : List Byte) : Bool :=
  leAt h 0 4 == 0x44424B45 && leAt h 4 2 == 1 && decide (leAt h 6 2 < 8) && decide (1 ≤ leAt h 8 1) && decide (leAt h 8 1 ≤ 32) &&
  decide (1 ≤ leAt h 9 1) && decide (leAt h 9 1 ≤ 64) && (decide (leAt h 10 1 ≤ 3) || leAt h 10 1 == 0x0F) &&
  decide (leAt h 11 1 < 32) && leAt h 11 1 / 8 != 3 && decide (leAt h 12 4 < 2 ^ 31) && decide (leAt h 16 8 < 2 ^ 36) && leAt h 0x18 40 == 0

def strandDescOk (nchan : Nat) (d : List Byte) : Bool :=
  let cores := BitVec.ofNat 32 (leAt d 0x10 4)
  let blocks := leAt d 0x14 1
  decide (1 ≤ blocks) && decide (blocks ≤ 32) && (cores == 0 || popcount cores == blocks) && decide (1 ≤ leAt d 0x15 1) && decide (leAt d 0x15 1 ≤ 32) &&
  decide (leAt d 0x16 1 ≤ 112) && (leAt d 0x17 1 == 0xFF || decide (leAt d 0x17 1 ≤ 15)) &&
  (strandIns d ++ strandOuts d).all (fun c => decide (c < nchan)) && !((strandIns d).any fun c => (strandOuts d).contains c) &&
  decide (leAt d 0x1C 4 < 2) && decide (leAt d 0x2C 4 ≤ 64) && leAt d 0x38 8 == 0

def chanDescOk (d : List Byte) : Bool :=
  leAt d 0 8 % 64 == 0 && leAt d 8 4 % 64 == 0 && decide (128 ≤ leAt d 8 4) && decide (leAt d 8 4 ≤ 0x00C00000) &&
  decide (2 ≤ leAt d 12 4) && decide (leAt d 12 4 ≤ 65536) && leAt d 16 16 == 0

/-- Strands that name a channel among their inputs or outputs. -/
def countIn (c : Nat) (ls : List (List Nat)) : Nat := (ls.filter fun l => l.contains c).length

/-- The fourth row of Table 6.4. -/
def braidDescOk (bs : List Byte) : Bool :=
  let ns := leAt bs 8 1
  let nc := leAt bs 9 1
  let sd := (List.range ns).map (strandDesc bs)
  let outs := sd.map strandOuts
  sd.all (strandDescOk nc) && (List.range nc).all (fun i => chanDescOk (chanDesc bs ns i)) &&
  (sd.filter fun d => leAt d 0x1C 4 == 1).length == 1 &&
  (List.range nc).all fun c => countIn c (sd.map strandIns) == 1 && countIn c outs == (if c = 0 then 0 else 1)

/-- The fifth row of Table 6.4; DEV without SPAN. -/
def braidModeOk (bs : List Byte) : Bool :=
  let fl := leAt bs 6 2
  (!fl.testBit 0 || (leAt bs 10 1 != 0x0F && leAt bs 12 4 != 0)) &&
  (fl.testBit 2 || (List.range (leAt bs 8 1)).all fun i => leAt (strandDesc bs i) 0x17 1 == 0xFF)

/-- Does a strand with this DEV run here? -/
def devHere (s : State) (dev : Nat) : Bool := dev == 0xFF || (s.dom.member && dev == s.dom.id.toNat)

/-- Does a place satisfy the sixth row of Table 6.4 for a consumer on `dev`? -/
def chanPlaceOk (here : Bool) (dev : Nat) (pl : Place) : Bool :=
  match pl with
  | .peat _ => here
  | .remote d f _ => !here && d.val == dev && !bit f 27
  | _ => false

/-- Every page of a channel, whatever its permissions; the check posts no fault (R205). -/
def chanPages (w : Who) (here : Bool) (dev : Nat) : List (Nat × Nat) → State → Rd Unit × State
  | [], s => (.ok (), s)
  | (va, _) :: r, s =>
    match mapped w.ctx va s with
    | (some pl, s) => if chanPlaceOk here dev pl then chanPages w here dev r s else (.fail 0x0122 0, s)
    | (_, s) => (.fail 0x0122 0, s)

def chansOk (w : Who) (bs : List Byte) (ns : Nat) : List Nat → State → Rd Unit × State
  | [], s => (.ok (), s)
  | i :: r, s =>
    let d := chanDesc bs ns i
    let cons := ((List.range ns).map (strandDesc bs)).find? fun x => (strandIns x).contains i
    let dev := (cons.map fun x => leAt x 0x17 1).getD 0xFF
    match chanPages w (devHere s dev) dev (pagePieces (leAt d 0 8) (leAt d 8 4 * leAt d 12 4)) s with
    | (.ok _, s) => chansOk w bs ns r s
    | (.fail st o, s) => (.fail st o, s)
    | (.stall, s) => (.stall, s)

/-- Read, validate and bind the code of every strand that is named; codes are installed only when all pass. -/
def strandCodes (w : Who) (bs : List Byte) : List Nat → State → Rd (List (Code × Bound)) × State
  | [], s => (.ok [], s)
  | i :: r, s =>
    let d := strandDesc bs i
    match w.code (leAt d 0 8) (0x90 + leAt d 0x16 1) none s with
    | (.ok c, s) =>
      if !c.strand then (.fail 0x0118 6, s) else
      (match w.bind c (leAt d 0x2C 4) (leAt d 0x30 8) s with
       | (.ok b, s) =>
         (match strandCodes w bs r s with
          | (.ok l, s) => (.ok ((c, b) :: l), s)
          | (.fail st o, s) => (.fail st o, s)
          | (.stall, s) => (.stall, s))
       | (.fail st o, s) => (.fail st o, s)
       | (.stall, s) => (.stall, s))
    | (.fail st o, s) => (.fail st o, s)
    | (.stall, s) => (.stall, s)

def installAll : List Code → State → List Nat × State
  | [], s => ([], s)
  | c :: r, s =>
    let (i, s) := install c s
    let (l, s) := installAll r s
    (i :: l, s)

def mkStrand (d : List Byte) (code : Nat) (b : Bound) : Strand :=
  { code := code, cbuf := BitVec.ofNat 64 (leAt d 8 8), cores := BitVec.ofNat 32 (leAt d 0x10 4), blocks := leAt d 0x14 1, groups := leAt d 0x15 1
    cbSize := leAt d 0x16 1, dev := BitVec.ofNat 8 (leAt d 0x17 1), io := sliceB d 0x18 4, result := leAt d 0x1C 4 == 1
    affinity := BitVec.ofNat 64 (leAt d 0x20 8), affLen := BitVec.ofNat 32 (leAt d 0x28 4), banks := b.banks, texs := b.texs }

def mkChan (d : List Byte) : Channel := { base := BitVec.ofNat 64 (leAt d 0 8), slotSize := leAt d 8 4, slots := leAt d 12 4 }

def selInit : List Byte := leBytes 8 0 ++ leBytes 2 0xFFFF ++ List.replicate 22 0

/-- The braid as defined (R204, R206, R253). -/
def defineBraid (c : Cmd) (b : Nat) (bs : List Byte) (cs : List (Code × Bound)) (s : State) : Go × State :=
  let ns := leAt bs 8 1
  let nc := leAt bs 9 1
  let (ids, s) := installAll (cs.map (·.1)) s
  let strands := (List.range ns).map fun i => mkStrand (strandDesc bs i) (ids.getD i 0) (((cs[i]?).map (·.2)).getD {})
  let x : Braid :=
    { state := (braidOf s b).state, ctx := fin' 63 (cmdCtx c), flags := BitVec.ofNat 16 (leAt bs 6 2), source := BitVec.ofNat 8 (leAt bs 10 1)
      axis := BitVec.ofNat 3 (leAt bs 11 1 % 8), late := BitVec.ofNat 2 (leAt bs 11 1 / 8 % 4), deadline := BitVec.ofNat 32 (leAt bs 12 4)
      outmask := BitVec.ofNat 36 (leAt bs 16 8), strands := strands, chans := (List.range nc).map fun i => mkChan (chanDesc bs ns i), knotBase := knotBaseVa b }
  let vas := (chanKnots x ++ [0x400]).map (knotBaseVa b + ·)
  match addSigs (cmdCtx c) vas s with
  | none => (.ended St.signalSetFull, s)
  | some s =>
    let s := putSelCount b 1 (putSelRec b 0 selInit s)
    (.ended St.success, setBState b .defined (updBraid b (fun _ => x) s))

/-- BRAID_DEFINE (R204-R206, R253, Table 6.4, R616). -/
def startBraidDefine (c : Cmd) (s : State) : Go × State :=
  let b := fld (dw c.pkt 8) 3 0
  let w := c.who
  let defs := (List.range 16).filter fun i => (braidOf s i).state != .free
  let cur := braidOf s b
  if sfiArmed s && requiredBraid s b then (.ended St.safetyLocked, s)
  else if cur.state != .free then (.ended (if cur.ctx.val = w.ctx then 0x0120 else 0x0123), s)
  else Rd.run (w.read (dq c.pkt 10) 64 .load s) fun h s =>
    let n := 64 + 64 * leAt h 8 1 + 32 * leAt h 9 1
    if 128 < leAt h 8 1 + (defs.foldl (fun k i => k + (braidOf s i).strands.length) 0) then (.ended 0x0220, s)
    else if (leAt h 6 2).testBit 0 && decide (4 ≤ (defs.filter fun i => lineSync (braidOf s i)).length) then (.ended 0x0221, s)
    else if !braidHeaderOk h then (.ended 0x0121, s)
    else Rd.run (w.readOn (dq c.pkt 10) n h .load s) fun bs s =>
      let ns := leAt bs 8 1
      if !(braidHeaderOk bs && braidDescOk bs && braidModeOk bs) then (.ended 0x0121, s)
      else if (List.range ns).any fun i => leAt (strandDesc bs i) 0x10 4 / 2 ^ presentCores s.part != 0 then (.ended St.resourceAbsent, s)
      else Rd.run (chansOk w bs ns (List.range (leAt bs 9 1)) s) fun _ s =>
        Rd.run (strandCodes w bs (List.range ns) s) fun cs s => defineBraid c b bs cs s

/-! ### BRAID_START (R207-R210, R214, R228, R259) -/

/-- Bytes of a range that lie in each Peat region under the translation now (R207, R511). -/
def affPieces (c : Nat) : List (Nat × Nat) → List Nat → State → List Nat × State
  | [], l, s => (l, s)
  | (va, n) :: r, l, s =>
    match mapped c va s with
    | (some (.peat a), s) => affPieces c r (l.set (a / regionBytes) (l.getD (a / regionBytes) 0 + n)) s
    | (_, s) => affPieces c r l s
def affinity (c va n : Nat) (s : State) : List Nat × State := affPieces c (pagePieces va n) (List.replicate 32 0) s

/-- The best core by score among candidates, the lower number on a tie. -/
def bestCore (score : Nat → Nat) (cands : List Nat) : Option Nat :=
  cands.foldl (fun o c => match o with | none => some c | some b => if score b < score c then some c else some b) none

def pickCores (score : Nat → Nat) : Nat → List Nat → List Nat
  | 0, _ => []
  | n + 1, cands => match bestCore score cands with
    | none => []
    | some c => c :: pickCores score n (cands.filter (· != c))

def partCores (s : State) (p : Nat) : List Nat := setBits ((partOf s p).cores &&& coreMask s.part)

/-- Cores by affinity, or by fewest resident groups (R207), in ascending order. -/
def bindCores (ctx : Nat) (va len n : Nat) (s : State) : List Nat × State :=
  let cands := partCores s (ctxOf s ctx).part.val
  if len ≠ 0 then
    let (l, s) := affinity ctx va len s
    let pick := pickCores (fun c => l.getD c 0) n cands
    ((List.range 32).filter pick.contains, s)
  else
    let pick := pickCores (fun c => 64 - (groupsOn s c).length) n cands
    ((List.range 32).filter pick.contains, s)

/-- A channel's entry of bank 0 (Table 6.5). -/
def bankChan (x : Braid) (b ch : Nat) : List Byte :=
  match x.chans[ch]? with
  | none => List.replicate 32 0
  | some k => leBytes 8 k.base.toNat ++ leBytes 8 (knotBaseVa b + 16 * ch) ++ leBytes 8 (knotBaseVa b + 16 * ch + 8) ++ leBytes 4 k.slots ++ leBytes 4 k.slotSize

def strandBank0 (x : Braid) (b : Nat) (t : Strand) (user : List Byte) : List Byte :=
  sliceB ((t.io.flatMap fun ch => bankChan x b ch.toNat) ++ leBytes 8 (if t.result then knotBaseVa b + 0x400 else 0) ++ List.replicate 8 0 ++ user) 0 256

/-- Place the blocks of one strand; none if one does not fit. -/
def placeStrand (x : Braid) (b k : Nat) (t : Strand) (user : List Byte) (n : Nat) : List (Nat × Nat) → State → Option State
  | [], s => some s
  | (i, core) :: r, s =>
    match findCode s t.code with
    | none => none
    | some cd =>
      let regs := codeRegs s t.code
      let lm := (cd.lmSize + 1023) / 1024 * 1024
      if (partCores s (ctxOf s x.ctx).part.val).contains core && !(tileWaits s core) && coreFits s core t.groups regs lm then
        placeStrand x b k t user n r (placeBlock core t.groups regs lm cd.entry (lineSync x)
          { id := 0, owner := .strand (fin' 15 b) k, ctx := x.ctx, part := (ctxOf s x.ctx).part, tier := 1, share := 0, index := i, nblock := n, core := 0, lmBase := 0
            lmSize := 0, code := t.code, cluster := none, rank := 0, bank0 := strandBank0 x b t user, banks := t.banks, texs := t.texs } s)
      else none

/-- Place all strands that run here, or none (R208). -/
def placeStrands (x : Braid) (b : Nat) : Nat → List (Strand × List Byte) → State → Option State
  | _, [], s => some s
  | k, (t, user) :: r, s =>
    if !devHere s t.dev.toNat then placeStrands x b (k + 1) r s else
    let (cores, s) := if t.cores != 0 then (setBits t.cores, s) else bindCores x.ctx t.affinity.toNat t.affLen.toNat t.blocks s
    if cores.length ≠ t.blocks then none else
    match placeStrand x b k t user cores.length ((List.range cores.length).zip cores) s with
    | none => none
    | some s => placeStrands x b (k + 1) r s

/-- User constants of every strand (R214). -/
def strandUsers (w : Who) : List Strand → State → Rd (List (Strand × List Byte)) × State
  | [], s => (.ok [], s)
  | t :: r, s =>
    match (if t.cbSize = 0 then (Rd.ok [], s) else w.read t.cbuf.toNat t.cbSize .load s) with
    | (.ok u, s) =>
      (match strandUsers w r s with
       | (.ok l, s) => (.ok ((t, u) :: l), s)
       | (.fail st o, s) => (.fail st o, s)
       | (.stall, s) => (.stall, s))
    | (.fail st o, s) => (.fail st o, s)
    | (.stall, s) => (.stall, s)

/-- Is a knot of the braid on another device to which no route is up (R237, R572)? -/
def knotsCut (b : Nat) (knots : List Nat) (s : State) : Bool := knots.any fun o => routeDown s (knotPl b o s)

/-- BRAID_START (R227, R228, R259, R325). Knots that it could not reset over a link fault the braid, and the command completes with 0x0801
(R238, 17 R572). -/
def startBraidStart (c : Cmd) (s : State) : Go × State :=
  let b := fld (dw c.pkt 8) 3 0
  let x := braidOf s b
  let src := tabD s.gx.cams x.source.toNat {}
  if x.state != .free && x.ctx.val != cmdCtx c then (.ended 0x0123, s)
  else if !(x.state == .defined || x.state == .stopped || x.state == .faulted) then (.ended 0x0120, s)
  else if x.source != 0x0F && !(src.en && src.dest == 1) then (.ended 0x0150, s)
  else Rd.run (strandUsers c.who x.strands s) fun us s =>
    let knots := chanKnots x ++ [0x400]
    let s := abandonKnots b knots s
    let s := zeroKnots b knots s
    let s := noteSel b (selCount b s - 1) s
    let newest := selRec b (selCount b s - 1) s
    let s := putSelCount b 1 (putSelRec b 0 (leBytes 8 0 ++ newest.drop 8) s)
    let s := updBraid b (fun x => { x with admitted := 0, dropsPend := 0, overrun := 0, deadlineMiss := 0, posted := 0, lates := 0, refused := 0, satcount := 0
                                           maxlat := 0, unresHigh := 0, units := [], early := [], drained := false }) s
    match placeStrands x b 0 us s with
    | none => (.ended 0x0222, if x.deadlineMiss = 0 then s else icnPulse (32 + b) s)
    | some s =>
      let s := setBState b .running s
      if knotsCut b knots s then (.ended St.linkDown, braidFault b St.linkDown none s) else (.ended St.success, s)

/-! ### BRAID_STOP (R227, R229-R233) -/

def stopChecks (c : Cmd) (s : State) : Option Status :=
  let b := fld (dw c.pkt 8) 3 0
  let x := braidOf s b
  if sfiArmed s && requiredBraid s b then some St.safetyLocked
  else if x.state != .free && x.ctx.val != cmdCtx c then some 0x0123
  else if x.state == .free then some 0x0120
  else none

/-- BRAID_STOP DRAIN. -/
def startDrain (c : Cmd) (s : State) : Go × State :=
  let b := fld (dw c.pkt 8) 3 0
  match stopChecks c s with
  | some st => (.ended st, s)
  | none =>
    match (braidOf s b).state with
    | .running =>
      let s := updBraid b (fun x => { x with flush := bit (dw c.pkt 8) 6, drained := false, drainEnd := BitVec.ofNat 64 (s.now + pktTimeoutNs c.pkt) }) s
      (.running, setBState b .draining (updCmd c.id (fun y => { y with work := .drain (fin' 15 b) }) s))
    | .draining => (.running, updCmd c.id (fun y => { y with work := .drain (fin' 15 b) }) s)
    | _ => (.ended St.success, s)

/-- BRAID_STOP HALT. -/
def startHalt (c : Cmd) (s : State) : Go × State :=
  let b := fld (dw c.pkt 8) 3 0
  match stopChecks c s with
  | some st => (.ended st, s)
  | none =>
    if bActive (braidOf s b) then
      let s := haltBraid b .stopped s
      let s := if bit (dw c.pkt 8) 6 then flushMask (braidOf s b).outmask s else s
      (.ended St.success, endDrains b St.abandoned (updBraid b (fun x => { x with status := 0 }) s))
    else (.ended St.success, s)

/-- BRAID_STOP RELEASE: the braid becomes FREE; its knots and selection log hold unspecified values (R465). -/
def freeBraid (b : Nat) (s : State) : State :=
  let bs : List Byte := (List.range 4096).map fun i => BitVec.ofNat 8 (Config.freeValue (s.freeCtr + i)).toNat
  let s := { s with freeCtr := s.freeCtr + 4096 }
  let s := writeDev false (knotBasePeat b s) (clean bs) s
  let codes := (braidOf s b).strands.map (·.code)
  let s := updEx (fun e => { e with codes := e.codes.filter fun k => !codes.contains k.id }) s
  icnPulse (32 + b) (updBraid b (fun _ => {}) s)

end Sys2Proof.Machine
end

