-- ==== Sys2Proof/Machine/Models.lean ====
section
/-! DEFINITION. Models.lean: the model table: loading, selection, eviction and steps (07). -/
namespace Sys2Proof.Machine

def modelOf (s : State) (m : Nat) : Model := tabD s.ob.models m {}
def updModel (m : Nat) (f : Model → Model) (s : State) : State := updOb (fun o => { o with models := tabUpd o.models m f }) s

/-! ### Residency (R247) -/

/-- Pages that the touched ranges cover, rising, without repeats. -/
def touchedPages (base : Nat) (ranges : List (Nat × Nat)) : List Nat :=
  let ps := ranges.flatMap fun r => if r.2 = 0 then [] else
    (List.range ((base + r.1 + r.2 - 1) / 65536 - (base + r.1) / 65536 + 1)).map ((base + r.1) / 65536 + ·)
  ps.foldl (fun l p => if l.contains p then l else l ++ [p]) []

/-- Counts of pages in Peat, in LPDDR, in all, and the regions touched. -/
structure Resid where
  peat : Nat := 0
  lpddr : Nat := 0
  all : Nat := 0
  regions : W32 := 0
  deriving DecidableEq, Repr

def residPages (c : Nat) : List Nat → Resid → State → Resid × State
  | [], r, s => (r, s)
  | p :: ps, r, s =>
    match mapped c (p * 65536) s with
    | (some (.peat a), s) => residPages c ps { r with peat := r.peat + 1, all := r.all + 1, regions := setBit r.regions (a / regionBytes) true } s
    | (some (.lpddr _), s) => residPages c ps { r with lpddr := r.lpddr + 1, all := r.all + 1 } s
    | (_, s) => residPages c ps { r with all := r.all + 1 } s

/-- RESIDENCY, REGIONS and WFRAMES from the translation of the touched pages. -/
def computeResidency (m : Nat) (s : State) : State :=
  let x := modelOf s m
  let (r, s) := residPages x.ctx (touchedPages x.wbase.toNat x.touched) {} s
  updModel m (fun x => { x with residency := if r.peat = r.all then 0 else if r.lpddr = r.all then 1 else 2
                                regions := r.regions, wframes := BitVec.ofNat 32 r.all }) s

/-- An invalidation that covers pages of loaded or loading models recomputes their residency (R247). -/
def recomputeResidency (c page n : Nat) (s : State) : State :=
  (List.range 1024).foldl (fun s m =>
    let x := modelOf s m
    if x.state != .empty && !x.orphan && x.ctx.val == c &&
       (touchedPages x.wbase.toNat x.touched).any (fun p => decide (page ≤ p) && decide (p < page + n)) then computeResidency m s else s) s

/-! ### References (R250) and eviction (R260, R261) -/

/-- Does an accepted, unfinished command hold a reference on model `m`: a MODEL binding, or a MIXED_STEP. -/
def cmdUses (m : Nat) (c : Cmd) : Bool :=
  c.models.any (·.val == m) ||
  (pktOpcode c.pkt == 0x3A && c.phase != .waiting && c.startT.isSome && fld (dw c.pkt 8) 9 0 == m)

/-- USES. -/
def modelUses (m : Nat) (s : State) : Nat := selUses m s + (s.ex.cmds.filter (cmdUses m)).length

/-- A model becomes EMPTY; its loads stay counted (DEDUCED, unsafe, log 32). -/
def emptyModel (m : Nat) (s : State) : State :=
  let codes := (modelOf s m).codes
  let s := updEx (fun e => { e with codes := e.codes.filter fun k => !codes.contains k.id }) s
  updModel m (fun x => { loadseq := x.loadseq }) s

def evicting (m : Nat) (c : Cmd) : Bool := c.phase == .running && (match c.work with | .evict x => x.val == m | _ => false)

/-- An EVICTING model without references becomes EMPTY and its MODEL_EVICT completes. -/
def settleEvict (m : Nat) (s : State) : State :=
  if (modelOf s m).state == .evicting && modelUses m s == 0 then
    (s.ex.cmds.filter (evicting m)).foldl (fun s c => finish c.id St.success s) (emptyModel m s)
  else s

/-- Models whose context is gone are evicted once no selection record names them (R261). -/
def settleOrphans (s : State) : State :=
  (List.range 1024).foldl (fun s m =>
    let x := modelOf s m
    if x.orphan && x.state == .resident && selUses m s == 0 then settleEvict m (updModel m (fun x => { x with state := .evicting }) s) else s) s

/-- BRAID_STOP RELEASE; a model that only a record of the braid kept is evicted with it (R261). -/
def startRelease (c : Cmd) (s : State) : Go × State :=
  let b := fld (dw c.pkt 8) 3 0
  match stopChecks c s with
  | some st => (.ended st, s)
  | none => if bActive (braidOf s b) then (.ended 0x0120, s) else (.ended St.success, settleOrphans (freeBraid b s))

/-- MODEL_EVICT. -/
def startModelEvict (c : Cmd) (s : State) : Go × State :=
  let m := fld (dw c.pkt 8) 9 0
  match modelRef s (cmdCtx c) m with
  | some st => (.ended st, s)
  | none =>
    if 0 < selUses m s then (.ended 0x0230, s)
    else
      let s := updModel m (fun x => { x with state := .evicting }) s
      if modelUses m s = 0 then (.ended St.success, emptyModel m s)
      else (.running, updCmd c.id (fun y => { y with work := .evict (fin' 1023 m) }) s)

/-- A timed-out MODEL_EVICT changes nothing: the model is RESIDENT again (R426). -/
def undoEvict (m : Nat) (s : State) : State := updModel m (fun x => if x.state == .evicting then { x with state := .resident } else x) s

/-- USES_ZERO (R260): the last reference of an EVICTING model has gone. -/
def execUsesZero (m : Fin 1024) (s : State) : Res := fin (settleEvict m s)

/-! ### Images (Tables 7.1-7.4) -/

def segEntry (bs : List Byte) (i : Nat) : List Byte := sliceB bs (128 + 16 * i) 16
def segType (e : List Byte) : Nat := leAt e 0 2
def segDev (e : List Byte) : Nat := leAt e 2 1
def segOfs (e : List Byte) : Nat := leAt e 4 4
def segSize (e : List Byte) : Nat := leAt e 8 4
def segDest (e : List Byte) : Nat := leAt e 12 4
def segData (e : List Byte) : Bool := segType e == 1 || segType e == 2

/-- Ranges of the header. Fields of a language model are checked with FLAGS.LM (DEDUCED, unsafe, log 32). -/
def imageHeaderOk (h : List Byte) : Bool :=
  let lm := (leAt h 6 2).testBit 0
  let ws := leAt h 12 4
  leAt h 0 4 == 0x494D4B45 && leAt h 4 2 == 1 && decide (leAt h 6 2 < 4) && decide (1 ≤ leAt h 8 2) && decide (leAt h 8 2 ≤ 64) && decide (leAt h 10 2 ≤ 256) &&
  ws % 65536 == 0 && decide (65536 ≤ ws) && leAt h 0x24 28 == 0 &&
  (!lm || (decide (1 ≤ leAt h 10 2) && leAt h 0x10 4 % 64 == 0 && leAt h 0x18 4 % 64 == 0 && [16, 32, 64, 128, 256].contains (leAt h 0x1C 2) &&
    decide (1 ≤ leAt h 0x1E 2) && decide (leAt h 0x1E 2 ≤ 4096) && decide (1 ≤ leAt h 0x20 4) && decide (leAt h 0x20 4 ≤ 262144)))

def segOk (h : List Byte) (e : List Byte) : Bool :=
  let span := (leAt h 6 2).testBit 1
  decide (1 ≤ segType e) && decide (segType e ≤ 5) && leAt e 3 1 == 0 && segOfs e % 64 == 0 && decide (segOfs e + segSize e ≤ leAt h 0x14 4) &&
  (segDev e == 0xFF || (segData e && span && decide (segDev e ≤ 15))) && (segType e != 2 || decide (segSize e ≤ 65536)) &&
  (if segData e then segDest e % 64 == 0 && decide (segDest e + segSize e ≤ leAt h 12 4) else segDest e == 0)

def segsOf (bs : List Byte) : List (List Byte) := (List.range (leAt bs 8 2)).map (segEntry bs)
def ofType (es : List (List Byte)) (t : Nat) : List (List Byte) := es.filter fun e => segType e == t

/-- The segment table: one PARAM at most, and exactly one stage table, long enough, where there are stages. -/
def segsOk (bs : List Byte) : Bool :=
  let es := segsOf bs
  let ns := leAt bs 10 2
  es.all (segOk bs) && decide ((ofType es 2).length ≤ 1) &&
  (ns == 0 || ((ofType es 4).length == 1 && (ofType es 4).all fun e => decide (32 * ns ≤ segSize e)))

def stageOk (h : List Byte) (ncode : Nat) (e : List Byte) : Bool :=
  decide (leAt e 0 2 < ncode) && decide (1 ≤ leAt e 2 1) && decide (leAt e 2 1 ≤ 32) && decide (1 ≤ leAt e 3 1) && decide (leAt e 3 1 ≤ 32) &&
  decide (leAt e 4 4 + leAt e 8 4 ≤ leAt h 12 4) && (leAt e 12 1 == 0xFF || ((leAt h 6 2).testBit 1 && decide (leAt e 12 1 ≤ 15))) && leAt e 13 19 == 0

def mkStage (e : List Byte) : Stage :=
  { code := leAt e 0 2, blocks := leAt e 2 1, groups := leAt e 3 1, affOfs := BitVec.ofNat 32 (leAt e 4 4), affLen := BitVec.ofNat 32 (leAt e 8 4), dev := BitVec.ofNat 8 (leAt e 12 1) }

/-- What a MODEL_LOAD takes from its image, or from the model SRCID. `srcs` are the data segments in table order: address of the bytes,
destination offset, size, and whether it lies on this device; `from'` is the context that reads them;
`blind`: a copied SPAN model, whose far contents are not seen here. -/
structure Image where
  proto : Model
  srcs : List (Nat × Nat × Nat × Bool)
  from' : Nat
  blind : Bool := false
  codes : List Code
  deriving DecidableEq, Repr

/-- Every page is valid and writable with target 0, 1 or 3 (fourth row of Table 7.4); the check posts no fault (R243). -/
def weightPages (w : Who) : List Nat → State → Rd Unit × State
  | [], s => (.ok (), s)
  | p :: ps, s =>
    match translate w.ctx (p * 65536) .store s with
    | (.ok _ (.host _), s) => (.fail 0x0137 0, s)
    | (.ok _ _, s) => weightPages w ps s
    | (_, s) => (.fail 0x0137 0, s)

/-- Read and validate the code segments in order; stage code has 48 inline constant bytes, other code 256. -/
def imageCodes (w : Who) (img : Nat) (stages : List Stage) : Nat → List (List Byte) → State → Rd (List Code) × State
  | _, [], s => (.ok [], s)
  | i, e :: r, s =>
    match w.code (img + segOfs e) (if stages.any (·.code == i) then 48 else 256) none s with
    | (.ok c, s) =>
      (match imageCodes w img stages (i + 1) r s with
       | (.ok l, s) => (.ok (c :: l), s)
       | (.fail st o, s) => (.fail st o, s)
       | (.stall, s) => (.stall, s))
    | (.fail st o, s) => (.fail st o, s)
    | (.stall, s) => (.stall, s)

/-- Bytes of every data segment with their poison marks, as a copy engine reads them (R432), so that nothing changes before all of them can
be read. -/
def readSegs (w : Who) (ctx : Nat) : List (Nat × Nat × Nat × Bool) → State → Rd (List (Nat × Bool × PB)) × State
  | [], s => (.ok [], s)
  | (a, d, n, h) :: r, s =>
    match readVa ctx a n .load w.rq s with
    | (bs, .ok, s) =>
      (match readSegs w ctx r s with
       | (.ok l, s) => (.ok ((d, h, bs) :: l), s)
       | (.fail st o, s) => (.fail st o, s)
       | (.stall, s) => (.stall, s))
    | (_, .fail st, s) => (.fail st 0, s)
    | (_, .stall, s) => (.stall, s)

/-- The copies land in the weight range, poison marks with them. -/
def writeSegs (w : Who) (wb : Nat) : List (Nat × Bool × PB) → State → VaAns × State
  | [], s => (.ok, s)
  | p :: r, s =>
    match writeVa w.ctx (wb + p.1) p.2.2 w.rq s with
    | (_, .ok, s) => writeSegs w wb r s
    | (_, a, s) => (a, s)

/-- Is a device of a SPAN image this one? -/
def spanHere (s : State) (dev : Nat) : Bool := dev == 0xFF || (s.dom.member && dev == s.dom.id.toNat)

/-- The other devices of a SPAN image must be reachable; their own parts of the load lie on them (DESIGN CHOICE, unsafe, log 23). -/
def spanDown (s : State) (devs : List Nat) : Bool := devs.any fun d => !spanHere s d && (remoteLink s d 0).isNone

/-- Free values over the ranges of a weight range that a failed digest leaves unspecified (R246). -/
def freeRanges (ctx base : Nat) (rs : List (Nat × Nat)) (s : State) : State :=
  rs.foldl (fun s r => freePieces ctx (pagePieces (base + r.1) r.2) s) s

/-- Does a command wait for the reply to a translation fault (R490)? -/
def faultWaits (s : State) (id : Nat) : Bool := stalls (· == .cmd id) s

/-- A load that cannot go on leaves its model EMPTY, and ranges of its weight range unspecified: those that it was writing (a copy that fails:
DESIGN CHOICE, safe, log 101), or all of it (R246). -/
def failLoad (c m : Nat) (st : Status) (rs : List (Nat × Nat)) (s : State) : State :=
  let x := modelOf s m
  finish c st (emptyModel m (freeRanges x.ctx.val x.wbase.toNat rs s))

/-- Steps 2 and 3 of R244 for a load that has them before it: the copy, of this device's segments, and the digest of what was copied.
A page that faults makes it wait or fail (14 R490). What the digest of contents with a poisoned byte is stays free (DESIGN CHOICE, safe,
log 101). -/
def loadGo (c : Cmd) (m : Nat) (l : Loading) (s : State) : State :=
  let x := modelOf s m
  match readSegs c.who l.from'.val l.srcs s with
  | (.stall, s) => s
  | (.fail st _, s) => failLoad c.id m st x.touched s
  | (.ok parts, s) =>
    match writeSegs c.who x.wbase.toNat (parts.filter (·.2.1)) s with
    | (.stall, s) => s
    | (.fail st, s) => failLoad c.id m st x.touched s
    | (.ok, s) =>
      let verify := bit (dw c.pkt 8) 16
      let unseen := l.blind || parts.any fun p => anyPoison p.2.2
      let (luck, s) := if verify && unseen then s.draw else (0, s)
      let good := if unseen then luck.getLsbD 0 else digestVal (sha3_512 (parts.flatMap fun p => dataOf p.2.2)) == x.digest
      if verify && !good then failLoad c.id m 0x0133 [(0, x.wsize.toNat)] s
      else computeResidency m (updCmd c.id (fun y => { y with work := .load (fin' 1023 m) none }) s)

/-- Every load that has its copy to make, and waits for no fault, makes it. -/
def advanceLoads (s : State) : State :=
  s.ex.cmds.foldl (fun s y =>
    match findCmd s y.id with
    | none => s
    | some z =>
      match z.work with
      | .load m (some l) => if z.phase == .running && !(faultWaits s z.id) then loadGo z m l s else s
      | _ => s) s

/-- The checks have passed: LOADING (R244, step 1), with the residency of its own pages (R247). Its code objects are those validated; they count as installed with step 4, since
nothing runs them before. -/
def startLoading (c : Cmd) (m : Nat) (im : Image) (s : State) : Go × State :=
  let (ids, s) := installAll im.codes s
  let s := updModel m (fun x =>
    { im.proto with state := .loading, orphan := false, ctx := fin' 63 (cmdCtx c), part := (ctxOf s (cmdCtx c)).part, shared := bit (dw c.pkt 8) 17, wbase := BitVec.ofNat 64 (dq c.pkt 12)
                    loadseq := x.loadseq, codes := ids }) s
  (.running, updCmd c.id (fun y => { y with work := .load (fin' 1023 m) (some { srcs := im.srcs, from' := fin' 63 im.from', blind := im.blind }) }) (computeResidency m s))

/-- Fifth row of Table 7.4 has passed: the devices of a SPAN image must be reachable; then the load begins. -/
def loadParts (c : Cmd) (m : Nat) (im : Image) (devs : List Nat) (s : State) : Go × State :=
  Rd.run (weightPages c.who (touchedPages (dq c.pkt 12) im.proto.touched) s) fun _ s =>
    if spanDown s devs then (.ended St.linkDown, s) else startLoading c m im s

/-- The image of a packet as read. -/
def protoOf (s : State) (bs : List Byte) (stages : List Stage) : Model :=
  let es := (segsOf bs).filter segData
  let here := es.filter fun e => spanHere s (segDev e)
  let par := (ofType es 2).head?
  let devs := (es.map segDev ++ stages.map (·.dev.toNat)).filter (· != 0xFF)
  let me := if s.dom.member then [s.dom.id.toNat] else []
  { lm := (leAt bs 6 2).testBit 0, span := (leAt bs 6 2).testBit 1, wsize := BitVec.ofNat 32 (leAt bs 12 4), actTokBytes := BitVec.ofNat 32 (leAt bs 0x10 4)
    kvTokBytes := BitVec.ofNat 32 (leAt bs 0x18 4), pageTokens := BitVec.ofNat 16 (leAt bs 0x1C 2), maxPages := BitVec.ofNat 16 (leAt bs 0x1E 2)
    vocab := BitVec.ofNat 32 (leAt bs 0x20 4), digest := BitVec.ofNat 512 (leAt bs 0x40 64), stages := stages
    paramOfs := BitVec.ofNat 32 ((par.map segDest).getD 0), paramSize := BitVec.ofNat 32 ((par.map segSize).getD 0), hasParam := par.isSome
    devmask := if (leAt bs 6 2).testBit 1 then maskOf 16 (devs ++ me) else 0
    touched := here.map fun e => (segDest e, segSize e) }

/-- MODEL_LOAD (R243-R246, R262). -/
def startModelLoad (c : Cmd) (s : State) : Go × State :=
  let m := fld (dw c.pkt 8) 9 0
  let src := fld (dw c.pkt 9) 9 0
  let copy := bit (dw c.pkt 8) 18
  let w := c.who
  if (modelOf s m).state != .empty then (.ended 0x0131, s)
  else if copy then
    match modelRef s w.ctx src with
    | some st => (.ended st, s)
    | none =>
      let x := modelOf s src
      let me := if s.dom.member then maskOf 16 [s.dom.id.toNat] else 0
      let im : Image := { proto := x, from' := x.ctx, srcs := x.touched.map fun r => (x.wbase.toNat + r.1, r.1, r.2, true), blind := x.span && x.devmask != me
                          codes := x.codes.filterMap (findCode s) }
      loadParts c m im (x.stages.map (·.dev.toNat)) s
  else
    let img := dq c.pkt 10
    Rd.run (w.read img 128 .load s) fun h s =>
      if !imageHeaderOk h then (.ended 0x0130, s)
      else Rd.run (w.readOn img (128 + 16 * leAt h 8 2) h .load s) fun bs s =>
        if !segsOk bs then (.ended 0x0130, s)
        else
          let es := segsOf bs
          let ns := leAt bs 10 2
          let stOfs := ((ofType es 4).head?.map segOfs).getD 0
          Rd.run (if ns = 0 then (.ok [], s) else w.read (img + stOfs) (32 * ns) .load s) fun sb s =>
            let raw := (List.range ns).map fun i => sliceB sb (32 * i) 32
            if !(raw.all (stageOk bs (ofType es 3).length)) then (.ended 0x0130, s)
            else
              let stages := raw.map mkStage
              let proto := protoOf s bs stages
              Rd.run (weightPages w (touchedPages (dq c.pkt 12) proto.touched) s) fun _ s =>
                Rd.run (imageCodes w img stages 0 (ofType es 3) s) fun codes s =>
                  loadParts c m { proto := proto, from' := w.ctx, srcs := (es.filter segData).map fun e => (img + segOfs e, segDest e, segSize e, spanHere s (segDev e)), codes := codes }
                    ((es.map segDev) ++ stages.map (·.dev.toNat)) s

/-- The other devices that hold a part of a SPAN model. -/
def spanPeers (s : State) (x : Model) : List Nat := (setBits x.devmask).filter fun d => !spanHere s d

/-- What the other devices of a SPAN load report: success, or the status of the first failure; what they found is not seen here, and no
command carries it (R262; DESIGN CHOICE, safe, log 100). -/
def spanReport (x : Model) (s : State) : Status × State :=
  if (spanPeers s x).isEmpty then (St.success, s)
  else
    let (v, s) := s.draw
    (if v.getLsbD 0 then St.success else let st := BitVec.ofNat 16 (fld v 31 16); if statusOk st then St.linkDown else st, s)

/-- Step 5 of R244, before the command completes: LOADSEQ and RESIDENT; a SPAN model that failed elsewhere is EMPTY (R262). -/
def endLoad (c : Cmd) (s : State) : State :=
  match c.work with
  | .load m _ =>
    let (st, s) := spanReport (modelOf s m) s
    if statusOk st then finish c.id st (updModel m (fun x => { x with state := .resident, loadseq := x.loadseq + 1 }) s)
    else finish c.id st (emptyModel m s)
  | _ => s

/-- A link is lost that a SPAN load needs: the load ends with the link's status, and the model is EMPTY (R262). -/
def failLoads (lost : Nat → Bool) (s : State) : State :=
  s.ex.cmds.foldl (fun s c => match c.phase, c.work with
    | .running, .load m _ => if (spanPeers s (modelOf s m)).any lost then finish c.id St.linkDown (emptyModel m s) else s
    | _, _ => s) s

/-! ### MODEL_SELECT (R254-R258) -/

/-- Write record COUNT of braid `b`, then COUNT. -/
def writeSelect (b m from' : Nat) (s : State) : State :=
  let x := modelOf s m
  let k := selCount b s
  let r := leBytes 8 from' ++ leBytes 2 m ++ leBytes 2 0 ++ leBytes 4 x.loadseq.toNat ++ leBytes 8 x.wbase.toNat ++ leBytes 8 (modelParam x)
  putSelCount b (k + 1) (putSelRec b k r s)

/-- MODEL_SELECT: it waits while its record would overwrite an unretired one (R258); what its reads of the log find is counted (16 R543). -/
def startModelSelect (c : Cmd) (s : State) : Go × State :=
  let b := fld (dw c.pkt 8) 3 0
  let m := fld (dw c.pkt 8) 25 16
  let x := braidOf s b
  if x.state != .free && x.ctx.val != cmdCtx c then (.ended 0x0123, s)
  else if x.state == .free then (.ended 0x0120, s)
  else match modelRef s (cmdCtx c) m with
    | some st => (.ended st, s)
    | none =>
      let k := selCount b s
      let s := noteSel b (k - 1) s
      if 16 ≤ k && !(selRetired b (k - 16) s) then (.blocked, s)
      else if bit (dw c.pkt 8) 31 then
        let f := dq c.pkt 10
        if f < x.admitted.toNat || f < selFrom b (k - 1) s then (.ended 0x0136, s) else (.ended St.success, writeSelect b m f s)
      else (.ended St.success, writeSelect b m x.admitted.toNat s)

/-! ### MIXED_STEP (R266-R272) -/

def mkEntry (e : List Byte) : StepEntry :=
  { seq := BitVec.ofNat 64 (leAt e 0 8), tokens := BitVec.ofNat 64 (leAt e 8 8), out := BitVec.ofNat 64 (leAt e 16 8), start := BitVec.ofNat 32 (leAt e 24 4)
    count := BitVec.ofNat 16 (leAt e 28 2), logits := BitVec.ofNat 8 (leAt e 30 1) }
def entryBytes (e : StepEntry) : List Byte :=
  leBytes 8 e.seq.toNat ++ leBytes 8 e.tokens.toNat ++ leBytes 8 e.out.toNat ++ leBytes 4 e.start.toNat ++ leBytes 2 e.count.toNat ++ leBytes 1 e.logits.toNat ++ [0]
def entryOk (e : List Byte) : Bool :=
  decide (1 ≤ leAt e 28 2) && decide (leAt e 28 2 ≤ 2048) && decide (leAt e 30 1 ≤ 2) && leAt e 31 1 == 0

def noDispatch : Dispatching :=
  { code := 0, nblock := 0, groups := 1, cluster := 0, lmSize := 0, bank0 := [], banks := [], texs := [], aff := [] }

/-- The steps that have started and not ended, as (command, model, stage, entered, entries). -/
def stepOf (c : Cmd) : Option (Nat × Nat × Bool × List StepEntry) :=
  match c.work with
  | .step m k es _ d => if c.phase == .running then some (m.val, k, d.nblock != 0, es) else none
  | _ => none

def isStepOn (m : Nat) (c : Cmd) : Bool := pktOpcode c.pkt == 0x3A && fld (dw c.pkt 8) 9 0 == m

/-- The entries of a MIXED_STEP, with the checks of R266. -/
def readStep (w : Who) (p : Pkt) (s : State) : Rd (List StepEntry) × State :=
  let m := fld (dw p 8) 9 0
  let n := fld (dw p 8) 22 16
  let x := modelOf s m
  if x.state != .resident || !x.lm then (.fail 0x0131 0, s)
  else match modelRef s w.ctx m with
    | some st => (.fail st 0, s)
    | none =>
      if n = 0 ∨ 64 < n then (.fail 0x0135 0, s)
      else match w.read (dq p 10) (32 * n) .load s with
        | (.ok bs, s) =>
          let raw := (List.range n).map fun i => sliceB bs (32 * i) 32
          let sum := sumN (raw.map fun e => leAt e 28 2)
          if !(raw.all entryOk) || decide (2048 < sum) || decide ((dw p 14).toNat < 4096 + 2 * x.actTokBytes.toNat * sum) then (.fail 0x0135 0, s)
          else (.ok (raw.map mkEntry), s)
        | (.fail st o, s) => (.fail st o, s)
        | (.stall, s) => (.stall, s)

/-- MIXED_STEP at its start: the checks of R266; it then waits before its first stage. -/
def startMixedStep (c : Cmd) (s : State) : Go × State :=
  Rd.run (readStep c.who c.pkt s) fun es s =>
    (.running, updCmd c.id (fun y => { y with work := .step (fin' 1023 (fld (dw c.pkt 8) 9 0)) 0 es (BitVec.ofNat 64 (dq c.pkt 12)) noDispatch }) s)

/-- Do two steps' entries name one sequence: the same address of one context, or one place? -/
def sameSeq (s : State) (c : Nat) (e : StepEntry) (d : Nat) (f : StepEntry) : Bool :=
  (c == d && e.seq == f.seq) ||
  (match (mapped c e.seq.toNat s).1, (mapped d f.seq.toNat s).1 with | some p, some q => p == q | _, _ => false)

/-- May step `c` of model `m`, waiting before stage `k`, enter it (R271)? An earlier step whose entries are not read yet may name any
sequence. -/
def stepMayEnter (s : State) (c : Cmd) (m k : Nat) (es : List StepEntry) : Bool :=
  let before := s.ex.cmds.filter fun y => decide (y.id < c.id) && y.phase != .done
  before.all (fun y => match stepOf y with
    | some (m', k', _, _) => m' != m || decide (k < k')
    | none => k != 0 || pktOpcode y.pkt != 0x3A) &&
  (k != 0 || before.all fun y => match stepOf y with
    | some (_, _, _, es') => !(es'.any fun e => es.any fun f => sameSeq s (cmdCtx y) e (cmdCtx c) f)
    | none => true)

/-- Steps of model `m` that are past the first stage. -/
def stepsPast (s : State) (m : Nat) : Nat :=
  (s.ex.cmds.filter fun y => match stepOf y with | some (m', k, _, _) => m' == m && k != 0 | none => false).length

/-- R267: check one entry against its sequence; a failing one is excluded and told so if SEQ itself passes. A descriptor with a reserved
byte set is invalid (00 R16): as no sequence of this step (DEDUCED, unsafe, log 105). -/
def checkEntry (w : Who) (m : Nat) (x : Model) (earlier : List StepEntry) (e : StepEntry) (s : State) : Rd (StepEntry × Nat × Nat) × State :=
  let va := e.seq.toNat
  let out := { e with excluded := true }
  let bad (st : Status) (s : State) : Rd (StepEntry × Nat × Nat) × State := (.ok (out, 0, 0), (writeVa w.ctx (va + 0x0A) (clean (leBytes 2 st.toNat)) {} s).2.2)
  match xl w.ctx va .store w.rq s with
  | (.stall, s) => (.stall, s)
  | (.ok (.peat _), s) | (.ok (.lpddr _), s) =>
    if va % 64 ≠ 0 then (.ok (out, 0, 0), s)
    else if earlier.any (·.seq == e.seq) then bad 0x0135 s
    else
      (match readVa w.ctx va 64 .load w.rq s with
       | (_, .stall, s) => (.stall, s)
       | (d, _, s) =>
         let d := dataOf d
         let len := leAt d 0 8
         if leAt d 8 2 ≠ m ∨ leAt d 0x18 40 ≠ 0 then bad 0x0135 s
         else if e.start.toNat ≠ len then bad 0x0134 s
         else if min (leAt d 12 4) x.maxPages.toNat < ceilDiv (len + e.count.toNat) x.pageTokens.toNat then bad 0x0231 s
         else (.ok (e, leAt d 16 8, leAt d 12 4), s))
  | (_, s) => (.ok (out, 0, 0), s)

def checkEntries (w : Who) (m : Nat) (x : Model) : List StepEntry → List StepEntry → State → Rd (List (StepEntry × Nat × Nat)) × State
  | _, [], s => (.ok [], s)
  | done, e :: r, s =>
    match checkEntry w m x done e s with
    | (.ok a, s) =>
      (match checkEntries w m x (done ++ [e]) r s with
       | (.ok l, s) => (.ok (a :: l), s)
       | (.fail st o, s) => (.fail st o, s)
       | (.stall, s) => (.stall, s))
    | (.fail st o, s) => (.fail st o, s)
    | (.stall, s) => (.stall, s)

/-- The record of an included entry at the start of the scratch buffer (R268). -/
def stepRecord (a : StepEntry × Nat × Nat) : List Byte :=
  entryBytes a.1 ++ leBytes 8 a.1.start.toNat ++ leBytes 8 a.2.1 ++ leBytes 4 a.2.2 ++ List.replicate 12 0

/-- Bank 0 of a stage block (R268). -/
def stepBank0 (x : Model) (scratch stage : Nat) (es : List StepEntry) : List Byte :=
  let inc := es.filter fun e => !e.excluded
  sliceB (leBytes 8 x.wbase.toNat ++ leBytes 8 (x.wbase.toNat + x.paramOfs.toNat) ++ leBytes 8 scratch ++ leBytes 2 inc.length ++ leBytes 2 stage
    ++ leBytes 4 (sumN (inc.map (·.count.toNat)))) 0 256

/-- Before the first stage (R267, R268): the entries are checked, and one record per included entry is written to the scratch buffer. -/
def stepEntries (c : Cmd) (m : Nat) (es : List StepEntry) (scratch : W64) (s : State) : Rd (List StepEntry) × State :=
  match checkEntries c.who m (modelOf s m) [] es s with
  | (.ok l, s) =>
    (match writeVa (cmdCtx c) scratch.toNat (clean ((l.filter fun a => !a.1.excluded).flatMap stepRecord)) c.who.rq s with
     | (_, .ok, s) => (.ok (l.map (·.1)), s)
     | (_, .fail st, s) => (.fail st 0, s)
     | (_, .stall, s) => (.stall, s))
  | (.fail st o, s) => (.fail st o, s)
  | (.stall, s) => (.stall, s)

/-- A step fails (R263, R270). -/
def failStep (c : Nat) (st : Status) (s : State) : State := finish c st (stepFailed c st (stopCmd c s))

/-- The device on which stage `k` runs, if it is another (R263). -/
def stagePeer (s : State) (x : Model) (k : Nat) : Option Nat :=
  (x.stages[k]?).bind fun st => if spanHere s st.dev.toNat then none else some st.dev.toNat

/-- The blocks of stage `k` (R268); a stage of another device runs there, if that device can be reached (R263). -/
def runStage (c : Cmd) (m k : Nat) (es : List StepEntry) (scratch : W64) (s : State) : State :=
  let x := modelOf s m
  match x.stages[k]? with
  | none => s
  | some st =>
    let here := spanHere s st.dev.toNat
    let (cores, s) := bindCores (cmdCtx c) (x.wbase.toNat + st.affOfs.toNat) st.affLen.toNat st.blocks s
    let code := x.codes.getD st.code 0
    let d : Dispatching :=
      { code := code, nblock := st.blocks, next := if here then 0 else st.blocks, groups := st.groups, cluster := 0
        lmSize := (((findCode s code).map (·.lmSize)).getD 0 + 1023) / 1024 * 1024
        bank0 := stepBank0 x scratch.toNat k es, banks := [], texs := [], aff := [], bound := cores.map (fin' 31) }
    let s := updCmd c.id (fun y => { y with work := .step (fin' 1023 m) k es scratch d }) s
    match stagePeer s x k with
    | some d => if (remoteLink s d 0).isNone then failStep c.id St.linkDown s else s
    | none => s

/-- Enter stage `k`: before the first stage the entries are checked and the records written; a fault there makes the step wait or fail. -/
def enterStage (c : Cmd) (m k : Nat) (es : List StepEntry) (scratch : W64) (s : State) : State :=
  if k = 0 then
    match stepEntries c m es scratch s with
    | (.ok es, s) => runStage c m 0 es scratch s
    | (.fail st _, s) => failStep c.id st s
    | (.stall, s) => s
  else runStage c m k es scratch s

/-- A link is lost that a stage running elsewhere needs: the step fails (R263). -/
def failStages (lost : Nat → Bool) (s : State) : State :=
  s.ex.cmds.foldl (fun s c => match c.phase, c.work with
    | .running, .step m k _ _ d => if d.nblock != 0 && ((stagePeer s (modelOf s m) k).map lost).getD false then failStep c.id St.linkDown s else s
    | _, _ => s) s

/-- Has the stage's last block ended? -/
def stageEnded (s : State) (c : Nat) (d : Dispatching) : Bool :=
  decide (d.nblock ≤ d.next) && d.nblock != 0 && !(s.ex.blocks.any fun b => b.owner == .cmd c)

/-- R269: LENGTH and STATUS of every included sequence. -/
def putLengths (c : Cmd) : List StepEntry → State → VaAns × State
  | [], s => (.ok, s)
  | e :: r, s =>
    match writeVa (cmdCtx c) e.seq.toNat (clean (leBytes 8 (e.start.toNat + e.count.toNat))) c.who.rq s with
    | (_, .ok, s) =>
      (match writeVa (cmdCtx c) (e.seq.toNat + 0x0A) (clean (leBytes 2 0)) c.who.rq s with
       | (_, .ok, s) => putLengths c r s
       | (_, a, s) => (a, s))
    | (_, a, s) => (a, s)

/-- The last stage has ended: as a release at SYSTEM scope (R269), once the remote stores of its blocks are acknowledged, the included
sequences advance; a sequence page that faults makes the step wait or fail before any of them does (R270, 14 R490). -/
def endStep (c : Cmd) (es : List StepEntry) (s : State) : State :=
  if acksDue s c.id then s else
  let inc := es.filter fun e => !e.excluded
  match writablePieces (cmdCtx c) c.who.rq (inc.map fun e => (e.seq.toNat, 64)) s with
  | (.stall, s) => s
  | (.fail st, s) => failStep c.id st s
  | (.ok, s) =>
    match putLengths c inc s with
    | (.stall, s) => s
    | (.fail st, s) => failStep c.id st s
    | (.ok, s) => finish c.id (if es.any (·.excluded) then St.partialStep else St.success) s

/-- Where a waiting step goes on: into its next stage when it may, or past the last. -/
def advanceStep (y : Cmd) (m k : Nat) (es : List StepEntry) (scratch : W64) (s : State) : State :=
  if (modelOf s m).stages.length ≤ k && k != 0 then endStep y es s
  else if stepMayEnter s y m k es then enterStage y m k es scratch s
  else s

/-- Let every waiting step that may go on do so, in order of acceptance. -/
def advanceSteps (s : State) : State :=
  s.ex.cmds.foldl (fun s y =>
    match findCmd s y.id with
    | none => s
    | some z =>
      match z.work with
      | .step m k es sc d => if z.phase == .running && d.nblock == 0 && !(faultWaits s z.id) then advanceStep z m k es sc s else s
      | _ => s) s

/-- MIXED_STEP_STAGE_END (R268-R272): the blocks of a stage have ended: the step leaves it, and goes on to the next or ends. -/
def execMixedStepStageEnd (c : Nat) (s : State) : Res :=
  match findCmd s c with
  | none => fin s
  | some y =>
    match y.work with
    | .step m k es sc d =>
      if y.phase == .running && stageEnded s c d && !(k == 0 && decide (4 ≤ stepsPast s m)) then
        fin (advanceSteps (updCmd c (fun y => { y with work := .step m (k + 1) es sc noDispatch }) s))
      else fin s
    | _ => fin s

end Sys2Proof.Machine
end

