-- ==== Sys2Proof/Machine/Sched.lean ====
section
/-! DEFINITION. Sched.lean: LAUNCH, share classes and their turns, claims and parking (12 R427; 15). -/
namespace Sys2Proof.Machine

/-! ### LAUNCH -/

def quadCores (q : Nat) : List Nat := (List.range 4).map (4 * q + ·)
/-- Quads whose four cores all lie in the partition (R107, R470). -/
def partQuads (s : State) (p : Nat) : List Nat := (List.range 8).filter fun q => (quadCores q).all (partCores s p).contains

/-- Can a block or cluster fit on some empty core or quad of the partition (R83)? -/
def launchFits (s : State) (p cluster groups regs lm : Nat) : Bool :=
  fitsEmpty groups regs lm && (if 2 ≤ cluster then !(partQuads s p).isEmpty else !(partCores s p).isEmpty)

/-- Affinity of bound data (R511). -/
def bindAffinity (ctx : Nat) (b : Bound) (s : State) : List Nat × State :=
  let ranges := (b.banks.filter fun k => k.2.2.isEmpty).map (fun k => (k.1, k.2.1)) ++
    b.models.map fun m => ((modelOf s m.val).wbase.toNat, (modelOf s m.val).wsize.toNat)
  ranges.foldl (fun (acc : List Nat × State) r => affPieces ctx (pagePieces r.1 r.2) acc.1 acc.2) (List.replicate 32 0, s)

/-- A start that fails on a code object reports the offset of the failing item in DW6 (R176, Table 12.16). -/
def codeRun {α : Type} (c : Nat) (r : Rd α × State) (f : α → State → Go × State) : Go × State :=
  match r with
  | (.ok a, s) => f a s
  | (.fail st o, s) => (.ended st, setRes c [0, 0, BitVec.ofNat 32 o, 0] s)
  | (.stall, s) => (.blocked, s)

def cmdTier (s : State) (c : Cmd) : Nat := queueTier (queueOf s c.q)
def cmdShare (s : State) (c : Cmd) : Nat := (queueOf s c.q).share.toNat
def cmdPart (s : State) (c : Cmd) : Nat := (ctxOf s (cmdCtx c)).part.val

/-- Job count of a context (R531): its commands that have dispatched a block. -/
def jobCount (s : State) (ctx : Nat) : Nat := (s.ex.cmds.filter fun c => cmdCtx c == ctx && c.dispatched && cmdTier s c != 0).length

/-- A command whose first block would raise its context's job count above 8 waits (R531). -/
def jobWaits (s : State) (c : Cmd) : Bool := cmdTier s c != 0 && !c.dispatched && decide (8 ≤ jobCount s (cmdCtx c))

/-- The bytes of a packet from slot `k` on. -/
def slotBytes (p : Pkt) (k : Nat) : List Byte := wordsBytes (p.dws.drop (16 * k))

/-- The code object and bindings of a LAUNCH, with the checks of R83, R106 and R427-R429. -/
def readLaunch (w : Who) (p : Pkt) (code : Nat → Nat → Option Nat → State → Rd Code × State) (s : State) : Rd (Code × Bound) × State :=
  let part := (ctxOf s w.ctx).part.val
  let cluster := fld (dw p 11) 10 8
  let lm := ((dw p 12).toNat + 1023) / 1024 * 1024
  if decide (2 ≤ cluster) && !(partOf s part).cluster then (.fail 0x0111 0, s)
  else match code (dq p 8) (fld (dw p 13) 8 0) (some lm) s with
    | (.ok cd, s) =>
      if !(launchFits s part cluster (fld (dw p 11) 5 0) ((cd.vregs + 7) / 8 * 8) lm) then (.fail 0x0110 0, s)
      else match w.bind cd (fld (dw p 13) 22 16) (dq p 14) s with
        | (.ok b, s) => (.ok (cd, b), s)
        | (.fail st o, s) => (.fail st o, s)
        | (.stall, s) => (.stall, s)
    | (.fail st o, s) => (.fail st o, s)
    | (.stall, s) => (.stall, s)

/-- LAUNCH (R427-R429, R83, R106, R511, R531): what its acceptance reads and computes stands while it waits for the job count (R174). -/
def startLaunch (c : Cmd) (s : State) : Go × State :=
  let p := c.pkt
  let w := c.who
  let groups := fld (dw p 11) 5 0
  let cluster := fld (dw p 11) 10 8
  let lm := ((dw p 12).toNat + 1023) / 1024 * 1024
  let cb := fld (dw p 13) 8 0
  let go (s : State) : Go × State := (if jobWaits s c then .blocked else .running, s)
  if (match c.work with | .blocks _ => true | _ => false) then go s
  else codeRun c.id (readLaunch w p c.code s) fun r s =>
    let (k, s) := install r.1 s
    let (aff, s) := bindAffinity w.ctx r.2 s
    let d : Dispatching :=
      { code := k, nblock := fld (dw p 10) 23 0, groups := groups, cluster := if cluster ≤ 1 then 0 else cluster, lmSize := lm
        bank0 := sliceB ((slotBytes p 1).take cb) 0 256, banks := r.2.banks, texs := r.2.texs, aff := aff }
    go (updCmd c.id (fun y => { y with work := .blocks d }) s)

/-! ### Ends of commands of blocks -/

def ownedBy (s : State) (c : Nat) : Bool := s.ex.blocks.any fun b => b.owner == .cmd c

/-- A LAUNCH ends with its last block; a command that drains after its timeout ends when no block is left (R425). -/
def settleCmd (c : Nat) (s : State) : State :=
  match findCmd s c with
  | none => s
  | some y =>
    if y.phase != .running || ownedBy s c then s
    else match y.work with
      | .blocks d =>
        if y.drainEnd.isSome then finish c St.timeoutDrained s
        else if d.nblock ≤ d.next then
          let s := finish c St.success s
          updEx (fun e => { e with codes := e.codes.filter fun k => k.id != d.code }) s
        else s
      | .step _ _ _ _ _ => if y.drainEnd.isSome then finish c St.timeoutDrained (stepFailed c St.timeoutDrained s) else s
      | _ => s

/-! ### Share classes (R513-R520) -/

def classWeight (c : Nat) : Nat := 16 - c
/-- S(c) in microseconds. -/
def classSlice (c : Nat) : Nat := (16 - c) * 250

/-- Does a command have a block left to dispatch? -/
def blocksLeft (c : Cmd) : Bool :=
  c.phase == .running && c.drainEnd.isNone && (match c.work with
    | .blocks d => decide (d.next < d.nblock)
    | .step _ _ _ _ _ => true
    | _ => false)

def passTier (s : State) (p : Pass) : Nat := queueTier (queueOf s p.q)
def passShare (s : State) (p : Pass) : Nat := (queueOf s p.q).share.toNat
/-- Has a render groups left to dispatch: of tiles in buffers, of tiles still to take, or of later primitives of a direct draw? -/
def passLeft (p : Pass) : Bool :=
  p.phase == .rendering && (p.bufs.any (fun b => !b.prims.isEmpty) || p.todo.any (fun t => !(tileWork p t).isEmpty) ||
    (p.direct && (p.prims.drop 1).any fun pr => !(primTiles p pr).isEmpty))

/-- A step has blocks not yet dispatched until its last stage is. -/
def stepLeft (s : State) (c : Cmd) : Bool :=
  match c.work with
  | .step m k _ _ d => decide (k + 1 < (modelOf s m).stages.length) || decide (d.next < d.nblock) || d.nblock == 0
  | _ => true

/-- Blocks left to dispatch in a class of a partition. -/
def classLeft (s : State) (p c : Nat) : Bool :=
  (s.ex.cmds.any fun y => cmdTier s y == 2 && cmdPart s y == p && cmdShare s y == c && blocksLeft y && stepLeft s y) ||
  s.gx.passes.any fun x => passTier s x == 2 && x.part.val == p && passShare s x == c && passLeft x

def classBlocks (s : State) (p c : Nat) : List Block :=
  s.ex.blocks.filter fun b => b.part.val == p && b.tier == 2 && b.share.toNat == c && (match b.owner with | .strand _ _ => false | _ => true)

/-- R514. -/
def backlogged (s : State) (p c : Nat) : Bool := classLeft s p c || (classBlocks s p c).any (·.parked)
def backlog (s : State) (p : Nat) : List Nat := (List.range 16).filter (backlogged s p)

/-! ### Parking (R525-R527) -/

/-- All groups of a block are in KWAIT. -/
def allInKwait (s : State) (b : Nat) : Bool :=
  let gs := s.ex.groups.filter (·.blk == b)
  !gs.isEmpty && gs.all fun g => match g.wait with | .knot .. => true | _ => false

/-- Park blocks. -/
def park (ids : List Nat) (s : State) : State :=
  if ids.isEmpty then s
  else overrunEnd ids (updEx (fun e => { e with blocks := updWhere (fun b => ids.contains b.id) (fun b => { b with parked := true }) e.blocks }) s)

/-- Park every block of a class that waits only on knots. -/
def parkClass (p c : Nat) (s : State) : State :=
  park (((classBlocks s p c).filter fun b => !b.parked && allInKwait s b.id).map (·.id)) s

/-- The block of a group has come to wait only on knots after its class's turn, before the class next holds it (R525). -/
def parkLate (b : Nat) (s : State) : State :=
  match findBlk s b with
  | none => s
  | some x =>
    let p := partOf s x.part
    let other := (p.turn.map (·.val)) != some x.share.toNat && (tabD p.classes x.share.toNat {}).turns != 0
    let strand := match x.owner with | .strand _ _ => true | _ => false
    if x.tier == 2 && !strand && other && !x.parked && allInKwait s b then park [b] s else s

/-- A parked wait re-reads its knot. -/
def rereadWait (g : Group) (s : State) : State :=
  match g.wait with
  | .knot k _ _ _ _ _ _ =>
    let (w, poison, s) := knotRead (ctxFn s ((findBlk s g.blk).map (·.ctx.val) |>.getD 0)) k s
    evalWait w poison g s
  | _ => s

/-- Unpark the blocks of a class at the start of its turn (R527). -/
def unparkClass (p c : Nat) (s : State) : State :=
  let ids := ((classBlocks s p c).filter (·.parked)).map (·.id)
  let s := updEx (fun e => { e with blocks := updWhere (fun b => ids.contains b.id) (fun b => { b with parked := false }) e.blocks }) s
  (s.ex.groups.filter fun g => ids.contains g.blk).foldl (fun s g => rereadWait g s) s

/-! ### Turns -/

def updClass (p c : Nat) (f : ShareClass → ShareClass) (s : State) : State := updPart p (fun x => { x with classes := tabUpd x.classes c f }) s
def debt (s : State) (p c : Nat) : Nat := (tabD (partOf s p).classes c {}).debt.toNat

/-- A class takes the turn. -/
def takeTurn (p c : Nat) (s : State) : State :=
  let len := classSlice c - debt s p c
  let only := (backlog s p).all (· == c)
  let s := updPart p (fun x => { x with turn := some (fin' 15 c), turnStart := s.time, turnLen := BitVec.ofNat 32 len, turnFrom := if only then none else some s.time }) s
  unparkClass p c (updClass p c (fun k => { k with debt := 0, turns := k.turns + 1 }) s)

/-- Backlogged classes in rotation order after class `h`. -/
def rotation (s : State) (p h : Nat) : List Nat := ((List.range 16).map fun i => (h + 1 + i) % 16).filter (backlogged s p)

/-- The turn goes to the first class in rotation, with skips (R515, R516). -/
def passTurn (p : Nat) : Nat → Nat → State → State
  | 0, _, s => s
  | n + 1, h, s =>
    match rotation s p h with
    | [] => updPart p (fun x => { x with turn := none, turnFrom := none }) s
    | c :: _ =>
      if classSlice c ≤ debt s p c then passTurn p n c (updClass p c (fun k => { k with debt := k.debt - BitVec.ofNat 32 (classSlice c) }) s)
      else takeTurn p c s

/-- Enough rounds for every debt to be worked off by skips. -/
def turnFuel (s : State) (p : Nat) : Nat := 17 + 16 * (sumN ((List.range 16).map (debt s p)) / 250 + 1)

/-- The holder has no block left to dispatch and none resident and unparked: its turn ends early (R516). -/
def turnEarly (s : State) (p c : Nat) : Bool := !(classLeft s p c) && (classBlocks s p c).all (·.parked)

/-- Has the turn ended, on its length or early (R516)? -/
def turnOver (s : State) (p c : Nat) : Bool :=
  let x := partOf s p
  (match x.turnFrom with | some f => decide (f.toNat + x.turnLen.toNat * 1000 ≤ s.now) | none => false) || turnEarly s p c

/-- The turn of class `c` ends. Where it passes to another class, the blocks of `c` that wait only on knots are parked, and the overrun of the
others is measured (R519, R520, R525). -/
def endTurn (p c : Nat) (s : State) : State :=
  let s := passTurn p (turnFuel s p) c s
  match (partOf s p).turn with
  | none => s
  | some d =>
    if d.val = c then s
    else
      let s := parkClass p c s
      let ids := ((classBlocks s p c).filter fun b => !b.parked).map (·.id)
      if ids.isEmpty then s else updPart p (fun x => { x with overruns := x.overruns ++ [(fin' 15 c, s.time, ids)] }) s

/-- Turns follow what has changed: a free turn is taken, one that ends early passes on (R515, R516); the length of a turn counts from when
another class is backlogged (R517). -/
def schedPart (p : Nat) (s : State) : State :=
  let x := partOf s p
  if !x.en then s else
  match x.turn with
  | none => if (backlog s p).isEmpty then s else passTurn p (turnFuel s p) 15 s
  | some c =>
    if turnEarly s p c then endTurn p c s
    else if (backlog s p).all (· == c.val) then updClass p c (fun k => { k with debt := 0 }) (updPart p (fun x => { x with turnFrom := none }) s)
    else if x.turnFrom.isNone then updPart p (fun x => { x with turnFrom := some s.time }) s
    else s

def schedSettle (s : State) : State := (List.range 8).foldl (fun s p => schedPart p s) s

/-- TURN_END (R515-R520, R525, R527). -/
def execTurnEnd (part : Fin 8) (t : W64) (s : State) : Res :=
  let s := schedPart part (s.at t)
  match (partOf s part).turn with
  | none => fin s
  | some c => if turnOver s part c then fin (endTurn part c s) else fin s

/-! ### Claims (R509) -/

/-- The command, its partition and the resources of its next block. -/
def nextNeeds (c : Cmd) : Option Dispatching :=
  match c.work with
  | .blocks d => if d.next < d.nblock then some d else none
  | .step _ _ _ _ d => if d.next < d.nblock then some d else none
  | _ => none

def setDispatch (c : Nat) (f : Dispatching → Dispatching) (s : State) : State :=
  updCmd c (fun y => match y.work with
    | .blocks d => { y with work := .blocks (f d) }
    | .step m k es sc d => { y with work := .step m k es sc (f d) }
    | _ => y) s

/-- Would a core take the next block of `d`, or a block of its cluster, once the blocks there end: what tile buffers hold stays (R90, R509)? -/
def claimable (s : State) (part : Nat) (d : Dispatching) (k : Nat) : Bool :=
  (coreOf s k).claim.isNone && fitsEmpty d.groups (codeRegs s d.code) d.lmSize && decide (d.lmSize + tileTop (coreOf s k) ≤ lmBytes) &&
  (decide (d.cluster < 2) || (partQuads s part).any fun q => (quadCores q).contains k)

/-- CORE_CLAIM (R509): a command whose next block has found no core for 1 ms claims the first core that would take it once the
blocks there end. -/
def execCoreClaim (c : Nat) (t : W64) (s : State) : Res :=
  let s := s.at t
  match findCmd s c with
  | none => fin s
  | some y =>
    match nextNeeds y with
    | none => fin s
    | some d =>
      let due := match d.noCoreSince with | some f => decide (f.toNat + 1000000 ≤ s.now) | none => false
      let held := s.ex.cores.toList.any fun k => k.claim == some (.cmd c)
      let cands := if d.bound.isEmpty then partCores s (cmdPart s y) else (d.bound[d.next % d.bound.length]?).toList.map (·.val)
      match cands.find? (claimable s (cmdPart s y) d) with
      | some k => if y.phase == .running && due && !held then fin (updCore k (fun x => { x with claim := some (.cmd c) }) s) else fin s
      | none => fin s

end Sys2Proof.Machine
end

