-- ==== Sys2Proof/Machine/Render.lean ====
section
/-! DEFINITION. Render.lean: passes, draws, binning, tiles, signatures and direct draws (08). One group of a
tile is shaded at a time (DESIGN CHOICE, unsafe, log 33). -/
namespace Sys2Proof.Machine

/-! ### Surfaces (Table 8.2) -/

def parseSurface (d : List Byte) : Surface :=
  { base := BitVec.ofNat 64 (leAt d 0 8), hdr := BitVec.ofNat 64 (leAt d 8 8), sig := BitVec.ofNat 64 (leAt d 16 8), pitch := leAt d 0x18 4
    width := leAt d 0x1C 2, height := leAt d 0x1E 2, format := BitVec.ofNat 8 (leAt d 0x20 1), compressed := (leAt d 0x21 1).testBit 0
    sigreset := (leAt d 0x21 1).testBit 1, load := BitVec.ofNat 2 (leAt d 0x22 1), store := BitVec.ofNat 2 (leAt d 0x22 1 / 4)
    clear := (List.range 4).map fun i => BitVec.ofNat 32 (leAt d (0x30 + 4 * i) 4) }

/-- Does a descriptor keep Table 8.2? A DIRECT_DRAW ignores the actions and SIGADDR (R300). -/
def surfaceOk (depth direct : Bool) (d : List Byte) : Bool :=
  let x := parseSurface d
  let f := x.format.toNat
  (if depth then f == 9 else fmtColour f) && decide (1 ≤ x.width) && decide (x.width ≤ 8192) && decide (1 ≤ x.height) && decide (x.height ≤ 8192) &&
  decide (leAt d 0x21 1 < 4) && decide (leAt d 0x22 1 < 16) && leAt d 0x23 13 == 0 &&
  (direct || (x.load.toNat != 3 && decide (x.store.toNat ≤ 1) && x.sig.toNat % 64 == 0)) &&
  (if x.compressed then !direct && fmtCompressible f && x.base.toNat % 4096 == 0 && x.hdr.toNat % 64 == 0 && x.pitch == 0
   else x.base.toNat % 256 == 0 && x.hdr == 0 && x.pitch % 64 == 0 && decide (x.width * formatBytes f ≤ x.pitch))

/-- Bytes of an attachment (R280), and of its signature array (R309). -/
def attachBytes (x : Surface) : Nat := if x.compressed then tilesX x.width * ((x.height + 31) / 32) * 4096 else x.pitch * x.height
def sigArray (x : Surface) : Nat := 8 * tilesX x.width * ((x.height + 31) / 32)

/-- Every page of a signature array that is mapped lies at target 0 or 1, whatever its permissions; the check posts no fault (R278). -/
def sigPages (c : Nat) : List (Nat × Nat) → State → Bool × State
  | [], s => (true, s)
  | (va, _) :: r, s =>
    match mapped c va s with
    | (some (.host _), s) => (false, s)
    | (some (.remote _ _ _), s) => (false, s)
    | (_, s) => sigPages c r s

/-- Read and check surface descriptors: address and whether it is the depth attachment. -/
def readSurfaces (w : Who) (direct : Bool) : List (Nat × Bool) → State → Rd (List Surface) × State
  | [], s => (.ok [], s)
  | (va, depth) :: r, s =>
    match w.read va 64 .load s with
    | (.ok d, s) =>
      let x := parseSurface d
      if !surfaceOk depth direct d then (.fail 0x0141 0, s) else
      let (ok, s) := if direct || x.sig = 0 then (true, s) else sigPages w.ctx (pagePieces x.sig.toNat (sigArray x)) s
      if !ok then (.fail 0x0141 0, s) else
      (match readSurfaces w direct r s with
       | (.ok l, s) => (.ok (x :: l), s)
       | (.fail st o, s) => (.fail st o, s)
       | (.stall, s) => (.stall, s))
    | (.fail st o, s) => (.fail st o, s)
    | (.stall, s) => (.stall, s)

def sameSize (l : List Surface) : Bool :=
  match l with | [] => false | x :: r => r.all fun y => y.width == x.width && y.height == x.height

/-! ### Opening a pass -/

def openPass (s : State) (q : Nat) : Option Pass := s.gx.passes.find? fun p => p.q.val == q && !p.direct
/-- Units that the head table takes. -/
def headUnits (p : Pass) : Nat := roundUp' (8 * passTiles p) 65536 / 64
/-- The GFE as a requester (engine 32), for a command. -/
def gfeRq (w : Who) : Rq := { w.rq with eng := some 32 }
/-- A write of the binner, charged to the partition (R18, R25). -/
def poolWrite (p : Pass) (unit ofs : Nat) (bs : List Byte) (s : State) : State :=
  let va := p.pool.toNat + 64 * unit + ofs
  (writeVa p.ctx va (clean bs) { eng := some 32 } (chargeVa none p.part p.ctx va bs.length s)).2.2

/-- The emptied pool: head table zero, no records, no chunks. -/
def emptyPool (p : Pass) (s : State) : State :=
  poolWrite p 0 0 (List.replicate (8 * passTiles p) 0) (updPass p.id (fun x => { x with bins := [], chunks := [], prims := [], used := headUnits p }) s)

/-- TILECORES must be a non-empty mask of cores of the partition (R286); absent cores fail under R4. -/
def tileCoresBad (s : State) (part : Nat) (m : W32) : Option Status :=
  if m.toNat / 2 ^ presentCores s.part != 0 then some St.resourceAbsent
  else if m = 0 ∨ m &&& ~~~(partOf s part).cores != 0 then some 0x0143
  else none

/-- Every page of the pool is writable and has target 0 (R292); the check posts no fault. -/
def poolPages (c : Nat) : List (Nat × Nat) → State → Bool × State
  | [], s => (true, s)
  | (va, _) :: r, s => match translate c va .store s with | (.ok _ (.peat _), s) => poolPages c r s | (_, s) => (false, s)

/-- What a BEGIN names, colour attachments and then depth, with its checks (R274, R278, R286, R292); a pool not on pages of target 0
fails with 0x0106 (DESIGN CHOICE, unsafe, log 93). -/
def readBegin (w : Who) (p : Pkt) (s : State) : Rd (List Surface) × State :=
  let addrs := (List.range (fld (dw p 9) 2 0)).map (fun i => (dq p (16 + 2 * i), false)) ++ (if bit (dw p 9) 3 then [(dq p 24, true)] else [])
  match tileCoresBad s (ctxOf s w.ctx).part.val (dw p 8) with
  | some st => (.fail st 0, s)
  | none =>
    match readSurfaces w false addrs s with
    | (.ok l, s) =>
      if !sameSize l then (.fail 0x0141 0, s)
      else if (dw p 12).toNat < 32 then (.fail 0x0240 0, s)
      else
        let (ok, s) := poolPages w.ctx (pagePieces (dq p 10) ((dw p 12).toNat * 65536)) s
        (if ok then .ok l else .fail St.paramRange 0, s)
    | x => x

/-- RENDER_PASS BEGIN (R273, R274, R278, R286, R292). -/
def startPassBegin (c : Cmd) (s : State) : Go × State :=
  let p := c.pkt
  let w := c.who
  let n := fld (dw p 9) 2 0
  if (openPass s c.q).isSome then (.ended 0x0140, s)
  else if 8 ≤ (s.gx.passes.filter fun x => !x.direct).length then (.blocked, s)
  else Rd.run (readBegin w p s) fun l s =>
    let x : Pass :=
      { id := s.ex.nextObj, q := c.q, ctx := fin' 63 w.ctx, part := fin' 7 (cmdPart s c), tilecores := dw p 8, colours := l.take n, depth := (l.drop n).head?
        pool := BitVec.ofNat 64 (dq p 10), poolUnits := (dw p 12).toNat }
    let s := updEx (fun e => { e with nextObj := e.nextObj + 1 }) (updGx (fun g => { g with passes := g.passes ++ [x] }) s)
    (.ended St.success, emptyPool x s)

/-! ### Draw state (Tables 8.5, 12.12) -/

def drawStateOk (direct : Bool) (d : List Byte) (ncol cnt : Nat) (ib : Bool) : Bool :=
  decide (leAt d 0 1 ≤ 1) && decide (2 ≤ leAt d 1 1) && decide (leAt d 1 1 ≤ 4) && decide (leAt d 2 1 ≤ 16) && decide (leAt d 3 1 ≤ 2) && decide (leAt d 4 1 ≤ 2) &&
  decide (leAt d 5 1 / 16 = 0) && (direct || leAt d 5 1 % 8 != 7) && (List.range ncol).all (fun i => decide (leAt d (8 + i) 1 ≤ 5)) && leAt d 12 2 % 4 == 0 &&
  decide (4 * (leAt d 1 1 + leAt d 2 1) ≤ leAt d 12 2) && decide (leAt d 12 2 ≤ 256) && leAt d 14 2 == 0 && leAt d 0x18 8 == 0 && leAt d 0x30 16 == 0 &&
  decide (1 ≤ cnt) && decide (cnt ≤ 16777216) && (ib == (leAt d 3 1 != 0))

/-- Registers that inputs and outputs need (Table 8.9). -/
def shaderRegs (nattr ncol : Nat) : Nat := max (4 + nattr) (4 * ncol)

/-- A vertex: four position components and attributes with their poison. -/
structure Vertex where
  pos : List W32
  attrs : List (W32 × Bool)
  deriving DecidableEq, Repr

/-- Vertex numbers in order; all ones in an indexed strip restarts it (none). -/
def indexList (w : Who) (kind ib cnt : Nat) (strip : Bool) (s : State) : Rd (List (Option Nat)) × State :=
  if kind = 0 then (.ok ((List.range cnt).map some), s) else
  let n := if kind = 1 then 2 else 4
  match readVa w.ctx ib (n * cnt) .load (gfeRq w) s with
  | (bs, .ok, s) =>
    if anyPoison bs then (.fail St.poisonGeometry 0, s)
    else (.ok ((List.range cnt).map fun i => let v := leAt (dataOf bs) (n * i) n; if strip && v == 2 ^ (8 * n) - 1 then none else some v), s)
  | (_, .fail st, s) => (.fail st 0, s)
  | (_, .stall, s) => (.stall, s)

/-- Triangles of vertex numbers: lists by threes; strips alternate the winding (DESIGN CHOICE, unsafe, log 19). -/
def listTris : List (Option Nat) → List (List Nat)
  | some a :: some b :: some c :: r => [a, b, c] :: listTris r
  | _ => []
def stripTris : Bool → List (Option Nat) → List (List Nat)
  | odd, some a :: some b :: some c :: r => (if odd then [b, a, c] else [a, b, c]) :: stripTris (!odd) (some b :: some c :: r)
  | _, none :: r => stripTris false r
  | _, _ :: r => stripTris false r
  | _, [] => []

def readVertex (w : Who) (vb stride pc na i : Nat) (s : State) : Rd Vertex × State :=
  match readVa w.ctx (vb + i * stride) (4 * (pc + na)) .load (gfeRq w) s with
  | (bs, .ok, s) =>
    let d := dataOf bs
    let v (k : Nat) : W32 := BitVec.ofNat 32 (leAt d (4 * k) 4)
    let pz (k : Nat) : Bool := anyPoison ((bs.drop (4 * k)).take 4)
    if (List.range pc).any pz then (.fail St.poisonGeometry 0, s)
    else (.ok { pos := (List.range 4).map fun k => if k < pc then v k else if k = 3 then one32 else 0
                attrs := (List.range na).map fun a => (v (pc + a), pz (pc + a)) }, s)
  | (_, .fail st, s) => (.fail st 0, s)
  | (_, .stall, s) => (.stall, s)

def readVertices (w : Who) (vb stride pc na : Nat) : List Nat → State → Rd (List Vertex) × State
  | [], s => (.ok [], s)
  | i :: r, s =>
    match readVertex w vb stride pc na i s with
    | (.ok v, s) =>
      (match readVertices w vb stride pc na r s with
       | (.ok l, s) => (.ok (v :: l), s)
       | (.fail st o, s) => (.fail st o, s)
       | (.stall, s) => (.stall, s))
    | (.fail st o, s) => (.fail st o, s)
    | (.stall, s) => (.stall, s)

/-- The primitives of one triangle after transform, clip and cull (R289). -/
def triPrims (d : List Byte) (draw index : Nat) (vs : List Vertex) : List Prim :=
  let m := (List.range 16).map fun i => BitVec.ofNat 32 (leAt d (0x40 + 4 * i) 4)
  let vp := (List.range 4).map fun i => BitVec.ofNat 32 (leAt d (0x20 + 4 * i) 4)
  let na := leAt d 2 1
  (gfeTris m vp (vs.map (·.pos))).filterMap fun t =>
    let pr : Prim :=
      { draw := draw, index := index, front := true
        corners := (t.take 3).map fun k => (k.1, k.2.1, k.2.2.1, k.2.2.2.1, (List.range na).map fun a =>
          cornerAttr k.2.2.2.2 (vs.map fun v => ((v.attrs[a]?).map (·.1)).getD 0))
        poison := (List.range na).map fun a => vs.any fun v => ((v.attrs[a]?).map (·.2)).getD false }
    let ar : Int := area2 (corner pr)
    let front : Bool := decide (0 < ar)
    if ar == 0 || t.length != 3 || (leAt d 4 1 == 1 && !front) || (leAt d 4 1 == 2 && front) then none else some { pr with front := front }

/-! ### The bin pool (R293, R294) -/

def recUnits (pr : Prim) : Nat := (16 + 3 * (16 + 4 * pr.poison.length) + 63) / 64

def fix8 (v : Int) : W32 := BitVec.ofNat 32 (roundIeee fp32 0 (decide (v < 0)) v.natAbs (-8) false)

/-- A primitive record (Table 8.6). -/
def primRecord (pr : Prim) : List Byte :=
  leBytes 2 pr.draw ++ [BitVec.ofNat 8 (b2n pr.front), BitVec.ofNat 8 pr.poison.length] ++ leBytes 4 pr.index ++ List.replicate 8 0 ++
  pr.corners.flatMap fun k => wordsBytes ([fix8 k.1, fix8 k.2.1, k.2.2.1, k.2.2.2.1] ++ k.2.2.2.2)

/-- Does the next entry of a tile's bin need a new chunk? -/
def needsChunk (p : Pass) (t : Nat) : Bool := (binOf p t).length % 14 == 0

/-- Put primitive number `k` with record offset `ofs` into the bin of tile `t`. -/
def binTile (id k ofs t : Nat) (s : State) : State :=
  match s.gx.passes.find? (·.id == id) with
  | none => s
  | some p =>
    let n := (binOf p t).length
    let s := updPass id (fun x => { x with bins := pairPut x.bins t (some (binOf x t ++ [k])) }) s
    if needsChunk p t then
      let c := p.used
      let old := pairGet p.chunks t
      let s := poolWrite p c 0 (leBytes 4 0 ++ [1, 0, 0, 0] ++ leBytes 4 ofs) s
      let s := match old with | some (_, last) => poolWrite p last 0 (leBytes 4 c) s | none => s
      let first := (old.map (·.1)).getD c
      let s := poolWrite p 0 (8 * t) (leBytes 4 first ++ leBytes 4 c) s
      updPass id (fun x => { x with used := x.used + 1, chunks := pairPut x.chunks t (some (first, c)) }) s
    else
      match pairGet p.chunks t with
      | none => s
      | some (_, last) =>
        poolWrite p last 4 [BitVec.ofNat 8 (n % 14 + 1)] (poolWrite p last (8 + 4 * (n % 14)) (leBytes 4 ofs) s)

/-- Place a primitive's record and bin it into tiles. -/
def placePrim (p : Pass) (pr : Prim) (ts : List Nat) (s : State) : State :=
  let k := p.prims.length
  let s := poolWrite p p.used 0 (primRecord pr) s
  let s := updPass p.id (fun x => { x with prims := x.prims ++ [{ pr with ofs := p.used }], used := x.used + recUnits pr }) s
  ts.foldl (fun s t => binTile p.id k p.used t s) s

/-! ### Signature directory (R310, R313) -/

def sigMatch (c : Nat) (x : Surface) (e : SigEntry) : Bool :=
  e.sig == x.sig && e.base == x.base && e.format == x.format && e.width == x.width && e.height == x.height && e.pitch == x.pitch && e.ctx.val == c

/-- The least recently used entry. -/
def lruSig (l : List SigEntry) : Option Nat :=
  (l.foldl (fun (o : Option SigEntry) e => match o with | none => some e | some x => if e.used < x.used then some e else some x) none).map (·.used)

/-- Before a pass stores to a surface with a signature array (R310): its entry is used, or the array is zeroed and an entry made. -/
def sigPrepare (p : Pass) (x : Surface) (rq : Rq) (s : State) : VaAns × State :=
  if x.sig = 0 then (.ok, s) else
  let ctx := p.ctx.val
  let n := s.gx.sigUse + 1
  if s.gx.sigdir.any (sigMatch ctx x) && !x.sigreset then
    (.ok, updGx (fun g => { g with sigUse := n, sigdir := updWhere (sigMatch ctx x) (fun e => { e with used := n }) g.sigdir }) s)
  else
    match chargedWrite none p.part p.ctx x.sig.toNat (clean (List.replicate (8 * passTiles p) 0)) rq s with
    | (_, .ok, s) =>
      let l := s.gx.sigdir.filter fun e => !(sigMatch ctx x e)
      let l := if l.length < 64 then l else l.filter fun e => some e.used != lruSig l
      let e : SigEntry := { sig := x.sig, base := x.base, format := x.format, width := x.width, height := x.height, pitch := x.pitch, ctx := p.ctx, used := n }
      (.ok, updGx (fun g => { g with sigUse := n, sigdir := l ++ [e] }) s)
    | (_, a, s) => (a, s)

/-- Bytes of a surface and of its array, for the drops of R313. -/
def surfBytes (x : SigEntry) : Nat := if x.pitch = 0 then tilesX x.width * ((x.height + 31) / 32) * 4096 else x.pitch * x.height
def sigBytes (x : SigEntry) : Nat := 8 * tilesX x.width * ((x.height + 31) / 32)
def pagesHit (va n page k : Nat) : Bool := decide (va / 65536 < page + k) && decide (page ≤ (va + n - 1) / 65536)

/-- A completed invalidation drops the entries it covers (R313). -/
def sigInvalidate (c page k : Nat) (s : State) : State :=
  updGx (fun g => { g with sigdir := g.sigdir.filter fun e =>
    !(e.ctx.val == c && (pagesHit e.base.toNat (surfBytes e) page k || pagesHit e.sig.toNat (sigBytes e) page k)) }) s

/-! ### Renders -/

/-- Is an attachment stored by this render? -/
def storesNow (p : Pass) (x : Surface) : Bool := p.direct || p.partialNow || x.store == 0

/-- Begin a render: tiles to do, and R310 for the surfaces that it stores. -/
def beginRender (id : Nat) (todo : List Nat) (part : Bool) (c : Option Nat) (s : State) : State :=
  let prep (x : Pass) : List Surface := (passSurfaces x).filter fun y => y.sig != 0 && (part || y.store == 0)
  let s := updPass id (fun x => { x with phase := .rendering, todo := todo, partialNow := part, cmd := c, partials := x.partials + b2n part, prep := prep x }) s
  reserveTiles (if part then updHi (fun h => { h with partials := h.partials + 1 }) s else s)

/-- Bin what remains; a full pool starts a partial render (R294); a pool page that faults makes the binner wait, or fails the pass (14 R490). -/
def binLoop (id : Nat) (c : Option Nat) : Nat → State → State
  | 0, s => s
  | n + 1, s =>
    match s.gx.passes.find? (·.id == id) with
    | none => s
    | some p =>
      match p.toBin with
      | [] => (match c with | some k => finish k St.success (updPass id (fun x => { x with cmd := none }) s) | none => s)
      | pr :: rest =>
        let ts := (primTiles p pr).filter fun t => decide (p.binFrom ≤ t)
        let free := p.poolUnits * 1024 - p.used
        let need := (ts.filter (needsChunk p)).length
        if ts.isEmpty then binLoop id c n (updPass id (fun x => { x with toBin := rest, binFrom := 0 }) s)
        else if free < recUnits pr + need && headUnits p < p.used then beginRender id ((p.bins.filter fun b => !b.2.isEmpty).map (·.1)) true c s
        else
          match writablePieces p.ctx { who := c.map .cmd, eng := some 32 } (pagePieces p.pool.toNat (64 * (p.used + min free (recUnits pr + need)))) s with
          | (.stall, s) => s
          | (.fail st, s) => failPass id st 0 s
          | (.ok, s) =>
            if recUnits pr + need ≤ free then binLoop id c n (updPass id (fun x => { x with toBin := rest, binFrom := 0 }) (placePrim p pr ts s))
            else
              let now := ts.take (free - recUnits pr)
              let s := placePrim p pr now s
              beginRender id now true c (updPass id (fun x => { x with binFrom := (now.getLast?.getD 0) + 1 }) s)

/-- Bound on the rounds of binning. -/
def binFuel (s : State) (id : Nat) : Nat := match s.gx.passes.find? (·.id == id) with | some p => p.toBin.length + 1 | none => 1

/-! ### Tiles: load and store (R285, R287, R311, R312) -/

def rowsIn (p : Pass) (t : Nat) : Nat := min 32 (passH p - (tileOrigin p t).2)
def colsIn (p : Pass) (t : Nat) : Nat := min 32 (passW p - (tileOrigin p t).1)

abbrev Pix := List (W64 × Bool)

def pixOf (n : Nat) (bs : PB) (i : Nat) : W64 × Bool :=
  let b := (bs.drop (n * i)).take n
  (BitVec.ofNat 64 (leVal (dataOf b)), anyPoison b)

/-- Rows of an uncompressed attachment. -/
def loadRows (p : Pass) (x : Surface) (rq : Rq) (t : Nat) : List Nat → State → LaneAns Pix × State
  | [], s => (.ok [], s)
  | j :: r, s =>
    let n := formatBytes x.format.toNat
    let (ox, oy) := tileOrigin p t
    let k := colsIn p t
    let row := if j < rowsIn p t then chargedRead rq.eng p.part p.ctx (x.base.toNat + (oy + j) * x.pitch + ox * n) (k * n) rq s else ([], .ok, s)
    match row with
    | (bs, .ok, s) =>
      (match loadRows p x rq t r s with
       | (.ok l, s) => (.ok ((List.range 32).map (fun i => if j < rowsIn p t ∧ i < k then pixOf n bs i else (0, false)) ++ l), s)
       | (a, s) => (a, s))
    | (_, .fail st, s) => (.trap st, s)
    | (_, .stall, s) => (.stall, s)

/-- Set one attachment at the start of a tile. -/
def loadTile (p : Pass) (x : Surface) (rq : Rq) (t : Nat) (s : State) : LaneAns Pix × State :=
  let mode := if p.direct || p.stored.contains t then 0 else x.load.toNat
  match mode with
  | 1 =>
    let v := if x.format.toNat = 9 then (chan x.clear 0).toNat else encodePixel x.format.toNat x.clear
    (.ok (List.replicate 1024 (BitVec.ofNat 64 v, false)), s)
  | 2 =>
    let l := (List.range 1024).map fun i => (BitVec.ofNat 64 ((Config.freeValue (s.freeCtr + i)).toNat % 2 ^ (8 * formatBytes x.format.toNat)), false)
    (.ok l, { s with freeCtr := s.freeCtr + 1024 })
  | _ =>
    if x.compressed then
      match readTileBy (fun va n s => chargedRead rq.eng p.part p.ctx va n rq s) x.base.toNat x.hdr.toNat t s with
      | (bs, .ok, s) => (.ok ((List.range 1024).map (pixOf 4 bs)), s)
      | (_, .fail st, s) => (.trap st, s)
      | (_, .stall, s) => (.stall, s)
    else loadRows p x rq t (List.range 32) s

def loadAll (p : Pass) (rq : Rq) (t : Nat) : List Surface → State → LaneAns (List Pix) × State
  | [], s => (.ok [], s)
  | x :: r, s =>
    match loadTile p x rq t s with
    | (.ok a, s) => (match loadAll p rq t r s with | (.ok l, s) => (.ok (a :: l), s) | (b, s) => (b, s))
    | (.trap st, s) => (.trap st, s)
    | (.stall, s) => (.stall, s)

/-- Tile bytes of an attachment in its uncompressed format; pixels outside the surface are zero (R280, R309). -/
def tileBytes (p : Pass) (x : Surface) (t : Nat) (px : Pix) : PB :=
  let n := formatBytes x.format.toNat
  (List.range 1024).flatMap fun i =>
    let (v, z) := px.getD i (0, false)
    if i / 32 < rowsIn p t ∧ i % 32 < colsIn p t then (leBytes n v.toNat).map fun b => (b, z) else clean (List.replicate n 0)

/-- Write rows of an uncompressed attachment; `w` says whether a byte has been written. -/
def storeRows (p : Pass) (x : Surface) (rq : Rq) (t : Nat) (bs : PB) : List Nat → Bool → State → Bool × VaAns × State
  | [], w, s => (w, .ok, s)
  | j :: r, w, s =>
    let n := formatBytes x.format.toNat
    let (ox, oy) := tileOrigin p t
    match chargedWrite rq.eng p.part p.ctx (x.base.toNat + (oy + j) * x.pitch + ox * n) ((bs.drop (32 * n * j)).take (colsIn p t * n)) rq s with
    | (_, .ok, s) => storeRows p x rq t bs r true s
    | (m, a, s) => (w || m != 0, a, s)

/-- The tile bytes that a header entry and the sectors of its slot stand for (Table 8.4, R282). -/
def tileForm (h : W64) (d : List Byte) : Option (List Byte) :=
  let sect := fld h 8 2
  if fld h 31 9 ≠ 0 then none
  else match fld h 1 0 with
    | 0 => if sect = 64 ∧ d.length = 4096 then some d else none
    | 1 => if 1 ≤ sect ∧ sect ≤ 64 ∧ d.length = 64 * sect then inflateTile d else none
    | 2 => if sect = 0 ∧ d = [] then some ((List.replicate 1024 (leBytes 4 (fld h 63 32))).flatten) else none
    | _ => none

/-- Do tile bytes agree on the pixels within the surface? -/
def sameTile (p : Pass) (t : Nat) (a b : List Byte) : Bool :=
  (List.range (rowsIn p t)).all fun j => (a.drop (128 * j)).take (4 * colsIn p t) == (b.drop (128 * j)).take (4 * colsIn p t)

/-- What the DZE stores for a tile: its own choice of mode, blocks and codes, which reads back as the tile (R282), or RAW; poisoned
tiles are stored RAW (DESIGN CHOICE, safe, log 18). -/
def tileSlot (p : Pass) (t : Nat) (bs : PB) : W64 × PB :=
  let c := Config.tileCompress (dataOf bs)
  let good := !(anyPoison bs) && (match tileForm c.1 c.2 with | some d => sameTile p t d (dataOf bs) | none => false)
  if good then (c.1, clean c.2) else (BitVec.ofNat 64 256, bs)

/-- Write a tile; a compressed surface is written by the DZE, engine 34 (R281, R282). -/
def storeTile (p : Pass) (x : Surface) (rq : Rq) (t : Nat) (bs : PB) (s : State) : Bool × VaAns × State :=
  if x.compressed then
    let rq := { rq with eng := some 34 }
    let (h, slot) := tileSlot p t bs
    match chargedWrite none p.part p.ctx (x.base.toNat + t * 4096) slot rq s with
    | (_, .ok, s) => let (_, a, s) := chargedWrite none p.part p.ctx (x.hdr.toNat + 8 * t) (clean (leBytes 8 h.toNat)) rq s; (true, a, s)
    | (m, a, s) => (m != 0, a, s)
  else storeRows p x rq t bs (List.range (rowsIn p t)) false s

/-- A tile of a surface under DISCARD holds unspecified values, with no other effect (R287, 00 R17). -/
def discardTile (p : Pass) (x : Surface) (t : Nat) (s : State) : State :=
  if x.compressed then freePieces p.ctx (pagePieces (x.base.toNat + t * 4096) 4096 ++ pagePieces (x.hdr.toNat + 8 * t) 8) s
  else
    let n := formatBytes x.format.toNat
    let (ox, oy) := tileOrigin p t
    freePieces p.ctx ((List.range (rowsIn p t)).flatMap fun j => pagePieces (x.base.toNat + (oy + j) * x.pitch + ox * n) (colsIn p t * n)) s

/-- The bytes of a surface (R280, R284): the rows of its pixels, or its slots and header entries. -/
def surfaceRanges (x : Surface) : List (Nat × Nat) :=
  if x.compressed then [(x.base.toNat, attachBytes x), (x.hdr.toNat, sigArray x)]
  else (List.range x.height).map fun j => (x.base.toNat + j * x.pitch, x.width * formatBytes x.format.toNat)

/-- Unspecified values in every attachment of a pass (R291, R317), its signature arrays apart. -/
def freeAttachments (p : Pass) (s : State) : State :=
  (passSurfaces p).foldl (fun s x => freePieces p.ctx ((surfaceRanges x).flatMap fun r => pagePieces r.1 r.2) s) s

/-- What storing an attachment has done: written it, skipped it by its signature; and whether a byte of it has changed. -/
structure Stored where
  written : Bool := false
  skipped : Bool := false
  touched : Bool := false
  deriving DecidableEq, Repr

/-- Store one attachment at the end of a tile. -/
def storeOne (p : Pass) (x : Surface) (rq : Rq) (t : Nat) (px : Pix) (s : State) : Stored × VaAns × State :=
  let bs := tileBytes p x t px
  if !(storesNow p x) then ({}, .ok, discardTile p x t s)
  else if p.direct || x.sig = 0 then
    let (m, a, s) := storeTile p x rq t bs s
    ({ written := true, touched := m }, a, s)
  else
    let at' := x.sig.toNat + 8 * t
    let v := crc64 (dataOf bs)
    let sig : W64 := if v = 0 then 1 else v
    match chargedRead rq.eng p.part p.ctx at' 8 rq s with
    | (old, .ok, s) =>
      if !p.partialNow && leVal (dataOf old) == sig.toNat then ({ skipped := true }, .ok, s)
      else
        (match storeTile p x rq t bs s with
         | (m, .ok, s) =>
           let (_, a, s) := chargedWrite rq.eng p.part p.ctx at' (clean (leBytes 8 (if p.partialNow then 0 else sig.toNat))) rq s
           ({ written := true, touched := m }, a, s)
         | (m, a, s) => ({ touched := m }, a, s))
    | (_, a, s) => ({}, a, s)

/-- Store the attachments that are still to store, one after another: what has been done with each, a last one that did not end included. -/
def storeAll (p : Pass) (rq : Rq) (t : Nat) : List (Surface × Pix) → List Stored → State → List Stored × VaAns × State
  | [], l, s => (l, .ok, s)
  | (x, px) :: r, l, s =>
    match storeOne p x rq t px s with
    | (a, .ok, s) => storeAll p rq t r (l ++ [a]) s
    | (a, e, s) => (l ++ [a], e, s)

/-- The requester of a pass's tile work on a core: the command that renders. -/
def passRq (p : Pass) (k : Nat) : Rq := { who := p.cmd.map .cmd, eng := some k }

/-- A DIRECT_DRAW that writes surfaces drops the directory entries of those that they overlap (R301, R313). -/
def sigDropSurfaces (ctx : Nat) (l : List Surface) (s : State) : State :=
  let hits (e : SigEntry) (x : Surface) : Bool :=
    (e.ctx.val == ctx && decide (x.base.toNat < e.base.toNat + surfBytes e) && decide (e.base.toNat < x.base.toNat + attachBytes x)) ||
    (match (mapped e.ctx e.base.toNat s).1, (mapped ctx x.base.toNat s).1 with | some a, some b => a == b | _, _ => false)
  updGx (fun g => { g with sigdir := g.sigdir.filter fun e => !(l.any (hits e)) }) s

/-- A render has no tile left (R277, R294, R300). -/
def endRender (id : Nat) (s : State) : State :=
  match s.gx.passes.find? (·.id == id) with
  | none => s
  | some p =>
    if p.direct then
      match p.prims.drop 1 with
      | [] =>
        let s := updGx (fun g => { g with passes := g.passes.filter (·.id != id) }) (releaseTiles id s)
        (match p.cmd with | some c => finish c St.success s | none => s)
      | pr :: r => updPass id (fun x => { x with prims := pr :: r, todo := primTiles p pr, held := [] }) s
    else if p.partialNow then
      let s := emptyPool p (releaseTiles id s)
      let s := updPass id (fun x => { x with phase := .binning, partialNow := false }) s
      binLoop id p.cmd (binFuel s id) s
    else
      let s := updGx (fun g => { g with passes := g.passes.filter (·.id != id) }) (releaseTiles id s)
      match p.cmd with
      | some c => finish c St.success (setRes c [BitVec.ofNat 32 p.tilesStored, BitVec.ofNat 32 p.tilesSkipped, BitVec.ofNat 32 p.partials, 0] s)
      | none => s

def dropBuf (t : Nat) (l : List TileBuf) : List TileBuf := l.filter (·.tile != t)

/-- A buffer's tile has no primitive left: its attachments are stored, and the render goes on. A page that faults makes the tile wait with what
has been done, or fails the pass. -/
def finishTile (p : Pass) (b : TileBuf) (s : State) : State :=
  let l := ((passSurfaces p).zip b.pix).drop b.done.length
  let (did, a, s) := storeAll p (passRq p b.core.val) b.tile l [] s
  let s := if p.direct then sigDropSurfaces p.ctx (((l.map (·.1)).zip did).filterMap fun x => if x.2.touched then some x.1 else none) s else s
  let all := b.done ++ did.map fun x => (x.written, x.skipped)
  match a with
  | .ok =>
    let w := all.any (·.1)
    let k := all.any (·.2)
    let fin' := !p.partialNow && !p.direct
    let s := updPass p.id (fun x => { x with
      bufs := dropBuf b.tile x.bufs, stored := if p.partialNow && !x.stored.contains b.tile then x.stored ++ [b.tile] else x.stored
      tilesStored := x.tilesStored + b2n (fin' && w), tilesSkipped := x.tilesSkipped + b2n (fin' && !w && k) }) s
    if p.todo.isEmpty && (dropBuf b.tile p.bufs).isEmpty then endRender p.id s else s
  | .fail st => failPass p.id st 0 s
  | .stall => updPass p.id (fun x => { x with bufs := updWhere (·.tile == b.tile) (fun y => { y with done := all.dropLast }) x.bufs }) s

/-! ### Tile shading (R285, R286, R297-R299, R315) -/

/-- Buffers of a pass on a core, the older first. -/
def bufsOn (p : Pass) (k : Nat) : List TileBuf := p.bufs.filter (·.core.val == k)

/-- Does another pass keep a core: it has a tile there (R286), or is a direct draw within a primitive (R315)? -/
def keptBy (x : Pass) (k : Nat) : Bool := !(bufsOn x k).isEmpty || x.held.any (·.val == k)

/-- Does a claim keep tile work of a pass from a core (15 R509, 19 R622)? A core that a self-test has claimed finishes what has begun there,
`begun` (R315). -/
def claimBars (s : State) (p : Pass) (k : Nat) (begun : Bool) : Bool :=
  match (coreOf s k).claim with
  | none => false
  | some .bist => !begun
  | some (.cmd c) => p.cmd != some c && passTier s p == 2

/-- The lowest core of TILECORES with a free tile buffer. -/
def tileCore (p : Pass) (s : State) : Option Nat :=
  (setBits p.tilecores).find? fun k => !(claimBars s p k (p.held.any (·.val == k))) && reserved s p.id k && decide ((bufsOn p k).length < 2) &&
    !(s.gx.passes.any fun x => x.id != p.id && keptBy x k)

/-- The next tile goes to core `k`: its attachments are loaded. -/
def takeTile (p : Pass) (k : Nat) (s : State) : State :=
  match p.todo with
  | [] => s
  | t :: r =>
    match loadAll p (passRq p k) t (passSurfaces p) s with
    | (.ok l, s) =>
      updPass p.id (fun x => { x with
        todo := r, bufs := x.bufs ++ [{ tile := t, core := fin' 31 k, pix := l, prims := tileWork p t }]
        held := if x.direct && !(x.held.any (·.val == k)) then x.held ++ [fin' 31 k] else x.held }) s
    | (.trap st, s) => failPass p.id st 0 s
    | (.stall, s) => s

def depthAt (pr : Prim) (x y : Nat) : W32 :=
  gInterp (pr.corners.map (·.2.2.1)) (pr.corners.map (·.2.2.2.1)) (baryAt pr x y) false
def attrAt (dr : DrawState) (pr : Prim) (a x y : Nat) : W32 :=
  gInterp (pr.corners.map fun k => chan k.2.2.2.2 a) (pr.corners.map (·.2.2.2.1)) (baryAt pr x y) (!(bit dr.interp a))

/-- The job of group `g` of a primitive in a tile. -/
def tileJob (p : Pass) (t k g : Nat) (pr : Prim) : TileJob :=
  let qs := ((tileQuads p pr t).drop (8 * g)).take 8
  let px := qs.flatMap fun q => [(q.1, q.2), (q.1 + 1, q.2), (q.1, q.2 + 1), (q.1 + 1, q.2 + 1)]
  { tile := t, draw := k, px := px, cover := maskOf 32 ((List.range px.length).filter fun l => let q := px.getD l (0, 0); pixelIn p pr q.1 q.2)
    depth := px.map fun q => depthAt pr q.1 q.2 }

/-- Inputs of a tile-shading group (Table 8.9). -/
def shadeInputs (p : Pass) (pr : Prim) (j : TileJob) (g : Group) : Group :=
  let dr := drawOf p pr.draw
  let q (l : Nat) : Nat × Nat := j.px.getD l (0, 0)
  let has (l : Nat) : Bool := decide (l < j.px.length)
  let v (f : Nat → W32) (z : Bool) (r : Nat) (g : Group) : Group := wrV r allLanes (fun l => if has l then (f l, z) else (0, false)) g
  let g := v (fun l => BitVec.ofNat 32 ((q l).1 + 65536 * (q l).2)) false 0 g
  let g := v (fun l => j.depth.getD l 0) false 1 g
  let g := wrV 2 allLanes (fun _ => (BitVec.ofNat 32 pr.index, false)) g
  let g := wrV 3 allLanes (fun _ => (BitVec.ofNat 32 (b2n pr.front), false)) g
  let g := (List.range dr.nattr).foldl (fun g a => v (fun l => attrAt dr pr a (q l).1 (q l).2) (pr.poison.getD a false) (4 + a) g) g
  let g := wrP 7 allLanes (fun _ => (false, false)) g
  let g := wrU 0 (BitVec.ofNat 32 pr.draw, false) (wrU 1 (BitVec.ofNat 32 j.tile, false) g)
  { g with active := j.cover }

/-- Is a group of a tile on its core? -/
def tileBusy (s : State) (p : Pass) (t : Nat) : Bool := s.ex.blocks.any fun x => x.owner == .tile p.id && (x.tile.map (·.tile)) == some t

/-- Launch the next group of a buffer's tile, if its core can take it; none where it cannot. -/
def launchTile (p : Pass) (b : TileBuf) (s : State) : Option State :=
  match b.prims with
  | [] => none
  | (k, n) :: r =>
    if tileBusy s p b.tile then none else
    match p.prims[k]? with
    | none => none
    | some pr =>
      let dr := drawOf p pr.draw
      match findCode s dr.code with
      | none => none
      | some cd =>
        let lm := (cd.lmSize + 1023) / 1024 * 1024
        let regs := codeRegs s dr.code
        if claimBars s p b.core true || !(coreFits s b.core 1 regs lm) || ((p.cmd.bind (findCmd s)).any (jobWaits s)) then none else
        let j := tileJob p b.tile pr.draw n pr
        let tier := passTier s p
        let id := s.ex.nextObj
        let s := placeBlock b.core 1 regs lm cd.entry (tier == 0)
          { id := 0, owner := .tile p.id, ctx := p.ctx, part := p.part, tier := tier, share := (queueOf s p.q).share, index := n, nblock := 1, core := 0, lmBase := 0, lmSize := 0
            code := dr.code, cluster := none, rank := 0, bank0 := dr.bank0, banks := dr.banks, texs := dr.texs, tile := some j } s
        let s := updGrp (id + 1) (shadeInputs p pr j) s
        let s := match p.cmd with | some c => updCmd c (fun y => { y with dispatched := true }) s | none => s
        some (updPass p.id (fun x => { x with bufs := updWhere (·.tile == b.tile) (fun y => { y with prims := r }) x.bufs }) s)

/-- The buffers that are shaded: the older one of each core. -/
def shadeBufs (p : Pass) : List TileBuf := p.bufs.filter fun b => ((bufsOn p b.core).head?.map (·.tile)) == some b.tile

def firstSome {α β : Type} (f : α → Option β) : List α → Option β
  | [] => none
  | a :: r => match f a with | some b => some b | none => firstSome f r

/-- Signature arrays are prepared before any tile is stored (R310). -/
def prepStep (p : Pass) (x : Surface) (s : State) : State :=
  match sigPrepare p x { who := p.cmd.map .cmd } s with
  | (.ok, s) => updPass p.id (fun y => { y with prep := y.prep.drop 1 }) s
  | (.fail st, s) => failPass p.id st 0 s
  | (.stall, s) => s

/-- One dispatch of a pass: prepare a signature array, store a finished tile, launch the next group of a tile, take a tile, or end. None
where nothing can be done: the command waits for a fault's answer, or its transfers for the regulators. -/
def tileDispatch (p : Pass) (s : State) : Option State :=
  let waits := (p.cmd.map (faultWaits s)).getD false
  match p.prep with
  | x :: _ => if waits then none else some (prepStep p x s)
  | [] =>
    let moves := !waits && !(bulkEmpty p.part s)
    match (if moves then p.bufs.find? fun b => b.prims.isEmpty && !(tileBusy s p b.tile) else none) with
    | some b => some (finishTile p b s)
    | none =>
      match firstSome (fun b => launchTile p b s) (shadeBufs p) with
      | some s => some s
      | none =>
        if p.todo.isEmpty then (if p.bufs.isEmpty then some (endRender p.id s) else none)
        else if moves then (tileCore p s).map fun k => takeTile p k s
        else none

/-! ### Depth test and blending (Tables 8.7, 8.8) -/

def depthPass (code : Nat) (new old : W32) : Bool :=
  let x := decodeF fp32 new.toNat
  let y := decodeF fp32 old.toNat
  let un := isNan x || isNan y
  let o := cmpFV x y
  match code with
  | 0 => true
  | 1 => !un && decide (o < 0)
  | 2 => !un && decide (o ≤ 0)
  | 3 => !un && decide (0 < o)
  | 4 => !un && decide (0 ≤ o)
  | 5 => !un && decide (o = 0)
  | _ => false

def f32 (op : Nat) (a b : W32) : W32 := BitVec.ofNat 32 (fpOp fp32 op 0 a.toNat b.toNat 0)

/-- Blend in FP32 with s the output and d the stored value; the products and sums are rounded one by one (DESIGN CHOICE, unsafe, log 19). -/
def blend (code : Nat) (s d : List W32) : List W32 :=
  let a := chan s 3
  let inv := f32 1 one32 a
  match code with
  | 0 => s
  | 1 => (List.range 4).map fun i => f32 0 (chan s i) (f32 2 (chan d i) inv)
  | 2 => (List.range 4).map fun i => f32 0 (if i = 3 then a else f32 2 (chan s i) a) (f32 2 (chan d i) inv)
  | 3 => (List.range 4).map fun i => f32 0 (chan s i) (chan d i)
  | 4 => (List.range 4).map fun i => f32 2 (chan s i) (chan d i)
  | _ => d

/-- The new pixels of the attachments where a lane's outputs are written (R299). -/
def shadePixel (p : Pass) (dr : DrawState) (j : TileJob) (pix : List Pix) (o : Fin 32 × List (W32 × Bool) × Bool) : List Pix :=
  let l := o.1.val
  let q := j.px.getD l (0, 0)
  let i := q.2 % 32 * 32 + q.1 % 32
  let nc := p.colours.length
  let z := j.depth.getD l 0
  let test := if p.direct || p.depth.isNone then 0 else dr.depth.toNat % 8
  let old := ((pix.getD nc []).getD i (0, false)).1
  if !(depthPass test z (BitVec.ofNat 32 old.toNat)) then pix
  else
    let cols := (List.range nc).map fun k =>
      let x := p.colours.getD k {}
      let px := pix.getD k []
      let (dv, dz) := px.getD i (0, false)
      let n := p.slots.getD k k
      let src := (List.range 4).map fun c => o.2.1.getD (4 * n + c) (0, false)
      let code := (dr.blend.getD n 0).toNat
      if code = 5 then px
      else
        let v := encodePixel x.format.toNat (blend code (src.map (·.1)) (decodePixel x.format.toNat dv.toNat))
        px.set i (BitVec.ofNat 64 v, src.any (·.2) || (code != 0 && dz))
    let dep := (pix.drop nc).map fun px => if !p.direct && bit dr.depth 3 then px.set i (BitVec.ofNat 64 z.toNat, false) else px
    cols ++ dep

/-- A tile-shading group has ended: its covered, undiscarded lanes are tested and blended; a tile with no primitive left is
stored. -/
def tileGroupEnd (pid : Nat) (j : TileJob) (s : State) : State :=
  match s.gx.passes.find? (·.id == pid) with
  | none => s
  | some p =>
    match p.bufs.find? (·.tile == j.tile) with
    | none => s
    | some b =>
      let lanes := j.outs.filter fun o => bit j.cover o.1.val && !o.2.2
      let b := { b with pix := lanes.foldl (shadePixel p (drawOf p j.draw) j) b.pix }
      let bs := updWhere (·.tile == j.tile) (fun _ => b) p.bufs
      let s := updPass pid (fun x => { x with bufs := bs }) s
      if b.prims.isEmpty && !(bulkEmpty p.part s) then finishTile { p with bufs := bs } b s else s

/-! ### DRAW, END, DIRECT_DRAW -/

/-- The state block of a draw, its code object and its bindings, with the checks of R290 and Table 8.9; poison in the last 64 bytes is
its caller's. -/
def readDrawHead (w : Who) (p : Pkt) (direct : Bool) (ncol : Nat) (code : Nat → Nat → Option Nat → State → Rd Code × State) (s : State) :
    Rd (PB × Code × Bound) × State :=
  match readVa w.ctx (dq p 8) 128 .load (gfeRq w) s with
  | (_, .fail st, s) => (.fail st 0, s)
  | (_, .stall, s) => (.stall, s)
  | (pb, .ok, s) =>
    let d := dataOf pb
    if anyPoison (pb.take 64) then (.fail St.poisonPacket 0, s)
    else if !(drawStateOk direct d ncol (fld (dw p 14) 24 0) (dq p 12 != 0)) then (.fail 0x0143 0, s)
    else match code (dq p 16) (fld (dw p 18) 8 0) none s with
      | (.ok cd, s) =>
        if !cd.tile || decide (cd.vregs < shaderRegs (leAt d 2 1) ncol) then (.fail 0x0143 0, s)
        else match w.bind cd (fld (dw p 18) 22 16) (dq p 20) s with
          | (.ok b, s) => (.ok (pb, cd, b), s)
          | (.fail st o, s) => (.fail st o, s)
          | (.stall, s) => (.stall, s)
      | (.fail st o, s) => (.fail st o, s)
      | (.stall, s) => (.stall, s)

/-- What DRAW and DIRECT_DRAW read: draw state, code, bindings, transformed primitives (R275, R288-R291). -/
def readDraw (c : Cmd) (direct : Bool) (ncol drawNo : Nat) (s : State) (k : List Byte → Code → Bound → List Prim → State → Go × State) : Go × State :=
  let p := c.pkt
  let w := c.who
  let cnt := fld (dw p 14) 24 0
  let part := fin' 7 (cmdPart s c)
  let charge (va n : Nat) (s : State) : State := chargeVa none part (fin' 63 w.ctx) va n s
  if bulkEmpty part s then (.blocked, s) else
  codeRun c.id (readDrawHead w p direct ncol c.code s) fun h s =>
    let d := dataOf h.1
    if anyPoison (h.1.drop 64) then (.ended St.poisonGeometry, s)
    else
      let strip := leAt d 0 1 == 1
      Rd.run (indexList w (leAt d 3 1) (dq p 12) cnt strip s) fun ix s =>
        let tris := if strip then stripTris false ix else listTris ix
        let flat := tris.flatten
        Rd.run (readVertices w (dq p 10) (leAt d 12 2) (leAt d 1 1) (leAt d 2 1) flat s) fun vs s =>
          let s := charge (dq p 10) (leAt d 12 2 * cnt) (charge (dq p 12) (cnt * (2 * leAt d 3 1)) (charge (dq p 8) 128 s))
          let prims := (List.range tris.length).flatMap fun i => triPrims d drawNo i ((vs.drop (3 * i)).take 3)
          k d h.2.1 h.2.2 prims s

/-- The draw state kept for shading. -/
def mkDraw (d : List Byte) (code : Nat) (cb : List Byte) (b : Bound) : DrawState :=
  { code := code, bank0 := sliceB cb 0 256, banks := b.banks, texs := b.texs, nattr := leAt d 2 1, depth := BitVec.ofNat 8 (leAt d 5 1)
    interp := BitVec.ofNat 16 (leAt d 6 2), blend := sliceB d 8 4, scissor := (List.range 4).map fun i => leAt d (0x10 + 2 * i) 2 }

/-- DRAW. -/
def startDraw (c : Cmd) (s : State) : Go × State :=
  match openPass s c.q with
  | none => (.ended 0x0140, s)
  | some p =>
    if p.phase != .binning then (if p.failed != 0 then (.ended p.failed, s) else (.blocked, s))
    else if 65536 ≤ p.draws.length then (.ended 0x0140, s)
    else
      let r := readDraw c false p.colours.length p.draws.length s fun d cd b prims s =>
        let (k, s) := install cd s
        let dr := mkDraw d k ((slotBytes c.pkt 2).take (fld (dw c.pkt 18) 8 0)) b
        let s := updPass p.id (fun x => { x with draws := x.draws ++ [dr], toBin := prims, binFrom := 0, cmd := some c.id }) s
        let s := updCmd c.id (fun y => { y with phase := .running, work := .render p.id }) s
        (.running, binLoop p.id (some c.id) (binFuel s p.id) s)
      match r with
      | (.ended st, s) =>
        if st = St.poisonGeometry then (.ended st, freeAttachments p (updPass p.id (fun x => { x with failed := st, phase := .finished, bins := [], prims := [] }) s))
        else (.ended st, s)
      | x => x

/-- RENDER_PASS END (R273, R277, R295). -/
def startPassEnd (c : Cmd) (s : State) : Go × State :=
  match openPass s c.q with
  | none => (.ended 0x0140, s)
  | some p =>
    if p.failed != 0 then
      (.ended p.failed, setRes c.id [0, 0, BitVec.ofNat 32 p.partials, 0] (updGx (fun g => { g with passes := g.passes.filter (·.id != p.id) }) s))
    else if p.phase != .binning then (.blocked, s)
    else
      let s := updCmd c.id (fun y => { y with work := .render p.id }) s
      (.running, beginRender p.id (List.range (passTiles p)) false (some c.id) s)

/-- Attachments that a DIRECT_DRAW names, and the count of its outputs: an attachment keeps its number where an address before it is zero. -/
def directSlots (p : Pkt) : List Nat := (List.range 4).filter fun i => dq p (24 + 2 * i) != 0
def directCols (p : Pkt) : Nat := ((directSlots p).getLast?.map (· + 1)).getD 0

/-- The surfaces of a DIRECT_DRAW, with their checks (R286, R300). -/
def readTargets (w : Who) (p : Pkt) (s : State) : Rd (List Surface) × State :=
  match tileCoresBad s (ctxOf s w.ctx).part.val (dw p 22) with
  | some st => (.fail st 0, s)
  | none =>
    match readSurfaces w true ((directSlots p).map fun i => (dq p (24 + 2 * i), false)) s with
    | (.ok l, s) => (if sameSize l then .ok l else .fail 0x0141 0, s)
    | x => x

/-- DIRECT_DRAW (R273, R300, R301). -/
def startDirect (c : Cmd) (s : State) : Go × State :=
  let p := c.pkt
  let w := c.who
  if (openPass s c.q).isSome then (.ended 0x0140, s)
  else Rd.run (readTargets w p s) fun l s =>
    readDraw c true (directCols p) 0 s fun d cd b prims s =>
      let (k, s) := install cd s
      let dr := mkDraw d k ((slotBytes p 2).take (fld (dw p 18) 8 0)) b
      let x : Pass :=
        { id := s.ex.nextObj, q := c.q, ctx := fin' 63 w.ctx, part := fin' 7 (cmdPart s c), direct := true, tilecores := dw p 22, colours := l, depth := none
          draws := [dr], prims := prims, phase := .rendering, cmd := some c.id, slots := directSlots p }
      let x := { x with todo := match prims with | [] => [] | pr :: _ => primTiles x pr }
      if prims.isEmpty then (.ended St.success, s)
      else
        let s := updEx (fun e => { e with nextObj := e.nextObj + 1 }) (updGx (fun g => { g with passes := g.passes ++ [x] }) s)
        (.running, reserveTiles (updCmd c.id (fun y => { y with work := .render x.id }) s))

/-- A binner that waited for a fault's answer goes on. -/
def advanceDraws (s : State) : State :=
  s.gx.passes.foldl (fun s p => match p.cmd with
    | some c => if p.phase == .binning && !p.toBin.isEmpty && !(faultWaits s c) then binLoop p.id p.cmd (binFuel s p.id) s else s
    | none => s) s

/-- Does a pass drain after its command's timeout (R425)? -/
def passDrains (s : State) (p : Pass) : Bool := p.cmd.any fun c => (findCmd s c).any (·.drainEnd.isSome)

/-- May a pass's tile work go on: it waits for earlier direct draws of its queue, whose tiles must be stored before it loads them (R300). -/
def passTurn' (s : State) (p : Pass) : Bool :=
  p.phase == .rendering && !(passDrains s p) &&
  !(s.gx.passes.any fun x => x.direct && x.q == p.q && decide ((x.cmd.getD 0) < p.cmd.getD 0))

end Sys2Proof.Machine
end

