-- ==== Sys2Proof/Machine/Block.lean ====
section
/-! DEFINITION. Block.lean: BLOCK_DISPATCH: the next block of a partition, its core, and its placement (03 R81, R82, R107,
R132; 15 R508-R512, R531, R532). -/
namespace Sys2Proof.Machine

/-- What a dispatch may serve: a command with blocks left, or the tile work of a pass. -/
inductive Cand where
  | cmd (c : Cmd)
  | pass (p : Pass)
  deriving DecidableEq, Repr

def candCtx (x : Cand) : Nat := match x with | .cmd c => cmdCtx c | .pass p => p.ctx.val
def candTier (s : State) (x : Cand) : Nat := match x with | .cmd c => cmdTier s c | .pass p => passTier s p
def candShare (s : State) (x : Cand) : Nat := match x with | .cmd c => cmdShare s c | .pass p => passShare s p
def candId (x : Cand) : Nat := match x with | .cmd c => c.id | .pass p => p.cmd.getD p.id

/-- Source of R508 from 0, with the classes of source 3 spread by their place in the rotation after the holder. -/
def candSource (s : State) (part : Nat) (x : Cand) : Nat :=
  match candTier s x with
  | 0 => 0
  | 1 => 1
  | _ => match (partOf s part).turn with
    | some h => if h.val = candShare s x then 2 else 3 + (candShare s x + 15 - h.val) % 16
    | none => 3 + candShare s x

/-- Resident blocks of a context in a partition, parked ones included. -/
def ctxBlocks (s : State) (part ctx : Nat) : Nat := (s.ex.blocks.filter fun b => b.part.val == part && b.ctx.val == ctx).length

/-- The order of R508 and R532: source, fewest resident blocks, context, acceptance. -/
def candKey (s : State) (part : Nat) (x : Cand) : List Nat :=
  [candSource s part x, ctxBlocks s part (candCtx x), candCtx x, candId x]

def lexLt : List Nat → List Nat → Bool
  | a :: r, b :: t => decide (a < b) || (a == b && lexLt r t)
  | [], _ :: _ => true
  | _, [] => false

def insertCand (key : Cand → List Nat) (x : Cand) : List Cand → List Cand
  | [] => [x]
  | y :: r => if lexLt (key x) (key y) then x :: y :: r else y :: insertCand key x r

/-- Everything of a partition that has work to dispatch, in order. -/
def candidates (s : State) (part : Nat) : List Cand :=
  let cs := (s.ex.cmds.filter fun c => cmdPart s c == part && c.phase == .running && c.drainEnd.isNone && (nextNeeds c).isSome && !(jobWaits s c)).map Cand.cmd
  let ps := (s.gx.passes.filter fun p => p.part.val == part && passTurn' s p).map Cand.pass
  (cs ++ ps).foldr (insertCand (candKey s part)) []

/-- May a block of source `src` of command `c` go to core `k` now (R81, R132, R509, R622)? -/
def coreTakes (s : State) (c src groups regs lm k : Nat) : Bool :=
  (match (coreOf s k).claim with
   | none => true
   | some .bist => false
   | some (.cmd x) => x == c || decide (src ≤ 1)) &&
  !(tileWaits s k) && coreFits s k groups regs lm

/-- The better of two scored choices: larger A, then fewer groups, then lower number (R512). -/
def better (aff grp : Nat → Nat) (a b : Nat) : Bool :=
  decide (aff b < aff a) || (aff a == aff b && (decide (grp a < grp b) || (grp a == grp b && decide (a < b))))

def bestBy (aff grp : Nat → Nat) (l : List Nat) : Option Nat :=
  l.foldl (fun o x => match o with | none => some x | some y => if better aff grp x y then some x else some y) none

/-- The `n` best of a list, in rising order of number (R107). -/
def bestN (aff grp : Nat → Nat) : Nat → List Nat → List Nat
  | 0, _ => []
  | n + 1, l => match bestBy aff grp l with
    | none => []
    | some x => x :: bestN aff grp n (l.filter (· != x))

/-- Cores for the next block, or for the next cluster's blocks in rank order; empty where no core can take it. Where NBLOCK is no multiple of
CLUSTER the last cluster is the smaller (R107; DESIGN CHOICE, unsafe, log 109). -/
def chooseCores (s : State) (c : Cmd) (src : Nat) (d : Dispatching) : List Nat :=
  let part := cmdPart s c
  let regs := codeRegs s d.code
  let aff (k : Nat) : Nat := d.aff.getD k 0
  let grp (k : Nat) : Nat := (groupsOn s k).length
  let takes := coreTakes s c.id src d.groups regs d.lmSize
  if !d.bound.isEmpty then
    ((d.bound[d.next % d.bound.length]?).toList.map (·.val)).filter takes
  else if 2 ≤ d.cluster then
    let n := min d.cluster (d.nblock - d.next)
    let qs := (partQuads s part).filter fun q => decide (n ≤ ((quadCores q).filter takes).length)
    match bestBy (fun q => sumN ((quadCores q).map aff)) (fun q => sumN ((quadCores q).map grp)) qs with
    | none => []
    | some q => let pick := bestN aff grp n ((quadCores q).filter takes); (quadCores q).filter pick.contains
  else (bestBy aff grp ((partCores s part).filter takes)).toList

/-- Place the blocks of one dispatch, one per core, with ranks from 0. -/
def placeDispatch (c : Cmd) (d : Dispatching) : Nat → List Nat → State → State
  | _, [], s => s
  | rank, k :: r, s =>
    let tier := cmdTier s c
    let s := placeBlock k d.groups (codeRegs s d.code) d.lmSize (((findCode s d.code).map (·.entry)).getD 0) (tier == 0)
      { id := 0, owner := .cmd c.id, ctx := fin' 63 (cmdCtx c), part := fin' 7 (cmdPart s c), tier := tier, share := (queueOf s c.q).share, index := d.next + rank
        nblock := d.nblock, core := 0, lmBase := 0, lmSize := 0, code := d.code, cluster := if 2 ≤ d.cluster then some d.next else none
        rank := if 2 ≤ d.cluster then rank else 0, bank0 := d.bank0, banks := d.banks, texs := d.texs } s
    placeDispatch c d (rank + 1) r s

/-- A block of the command has been dispatched: its claim and its wait end (R509). -/
def dispatched (c n : Nat) (s : State) : State :=
  let s := updCmd c (fun y => { y with dispatched := true }) (setDispatch c (fun d => { d with next := d.next + n, noCoreSince := none }) s)
  updEx (fun e => { e with cores := e.cores.map fun k => if k.claim == some (.cmd c) then { k with claim := none } else k }) s

/-- Try the candidates in order; the first that can be served is. A command whose block finds no core begins its wait (R509). -/
def tryCands (part : Nat) : List Cand → State → State
  | [], s => s
  | .pass p :: r, s => match tileDispatch p s with
    | some s => s
    | none => tryCands part r s
  | .cmd c :: r, s =>
    match nextNeeds c with
    | none => tryCands part r s
    | some d =>
      match chooseCores s c (candSource s part (.cmd c)) d with
      | [] => tryCands part r (setDispatch c.id (fun d => if d.noCoreSince.isNone then { d with noCoreSince := some s.time } else d) s)
      | ks => dispatched c.id ks.length (placeDispatch c d 0 ks s)

/-- BLOCK_DISPATCH (R508, R512, R531, R532). -/
def execBlockDispatch (part : Fin 8) (s : State) : Res :=
  let s := reserveTiles (schedPart part s)
  if (partOf s part).en then fin (schedPart part (tryCands part (candidates s part) s)) else fin s

end Sys2Proof.Machine
end

