-- ==== Sys2Proof/Machine/Issue.lean ====
section
/-! DEFINITION. Issue.lean: what the instructions of a group share: issue checks, the end of a group, barriers, stalls, lane
accesses to local and device memory (03 R85, R91, R96, R102-R105, R108-R111, R118, R122; 04 R135, R142, R149; 14 R490; 17
R568-R572). -/
namespace Sys2Proof.Machine

/-! ### Issue -/

/-- Vector registers that the code object of a block declares. -/
def declRegs (s : State) (b : Block) : Nat := ((findCode s b.code).map (·.vregs)).getD 0

/-- NOP has no effect and no row of its own (04 R160; DESIGN CHOICE, unsafe, log 34): a group passes the NOPs of its TEXT when it issues its next
instruction. -/
def passNops (text : List W64) : Nat → Group → Group
  | 0, x => x
  | n + 1, x =>
    match text[x.pc / 8]? with
    | some w => if iCls w = 0 && iOp w = 0 && x.pc % 8 = 0 then passNops text n { x with pc := x.pc + iLen w } else x
    | none => x

/-- The group at its next instruction but NOP. -/
def atIssue (s : State) (b : Block) (x : Group) : Group :=
  match findCode s b.code with
  | some c => passNops c.text c.text.length x
  | none => x

/-- Vector registers that an instruction reads, as ranges: fields that it does not use name none (Tables 4.4-4.16). -/
def vecSrcs (w ext : W64) : List (Nat × Nat) :=
  let k (kind f n : Nat) : List (Nat × Nat) := if kind = 0 then [(f, n)] else []
  match iCls w with
  | 1 => k (iKa w) (iSa w) 1 ++ (if 2 ≤ arithSrcs (iOp w) then k (iKb w) (iSb w) 1 else []) ++ (if arithSrcs (iOp w) = 3 then k (iKc w) (iSc w) 1 else [])
  | 2 => k (iKa w) (iSa w) 1
  | 4 => if iOp w = 0 || iOp w = 2 then k (iKa w) (iSa w) 1 else []
  | 5 => k (iKa w) (iSa w) 1 ++ (if iOp w = 1 then [(iDst w, sizeRegs (iType w))] else [])
  | 6 => if iOp w = 2 then [] else k (iKa w) (iSa w) 2 ++ (if iOp w = 1 then [(iDst w, sizeRegs (iType w))] else [])
  | 7 => (iSa w, if bit w 59 then 3 else 2) :: (if fld w 61 60 = 0 then [] else k (iKc w) (iSc w) 1)
  | 8 => match iOp w with
    | 1 => [(iSa w, 8), (iSb w, 8), (iSc w, 8)] ++ (if iExt w then [(fld ext 7 0, 1), (fld ext 15 8, 1)] else [])
    | 2 => [(iDst w, 8)]
    | _ => []
  | 9 => if iOp w = 8 ∨ iOp w = 9 ∨ iOp w = 0xA then [] else (iSa w, 1) :: (if iOp w ≤ 3 then k (iKb w) (iSb w) 1 else [])
  | 11 =>
    let n := if atomWide (iType w) then 2 else 1
    k (iKa w) (iSa w) (if bit w 59 then 2 else 1) ++ k (iKb w) (iSb w) n ++ (if iOp w = 8 then k (iKc w) (iSc w) n else [])
  | 13 => [(iSa w, 5)]
  | _ => []

/-- Vector registers that an instruction writes. -/
def vecDst (w : W64) : List (Nat × Nat) :=
  match iCls w with
  | 1 => if iOp w = 0x10 then [] else [(iDst w, 1)]
  | 2 => [(iDst w, 1)]
  | 4 => if iOp w = 1 || iOp w = 4 then [] else [(iDst w, 1)]
  | 5 => if iOp w = 0 then [(iDst w, sizeRegs (iType w))] else []
  | 6 => if iOp w = 0 then [(iDst w, sizeRegs (iType w))] else []
  | 7 => if iOp w = 2 then [] else [(iDst w, if iType w = 0 then 4 else 2)]
  | 8 => if iOp w = 2 then [] else [(iDst w, 8)]
  | 9 => if iOp w = 8 || iOp w = 9 || iOp w = 0xB then [] else [(iDst w, 1)]
  | 11 => [(iDst w, if atomWide (iType w) then 2 else 1)]
  | _ => []

def inRegs (l : List (Nat × Nat)) (r : Nat) : Bool := l.any fun x => x.1 != 0xFF && decide (x.1 ≤ r) && decide (r < x.1 + x.2)

/-- Registers and lanes that a remote load or returning atomic has yet to write. -/
def reqWrites (r : RemoteReq) : List (Nat × Nat) :=
  let d := (r.dst.getD 0 0xFF).toNat
  let lanes : List Nat := (r.atom.map fun a => a.2.map (·.1)).getD [(r.dst.getD 1 0).toNat]
  if r.isStore || d == 0xFF then []
  else ((if 4 < (r.dst.getD 2 0).toNat then [d, d + 1] else [d]).flatMap fun k => lanes.map fun l => (k, l)).filter fun x => !(r.lost.contains x)

/-- Does a source of the instruction carry a pending write (R85)? -/
def hazard (s : State) (g : Nat) (w ext : W64) : Bool :=
  s.dom.reqs.any fun r => r.group == some g && (reqWrites r).any fun x => inRegs (vecSrcs w ext) x.1

/-- Lanes in which an instruction writes its destination: a matrix instruction in all of them (04 R155). -/
def writeMask (w : W64) (x : Group) : W32 := if iCls w = 8 then allLanes else execMask x w

/-- What the instruction writes, no earlier load of the group writes after it. -/
def loseWrites (w : W64) (x : Group) (s : State) : State :=
  let gone (y : Nat × Nat) : Bool := inRegs (vecDst w) y.1 && bit (writeMask w x) y.2
  { s with dom := { s.dom with reqs := updWhere (fun r => r.group == some x.id) (fun r => { r with lost := r.lost ++ (reqWrites r).filter gone }) s.dom.reqs } }

/-- Issue of one instruction by group `g` (R85, R142, Table 3.7; DESIGN CHOICE, unsafe, log 34): a group that is absent or not ready, or whose clock has stopped (21 R653), issues nothing (the
command names the group that R86 picks in its cycle: DEDUCED, unsafe, log 89);
a word that is not an assigned encoding of the named instruction traps with 0x0117, a poisoned guard with 0x0502. -/
def issue (cls : Nat) (ops : Nat → Bool) (g : Nat) (w ext : W64) (s : State) (f : Group → Block → State → State) : Res :=
  match findGrp s g with
  | none => fin s
  | some x =>
    match findBlk s x.blk with
    | none => fin s
    | some b =>
      let x := atIssue s b x
      let s := updGrp g (fun _ => x) s
      if x.wait != .ready || s.therm.thermN || hazard s g w ext then fin s
      else if iCls w != cls || !(ops (iOp w)) || !(wordOk (declRegs s b) w ext) then fin (trapG g 0x0117 s)
      else if (guardMask x w).2 then fin (trapG g 0x0502 s)
      else fin (f x b (loseWrites w x s))

/-- The pc after an instruction. -/
def next (w : W64) (g : Group) : Group := { g with pc := g.pc + iLen w }

/-- Put a group's new registers and pc. -/
def putG (g : Group) (s : State) : State := updGrp g.id (fun _ => g) s

/-! ### Barriers and the end of a group (R102-R105, R110, R111) -/

/-- Groups of every block of the cluster of `b`, or of `b` alone. -/
def clusterGroups (s : State) (b : Block) : List Group :=
  let ids : List Nat := match b.cluster with
    | none => [b.id]
    | some k => (s.ex.blocks.filter fun (x : Block) => x.cluster == some k && x.owner == b.owner).map (·.id)
  s.ex.groups.filter fun g => ids.contains g.blk

def wake (ids : List Nat) (s : State) : State :=
  updEx (fun e => { e with groups := updWhere (fun g => ids.contains g.id) (fun g => { g with wait := .ready }) e.groups }) s

/-- Barriers that every group has reached complete. That of a cluster is an acquire at CLUSTER scope: no core of the cluster keeps a far-read
line (R127, R128; DEDUCED, unsafe, log 112). -/
def releaseBars (b : Block) (s : State) : State :=
  let own := s.ex.groups.filter (·.blk == b.id)
  let s := if own.all (·.wait == .blockBar) then wake (own.map (·.id)) s else s
  let all := clusterGroups s b
  if all.all (·.wait == .clusterBar) then wake (all.map (·.id)) (all.foldl (fun s g => dropFar g.core s) s) else s

/-- A group has ended: its registers are free; with its last group the block, or the cluster, ends. -/
def endGroup (g : Group) (b : Block) (s : State) : State :=
  let s := updEx (fun e => { e with groups := e.groups.filter (·.id != g.id) }) s
  if blockLive s b.id then schedPart b.part (parkLate b.id (releaseBars b s))
  else
    let s := releaseBars b (dropBlocks (endedWith s b) s)
    schedPart b.part (match b.owner, b.tile with
      | .cmd c, _ => settleCmd c s
      | .tile p, some j => tileGroupEnd p j s
      | _, _ => s)

/-- The effect of JOIN with the top entry of the stack (R161). -/
def joinTop (t : DivEntry) (r : List DivEntry) (g : Group) : Group :=
  let e := t.elseMask &&& ~~~g.exited
  if !t.phase && e != 0 then { g with stack := { t with phase := true } :: r, active := e, pc := t.elsePc }
  else { g with active := t.mask &&& ~~~g.exited, stack := r, pc := t.joinPc + 8 }

/-- R162: while no lane is active, continue at the join; none when the group ends. -/
def rejoin : Nat → Group → Option Group
  | 0, _ => none
  | n + 1, g =>
    if g.active != 0 then some g
    else match g.stack with
      | [] => none
      | t :: r => rejoin n (joinTop t r g)

/-- Put a group whose active mask may have become empty. -/
def settleGroup (g : Group) (b : Block) (s : State) : State :=
  match rejoin (2 * g.stack.length + 2) g with
  | some g => putG g s
  | none => endGroup g b s

/-! ### Waiting -/

/-- The requester of a group's accesses. -/
def rqG (g : Group) : Rq := { who := some (.group g.id), eng := some g.core.val }

/-- A group whose access waits under STALL joins its entry's wait, or waits at its source for an entry (R488, R490). -/
def stallG (g : Group) (s : State) : State :=
  match s.mm.xl.pmt.find? fun e => e.reqs.any fun r => r.who == .group g.id with
  | some e => updGrp g.id (fun x => { x with wait := .stall e.idx }) s
  | none => if s.mm.xl.missq.any fun r => r.who == .group g.id then updGrp g.id (fun x => { x with wait := .stall 256 }) s else s

/-- Remote loads and returning atomics, or posted stores, of a group that are outstanding. -/
def remoteLoads (s : State) (g : Nat) : Bool := s.dom.reqs.any fun r => r.group == some g && !r.isStore
def remoteStores (s : State) (g : Nat) : Bool := s.dom.reqs.any fun r => r.group == some g && r.isStore

/-- Must a release, an acquire or a knot wait of the group wait: for its remote loads (R125, R126, R528), and at SYSTEM scope for the
acknowledgement of its posted remote stores (R569)? -/
def mustAwait (s : State) (g : Nat) (stores : Bool) : Bool := remoteLoads s g || (stores && remoteStores s g)

/-- The group waits for them and issues again. -/
def await (g : Group) (stores : Bool) (s : State) : State := updGrp g.id (fun x => { x with wait := .remote (b2n stores) }) s

/-- The owner of a group ends with a status that is no trap (R572). -/
def failOwner (g : Group) (st : Status) (s : State) : State :=
  match ((findBlk s g.blk).map (·.owner) : Option Owner) with
  | some (.cmd c) => finish c st (stepFailed c st (stopCmd c s))
  | some (.strand b _) => braidFault b st none s
  | some (.tile p) => failPass p st 0 (stopOwner (· == .tile p) s)
  | none => s

/-! ### Lane addresses -/

def lanesOf (m : W32) : List Nat := (List.range 32).filter fun l => bit m l

/-- Registers of an access and their bytes in a lane (R149): a short store takes the low bytes. -/
def laneData (g : Group) (r sz l : Nat) : PB :=
  let word (i : Nat) : PB := let v := if r = 0xFF then (0, false) else rdV g (r + i) l; (leBytes 4 v.1.toNat).map fun b => (b, v.2)
  ((List.range (sizeRegs sz)).flatMap word).take (sizeBytes sz)

/-- Register `i` of a loaded lane: sign or zero extension of short loads; a register is poisoned when a byte of it is. -/
def loadReg (sz : Nat) (sext : Bool) (bs : PB) (i : Nat) : PV :=
  let part := (bs.drop (4 * i)).take 4
  let v := leVal (dataOf part)
  let v := if sz ≤ 1 && sext then (sextNat (8 * sizeBytes sz) v % 2 ^ 32).toNat else v
  (BitVec.ofNat 32 v, anyPoison part)

/-- Write what lanes loaded. -/
def putLoads (r sz : Nat) (sext : Bool) (l : List (Nat × PB)) (g : Group) : Group :=
  wrVs r (sizeRegs sz) (maskOf 32 (l.map (·.1))) (fun i k => loadReg sz sext ((pairGet l k).getD []) i) g

/-! ### Local memory (R91, R108, R111) -/

/-- The block of a cluster rank. -/
def rankBlk (s : State) (b : Block) (r : Nat) : Option Block :=
  match b.cluster with
  | none => if r = 0 then some b else none
  | some k => s.ex.blocks.find? fun x => x.cluster == some k && x.owner == b.owner && x.rank == r

/-- Core and address in its LM of an access of `n` bytes at LM address `a`, or its trap: out of bounds before misaligned (DESIGN CHOICE,
unsafe, log 102). -/
def lmAddr (s : State) (b : Block) (a n : Nat) : Except Status (Nat × Nat) :=
  if 2 ^ 20 ≤ a then .error 0x0113
  else match rankBlk s b (a / 2 ^ 18) with
    | none => .error 0x0113
    | some x =>
      let o := a % 2 ^ 18
      if x.lmSize < o + n then .error 0x0113 else if o % n ≠ 0 then .error 0x0114 else .ok (x.core.val, x.lmBase + o)

/-- Places of all lanes, in lane order, or the first trap (DEDUCED, unsafe, log 35). -/
def lmLanes (s : State) (b : Block) (n : Nat) : List (Nat × Nat × Bool) → Except Status (List (Nat × Nat × Nat))
  | [] => .ok []
  | (l, a, p) :: r =>
    if p then .error 0x0501
    else match lmAddr s b a n with
      | .error st => .error st
      | .ok (c, x) => match lmLanes s b n r with
        | .error st => .error st
        | .ok ls => .ok ((l, c, x) :: ls)

/-- Store bytes with their marks, word by word (R96). -/
def lmStore (core a : Nat) (bs : PB) (s : State) : State :=
  if bs.length ≤ 4 then lmWrite core a (dataOf bs) (anyPoison bs) s
  else (List.range (bs.length / 4)).foldl (fun s i =>
    let p := (bs.drop (4 * i)).take 4
    lmWrite core (a + 4 * i) (dataOf p) (anyPoison p) s) s

/-! ### Device memory -/

/-- Where an access goes: none for a page of class ZERO. -/
abbrev LanePl := Option Place

/-- Translate every lane's access (lane, address, poisoned address), all before any is performed (DEDUCED, unsafe, log 35). -/
def devLanes (c n : Nat) (k : Access) (rq : Rq) : List (Nat × Nat × Bool) → State → LaneAns (List (Nat × LanePl)) × State
  | [], s => (.ok [], s)
  | (l, a, p) :: r, s =>
    if p then (.trap 0x0501, s)
    else if a % n ≠ 0 then (.trap 0x0114, s)
    else match xl c a k rq s with
      | (.fail st, s) => (.trap st, s)
      | (.stall, s) => (.stall, s)
      | (x, s) =>
        let pl : LanePl := match x with | .ok pl => some pl | _ => none
        (match devLanes c n k rq r s with
         | (.ok ls, s) => (.ok ((l, pl) :: ls), s)
         | (y, s) => (y, s))

/-- Bytes that a group's accesses move through its regulators. -/
def laneNeeds (core n : Nat) (l : List (Nat × LanePl)) : List Nat :=
  l.foldl (fun a x => match x.2 with | some pl => addNeeds a (bulkNeeds (some core) pl n) | none => a) [0, 0, 0]

/-- The command for which a block works, if any. -/
def ownerCmd (s : State) (o : Owner) : Option Nat :=
  match o with
  | .cmd c => some c
  | .tile p => (s.gx.passes.find? (·.id == p)).bind (·.cmd)
  | .strand _ _ => none

/-- A new remote request of a group (R568-R571). -/
def remoteAsk (g : Group) (b : Block) (va : Nat) (k' : Access) (dev off : Nat) (store : Bool) (dst : List Byte)
    (at' : Option (W64 × List (Nat × (Nat × Bool) × (Nat × Bool)))) (s : State) : State :=
  let k := routeLink s dev off
  let r : RemoteReq :=
    { id := s.dom.nextReq, link := fin' 3 k, dev := fin' 15 dev, isStore := store, va := BitVec.ofNat 64 va, kind := k', ctx := b.ctx, group := some g.id
      cmd := ownerCmd s b.owner, eng := some (fin' 45 g.core.val), braid := match b.owner with | .strand i _ => some i | _ => none, dst := dst, atom := at', issued := s.time }
  linkTx k { s with dom := { s.dom with reqs := s.dom.reqs ++ [r], nextReq := s.dom.nextReq + 1 } }
def remoteIssue (g : Group) (b : Block) (va : Nat) (k' : Access) (dev off : Nat) (store : Bool) (dst : List Byte) (s : State) : State :=
  remoteAsk g b va k' dev off store dst none s

/-- Requests of at most 8 bytes for a lane's remote load: register, lane, bytes, sign extension. -/
def remoteParts (r l sz : Nat) (sext : Bool) : List (List Byte) :=
  (List.range (if sz = 4 then 2 else 1)).map fun i =>
    [BitVec.ofNat 8 (if r = 0xFF then 0xFF else r + 2 * i), BitVec.ofNat 8 l, BitVec.ofNat 8 (min (sizeBytes sz) 8), BitVec.ofNat 8 (b2n sext)]

/-- Is any place of the lanes on a route that is down (R572)? -/
def lanesDown (s : State) (l : List (Nat × LanePl)) : Bool := l.any fun x => match x.2 with | some pl => routeDown s pl | none => false

/-- Accesses fail at issue on a route that is down: loads count as timeouts, stores as dropped, and the owner ends (R572). -/
def downAccess (g : Group) (store : Bool) (l : List (Nat × LanePl)) (s : State) : State :=
  let s := l.foldl (fun s x => match x.2.bind remoteDev with
    | some (d, o) => if routeDown s (x.2.getD (.peat 0)) then (if store then linkDrop (routeLink s d o) s else linkTimeout (routeLink s d o) s) else s
    | none => s) s
  failOwner g St.linkDown s

/-! ### Loads and stores through the far-read cache (R126, R130) -/

/-- A load's bytes from a place of this device or the host. -/
def loadFrom (g : Group) (b : Block) (va : Nat) (pl : Place) (n : Nat) (s : State) : PB × State :=
  readAs b.ctx va (rqG g) pl n s
def storeTo (g : Group) (b : Block) (pl : Place) (bs : PB) (s : State) : State := farStore g.core pl bs (writePlace (ctxFn s b.ctx) pl bs s)

/-- Does an acquire at this scope drop the core's far-read cache: at DEVICE and SYSTEM (R126), and at CLUSTER where the block's cluster spreads
over cores (R127; DEDUCED, unsafe, log 112)? -/
def scopeDrops (b : Block) (scope : Nat) : Bool := decide (2 ≤ scope) || (scope == 1 && b.cluster.isSome)
def farAcquire (w : W64) (b : Block) : Bool := bit w 60 && scopeDrops b (fld w 63 62)
/-- Does a store or atomic of this ORD release at all, and at SYSTEM scope? -/
def releases (w : W64) : Bool := bit w 61
def sysRelease (w : W64) : Bool := bit w 61 && fld w 63 62 == 3

/-- The acquire of a load or atomic drops the core's far-read cache (R126). -/
def acquireFar (w : W64) (g : Group) (b : Block) (s : State) : State := if farAcquire w b then dropFar g.core s else s
/-- An acquire that waits for remote loads or atomics completes with them, and drops the cache then. -/
def acquireLater (w : W64) (g : Group) (b : Block) (s : State) : State :=
  if farAcquire w b then
    { s with dom := { s.dom with reqs := updWhere (fun r => r.group == some g.id && !r.isStore) (fun r => { r with acq := true }) s.dom.reqs } }
  else s

/-- Perform loads: lanes with data now; remote lanes send requests. -/
def loadLanes (g : Group) (b : Block) (r sz : Nat) (sext : Bool) (ad : Nat → Nat) : List (Nat × LanePl) → State → List (Nat × PB) × State
  | [], s => ([], s)
  | (l, none) :: t, s => let (x, s) := loadLanes g b r sz sext ad t s; ((l, clean (List.replicate (sizeBytes sz) 0)) :: x, s)
  | (l, some (.remote d _ o)) :: t, s =>
    loadLanes g b r sz sext ad t ((remoteParts r l sz sext).foldl (fun s p => remoteIssue g b (ad l) .load d.val o.toNat false p s) s)
  | (l, some pl) :: t, s =>
    let (bs, s) := loadFrom g b (ad l) pl (sizeBytes sz) s
    let (x, s) := loadLanes g b r sz sext ad t s
    ((l, bs) :: x, s)

/-- Perform stores in the order given. -/
def storeLanes (g : Group) (b : Block) (data : Nat → PB) (ad : Nat → Nat) : List (Nat × LanePl) → State → State
  | [], s => s
  | (_, none) :: t, s => storeLanes g b data ad t s
  | (l, some (.remote d _ o)) :: t, s => storeLanes g b data ad t (remoteIssue g b (ad l) .store d.val o.toNat true [] s)
  | (l, some pl) :: t, s => storeLanes g b data ad t (storeTo g b pl (data l) s)

/-- The place of a store on this device. -/
def localPl (pl : LanePl) : Option Place := match pl with | some (.remote _ _ _) => none | p => p

/-- Take the elements of a list in an order that free values choose. -/
def freeOrder {α : Type} : Nat → List α → State → List α × State
  | 0, l, s => (l, s)
  | n + 1, l, s =>
    if l.length ≤ 1 then (l, s) else
    let (v, s) := s.draw
    let i := v.toNat % l.length
    let (r, s) := freeOrder n (l.eraseIdx i) s
    (l[i]?.toList ++ r, s)

/-- No rule orders the stores of one instruction to one place: where two elements share a key, free values choose the order (DESIGN CHOICE,
safe, log 37). -/
def anyOrder {α β : Type} [BEq β] (key : α → Option β) (l : List α) (s : State) : List α × State :=
  let ks := l.filterMap key
  if ks.eraseDups.length = ks.length then (l, s) else freeOrder l.length l s

/-- The stores of all lanes of `n` bytes each; where places coincide, a 16-byte store is two of 8 bytes (R123). -/
def laneStores (g : Group) (b : Block) (n : Nat) (data : Nat → PB) (ad : Nat → Nat) (ls : List (Nat × LanePl)) (s : State) : State :=
  let ks := ls.filterMap fun t => localPl t.2
  if ks.eraseDups.length = ks.length then storeLanes g b data ad ls s
  else
    let (l, s) := freeOrder ls.length ls s
    if n ≤ 8 then storeLanes g b data ad l s
    else
      let s := storeLanes g b (fun k => (data k).take 8) ad l s
      let (h, s) := freeOrder ls.length (ls.filter fun t => (localPl t.2).isSome) s
      storeLanes g b (fun k => (data k).drop 8) ad (h.map fun t => (t.1, t.2.map (placePlus · 8))) s

def isHost (pl : LanePl) : Bool := match pl with | some (.host _) => true | _ => false

/-- The address that a list of lane addresses gives a lane. -/
def laneVa (l : List (Nat × Nat × Bool)) (k : Nat) : Nat := ((pairGet l k).map (·.1)).getD 0

/-- Lane addresses of a device access: pair plus offset, modulo 2^64. -/
def devAddrs (g : Group) (w ext : W64) (ofs : Int) (m : W32) : List (Nat × Nat × Bool) :=
  (lanesOf m).map fun l => let a := rdSrc64 g (iKa w) (iSa w) l ext; (l, (((a.1 : Int) + ofs) % 2 ^ 64).toNat, a.2)
/-- Lane addresses of an LM access: register plus offset, modulo 2^32. -/
def lmAddrs (g : Group) (w ext : W64) (ofs : Int) (m : W32) : List (Nat × Nat × Bool) :=
  (lanesOf m).map fun l => let a := rdSrc g (iKa w) (iSa w) 0 l ext; (l, (((a.1.toNat : Int) + ofs) % 2 ^ 32).toNat, a.2)

end Sys2Proof.Machine
end

