-- ==== Sys2Proof/Machine/Access.lean ====
section
/-! DEFINITION. Access.lean: loads and stores of local and device memory and of constant banks (04 R148-R150; 03 R91-R93,
R96, R118, R122). -/
namespace Sys2Proof.Machine

/-- The signed byte offset of Table 4.7, and LDC's unsigned one. -/
def memOfs (w : W64) : Int := sextNat 16 (fld w 49 34)

/-- LDL. -/
def execLdl (g : Nat) (w ext : W64) (s : State) : Res :=
  issue 5 (· == 0) g w ext s fun x b s =>
    let n := sizeBytes (iType w)
    match lmLanes s b n (lmAddrs x w ext (memOfs w) (execMask x w)) with
    | .error st => trapG g st s
    | .ok ls => putG (next w (putLoads (iDst w) (iType w) (bit w 59) (ls.map fun t => (t.1, lmRead t.2.1 t.2.2 n s)) x)) (acquireFar w x b s)

/-- STL: lanes in ascending order, so that the highest lane's value stands (R92); a release waits as R125 and R569 say. -/
def execStl (g : Nat) (w ext : W64) (s : State) : Res :=
  issue 5 (· == 1) g w ext s fun x b s =>
    let n := sizeBytes (iType w)
    if releases w && mustAwait s g (sysRelease w) then await x (sysRelease w) s else
    match lmLanes s b n (lmAddrs x w ext (memOfs w) (execMask x w)) with
    | .error st => trapG g st s
    | .ok ls => putG (next w x) (ls.foldl (fun s t => lmStore t.2.1 t.2.2 (laneData x (iDst w) (iType w) t.1) s) s)

/-- The end of a load of a group: registers written. Remote parts come later; an acquire awaits them (R126). -/
def loadDone (w : W64) (r sz : Nat) (sext : Bool) (l : List (Nat × PB)) (x : Group) (b : Block) (s : State) : State :=
  let y := next w (putLoads r sz sext l x)
  acquireLater w x b (putG (if bit w 60 && remoteLoads s x.id then { y with wait := .remote 0 } else y) s)

/-- LDG. -/
def execLdg (g : Nat) (w ext : W64) (s : State) : Res :=
  issue 6 (· == 0) g w ext s fun x b s =>
    let n := sizeBytes (iType w)
    let ads := devAddrs x w ext (memOfs w) (execMask x w)
    match devLanes b.ctx n .load (rqG x) ads s with
    | (.trap st, s) => trapG g st s
    | (.stall, s) => stallG x s
    | (.ok ls, s) =>
      if lanesDown s ls then
        let m := maskOf 32 (ls.map (·.1))
        downAccess x false ls (putG (next w (wrVs (iDst w) (sizeRegs (iType w)) m (fun _ _ => (0, true)) x)) s)
      else match bulk b.part (laneNeeds x.core n ls) s with
        | none => s
        | some s =>
          let (l, s) := loadLanes x b (iDst w) (iType w) (bit w 59) (laneVa ads) ls (acquireFar w x b s)
          loadDone w (iDst w) (iType w) (bit w 59) l x b s

/-- STG: a poisoned value for host memory traps with 0x0504 (Table 3.4). -/
def execStg (g : Nat) (w ext : W64) (s : State) : Res :=
  issue 6 (· == 1) g w ext s fun x b s =>
    let n := sizeBytes (iType w)
    if releases w && mustAwait s g (sysRelease w) then await x (sysRelease w) s
    else match devLanes b.ctx n .store (rqG x) (devAddrs x w ext (memOfs w) (execMask x w)) s with
    | (.trap st, s) => trapG g st s
    | (.stall, s) => stallG x s
    | (.ok ls, s) =>
      let data (l : Nat) : PB := laneData x (iDst w) (iType w) l
      if ls.any fun t => isHost t.2 && anyPoison (data t.1) then trapG g St.poisonHost s
      else if lanesDown s ls then downAccess x true ls (putG (next w x) s)
      else match bulk b.part (laneNeeds x.core n ls) s with
        | none => s
        | some s => putG (next w x) (laneStores x b n data (laneVa (devAddrs x w ext (memOfs w) (execMask x w))) ls s)

/-- What LDC reads: bytes with marks, or a stop. -/
def bankRead (x : Group) (b : Block) (bank o n : Nat) (s : State) : LaneAns PB × State :=
  let held (bs : List Byte) : PB := clean (sliceB bs o n)
  match bank with
  | 0 => (.ok (held b.bank0), s)
  | 1 => (.ok (held (((findCode s b.code).map (·.const)).getD [])), s)
  | k + 2 =>
    match b.banks[k]? with
    | none => (.ok (clean (List.replicate n 0)), s)
    | some (a, size, bs) =>
      if !bs.isEmpty then (.ok (held bs), s)
      else if size ≤ o then (.ok (clean (List.replicate n 0)), s)
      else if (a + o) % n ≠ 0 then (.trap 0x0114, s)
      else
        let m := min n (size - o)
        match readVa b.ctx (a + o) m .load (rqG x) s with
        | (d, .ok, s) => (.ok (d ++ clean (List.replicate (n - m) 0)), s)
        | (_, .fail st, s) => (.trap st, s)
        | (_, .stall, s) => (.stall, s)

/-- LDC (R150). -/
def execLdc (g : Nat) (w ext : W64) (s : State) : Res :=
  issue 6 (· == 2) g w ext s fun x b s =>
    let n := sizeBytes (iType w)
    let o := fld w 49 34
    if o % n ≠ 0 then trapG g 0x0114 s
    else match bankRead x b (iSa w) o n s with
      | (.trap st, s) => trapG g st s
      | (.stall, s) => stallG x s
      | (.ok bs, s) =>
        let y := wrU (iDst w) (loadReg 2 false bs 0) x
        putG (next w (if n = 8 then wrU (iDst w + 1) (loadReg 3 false bs 1) y else y)) s

end Sys2Proof.Machine
end

