-- ==== Sys2Proof/Machine/Atomic.lean ====
section
/-! DEFINITION. Atomic.lean: ATOM as an instruction of a group (04 R166, R167; 03 R112-R117). -/
namespace Sys2Proof.Machine

def atomBytes (w : W64) : Nat := if atomWide (iType w) then 8 else 4

/-- The new value of a location (R115, R167); `c` is the comparison value of CAS. -/
def atomVal (op t : Nat) (old a c : Nat) : Nat :=
  let m := 2 ^ (if atomWide t then 64 else 32)
  let sg (v : Nat) : Int := if t = 1 then sextNat 32 v else if t = 4 then sextNat 64 v else (v : Int)
  match op with
  | 0 => (old + a) % m
  | 1 => fpOp fp32 0 0 old a 0
  | 2 => if t = 2 then fpOp fp32 4 0 old a 0 else if sg a < sg old then a else old
  | 3 => if t = 2 then fpOp fp32 5 0 old a 0 else if sg old < sg a then a else old
  | 4 => Nat.land old a
  | 5 => Nat.lor old a
  | 6 => Nat.xor old a
  | 7 => a
  | _ => if old = c then a else old

/-- The bytes a location takes and its mark, from what it held (R117). -/
def atomStep (w : W64) (old : PB) (a c : Nat × Bool) : PB :=
  let p := anyPoison old
  let v := leVal (dataOf old)
  let keep := p && iOp w != 7
  let n := if keep then v else atomVal (iOp w) (iType w) v a.1 c.1
  (leBytes (atomBytes w) n).map fun b => (b, a.2 || (iOp w == 8 && c.2) || keep)

/-- Operand of a lane: a register or pair, or an immediate. -/
def atomArg (w ext : W64) (g : Group) (k f l : Nat) : Nat × Bool :=
  if atomWide (iType w) then rdSrc64 g k f l ext else let v := rdSrc g k f 0 l ext; (v.1.toNat, v.2)

/-- Is the order in which lanes combine unspecified (R115)? -/
def atomFree (w : W64) : Bool := iType w == 2 && (iOp w == 1 || iOp w == 2 || iOp w == 3)

/-- Lanes in the order of combination: ascending (R114, R116), or free (R115). -/
def atomOrder {α : Type} (w : W64) (l : List α) (s : State) : List α × State := if atomFree w then freeOrder l.length l s else (l, s)

/-- LM lanes one after another: what each lane receives. -/
def atomLm (w ext : W64) (g : Group) : List (Nat × Nat × Nat) → State → List (Nat × PB) × State
  | [], s => ([], s)
  | (l, core, a) :: r, s =>
    let old := lmRead core a (atomBytes w) s
    let s := lmStore core a (atomStep w old (atomArg w ext g (iKb w) (iSb w) l) (atomArg w ext g (iKc w) (iSc w) l)) s
    let (x, s) := atomLm w ext g r s
    ((l, old) :: x, s)

/-- Operand and comparison value of a lane. -/
abbrev AtomOp := Nat × (Nat × Bool) × (Nat × Bool)
def atomOp (w ext : W64) (g : Group) (l : Nat) : AtomOp := (l, atomArg w ext g (iKb w) (iSb w) l, atomArg w ext g (iKc w) (iSc w) l)

/-- Lanes applied to one location in order: what each receives, and what the location holds at the end (R114-R116). Operands are combined with
the location's value one by one, never among themselves first (DESIGN CHOICE, unsafe, log 109). -/
def atomFold (w : W64) : List AtomOp → PB → List (Nat × PB) × PB
  | [], old => ([], old)
  | (l, a, c) :: r, old =>
    let (x, e) := atomFold w r (atomStep w old a c)
    ((l, old) :: x, e)

/-- Do lanes that address one location combine into one operation (R113)? -/
def combines (w : W64) : Bool := decide (iOp w ≤ 6)

/-- Device lanes, location by location; a remote location takes one request, answered like a load where DST takes the old value. -/
def atomDev (w ext : W64) (g : Group) (b : Block) (ad : Nat → Nat) : Nat → List (Nat × LanePl) → State → List (Nat × PB) × State
  | 0, _, s => ([], s)
  | _, [], s => ([], s)
  | n + 1, (l, pl) :: r, s =>
    let same (t : Nat × LanePl) : Bool := combines w && t.2 == pl
    let ops := ((l, pl) :: r.filter same).map fun t => atomOp w ext g t.1
    let (y, s) : List (Nat × PB) × State := match pl with
      | none => (ops.map fun o => (o.1, clean (List.replicate (atomBytes w) 0)), s)
      | some (.remote d _ o) =>
        let part := (remoteParts (iDst w) l (if atomWide (iType w) then 3 else 2) false).headD []
        ([], if iDst w = 0xFF then remoteIssue g b (ad l) .atomic d.val o.toNat true [] s
          else remoteAsk g b (ad l) .atomic d.val o.toNat false part (some (w, ops)) s)
      | some pl =>
        let (old, s) := readPlace (ctxFn s b.ctx) pl (atomBytes w) s
        let f := atomFold w ops old
        (f.1, storeTo g b pl f.2 s)
    let (x, s) := atomDev w ext g b ad n (r.filter fun t => !(same t)) s
    (y ++ x, s)

/-- Places that an atomic's requests address: each location once where lanes combine (R113). -/
def atomPlaces (w : W64) (ls : List (Nat × LanePl)) : List (Nat × LanePl) :=
  if combines w then (ls.map (·.2)).eraseDups.map fun pl => (0, pl) else ls

/-- Registers after an atomic; an acquire awaits what is remote (R126). -/
def atomDone (w : W64) (l : List (Nat × PB)) (x : Group) (b : Block) (s : State) : State :=
  let y := next w (putLoads (iDst w) (if atomWide (iType w) then 3 else 2) false l x)
  acquireLater w x b (putG (if fld w 61 60 % 2 = 1 && remoteLoads s x.id then { y with wait := .remote 0 } else y) s)

/-- Does a lane's page map to host memory, whatever it permits (R112)? Such an atomic traps before any translation (R481). -/
def hostPage (s : State) (b : Block) (l : Nat × Nat × Bool) : Bool :=
  match (translate b.ctx l.2.1 .load s).1 with
  | .ok _ pl => isHost (some pl)
  | .fault kind _ _ entry => kind == 1 && isHost (some (leafPlace entry 0))

/-- ATOM (R112-R117, R166): as a release and an acquire it waits, and drops the far-read cache, as R125, R126 and R569 say. -/
def execAtom (g : Nat) (w ext : W64) (s : State) : Res :=
  issue 11 (fun _ => true) g w ext s fun x b s =>
    let n := atomBytes w
    let m := execMask x w
    if releases w && mustAwait s g (sysRelease w) then await x (sysRelease w) s
    else if bit w 59 then
      let ads := devAddrs x w ext 0 m
      if (ads.all fun l => l.2.1 % n == 0 && !l.2.2) && ads.any (hostPage s b) then trapG g 0x0116 s else
      match devLanes b.ctx n .atomic (rqG x) ads s with
      | (.trap st, s) => trapG g st s
      | (.stall, s) => stallG x s
      | (.ok ls, s) =>
        if lanesDown s ls then
          downAccess x (iDst w == 0xFF) ls (putG (next w (wrVs (iDst w) (if n = 8 then 2 else 1) (maskOf 32 (ls.map (·.1))) (fun _ _ => (0, true)) x)) s)
        else match bulk b.part (laneNeeds x.core n (atomPlaces w ls)) s with
          | none => s
          | some s =>
            let (ls, s) := atomOrder w ls s
            let (l, s) := atomDev w ext x b (laneVa (devAddrs x w ext 0 m)) 32 ls (acquireFar w x b s)
            atomDone w l x b s
    else match lmLanes s b n (lmAddrs x w ext 0 m) with
      | .error st => trapG g st s
      | .ok ls =>
        let (ls, s) := atomOrder w ls s
        let (l, s) := atomLm w ext x ls s
        atomDone w l x b (acquireFar w x b s)

end Sys2Proof.Machine
end

