-- ==== Sys2Proof/Machine/Page.lean ====
section
/-! DEFINITION. Page.lean: the state page, its views, mirrors and publication (10 R346-R353, Tables 10.2-10.9; 11 R385,
R409-R411; 06 Table 6.10; 07 Table 7.5). -/
namespace Sys2Proof.Machine

/-- Is the firmware running (Table of BOOT_STATUS, STAGE 6)? -/
def fwOn (s : State) : Bool := s.boot.stage == 6

def lifeCode (l : Life) : Byte := match l with | .free => 0 | .live => 1 | .destroying => 2

/-- Opcodes whose packet makes a step of R376, or reads memory, at its acceptance (04 R174, 06 R204, 07 R266, 08 R275, R363, 16 R546). -/
def stepOpcodes : List Nat :=
  [0x20, 0x30, 0x31, 0x32, 0x38, 0x3A, 0x3B, 0x40, 0x42, 0x52, 0x60, 0x61, 0x62, 0x68, 0x6C, 0x70, 0xA8]

/-- Is the packet still to be accepted: a step that has not been made, its wait in the queue included (R376; DEDUCED, unsafe, log 87)? A
LAUNCH that waits for its job count has been read. -/
def unaccepted (c : Cmd) : Bool := c.phase == .waiting && c.parent.isNone && c.work == .single && stepOpcodes.contains (pktOpcode c.pkt)

/-- ACCEPTED of a queue. -/
def acceptedOf (s : State) (q : Nat) : W64 :=
  (queueOf s q).accepted - BitVec.ofNat 64 (s.ex.cmds.filter fun c => c.q.val == q && unaccepted c).length

/-- Table 10.4; a root queue, which belongs to no context, shows 0xFF (DEDUCED, unsafe, log 38). -/
def qRec (s : State) (i : Nat) : QRec :=
  let q := queueOf s i
  { state := lifeCode q.life, ctx := if q.life == .free then 0 else if q.root then 0xFF else BitVec.ofNat 8 q.ctx.val, flags := BitVec.ofNat 8 (b2n q.lost)
    lastStatus := q.lastStatus, lastTag := q.lastTag, accepted := acceptedOf s i, completed := q.completed, fetch := q.fetch }

/-- Queues of a context that are not FREE. -/
def ctxQueues (s : State) (c : Nat) : List Nat :=
  (List.range 256).filter fun q => let x := queueOf s q; x.life != .free && !x.root && x.ctx.val == c

/-- Table 10.5. -/
def cRec (s : State) (c : Nat) : CRec :=
  let x := ctxOf s c
  { state := lifeCode x.life, part := BitVec.ofNat 8 x.part.val, nqueue := BitVec.ofNat 16 (ctxQueues s c).length, abandoned := x.abandoned
    generation := x.generation, sigset := BitVec.ofNat 32 x.sigset.length, lastStatus := x.lastStatus }

def bStateCode (x : BState) : Nat :=
  match x with | .free => 0 | .defined => 1 | .running => 2 | .draining => 3 | .stopped => 4 | .faulted => 5

/-- Table 6.10. -/
def braidRec (s : State) (b : Nat) : List Byte :=
  let x := braidOf s b
  let t : Nat × TrapRep := x.trap.getD (0, { status := 0, engine := 0, quarter := 0, age := 0, pc := 0, mask := 0 })
  let res := if x.state == .free then 0 else resolved b s
  [BitVec.ofNat 8 (bStateCode x.state), BitVec.ofNat 8 x.ctx.val] ++ leBytes 2 x.flags.toNat ++ leBytes 4 0 ++ leBytes 8 x.admitted.toNat ++
  leBytes 8 res ++ leBytes 4 x.overrun.toNat ++ leBytes 4 x.deadlineMiss.toNat ++ leBytes 4 x.posted.toNat ++ leBytes 4 x.lates.toNat ++
  leBytes 4 x.refused.toNat ++ leBytes 4 x.satcount.toNat ++ leBytes 4 x.maxlat.toNat ++ leBytes 2 x.unresHigh ++ leBytes 2 x.status.toNat ++
  leBytes 8 x.knotBase ++ [BitVec.ofNat 8 t.1, t.2.engine, BitVec.ofNat 8 t.2.quarter.toNat, 0] ++ leBytes 4 t.2.age.toNat ++ leBytes 4 t.2.pc.toNat ++
  leBytes 4 t.2.mask.toNat ++ List.replicate 48 0

def mStateCode (x : MState) : Nat := match x with | .empty => 0 | .loading => 1 | .resident => 2 | .evicting => 3

/-- The model descriptor, 64 bytes (Table 7.5). -/
def modelDesc (s : State) (m : Nat) : List Byte :=
  let x := modelOf s m
  [BitVec.ofNat 8 (mStateCode x.state), x.residency, BitVec.ofNat 8 x.ctx.val, BitVec.ofNat 8 (b2n x.shared + 2 * b2n x.lm + 4 * b2n x.span)] ++
  leBytes 4 (modelUses m s) ++ leBytes 4 x.regions.toNat ++ leBytes 4 x.wframes.toNat ++ leBytes 8 x.wbase.toNat ++ leBytes 4 x.wsize.toNat ++
  leBytes 4 x.paramOfs.toNat ++ leBytes 4 x.paramSize.toNat ++ leBytes 4 x.kvTokBytes.toNat ++ leBytes 2 x.pageTokens.toNat ++ leBytes 2 x.maxPages.toNat ++
  leBytes 4 x.vocab.toNat ++ leBytes 4 x.actTokBytes.toNat ++ leBytes 2 x.stages.length ++ leBytes 2 x.devmask.toNat ++ leBytes 8 x.loadseq.toNat

/-- Table 10.7. -/
def graphRec (s : State) (g : Nat) : List Byte :=
  let x := tabD s.ob.graphs g {}
  let slot (k : Nat) : Option GVer := x.vers.find? (·.slot.val == k)
  let mask := (List.range 4).foldl (fun m k => m + (if (slot k).isSome then 2 ^ k else 0)) 0
  if !x.live && x.vers.isEmpty then List.replicate 32 0
  else
    [BitVec.ofNat 8 (b2n x.live), BitVec.ofNat 8 x.ctx.val, BitVec.ofNat 8 mask, BitVec.ofNat 8 x.curSlot.val] ++ leBytes 4 x.current ++
    ((List.range 4).flatMap fun k => leBytes 2 (min 0xFFFF (((slot k).map (·.launches)).getD 0))) ++ ((List.range 4).flatMap fun k => leBytes 4 (((slot k).map (·.ver)).getD 0))

/-- The snapshot record (Table 10.9). -/
def snapRec (s : State) : List Byte :=
  leBytes 8 s.snap.seq.toNat ++ leBytes 8 s.snap.lastTrig.toNat ++ leBytes 2 s.snap.lastStatus.toNat ++ List.replicate 14 0

def pwrCode (p : PState) : Nat := match p with | .run => 0 | .idle => 1 | .nap => 2 | .doze => 3 | .sleep => 4 | .dormant => 4

/-- The header (Table 10.3); FQ_OVERFLOW follows R496. -/
def pageHdr (s : State) : PageHdr :=
  let fq := s.mm.xl.fqWaited || s.mm.xl.pmt.any (fun e => !e.posted)
  { flags := BitVec.ofNat 32 (b2n fq + 2 * b2n s.pte.safeState + 4 * b2n s.snap.cur.isSome), pwrstate := BitVec.ofNat 8 (pwrCode s.pwr.state)
    knotStale := s.hi.knotStale, partials := s.hi.partials
    repeats := BitVec.ofNat 64 (s.gx.layers.toList.foldl (fun n l => n + l.repeats.toNat) 0)
    lateHits := BitVec.ofNat 64 (s.pte.axes.toList.foldl (fun n a => n + a.late.toNat) 0)
    faults := s.hi.faults, alarms := s.hi.alarmCnt, logDrops := s.hi.logDrops
    contexts := BitVec.ofNat 16 (s.ex.ctxs.toList.filter (·.life == .live)).length
    queues := BitVec.ofNat 16 (s.ex.queues.toList.filter (·.life == .live)).length }

/-- The partition a VF is bound to (R384). -/
def vfPart (s : State) (v : Nat) : Option Nat := (List.range 8).find? fun p => let x := partOf s p; x.en && x.vf.toNat == v

/-- The page as of now, with EPOCH and PUBTIME given. -/
def pageImage (epoch pub : W64) (s : State) : Page :=
  { epoch := epoch, pubtime := pub, layout := 1, hdr := pageHdr s, queues := Vector.ofFn fun i => qRec s i.val, ctxs := Vector.ofFn fun i => cRec s i.val
    braids := Vector.ofFn fun i => braidRec s i.val, models := Vector.ofFn fun i => (modelDesc s i.val).take 16
    graphs := Vector.ofFn fun i => graphRec s i.val, snap := snapRec s, vfs := Vector.ofFn fun i => (vfPart s i.val).map (fin' 7) }

/-! ### The page as bytes -/

def hdrBytes (p : Page) : List Byte :=
  let h := p.hdr
  leBytes 8 p.epoch.toNat ++ leBytes 8 p.pubtime.toNat ++ leBytes 4 h.flags.toNat ++ [h.pwrstate, p.layout, 0, 0] ++ leBytes 8 h.knotStale.toNat ++
  leBytes 8 h.partials.toNat ++ leBytes 8 h.repeats.toNat ++ leBytes 8 h.lateHits.toNat ++ leBytes 8 h.faults.toNat ++ leBytes 8 h.alarms.toNat ++
  leBytes 8 h.logDrops.toNat ++ leBytes 2 h.contexts.toNat ++ leBytes 2 h.queues.toNat

def qRecBytes (r : QRec) : List Byte :=
  [r.state, r.ctx, r.flags, 0] ++ leBytes 2 r.lastStatus.toNat ++ leBytes 2 r.lastTag.toNat ++ leBytes 8 r.accepted.toNat ++ leBytes 8 r.completed.toNat ++ leBytes 8 r.fetch.toNat

def cRecBytes (r : CRec) : List Byte :=
  [r.state, r.part] ++ leBytes 2 r.nqueue.toNat ++ leBytes 4 r.abandoned.toNat ++ leBytes 8 r.generation.toNat ++ leBytes 4 r.sigset.toNat ++ leBytes 2 r.lastStatus.toNat ++ List.replicate 10 0

/-- The records of the page: offset and bytes. -/
def pageSegs (p : Page) : List (Nat × List Byte) :=
  [(0, hdrBytes p)] ++ (List.range 256).map (fun q => (0x1000 + 32 * q, qRecBytes (tabD p.queues q {}))) ++
  (List.range 64).map (fun c => (0x3000 + 32 * c, cRecBytes (tabD p.ctxs c {}))) ++ (List.range 16).map (fun b => (0x3800 + 128 * b, tabD p.braids b [])) ++
  (List.range 1024).map (fun m => (0x4000 + 16 * m, tabD p.models m [])) ++ (List.range 256).map (fun g => (0x8000 + 32 * g, tabD p.graphs g [])) ++ [(0xA000, p.snap)]

/-- Is context `c` of the published page one of partition `part`? -/
def pageCtxIn (p : Page) (part c : Nat) : Bool := let r := tabD p.ctxs c {}; r.state != 0 && r.part.toNat == part

/-- May function `fn`, a VF of partition `part`, see the record at offset `o` (Table 11.2, state page view)? -/
def recSeen (part : Option Nat) (p : Page) (fn o : Nat) (bs : List Byte) : Bool :=
  if fn = 0 || o < 0x1000 then true
  else match part with
    | none => false
    | some part =>
      let own (i : Nat) : Bool := pageCtxIn p part (leAt bs i 1)
      if o < 0x3000 then (o - 0x1000) / 32 == 247 + fn || (leAt bs 0 1 != 0 && own 1)
      else if o < 0x3800 then pageCtxIn p part ((o - 0x3000) / 32)
      else if o < 0x4000 then leAt bs 0 1 != 0 && own 1
      else if o < 0x8000 then leAt bs 0 1 != 0 && own 2
      else if o < 0xA000 then leAt bs 0 1 != 0 && own 1
      else false

/-- The view of a function: the records it sees, zero bytes for the others. -/
def viewSegs (part : Option Nat) (p : Page) (fn : Nat) : List (Nat × List Byte) :=
  (pageSegs p).map fun x => if recSeen part p fn x.1 x.2 then x else (x.1, List.replicate x.2.length 0)

/-- One byte of a function's view. -/
def viewByte (s : State) (fn o : Nat) : Byte :=
  match (viewSegs (vfPart s (fn - 1)) s.hi.page fn).find? fun x => decide (x.1 ≤ o) && decide (o < x.1 + x.2.length) with
  | some x => x.2.getD (o - x.1) 0
  | none => 0

/-! ### Publication (R347, R409, R411) -/

/-- The partition of a function when a page was published: a binding that has changed since changes what the mirror shows (R409). -/
def pagePart (p : Page) (fn : Nat) : Option Nat := (tabD p.vfs (fn - 1) none).map (·.val)

/-- The mirror of a function repeats a publication: the whole view after enabling or dropped writes, else what changed. -/
def mirrorOne (old new : Page) (fn : Nat) (s : State) : State :=
  let f := tabD s.hi.funcs fn {}
  if !(bit f.mirror 0) then s
  else if !(busOn s fn) then updHi (fun h => { h with funcs := tabUpd h.funcs fn fun f => { f with mirrorWhole := true } }) s
  else
    let base := fld f.mirror 63 16 * 65536
    let segs := viewSegs (pagePart new fn) new fn
    let segs := if f.mirrorWhole then segs else ((segs.zip (viewSegs (pagePart old fn) old fn)).filter fun x => x.1 != x.2).map (·.1)
    let s := if f.mirrorWhole then hostWrite fn base (List.replicate 65536 0) s else s
    let s := segs.foldl (fun s x => hostWrite fn (base + x.1) x.2 s) s
    updHi (fun h => { h with funcs := tabUpd h.funcs fn fun f => { f with mirrorWhole := false } }) s

/-- Publish an epoch at once. -/
def publishNow (s : State) : State :=
  let old := s.hi.page
  let new := pageImage (old.epoch + 2) s.time s
  let s := updHi (fun h => { h with page := new }) (xlUpd (fun x => { x with fqWaited := false }) s)
  (List.range 9).foldl (fun s fn => mirrorOne old new fn s) s

/-- Publish an epoch; a snapshot holds it (R368). Only running firmware publishes (R348). -/
def publish (s : State) : State :=
  if !fwOn s then s else if holding s then hold .publish s else publishNow s

/-- EPOCH_PUBLICATION (R347). -/
def execEpochPublication (s : State) : Res := fin (publish s)

end Sys2Proof.Machine
end

