-- ==== Sys2Proof/Machine/Body.lean ====
section
/-! DEFINITION. Body.lean: the opcodes of Table 12.3 and what the CMP checks of a packet before its opcode's own chapter: its
framing (11 Table 11.5) and steps 1 and 2 of 12 R422; non-zero reserved fields fail with 0x0106 (00 R15, DEDUCED, unsafe, log 40). -/
namespace Sys2Proof.Machine

/-- The queue column of Table 12.3: Q, R or P. -/
inductive QCol where
  | q | r | p
  deriving DecidableEq, Repr

/-- The assigned opcodes with their queue column (Table 12.3). -/
def opcodes : List (Nat × QCol) :=
  [(0x00, .q), (0x01, .q), (0x10, .q), (0x11, .q), (0x12, .q), (0x13, .r), (0x18, .q), (0x20, .q), (0x30, .q), (0x31, .q), (0x32, .q), (0x38, .q), (0x39, .q), (0x3A, .q),
   (0x3B, .q), (0x40, .q), (0x41, .q), (0x42, .q), (0x43, .q), (0x50, .q), (0x51, .q), (0x52, .q), (0x60, .q), (0x61, .q), (0x62, .q), (0x68, .q), (0x6C, .q), (0x70, .p)] ++
  [(0x71, .q), (0x72, .p), (0x78, .q), (0x80, .p), (0x90, .q), (0x91, .p), (0x92, .p), (0x93, .r), (0xA0, .r), (0xA1, .r), (0xA2, .r), (0xA3, .r), (0xA8, .p), (0xB0, .p),
   (0xB1, .q), (0xB2, .q), (0xB3, .p), (0xC0, .r), (0xF0, .p), (0xF4, .r)]

def assigned (op : Nat) : Bool := opcodes.any (·.1 == op)
def opColumn (op : Nat) : QCol := ((opcodes.find? (·.1 == op)).map (·.2)).getD .q

/-! ### Fields -/

def allBits : Nat := 0xFFFFFFFF
def words (is : List Nat) : List (Nat × Nat) := is.map fun i => (i, allBits)

/-- The named bits of the words from DW8 on that an opcode's fixed slots carry (Tables 12.4-12.15). Of a register image they are
the register's own (02's tables), and a word that R439 ignores is whole. -/
def namedBits (p : Pkt) : List (Nat × Nat) :=
  match pktOpcode p with
  | 0x01 => (8, 0xFFFF00FF) :: words [10, 11, 12]
  | 0x10 =>
    let ws := if bit (dw p 11) 13 then [(12, 0xFFFFFFF)] else words [12, 13]
    (11, 0x3FFF) :: words [8, 9, 10] ++ ws
  | 0x11 => words [8, 9, 10]
  | 0x12 => words [8, 9, 10]
  | 0x13 => [(8, 0x3FFFF)]
  | 0x18 => (8, 0xF) :: words [9, 10, 11, 12, 13, 14, 16, 17]
  | 0x20 => [(10, 0xFFFFFF), (11, 0x73F), (13, 0x7F01FF)] ++ words [8, 9, 12, 14, 15]
  | 0x30 => (8, 0xF) :: words [10, 11]
  | 0x31 => [(8, 0xF)]
  | 0x32 => [(8, 0x7F)]
  | 0x38 => [(8, 0x703FF), (9, 0x3FF)] ++ words [10, 11, 12, 13]
  | 0x39 => [(8, 0x3FF)]
  | 0x3A => (8, 0x7F03FF) :: words [10, 11, 12, 13, 14]
  | 0x3B => (8, 0x83FF000F) :: words [10, 11]
  | 0x40 => (8, 0xFF) :: words [10, 11, 12]
  | 0x41 => [(8, 0xFF)]
  | 0x42 => (8, 0xFFFF) :: words [9, 10, 11]
  | 0x43 => [(8, 0xFF)]
  | 0x50 => words [8, 9, 10, 11]
  | 0x51 => words [8, 9, 10, 11]
  | 0x52 => words [8, 9, 10, 11]
  | 0x60 => if pktEnd p then [] else (9, 0xF) :: words ([8, 10, 11, 12] ++ (List.range 10).map (16 + ·))
  | 0x61 => [(14, 0x1FFFFFF), (18, 0x7F01FF)] ++ words [8, 9, 10, 11, 12, 13, 16, 17, 20, 21]
  | 0x62 => [(14, 0x1FFFFFF), (18, 0x7F01FF)] ++ words ([8, 9, 10, 11, 12, 13, 16, 17, 20, 21, 22] ++ (List.range 8).map (24 + ·))
  | 0x68 => [(8, 0x1F)]
  | 0x6C => (8, 0xFFFFFF) :: words [9, 10, 11, 16, 17, 18, 19, 20, 21, 22, 23]
  | 0x70 =>
    let tg := if bit (dw p 8) 5 then 0xFF else allBits
    [(8, 0x1FF), (9, 0x3FF), (10, 0xFF), (12, 0xFFFF), (13, 0xFFFFF), (18, tg)] ++ words ([11, 14, 16, 17] ++ (List.range 6).map (19 + ·))
  | 0x71 => [(8, 0x1FF)]
  | 0x72 => (9, 0xF) :: (10, 0x3FF) :: words [8, 11]
  | 0x78 => (8, 0x1F) :: words [10, 11, 12, 13, 14, 15]
  | 0x80 => words [8]
  | 0x90 => (8, 0xFFFF) :: words [10, 11, 12, 13, 14, 15]
  | 0x91 => (8, 0xF) :: words [9, 10, 11, 12]
  | 0x92 => (8, 0x3F) :: words [9, 10, 11, 12]
  | 0x93 => (8, 0x7F) :: words [10, 11]
  | 0xA0 => (8, 0x7) :: words [10, 11]
  | 0xA2 => (8, 0x3F1F1FF3) :: words [10, 11, 12, 13]
  | 0xA3 => [(8, 0xFF)]
  | 0xA8 => [(8, 0x30F07), (16, 0xFFFFFF)] ++ words [9, 10, 12, 13, 14, 15, 17]
  | 0xB0 => [(8, 0x3FF)]
  | 0xB1 => [(8, 0xFF)]
  | 0xB2 => words [8, 9, 10, 11, 12]
  | 0xC0 => [(8, 0x7FF)]
  | 0xF0 => [(8, 0x1)]
  | 0xF4 => words ((List.range 8).map (8 + ·) ++ [16, 17, 18])
  | _ => []

/-- Slots whose words are fields; constants, layer entries and hit records follow them. -/
def fixedSlots (p : Pkt) : Nat :=
  match pktOpcode p with
  | 0x20 => 1
  | 0x61 => 2
  | 0x62 => 2
  | 0x68 => 1
  | 0x71 => 1
  | _ => pktLength p

/-- CBSIZE of a packet with constants. -/
def cbSize (p : Pkt) : Nat := match pktOpcode p with | 0x20 => fld (dw p 13) 8 0 | _ => fld (dw p 18) 8 0

/-- Bytes past the payload in the slots that carry it. -/
def payloadBytes (p : Pkt) : Nat :=
  match pktOpcode p with
  | 0x20 => cbSize p
  | 0x61 => cbSize p
  | 0x62 => cbSize p
  | 0x71 => 32 * fld (dw p 8) 8 0
  | _ => 64 * (pktLength p - fixedSlots p)

/-- Reserved fields of prefix and body are zero. -/
def reservedOk (p : Pkt) : Bool :=
  let names := namedBits p
  let flags := fld (dw p 0) 23 17
  dw p 3 == 0 && (flags == 0 || (pktOpcode p == 0x60 && flags == 1)) && !(bit (dw p 7) 31) &&
  (List.range (16 * fixedSlots p - 8)).all (fun k =>
    let i := 8 + k
    let m := ((names.find? (·.1 == i)).map (·.2)).getD 0
    (dw p i).toNat &&& (allBits ^^^ m) == 0) &&
  ((wordsBytes (p.dws.drop (16 * fixedSlots p))).drop (payloadBytes p)).all (· == 0)

/-! ### LENGTH and ranges -/

/-- LENGTH of Table 12.3. -/
def lengthOk (p : Pkt) : Bool :=
  let n := pktLength p
  match pktOpcode p with
  | 0x18 => n == 1 || n == 2
  | 0x20 => n == 1 + (cbSize p + 63) / 64
  | 0x60 => n == (if pktEnd p then 1 else 2)
  | 0x61 => n == 2 + (cbSize p + 63) / 64
  | 0x62 => n == 2 + (cbSize p + 63) / 64
  | 0x68 => n == 1 + 2 * fld (dw p 8) 4 0
  | 0x6C => n == 2
  | 0x70 => n == 2
  | 0x71 => n == 1 + (fld (dw p 8) 8 0 + 1) / 2
  | 0xA8 => n == 2
  | 0xF4 => n == 2
  | _ => n == 1

/-- VA and NPAGES of the translation packets (R484, R485, R501). -/
def pageRangeOk (p : Pkt) : Bool :=
  let n := (dw p 10).toNat
  dq p 8 % 65536 == 0 && decide (1 ≤ n) && decide (n ≤ 2 ^ 24) && decide (dq p 8 + 65536 * n ≤ 2 ^ 40)

def isPow2 (n lo hi : Nat) : Bool := (List.range 33).any fun k => 2 ^ k == n && decide (lo ≤ n) && decide (n ≤ hi)

/-- Binding fields and constants of LAUNCH and the draws. -/
def bindsOk (p : Pkt) (w b : Nat) : Bool :=
  let cnt := fld (dw p w) 22 16
  decide (fld (dw p w) 8 0 ≤ 256) && decide (cnt ≤ 64) && dq p b % 16 == 0 && (cnt != 0 || dq p b == 0)

/-- Every body field within its stated range. -/
def rangesOk (p : Pkt) : Bool :=
  let d := dw p 8
  decide ((dw p 2).toNat ≤ 60000000) &&
  match pktOpcode p with
  | 0x01 =>
    let k := fld d 7 0
    let i := fld d 31 16
    decide (k ≤ 3) && decide (i < (if k = 1 then 1024 else if k = 2 then 8 else if k = 3 then 16 else 65536)) && dq p 10 % 64 == 0
  | 0x10 => pageRangeOk p
  | 0x11 => pageRangeOk p
  | 0x12 => pageRangeOk p
  | 0x13 => decide (fld d 17 16 ≤ 1)
  | 0x18 =>
    let rows := (dw p 9).toNat
    decide (fld d 1 0 ≤ 1) && fld d 3 2 != 3 && decide (1 ≤ rows) && decide (rows ≤ 65536) && (pktLength p != 1 || rows == 1) && dw p 14 != 0
  | 0x20 =>
    fld (dw p 10) 23 0 != 0 && decide (1 ≤ fld (dw p 11) 5 0) && decide (fld (dw p 11) 5 0 ≤ 32) && decide (fld (dw p 11) 10 8 ≤ 4) && bindsOk p 13 14
  | 0x32 => fld d 5 4 != 3
  | 0x3A => dq p 10 % 32 == 0
  | 0x40 => decide (1 ≤ (dw p 12).toNat) && decide ((dw p 12).toNat ≤ 65536)
  | 0x42 => decide (1 ≤ fld d 15 8) && decide (fld d 15 8 ≤ 64)
  | 0x52 => decide (dq p 10 < 2 ^ 63)
  | 0x60 => pktEnd p || (decide (fld (dw p 9) 2 0 ≤ 4) && dq p 10 % 65536 == 0 &&
      ((List.range 4).all fun i => decide (i < fld (dw p 9) 2 0) || dq p (16 + 2 * i) == 0) && (bit (dw p 9) 3 || dq p 24 == 0))
  | 0x61 => dq p 8 % 64 == 0 && bindsOk p 18 20
  | 0x62 => dq p 8 % 64 == 0 && bindsOk p 18 20
  | 0x68 => decide (1 ≤ fld d 4 0) && decide (fld d 4 0 ≤ 17)
  | 0x71 => decide (1 ≤ fld d 8 0) && decide (fld d 8 0 ≤ 508)
  | 0x78 => fld d 2 1 != 3 && (!(bit d 4) || fld d 2 1 == 0)
  | 0x90 => fld d 1 0 != 3 && dq p 12 % 64 == 0
  | 0x91 => decide (fld d 3 1 ≤ 4) && isPow2 (dw p 12).toNat 64 65536
  | 0x92 => isPow2 (dw p 12).toNat 64 65536
  | 0xB0 => decide (1 ≤ fld d 8 4) && decide (fld d 8 4 ≤ 16)
  | 0x93 => decide (1 ≤ fld d 6 0) && decide (fld d 6 0 ≤ 64)
  | _ => true

/-- Step 2 of R422. -/
def bodyOk (p : Pkt) : Bool := lengthOk p && reservedOk p && rangesOk p

/-! ### DZ_RUN and ranges of addresses -/

def spanMeet (a n b m : Nat) : Bool := decide (a < b + m) && decide (b < a + n)

/-- The fields of DZ_RUN (Table 12.14). -/
structure Dz where
  decomp : Bool
  wrap : Nat
  dyn : Bool
  flush : Bool
  src : Nat
  dst : Nat
  srcSize : Nat
  dstSize : Nat
  deriving DecidableEq, Repr

def dzOf (p : Pkt) : Dz :=
  let d := dw p 8
  { decomp := bit d 0, wrap := fld d 2 1, dyn := bit d 3, flush := bit d 4, src := dq p 10, dst := dq p 12, srcSize := (dw p 14).toNat, dstSize := (dw p 15).toNat }

/-- The checks of DZ_RUN's own chapter (16 R552-R558). -/
def dzBad (z : Dz) : Option Status :=
  if z.srcSize = 0 || z.dstSize = 0 || (z.flush && z.wrap != 0) then some St.paramRange
  else if spanMeet z.src z.srcSize z.dst z.dstSize then some St.copyOverlap else none

/-! ### Framing and step 1 -/

/-- Is `ctx` a context number that a queue's packets may name (Table 11.5, R450)? On a root queue 0xFF, or a context that is not
FREE, on a VF's one of its partition. -/
def contextOk (s : State) (q ctx : Nat) : Bool :=
  let x := queueOf s q
  if !x.root then ctx == x.ctx.val
  else if ctx == 0xFF then true
  else if 64 ≤ ctx || (ctxOf s ctx).life == .free then false
  else if x.fn.val = 0 then true
  else match vfPart s (x.fn.val - 1) with
    | none => false
    | some p => (ctxOf s ctx).part.val == p

/-- Table 11.5 but for poison; `slots` is the room that LENGTH may fill. -/
def framingBad (slots : Nat) (ctxGood : Bool) (p : Pkt) : Option Status :=
  if pktLength p = 0 || slots < pktLength p then some St.packetLength
  else if !(assigned (pktOpcode p)) then some St.packetOpcode
  else if pktVersion p ≠ 1 then some St.packetVersion
  else if fld (dw p 1) 31 24 ≠ 0 then some St.packetReserved
  else if !ctxGood then some St.packetContext
  else none

/-- Step 1 of R422: the queue column; a Q opcode on a root queue names a context. -/
def columnBad (s : State) (q : Nat) (p : Pkt) : Bool :=
  let x := queueOf s q
  match opColumn (pktOpcode p) with
  | .q => x.root && pktContext p == 0xFF
  | .r => !x.root
  | .p => !x.root || x.fn.val != 0

/-- Steps 1 and 2 of R422. -/
def bodyBad (s : State) (q : Nat) (p : Pkt) : Option Status :=
  if columnBad s q p then some St.privileged else if !(bodyOk p) then some St.paramRange else none

end Sys2Proof.Machine
end

