-- ==== Sys2Proof/Machine/Graph.lean ====
section
/-! DEFINITION. Graph.lean: stored graphs: recording, splicing, binding a version to a launch, freeing (10 R363-R366; 12
R433-R438). -/
namespace Sys2Proof.Machine


/-- Opcodes a graph may contain (R433). -/
def graphOp (op : Nat) : Bool := [0x00, 0x18, 0x20, 0x3A, 0x50, 0x51, 0x60, 0x61, 0x62, 0x71, 0x78].contains op

/-- Slots of a version, and of all live versions (R437). -/
def verSlots (v : GVer) : Nat := sumN (v.pkts.map pktLength)
def storeSlots (s : State) : Nat := s.ob.graphs.toList.foldl (fun n g => n + sumN (g.vers.map verSlots)) 0

/-- The packet that stands at the front of a run of slots. -/
def frontPkt (bs : List Byte) : Pkt := { dws := bytesWords bs }

/-- Do the virtual ranges of a copy share an address (R431)? A fill has no source range. -/
def copyRange (a rows n pitch : Nat) : Nat × Nat := (a, (rows - 1) * pitch + n)
def copyOverlap (p : Pkt) : Bool :=
  if fld (dw p 8) 1 0 != 0 then false else
  let rows := (dw p 9).toNat
  let n := (dw p 14).toNat
  let sp := (dw p 16).toNat
  let dp := (dw p 17).toNat
  (List.range rows).any fun i => (List.range rows).any fun j =>
    let a := dq p 10 + i * sp
    let b := dq p 12 + j * dp
    decide (a < b + n) && decide (b < a + n)

/-- Records of a HIT_POST (Table 2.2). -/
def postRecords (p : Pkt) : List HitRec :=
  (List.range (fld (dw p 8) 8 0)).map fun i =>
    let o := 16 + 8 * i
    { target := BitVec.ofNat 64 (dq p o), dw2 := dw p (o + 2), width := dw p (o + 3), tag := dw p (o + 4)
      rsv := BitVec.ofNat 96 ((dw p (o + 5)).toNat + 2 ^ 32 * (dw p (o + 6)).toNat + 2 ^ 64 * (dw p (o + 7)).toNat) }

/-- Keep of a read what the check of a packet needs: the code object, if it has one. -/
def Rd.code {α : Type} (f : α → Option Code) (r : Rd α × State) : Rd (Option Code) × State :=
  match r with
  | (.ok a, s) => (.ok (f a), s)
  | (.fail st o, s) => (.fail st o, s)
  | (.stall, s) => (.stall, s)

/-- Colour attachments of the pass that is open after a packet. -/
def passAfter (p : Pkt) (ncol : Nat) : Nat := if pktOpcode p == 0x60 && !(pktEnd p) then fld (dw p 9) 2 0 else ncol

/-- The checks of the opcode's own chapter, as the state of now answers them, and the code object of a packet (R422, R433). Whether a pass is
open shows only when the graph runs; a draw is checked for the attachments of the last BEGIN before it in the graph, `ncol` (DEDUCED,
unsafe, log 39). The references that a check makes are not kept. -/
def checkContent (w : Who) (ncol : Nat) (p : Pkt) (s : State) : Rd (Option Code) × State :=
  let none' (st : Option Status) : Rd (Option Code) × State := (match st with | some st => .fail st 0 | none => .ok none, s)
  let knotOk (k : Access) : Rd (Option Code) × State :=
    match knotAddr w.ctx (dq p 8) k w.rq s with
    | (.bad, s) => (.fail St.knotAddress 0, s)
    | (.fail st, s) => (.fail st 0, s)
    | (.stall, s) => (.stall, s)
    | (.ok (.host _), s) => (if k == .load then .fail St.knotAddress 0 else .ok none, s)
    | (_, s) => (.ok none, s)
  let r := match pktOpcode p with
    | 0x18 => none' (if copyOverlap p then some St.copyOverlap else none)
    | 0x20 => Rd.code (fun (r : Code × Bound) => some r.1) (readLaunch w p w.code s)
    | 0x3A => Rd.code (fun _ => none) (readStep w p s)
    | 0x50 => knotOk .store
    | 0x51 => knotOk .load
    | 0x60 => if pktEnd p then (.ok none, s) else Rd.code (fun _ => none) (readBegin w p s)
    | 0x61 => Rd.code (fun (r : PB × Code × Bound) => some r.2.1) (readDrawHead w p false ncol w.code s)
    | 0x62 =>
      (match readTargets w p s with
       | (.ok _, s) => Rd.code (fun (r : PB × Code × Bound) => some r.2.1) (readDrawHead w p true (directCols p) w.code s)
       | x => Rd.code (fun _ => none) x)
    | 0x71 => none' (if (postRecords p).all (hitFormatOk s) then none else some St.hitRecord)
    | 0x78 => none' (dzBad (dzOf p))
    | _ => (.ok none, s)
  (r.1, updCmd w.c (fun y => { y with models := [] }) r.2)

/-- What checking a packet of a graph gives. -/
inductive GOut where
  | ok (codes : List (Nat × Code))
  | bad (st : Status) (num ofs : Nat)
  | stall
  deriving DecidableEq, Repr

/-- Framing, opcode, body and content of the packets of a version, in order. -/
def checkPkts (w : Who) (ctx : Nat) : Nat → Nat → List Pkt → State → GOut × State
  | _, _, [], s => (.ok [], s)
  | ncol, n, p :: r, s =>
    match framingBad 255 (pktContext p == ctx) p with
    | some st => (.bad st n 0, s)
    | none =>
      if !(graphOp (pktOpcode p)) then (.bad St.graphContent n 0, s)
      else if !(bodyOk p) then (.bad St.paramRange n 0, s)
      else match checkContent w ncol p s with
        | (.fail st o, s) => (.bad st n o, s)
        | (.stall, s) => (.stall, s)
        | (.ok c, s) =>
          match checkPkts w ctx (passAfter p ncol) (n + 1) r s with
          | (.ok l, s) => (.ok ((c.toList.map fun k => (n, k)) ++ l), s)
          | x => x

/-- Cut slots into packets; a poisoned or overlong one stops with its status. -/
def cutPkts : Nat → PB → Nat → List Pkt → Except (Status × Nat) (List Pkt)
  | 0, _, _, l => .ok l.reverse
  | f + 1, bs, n, l =>
    if bs.isEmpty then .ok l.reverse else
    let len := leVal (dataOf ((bs.drop 3).take 1))
    if anyPoison (bs.take 8) then .error (St.poisonPacket, n)
    else if anyPoison (bs.take (64 * len)) then .error (St.poisonPacket, n)
    else if len = 0 || bs.length < 64 * len then .error (St.packetLength, n)
    else cutPkts f (bs.drop (64 * len)) (n + 1) (frontPkt (dataOf (bs.take (64 * len))) :: l)

/-- A failing packet's number in DW5 and its code offset in DW6 (Table 12.16). -/
def graphFail (c : Nat) (st : Status) (n o : Nat) (s : State) : Go × State := (.ended st, setRes c [0, BitVec.ofNat 32 n, BitVec.ofNat 32 o, 0] s)

def installNumbered : List (Nat × Code) → State → List (Nat × Nat) × State
  | [], s => ([], s)
  | (n, c) :: r, s =>
    let (k, s) := install c s
    let (l, s) := installNumbered r s
    ((n, k) :: l, s)

/-- GRAPH_RECORD (R363, R433, R437, R438). -/
def startGraphRecord (c : Cmd) (s : State) : Go × State :=
  let g := fld (dw c.pkt 8) 7 0
  let x := graphOf s g
  let n := (dw c.pkt 12).toNat
  let w := c.who
  if x.live || !x.vers.isEmpty then (.ended St.graphState, s)
  else if 262144 < storeSlots s + n then (.ended St.graphStoreFull, s)
  else match readVa w.ctx (dq c.pkt 10) (64 * n) .load w.rq s with
    | (_, .fail st, s) => (.ended st, s)
    | (_, .stall, s) => (.blocked, s)
    | (bs, .ok, s) =>
      match cutPkts (n + 1) bs 0 [] with
      | .error (st, k) => graphFail c.id st k 0 s
      | .ok ps =>
        match checkPkts w w.ctx 0 0 ps s with
        | (.bad st k o, s) => graphFail c.id st k o s
        | (.stall, s) => (.blocked, s)
        | (.ok cs, s) =>
          let (codes, s) := installNumbered cs s
          (.ended St.success, updGraph g (fun _ =>
            { live := true, ctx := fin' 63 w.ctx, current := 1, curSlot := 0, vers := [{ ver := 1, slot := 0, pkts := ps, codes := codes }] }) s)

/-- May the context use graph `g` (R366)? -/
def graphMine (s : State) (g ctx : Nat) : Bool := let x := graphOf s g; x.live && x.ctx.val == ctx

/-- A patch entry (Table 12.8). -/
structure Patch where
  index : Nat
  ofs : Nat
  n : Nat
  rsv : Nat
  data : Nat
  deriving DecidableEq, Repr
def parsePatch (bs : List Byte) : Patch := { index := leAt bs 0 2, ofs := leAt bs 2 1, n := leAt bs 3 1, rsv := leAt bs 4 4, data := leAt bs 8 8 }

/-- Apply patches in order, reading their data (R433, R434). -/
def applyPatches (w : Who) : List Patch → List Pkt → State → Rd (List Pkt) × State
  | [], ps, s => (.ok ps, s)
  | x :: r, ps, s =>
    match ps[x.index]? with
    | none => (.fail St.spliceInvalid 0, s)
    | some p =>
      if x.rsv ≠ 0 then (.fail St.paramRange 0, s)
      else if x.ofs < 8 || x.n = 0 || 64 < x.n || 16 * pktLength p < x.ofs + x.n then (.fail St.spliceInvalid 0, s)
      else match w.read x.data (4 * x.n) .load s with
        | (.ok bs, s) => applyPatches w r (ps.set x.index { dws := p.dws.take x.ofs ++ bytesWords bs ++ p.dws.drop (x.ofs + x.n) }) s
        | (.fail st o, s) => (.fail st o, s)
        | (.stall, s) => (.stall, s)

/-- GRAPH_SPLICE (R363, R366, R433, R434, R437). -/
def startGraphSplice (c : Cmd) (s : State) : Go × State :=
  let g := fld (dw c.pkt 8) 7 0
  let w := c.who
  let x := graphOf s g
  if !(graphMine s g w.ctx) then (.ended St.graphState, s)
  else if 4 ≤ x.vers.length then (.ended St.versionLimit, s)
  else if dw c.pkt 9 != 0 && (dw c.pkt 9).toNat != x.current then (.ended St.spliceStale, s)
  else match x.vers.find? (·.ver == x.current) with
    | none => (.ended St.graphState, s)
    | some v =>
      if 262144 < storeSlots s + verSlots v then (.ended St.graphStoreFull, s)
      else Rd.run (w.read (dq c.pkt 10) (16 * fld (dw c.pkt 8) 15 8) .load s) fun bs s =>
        Rd.run (applyPatches w ((List.range (fld (dw c.pkt 8) 15 8)).map fun i => parsePatch (sliceB bs (16 * i) 16)) v.pkts s) fun ps s =>
          match checkPkts w w.ctx 0 0 ps s with
          | (.bad st k o, s) => graphFail c.id st k o s
          | (.stall, s) => (.blocked, s)
          | (.ok cs, s) =>
            let (codes, s) := installNumbered cs s
            let slot := ((List.range 4).find? fun k => !(x.vers.any (·.slot.val == k))).getD 0
            let nv : GVer := { ver := x.current + 1, slot := fin' 3 slot, pkts := ps, codes := codes }
            (.ended St.success, settleGraph g (updGraph g (fun x => { x with current := x.current + 1, curSlot := fin' 3 slot, vers := x.vers ++ [nv] }) s))

/-- A GRAPH_LAUNCH binds the current version (R364, R365); a graph that is not its own is not bound. A launch that waits for room in
the count is bound too, and counted beyond 0xFFFF, which the record does not show. -/
def bindGraph (c : Cmd) (s : State) : State :=
  let g := fld (dw c.pkt 8) 7 0
  let x := graphOf s g
  if !(graphMine s g (cmdCtx c)) then s
  else match x.vers.find? (·.ver == x.current) with
    | none => s
    | some v =>
      let s := updGraph g (fun x => { x with vers := updWhere (·.ver == v.ver) (fun v => { v with launches := v.launches + 1 }) x.vers }) s
      updCmd c.id (fun y => { y with work := .graph (fin' 255 g) v.ver v.pkts }) s

def isBound (c : Cmd) : Bool := match c.work with | .graph _ _ _ => true | _ => false

/-- Earlier unfinished launches bound to a version. -/
def launchesBefore (s : State) (id g v : Nat) : Nat :=
  (s.ex.cmds.filter fun y => decide (y.id < id) && y.phase != .done && (match y.work with | .graph h w _ => h.val == g && w == v | _ => false)).length

/-- GRAPH_LAUNCH starts with the version bound at its acceptance, as soon as its count has room (R365). -/
def startGraphLaunch (c : Cmd) (s : State) : Go × State :=
  let s := if isBound c then s else bindGraph c s
  match ((findCmd s c.id).map (·.work) : Option Work) with
  | some (.graph g v _) => (if 0xFFFF ≤ launchesBefore s c.id g.val v then .blocked else .running, s)
  | _ => (.ended St.graphState, s)

/-- GRAPH_FREE (R438). -/
def startGraphFree (c : Cmd) (s : State) : Go × State :=
  let g := fld (dw c.pkt 8) 7 0
  if graphMine s g (cmdCtx c) then (.ended St.success, settleGraph g (updGraph g (fun x => { x with live := false }) s))
  else (.ended St.graphState, s)

end Sys2Proof.Machine
end

