-- ==== Sys2Proof/Machine/Copy.lean ====
section
/-! DEFINITION. Copy.lean: the copy engines: COPY, and the transfer that DOMAIN_BROADCAST makes (12 R430-R432, Table 12.6; 13
R472; 15 R523; 17 R576). A copy runs when it starts, and waits with its progress where a fault or a bucket holds it. -/
namespace Sys2Proof.Machine

/-- A transfer: rows, bytes per row, pitches, addresses, and the 8-byte pattern of a fill. -/
structure Xfer where
  rows : Nat
  rb : Nat
  sp : Nat
  dp : Nat
  src : Nat
  dst : Nat
  fill : Option W64
  deriving DecidableEq, Repr

/-- Address in a pitched range of byte `n` in row order. -/
def Xfer.at' (x : Xfer) (base pitch n : Nat) : Nat := base + n / x.rb * pitch + n % x.rb

/-- Bytes from `n` on that stay in one row, one source page, one destination page and one 64 KiB of progress. -/
def Xfer.run (x : Xfer) (n : Nat) : Nat :=
  min (x.rb - n % x.rb) (min (65536 - x.at' x.src x.sp n % 65536) (min (65536 - x.at' x.dst x.dp n % 65536) (65536 - n % 65536)))

/-- The bytes a fill stores from byte `n` on: every row begins with byte 0 of the pattern (DEDUCED, unsafe, log 42). -/
def Xfer.pat (x : Xfer) (w : W64) (n k : Nat) : PB :=
  (List.range k).map fun i => ((leBytes 8 w.toNat).getD ((n % x.rb + i) % 8) 0, false)

inductive XferEnd where
  | done
  | stop (st : Status)
  | blocked
  deriving DecidableEq, Repr

/-- Where one end of a chunk lies: none where the ZERO class answers (R489). -/
inductive XferPl where
  | at' (pl : Option Place)
  | stop (st : Status)
  | stall
  deriving DecidableEq, Repr

def xferPl (ctx va : Nat) (k : Access) (rq : Rq) (s : State) : XferPl × State :=
  match xl ctx va k rq s with
  | (.ok pl, s) =>
    if routeDown s pl then
      let s := match remoteDev pl with
        | some (d, o) => if k == .load then linkTimeout (routeLink s d o) s else linkDrop (routeLink s d o) s
        | none => s
      (.stop St.linkDown, s)
    else (.at' (some pl), s)
  | (.zero, s) => (.at' none, s)
  | (.fail st, s) => (.stop st, s)
  | (.stall, s) => (.stall, s)

/-- The source of a chunk: a fill reads nothing. -/
def xferSrc (x : Xfer) (ctx : Nat) (rq : Rq) (n : Nat) (s : State) : XferPl × State :=
  match x.fill with
  | some _ => (.at' none, s)
  | none => xferPl ctx (x.at' x.src x.sp n) .load rq s

/-- The bytes of a chunk. -/
def xferBytes (x : Xfer) (fn n k : Nat) (src : Option Place) (s : State) : PB × State :=
  match x.fill, src with
  | some w, _ => (x.pat w n k, s)
  | none, some pl => readPlace fn pl k s
  | none, none => (List.replicate k (0, false), s)

/-- Store a chunk at `va`; the command's completion waits for what goes to another device (R130). Poison bound for host memory stops the copy with the bytes below it written (R432). -/
def xferStore (ctx va : Nat) (rq : Rq) (dst : Option Place) (bs : PB) (s : State) : Nat × Option Status × State :=
  let fn := ctxFn s ctx
  match dst with
  | none => (bs.length, none, s)
  | some (.host a) =>
    let ok := bs.takeWhile fun b => !b.2
    let s := hostWrite fn a (dataOf ok) s
    (ok.length, if ok.length = bs.length then none else some St.poisonHost, s)
  | some (.remote d f o) => (bs.length, none, remotePost rq ctx va d.val o.toNat (writePlace fn (.remote d f o) bs s))
  | some pl => (bs.length, none, writePlace fn pl bs s)

def needOf (pl : Option Place) (k : Nat) : List Nat := match pl with | some p => bulkNeeds none p k | none => [0, 0, 0]

/-- Run a transfer from byte `n` on: the bytes written in all, and how it ended. -/
def xferLoop (x : Xfer) (ctx : Nat) (rq : Rq) : Nat → Nat → State → Nat × XferEnd × State
  | 0, n, s => (n, .done, s)
  | f + 1, n, s =>
    if x.rows * x.rb ≤ n then (n, .done, s) else
    let k := x.run n
    match xferSrc x ctx rq n s with
    | (.stop st, s) => (n, .stop st, s)
    | (.stall, s) => (n, .blocked, s)
    | (.at' src, s) =>
      match xferPl ctx (x.at' x.dst x.dp n) .store rq s with
      | (.stop st, s) => (n, .stop st, s)
      | (.stall, s) => (n, .blocked, s)
      | (.at' dst, s) =>
        match bulk (ctxOf s ctx).part.val (addNeeds (needOf src k) (needOf dst k)) s with
        | none => (n, .blocked, s)
        | some s =>
          let (bs, s) := xferBytes x (ctxFn s ctx) n k src s
          match xferStore ctx (x.at' x.dst x.dp n) rq dst bs s with
          | (m, some st, s) => (n + m, .stop st, s)
          | (m, none, s) => xferLoop x ctx rq f (n + m) s

/-- Chunks at most. -/
def Xfer.fuel (x : Xfer) : Nat := x.rows * (3 * (x.rb / 65536) + 6) + x.rows * x.rb / 65536 + 1

/-! ### Unspecified destinations -/

/-- Bytes of the destination from byte `n` on hold free values (R431, R432). -/
def freeDst (x : Xfer) (ctx : Nat) : Nat → Nat → State → State
  | 0, _, s => s
  | f + 1, n, s =>
    if x.rows * x.rb ≤ n then s else
    let k := x.run n
    match translate ctx (x.at' x.dst x.dp n) .store s with
    | (.ok _ pl, s) =>
      let bs : PB := (List.range k).map fun i => (BitVec.ofNat 8 (Config.freeValue (s.freeCtr + i)).toNat, false)
      freeDst x ctx f (n + k) (writePlace (ctxFn s ctx) pl bs { s with freeCtr := s.freeCtr + k })
    | (_, s) => freeDst x ctx f (n + k) s

/-- Pieces of a transfer's ends as places with lengths. -/
def xferPieces (x : Xfer) (ctx : Nat) (load : Bool) : Nat → Nat → List (Place × Nat) → State → List (Place × Nat) × State
  | 0, _, l, s => (l, s)
  | f + 1, n, l, s =>
    if x.rows * x.rb ≤ n then (l, s) else
    match translate ctx (if load then x.at' x.src x.sp n else x.at' x.dst x.dp n) (if load then .load else .store) s with
    | (.ok _ pl, s) => xferPieces x ctx load f (n + x.run n) ((pl, x.run n) :: l) s
    | (_, s) => xferPieces x ctx load f (n + x.run n) l s

def placesMeet (p q : Place × Nat) : Bool :=
  match p.1, q.1 with
  | .peat a, .peat b => spanMeet a p.2 b q.2
  | .lpddr a, .lpddr b => spanMeet a p.2 b q.2
  | .host a, .host b => spanMeet a p.2 b q.2
  | .remote d f o, .remote e g r => d == e && f == g && spanMeet o.toNat p.2 r.toNat q.2
  | _, _ => false

/-- Do source and destination overlap through aliased mappings (R431)? -/
def aliased (x : Xfer) (ctx : Nat) (s : State) : Bool × State :=
  if x.fill.isSome then (false, s) else
  let (a, s) := xferPieces x ctx true x.fuel 0 [] s
  let (b, s) := xferPieces x ctx false x.fuel 0 [] s
  (a.any fun p => b.any (placesMeet p), s)

/-! ### COPY -/

/-- The transfer of a COPY packet. -/
def copyXfer (p : Pkt) : Xfer :=
  { rows := if pktLength p = 2 then (dw p 9).toNat else 1, rb := (dw p 14).toNat, sp := (dw p 16).toNat, dp := (dw p 17).toNat, src := dq p 10, dst := dq p 12
    fill := if fld (dw p 8) 1 0 = 1 then some (BitVec.ofNat 64 (dq p 10)) else none }

/-- Bytes a command's transfer has written. -/
def copied (c : Cmd) : Nat := match c.work with | .copy _ n => n | _ => 0

/-- Bytes queued at an engine by the copies that it has not ended (R430). -/
def copyQueue (e : Nat) (l : List Cmd) : Nat :=
  sumN (l.map fun c => match c.work with
    | .copy e' n => let x := copyXfer c.pkt; if e' = e ∧ pktOpcode c.pkt = 0x18 ∧ c.phase ≠ .done then x.rows * x.rb - n else 0
    | _ => 0)

/-- The engine that serves a copy: 39 for CE0, 40 for CE1. A copy keeps the engine that it was given. -/
def copyEngine (c : Cmd) (s : State) : Nat :=
  match c.work, fld (dw c.pkt 8) 3 2 with
  | .copy e _, _ => e
  | _, 1 => 39
  | _, 2 => 40
  | _, _ => if copyQueue 40 s.ex.cmds < copyQueue 39 s.ex.cmds then 40 else 39

/-- A transfer goes on, ends, or waits with its progress. -/
def runXfer (c : Cmd) (x : Xfer) (eng : Nat) (s : State) : Go × State :=
  match xferLoop x (cmdCtx c) { who := some (.cmd c.id), eng := some eng } x.fuel (copied c) s with
  | (n, .blocked, s) => (.blocked, updCmd c.id (fun y => { y with work := .copy eng n }) s)
  | (n, .stop st, s) => (.ended st, setRes64 c.id n (if st = St.poisonHost then freeDst x (cmdCtx c) x.fuel n s else s))
  | (n, .done, s) =>
    let (bad, s) := aliased x (cmdCtx c) s
    (.ended St.success, setRes64 c.id n (if bad then freeDst x (cmdCtx c) x.fuel 0 s else s))

/-- COPY (R430-R432). -/
def startCopy (c : Cmd) (s : State) : Go × State :=
  if copyOverlap c.pkt then (.ended St.copyOverlap, s) else runXfer c (copyXfer c.pkt) (copyEngine c s) s

/-- The transfer of a DOMAIN_BROADCAST packet (Table 12.15). -/
def bcastXfer (p : Pkt) : Xfer := { rows := 1, rb := (dw p 12).toNat, sp := 0, dp := 0, src := dq p 8, dst := dq p 10, fill := none }

/-- The transfer that a command makes. -/
def cmdXfer (c : Cmd) : Xfer := if pktOpcode c.pkt = 0x18 then copyXfer c.pkt else bcastXfer c.pkt

/-- A transfer stops: a timeout stops it at a 64 KiB boundary of its progress, anything else where it stands; what lies above is unspecified
(R432, R498, R576). -/
def stopXfer (c : Cmd) (timeout : Bool) (s : State) : State :=
  match c.work with
  | .copy _ n =>
    let x := cmdXfer c
    let n := if timeout then n / 65536 * 65536 else n
    setRes64 c.id n (freeDst x (cmdCtx c) x.fuel n s)
  | _ => s

end Sys2Proof.Machine
end

