-- ==== Sys2Proof/Machine/KnotPkt.lean ====
section
/-! DEFINITION. KnotPkt.lean: KNOT_SIGNAL, KNOT_WAIT and KNOT_RESET (10 R354-R362; 12 Table 12.9). -/
namespace Sys2Proof.Machine

/-- Go on with a knot's place: 0x0170 for an address that names no knot. Under ZERO a signal changes nothing and a wait reads 0. -/
def knotGo (c : Cmd) (k : Access) (s : State) (f : Place → State → Go × State) : Go × State :=
  let w := c.who
  match knotAddr w.ctx (dq c.pkt 8) k w.rq s with
  | (.bad, s) => (.ended St.knotAddress, s)
  | (.zero, s) => if k == .load then f zeroKnot s else (.ended St.success, s)
  | (.fail st, s) => (.ended st, s)
  | (.stall, s) => (.blocked, s)
  | (.ok pl, s) => f pl s

/-- KNOT_SIGNAL. -/
def startKnotSignal (c : Cmd) (s : State) : Go × State :=
  knotGo c .store s fun pl s =>
    match addSigs (cmdCtx c) [dq c.pkt 8] s with
    | none => (.ended St.signalSetFull, s)
    | some s =>
      let down := routeDown s pl
      let s := signal (ctxFn s (cmdCtx c)) pl (BitVec.ofNat 64 (dq c.pkt 10)) s
      (.ended (if down then St.linkDown else St.success), s)

/-- A KNOT_WAIT registers at its acceptance (R358), and what the knot holds then is its first evaluation. -/
def registerWait (c : Cmd) (pl : Place) (s : State) : State :=
  let x : KnotWaiter := { cmd := c.id, k := pl, thr := BitVec.ofNat 64 (dq c.pkt 10) }
  let (w, p, s) := knotRead (ctxFn s (cmdCtx c)) pl s
  let s := updEx (fun e => { e with waiters := (e.waiters.filter (·.cmd != c.id)) ++ [x] }) (updCmd c.id (fun y => { y with work := .knotWait pl }) s)
  knotWaitEval w p x s

/-- KNOT_WAIT begins: it is registered from now at the latest, and completes at once where its condition holds (R358). -/
def startKnotWait (c : Cmd) (s : State) : Go × State :=
  knotGo c .load s fun pl s =>
    match pl with
    | .host _ => (.ended St.knotAddress, s)
    | _ =>
      if routeDown s pl then (.ended St.linkDown, s) else (.running, registerWait c pl s)

/-- Does the device of a remote knot answer a KNOT_RESET with 0x0205? Its other waiters are not known here (DESIGN CHOICE, safe, log 100). -/
def remoteWaiters (pl : Place) (s : State) : Bool × State :=
  match pl with
  | .remote _ _ _ => ((Config.freeValue s.freeCtr).toNat % 2 == 1, { s with freeCtr := s.freeCtr + 1 })
  | _ => (false, s)

/-- KNOT_RESET (R361). -/
def startKnotReset (c : Cmd) (s : State) : Go × State :=
  let w := c.who
  match knotAddr w.ctx (dq c.pkt 8) .store w.rq s with
  | (.stall, s) => (.blocked, s)
  | (.ok pl, s) =>
    if routeDown s pl then (.ended St.linkDown, knotLink pl s)
    else
      let (busy, s) := remoteWaiters pl s
      if busy then (.ended St.knotWaiters, knotLink pl s)
      else
        let (ok, s) := knotResetNow (ctxFn s w.ctx) pl (BitVec.ofNat 64 (dq c.pkt 10)) s
        (.ended (if ok then St.success else St.knotWaiters), s)
  | (_, s) => (.ended St.knotAddress, s)

end Sys2Proof.Machine
end

