-- ==== Sys2Proof/Machine/Snapshot.lean ====
section
/-! DEFINITION. Snapshot.lean: SNAPSHOT: its checks, the trigger cycle and the capture (10 R367-R373; 17 R573, R578). -/
namespace Sys2Proof.Machine

/-- OUT_STATUS and OUT_FIRED of every output, as bytes. -/
def snapOuts (s : State) : List Byte × State :=
  (List.range 36).foldl (fun (acc : List Byte × State) o =>
    let v := outStatus o acc.2
    (acc.1 ++ leBytes 4 v.1.toNat ++ leBytes 4 (output s o).fired.toNat, v.2)) ([], s)

/-- The PTE and camera sections of the buffer, bytes 0x100-0x3FF (Table 10.9). -/
def snapSection (s : State) : List Byte × State :=
  let ax := (List.range 8).flatMap fun i =>
    let a := axis s i
    leBytes 8 (axPos a s.now).toNat ++ leBytes 4 (axStatus a).toNat ++ leBytes 4 (axEst a).toNat ++ leBytes 4 a.late.toNat ++ leBytes 4 a.drops.toNat ++ List.replicate 8 0
  let outs := snapOuts s
  let s := outs.2
  let tg := (List.range 4).flatMap fun i =>
    let g := tabD s.pte.tgs i {}
    leBytes 4 g.seq.toNat ++ leBytes 4 g.skip.toNat ++ leBytes 8 g.lastpos.toNat ++ leBytes 8 g.lasttime.toNat ++ List.replicate 8 0
  let cams := (List.range 4).flatMap fun i =>
    let c := tabD s.gx.cams i {}
    leBytes 4 c.cUnits.toNat ++ leBytes 4 c.cOverrun.toNat ++ leBytes 4 c.cFaults.toNat ++ List.replicate 4 0
  (ax ++ outs.1 ++ tg ++ cams ++ List.replicate 32 0, s)

def updSnap (f : SnapSt → SnapSt) (s : State) : State := { s with snap := f s.snap }

/-- The issuing device of a domain snapshot tells the members that the cut begins or, at its end, that every device has captured (R372,
R560). -/
def snapTell (s : State) : State := if s.snap.cur.any (fun c => c.domain && c.cmd.isSome) then toMembers s else s

/-- The trigger cycle: the hold begins, the PTE section is latched, and the members of a domain are told (R368, R369, R372). -/
def snapTrigger (late : Bool) (s : State) : State :=
  let d := snapSection s
  snapTell <| updSnap (fun x => { x with cur := x.cur.map fun c => { c with triggered := true, lateCut := late, trigTime := s.time, latched := d.1 } }) d.2

/-- Has the trigger's condition come (R367)? -/
def snapDue (s : State) (c : Snap) : Bool :=
  match c.trigger.toNat with
  | 0 => true
  | 1 => decide (c.tp.toNat ≤ s.now)
  | _ => reached c.rev (axPos (axis s c.axis.val) s.now) c.tp

/-- Are all knots of a list aligned, mapped, and device or remote knots? -/
def snapKnots (w : Who) : List Nat → State → Rd Unit × State
  | [], s => (.ok (), s)
  | va :: r, s =>
    match knotAddr w.ctx va .load w.rq s with
    | (.ok (.host _), s) => (.fail St.snapshotParam 0, s)
    | (.ok _, s) => snapKnots w r s
    | (.stall, s) => (.stall, s)
    | (_, s) => (.fail St.snapshotParam 0, s)

/-- Bytes of the buffer. -/
def snapBytes (nknot : Nat) : Nat := 0x10400 + 8 * nknot

/-- SNAPSHOT (R367, R371, R372). -/
def startSnapshot (c : Cmd) (s : State) : Go × State :=
  let p := c.pkt
  let d := dw p 8
  let n := fld d 15 7
  let dom := bit d 2
  let w := c.who
  if s.snap.cur.isSome then (.blocked, s)
  else if 256 < n then (.ended St.snapshotParam, s)
  else if dom && !s.dom.member then (.ended St.domainState, s)
  else if dom && s.dom.degraded then (.ended St.linkDown, s)
  else match writablePieces w.ctx w.rq (pagePieces (dq p 12) (snapBytes n)) s with
    | (.stall, s) => (.blocked, s)
    | (.fail _, s) => (.ended St.snapshotParam, s)
    | (.ok, s) =>
      Rd.run (if n = 0 then (.ok [], s) else w.read (dq p 14) (8 * n) .load s) fun bs s =>
        let ks := (List.range n).map fun i => leAt bs (8 * i) 8
        Rd.run (snapKnots w ks s) fun _ s =>
          let x : Snap :=
            { cmd := some c.id, ctx := fin' 63 w.ctx, trigger := BitVec.ofNat 2 (fld d 1 0), axis := fin' 7 (fld d 5 3), rev := bit d 6, tp := BitVec.ofNat 64 (dq p 10)
              domain := dom, buf := BitVec.ofNat 64 (dq p 12), knots := ks.map (BitVec.ofNat 64), exec := s.time }
          let s := updSnap (fun y => { y with cur := some x }) (updCmd c.id (fun y => { y with work := .snap }) s)
          (.running, if snapDue s x then snapTrigger (fld d 1 0 == 1 && decide (x.tp.toNat < s.now)) s else s)

/-- SNAPSHOT_TRIGGER (R367-R369): the trigger cycle of the waiting snapshot, if its condition has come. -/
def execSnapshotTrigger (t : W64) (s : State) : Res :=
  let s := s.at t
  match s.snap.cur with
  | some c => if !c.triggered && snapDue s c then fin (snapTrigger false s) else fin s
  | none => fin s

/-- DOMAIN_SNAPSHOT_START (R372, R573): the cut that another member started begins here. -/
def execDomainSnapshotStart (ctx : Fin 64) (buf knots : W64) (nknot : Nat) (seq t : W64) (s : State) : Res :=
  let s := s.at t
  if s.dom.member && s.snap.cur.isNone && (ctxOf s ctx).life == .live then
    let (bs, _, s) := readVa ctx knots.toNat (8 * nknot) .load {} s
    let ks := (List.range nknot).map fun i => BitVec.ofNat 64 (leAt (dataOf bs) (8 * i) 8)
    let x : Snap := { cmd := none, ctx := ctx, trigger := 0, axis := 0, rev := false, tp := 0, domain := true, buf := buf, knots := ks, exec := s.time }
    fin (snapTrigger false (updSnap (fun y => { y with cur := some x, seq := seq - 1 }) s))
  else fin s

/-- Write at an offset of the buffer; faults take no reply. -/
def snapPut (c : Snap) (o : Nat) (bs : List Byte) (s : State) : State := (writeVa c.ctx.val (c.buf.toNat + o) (clean bs) {} s).2.2

/-- The knot words, in list order. -/
def snapKnotWords (c : Snap) : List W64 → Nat → State → State
  | [], _, s => s
  | k :: r, i, s =>
    match knotAddr c.ctx.val k.toNat .load {} s with
    | (.ok pl, s) =>
      let (bs, s) := readPlace (ctxFn s c.ctx.val) pl 8 s
      let s := (writeVa c.ctx.val (c.buf.toNat + 0x10400 + 8 * i) bs {} s).2.2
      snapKnotWords c r (i + 1) s
    | (_, s) => snapKnotWords c r (i + 1) s

/-- The capture ends: the buffer is written, and the command's work is done (R373). Held operations are the caller's. -/
def snapCapture (c : Snap) (s : State) : State :=
  let seq := s.snap.seq + 1
  let dev := if s.dom.member then s.dom.id.toNat else 0xFF
  let head := leBytes 4 0x4E534B45 ++ leBytes 2 (b2n c.lateCut + 2 * b2n c.domain) ++ [BitVec.ofNat 8 dev, 0] ++ leBytes 8 c.trigTime.toNat ++
    leBytes 8 s.now ++ leBytes 8 seq.toNat ++ leBytes 4 c.knots.length ++ List.replicate 220 0
  let img := pageImage 0 s.time s
  let s := snapPut c 0 head s
  let s := snapPut c 0x100 c.latched s
  let s := snapPut c 0x400 (List.replicate 65536 0) s
  let s := (pageSegs img).foldl (fun s x => snapPut c (0x400 + x.1) x.2 s) s
  let s := snapTell (snapKnotWords c c.knots 0 s)
  let s := updSnap (fun x => { x with cur := none, seq := seq, lastTrig := c.trigTime, lastStatus := 0 }) s
  match c.cmd with
  | some k => finish k St.success (setRes64 k seq.toNat s)
  | none => s

end Sys2Proof.Machine
end

