-- ==== Sys2Proof/Machine/Kill.lean ====
section
/-! DEFINITION. Kill.lean: stopping the work of a command before its end: a kill under 12 R425, QUEUE_DESTROY (13 R453) and
CONTEXT_DESTROY (13 Table 13.2). -/
namespace Sys2Proof.Machine

/-- What a command is doing stops, with status `st`: its groups go, its copy stops, a model being loaded is EMPTY again (07
R262), an eviction is undone (R426), an untriggered snapshot is dropped (10 R371). -/
def stopWork (c : Cmd) (st : Status) (s : State) : State :=
  match c.work with
  | .blocks _ => stopCmd c.id s
  | .step _ _ _ _ _ => stepFailed c.id st (stopCmd c.id s)
  | .render p => failPass p st 0 s
  | .load m _ => emptyModel m s
  | .evict m => undoEvict m s
  | .copy _ _ => stopXfer c (st == St.timeoutKilled || st == St.timeoutDrained) s
  | .inval _ add _ => add.foldl (fun s x => frameCount x.1 x.2 true s) s
  | .snap => updSnap (fun x => { x with cur := match x.cur with | some y => if y.triggered then some y else none | none => none }) s
  | _ => s

/-- A command goes with no record and no completion knot. -/
def dropCmd (c : Nat) (s : State) : State :=
  let s := withdraw (fun r _ => r == .cmd c) (unbindLaunch c s)
  updEx (fun e => { e with
    waiters := e.waiters.filter (·.cmd != c), cmds := e.cmds.filter (·.id != c)
    cores := e.cores.map fun k => if k.claim == some (.cmd c) then { k with claim := none } else k }) s

/-- End a command without a record; the work of one that is finished stands (R453). -/
def endSilently (st : Status) (s : State) (c : Cmd) : State := dropCmd c.id (if c.phase == .done then s else stopWork c st s)

/-- The packets of a graph launch that run now. -/
def children (s : State) (c : Nat) : List Cmd := s.ex.cmds.filter fun y => y.parent == some c

/-- End a command with a status; the packets of a launch end with it (R436), each with its own knot under R421. -/
def killCmd (c : Cmd) (st : Status) (s : State) : State :=
  if c.phase == .done then s else
  let s := (children s c.id).foldl (fun s y => if y.phase == .done then s else finish y.id st (stopWork y st s)) s
  finish c.id st (stopWork c st s)

/-! ### Memory whose contents become unspecified (00 R17) -/

/-- A pass of a dying context goes. -/
def endPass (p : Pass) (s : State) : State :=
  let s := dropPassCores p.id s
  updGx (fun g => { g with passes := g.passes.filter (·.id != p.id) }) s

end Sys2Proof.Machine
end

