-- ==== Sys2Proof/Machine/Domains.lean ====
section
/-! DEFINITION. Domains.lean: power domains (18 R579, R580, Tables 18.1, 18.2; 16 R536, R537). -/
namespace Sys2Proof.Machine

/-- Is core `n` present and in an enabled partition (R580)? -/
def coreNeeded (s : State) (n : Nat) : Bool := decide (n < presentCores s.part) && s.ex.parts.toList.any fun p => p.en && bit p.cores n
def regionNeeded (s : State) (n : Nat) : Bool := decide (n < presentCores s.part) && s.ex.parts.toList.any fun p => p.en && bit p.peat n

/-- The level of a domain in RUN: cores, bank groups, LPDDR channels, outputs, cameras and links only while needed. -/
def runLevel (s : State) (i : Nat) : Bool :=
  if 4 ≤ i ∧ i ≤ 35 then coreNeeded s (i - 4)
  else if 36 ≤ i ∧ i ≤ 43 then (List.range 4).any fun k => coreNeeded s (4 * (i - 36) + k) || regionNeeded s (4 * (i - 36) + k)
  else if 44 ≤ i ∧ i ≤ 47 then bit s.mm.ctl.chmask (i - 44)
  else if i = 50 ∨ i = 51 then bit (tabD s.gx.dpos (i - 50) {}).ctrl 0
  else if 52 ≤ i ∧ i ≤ 55 then (tabD s.gx.cams (i - 52) {}).en
  else if 58 ≤ i ∧ i ≤ 61 then linksPresent s.part && (tabD s.links (i - 58) {}).en
  else true

/-- The level of a domain in a device state (Table 18.2). -/
def stateLevel (s : State) (st : PState) (i : Nat) : PdLevel :=
  let on (b : Bool) : PdLevel := if b then .on else .off
  let bank := 36 ≤ i ∧ i ≤ 43
  match st with
  | .run => on (runLevel s i)
  | .idle => on (runLevel s i)
  | .nap => on (runLevel s i && !(decide (4 ≤ i ∧ i ≤ 35) || i == 48 || i == 56))
  | .doze => if bank then (if runLevel s i then .retention else .off) else on ([0, 1, 2, 3, 62].contains i)
  | .sleep => if bank then (if runLevel s i then .retention else .off) else on (i == 0 || i == 3)
  | .dormant => on (i == 0)

/-- A bank group's contents go, and it reads zero with valid check bits (R537). -/
def zeroGroup (k : Nat) (m : Mem) : Mem :=
  { cells := m.cells.filter fun c => !(decide (k * groupBytes ≤ c.1) && decide (c.1 < (k + 1) * groupBytes))
    marks := m.marks.filter fun x => !(decide (k * groupBytes ≤ 8 * x.1) && decide (8 * x.1 < (k + 1) * groupBytes)) }

def pdOf (s : State) (i : Nat) : PdLevel := tabD s.pwr.pd i .off

/-- The domains take the levels that the device state and the configuration give; a bank group that turns on from off is zeroed,
and serves its first access only then. -/
def settlePd (s : State) : State :=
  let new : Tab PdLevel 64 := Vector.ofFn fun i => stateLevel s s.pwr.state i.val
  let woken := (List.range 8).filter fun k => pdOf s (36 + k) == .off && tabD new (36 + k) .off != .off
  let s := { s with pwr := { s.pwr with pd := new } }
  woken.foldl (fun s k =>
    { s with mm := { s.mm with peat := zeroGroup k s.mm.peat, ctl := { s.mm.ctl with zeroing := setBit s.mm.ctl.zeroing k true } } }) s

/-- BANK_GROUP_ZEROED (R537): accesses that waited at the group's ports proceed. -/
def execBankGroupZeroed (k : Fin 8) (s : State) : Res :=
  fin { s with mm := { s.mm with ctl := { s.mm.ctl with zeroing := setBit s.mm.ctl.zeroing k.val false } } }

/-- IDLE and NAP return to RUN on the arrival of work; WAKE_SRC does not record it, and the exit pulses ICN source 18 (R586). -/
def returnToRun (s : State) : State :=
  match s.pwr.state with
  | .idle => icnPulse 18 (settlePd { s with pwr := { s.pwr with state := .run } })
  | .nap => icnPulse 18 (settlePd { s with pwr := { s.pwr with state := .run } })
  | _ => s

end Sys2Proof.Machine
end

