-- ==== Sys2Proof/Machine/Camera.lean ====
section
/-! DEFINITION. Camera.lean: camera ports: units, stamps, admission, capture rings (06 R215-R219; 09 R318-R331). -/
namespace Sys2Proof.Machine

def camOf (s : State) (p : Nat) : Cam := tabD s.gx.cams p {}

/-- Reads of translation that leave no trace: the checks of configuration packets. -/
def peek (s : State) (c va : Nat) (k : Access) : Option Place := match (translate c va k s).1 with | .ok _ pl => some pl | _ => none
def isDevPl (pl : Option Place) : Bool := match pl with | some (.peat _) => true | some (.lpddr _) => true | _ => false
def isLpddrPl (pl : Option Place) : Bool := match pl with | some (.lpddr _) => true | _ => false
def isPeatPl (pl : Option Place) : Bool := match pl with | some (.peat _) => true | _ => false
/-- Is every page of a range mapped to target 0 or 1 for an access; does a page lie in LPDDR? -/
def rangeDev (s : State) (c va n : Nat) (k : Access) : Bool := (pagePieces va n).all fun x => isDevPl (peek s c x.1 k)
def rangeLpddr (s : State) (c va n : Nat) (k : Access) : Bool := (pagePieces va n).any fun x => isLpddrPl (peek s c x.1 k)
/-- A knot address of a camera or layer: 8-byte aligned, target 0. -/
def knotPeat (s : State) (c va : Nat) (k : Access) : Bool := va % 8 == 0 && isPeatPl (peek s c va k)

/-! ### Counters -/

def camOverrun (p : Nat) (s : State) : State := camAlarm 0 p (updCam p (fun c => { c with cOverrun := satInc c.cOverrun }) s)
def camFrameErr (p : Nat) (s : State) : State := camAlarm 4 p (updCam p (fun c => { c with cFrame := satInc c.cFrame }) s)
def camCrcErr (p : Nat) (s : State) : State := camAlarm 1 p (updCam p (fun c => { c with cCrc := satInc c.cCrc }) s)
def camEccErr (p : Nat) (s : State) : State := camAlarm 2 p (updCam p (fun c => { c with cEcc := satInc c.cEcc }) s)
def camFault (p : Nat) (s : State) : State := camOverrun p (camAlarm 5 p (updCam p (fun c => { c with cFaults := satInc c.cFaults }) s))
def camStale (p : Nat) : Nat → State → State
  | 0, s => s
  | n + 1, s => camStale p n (camAlarm 3 p (updCam p (fun c => { c with cStale := satInc c.cStale }) s))

/-! ### The destination of a port -/

/-- The braid whose source a port is, while it takes units (R326): RUNNING. -/
def sourceBraid (s : State) (p : Nat) : Option Nat :=
  (List.range 16).find? fun b => (braidOf s b).state == .running && (braidOf s b).source.toNat == p
/-- A braid that runs or drains and whose source a port is (R325). -/
def openBraid (s : State) (p : Nat) : Option Nat :=
  (List.range 16).find? fun b => bActive (braidOf s b) && (braidOf s b).source.toNat == p

/-- The channel that a port writes, with its context: a capture ring, or channel 0 of a braid. -/
structure Dest where
  ctx : Nat
  ch : Channel
  braid : Option Nat
  deriving DecidableEq, Repr

def destOf (s : State) (p : Nat) (b : Option Nat) : Option Dest :=
  let c := camOf s p
  match c.dest.toNat, b with
  | 2, _ => some { ctx := c.ctx.val, ch := c.ring, braid := none }
  | 1, some b => some { ctx := (braidOf s b).ctx.val, ch := (braidOf s b).chans.headD {}, braid := some b }
  | _, _ => none

/-- The destination of a unit in progress: of the braid that admitted it, while that runs or drains (R219, R229). -/
def unitDest (s : State) (p : Nat) (u : OpenUnit) : Option Dest :=
  match u.braid with
  | some b => if bActive (braidOf s b) then destOf s p (some b.val) else none
  | none => destOf s p none

def camRq (p : Nat) : Rq := { eng := some (35 + p) }

/-- A braid is served by another device whose route is down: it faults (R238, R572). -/
def spanLost (b : Nat) (pl : Place) (s : State) : State := if routeDown s pl then braidFault b St.linkDown none s else s

/-- A port's posted store to a channel on another device awaits its acknowledgement (R237, R569): a request of the braid. -/
def spanStore (p b : Nat) (c va : Nat) (pl : Place) (s : State) : State :=
  match pl with
  | .remote d _ o =>
    let r : RemoteReq :=
      { id := s.dom.nextReq, link := fin' 3 (routeLink s d.val o.toNat), dev := d, isStore := true, va := BitVec.ofNat 64 va, kind := .store, ctx := fin' 63 c, group := none
        cmd := none, eng := some (fin' 45 (35 + p)), braid := some (fin' 15 b), dst := [], issued := s.time }
    { s with dom := { s.dom with reqs := s.dom.reqs ++ [r], nextReq := s.dom.nextReq + 1 } }
  | _ => s

/-- A port writes bytes of a unit; over a lost link they are dropped, and the braid faults (R238, R572). -/
def portWrite (p : Nat) (d : Dest) (va : Nat) (bs : PB) (s : State) : Bool × State :=
  match writeVa d.ctx va bs (camRq p) s, d.braid with
  | (_, .ok, s), some b => (true, (pagePieces va bs.length).foldl (fun s x => match peek s d.ctx x.1 .store with | some pl => spanStore p b d.ctx x.1 pl s | none => s) s)
  | (_, .ok, s), none => (true, s)
  | (_, .fail st, s), some b => (false, if st = St.linkDown then braidFault b st none s else s)
  | (_, _, s), _ => (false, s)

/-- FREED of the destination; 0 where it cannot be read. -/
def destFreed (p : Nat) (d : Dest) (s : State) : Nat × State :=
  match d.braid with
  | some b =>
    (match knotPl b 8 s with
     | .peat _ => (bKnotVal b 8 s, s)
     | pl => let (w, _, s) := knotRead 0 pl s; (knotVal w, s))
  | none => let (v, s) := knotValRq (camRq p) d.ctx (camOf s p).freed.toNat s; (v.getD 0, s)

/-- Signal FILLED of the destination (R219); whether its translation held. -/
def destFilled (p : Nat) (d : Dest) (v : W64) (s : State) : Bool × State :=
  match d.braid with
  | some b => (true, spanLost b (knotPl b 0 s) (signal 0 (knotPl b 0 s) v s))
  | none => signalRq (camRq p) d.ctx (camOf s p).filled.toNat v s

/-! ### Stamps (R217, R327, R328) -/

/-- Steps 1 and 2 of R328: stale stamps go; the oldest eligible one is taken. -/
def takeStamp (p : Nat) (s : State) : Option Stamp × State :=
  let c := camOf s p
  let stale (x : Stamp) : Bool := decide (x.time.toNat + c.swmax.toNat < s.now)
  let rest := c.fifo.filter fun x => !(stale x)
  let pick := rest.find? fun x => decide (x.time.toNat + c.swmin.toNat ≤ s.now)
  let s := camStale p (c.fifo.filter stale).length s
  (pick, updCam p (fun c => { c with fifo := match pick with | some x => rest.erase x | none => rest }) s)

/-- The stamp fields of a unit; an unstamped one takes the axis's position and the time now, with NOSTAMP (R217). -/
def unitStamp (s : State) (ax : BitVec 3) (st : Option Stamp) : OpenUnit :=
  match st with
  | some x => { admitted := true, n := 0, pos := x.pos, time := x.time, seq := x.seq, flags := BitVec.ofNat 32 (b2n x.fine + 2 * b2n x.rev), axis := x.axis }
  | none =>
    let a := axis s ax.toNat
    let fine := a.mode == .fine || a.mode == .locked
    { admitted := true, n := 0, pos := axPos a s.now, time := s.time, seq := 0, flags := BitVec.ofNat 32 (b2n fine + 2 * b2n a.rev + 4), axis := ax }

/-! ### Admission (R218, R329) -/

/-- A unit is refused: counted in OVERRUN, of the port and of the braid, and in the DROPS of the next admitted unit. -/
def refuseUnit (p : Nat) (d : Dest) (u : OpenUnit) (s : State) : State :=
  let s := camOverrun p s
  let s := match d.braid with
    | some b => updBraid b (fun x => { x with overrun := satInc x.overrun, dropsPend := satInc x.dropsPend }) s
    | none => updCam p (fun c => { c with drops := satInc c.drops }) s
  updCam p (fun c => { c with open' := some { u with admitted := false, counted := true, braid := d.braid.map (fin' 15) } }) s

/-- A unit is admitted as unit n with the DROPS that stand. -/
def admitOpen (p : Nat) (d : Dest) (u : OpenUnit) (s : State) : State :=
  match d.braid with
  | some b =>
    let x := braidOf s b
    let s := updBraid b (fun x => { x with dropsPend := 0 }) (admitUnit b u.time s)
    updCam p (fun c => { c with cUnits := c.cUnits + 1, open' := some { u with n := x.admitted, drops := x.dropsPend, braid := some (fin' 15 b) } }) s
  | none =>
    updCam p (fun c => { c with units := c.units + 1, cUnits := c.cUnits + 1, drops := 0, open' := some { u with n := c.units, drops := c.drops } }) s

/-- The number of the next unit, and whether 2,048 are unresolved. -/
def destNext (s : State) (p : Nat) (d : Dest) : Nat × Bool :=
  match d.braid with
  | some b => ((braidOf s b).admitted.toNat, decide (2048 ≤ (braidOf s b).units.length))
  | none => ((camOf s p).units.toNat, false)

/-- A unit starts at a port (R217, R218, R328). A port whose braid does not run takes none (R326). -/
def unitStart (p : Nat) (s : State) : State :=
  let (st, s) := takeStamp p s
  let c := camOf s p
  match destOf s p (sourceBraid s p) with
  | none => updCam p (fun c => { c with open' := some { unitStamp s c.axis st with admitted := false } }) s
  | some d =>
    let ax := match d.braid with | some b => (braidOf s b).axis | none => c.axis
    let u := unitStamp s ax st
    let (n, full) := destNext s p d
    let (freed, s) := destFreed p d s
    if full || freed + d.ch.slots < n + 1 then refuseUnit p d u s else admitOpen p d u s

/-! ### Writing units (R211, R219, R330, R331) -/

def slotVa (d : Dest) (n : W64) : Nat := d.ch.base.toNat + n.toNat % (max d.ch.slots 1) * d.ch.slotSize

/-- A unit whose write faults is discarded: its number is used again. -/
def unitFault (p : Nat) (d : Dest) (u : OpenUnit) (s : State) : State :=
  let s := match d.braid with
    | some b => updBraid b (fun x => { x with admitted := x.admitted - 1, units := x.units.filter (·.1 != u.n), early := x.early.filter (·.1 != u.n), dropsPend := u.drops }) s
    | none => updCam p (fun c => { c with units := c.units - 1, drops := u.drops }) s
  camFault p (updCam p (fun c => { c with open' := some { u with admitted := false, counted := true } }) s)

/-- A write of a unit has failed: a translation fault discards it (R331); a braid that has faulted has no unit left (R232). -/
def unitLost (p : Nat) (d : Dest) (u : OpenUnit) (s : State) : State :=
  match d.braid with
  | some b => if bActive (braidOf s b) then unitFault p d u s else s
  | none => unitFault p d u s

/-- Payload bytes arrive for the open unit, cut at the slot's end, in line mode also at 32 KiB (R219, R330). -/
def unitBytes (p : Nat) (bs : List Byte) (s : State) : State :=
  let c := camOf s p
  match c.open' with
  | none => s
  | some u =>
    if !u.admitted then s else
    match unitDest s p u with
    | none => s
    | some d =>
      let room := d.ch.slotSize - 64
      let most := if c.frame then room else min room 32768
      let k := min bs.length (most - u.len)
      match portWrite p d (slotVa d u.n + 64 + u.len) (clean (bs.take k)) s with
      | (true, s) => updCam p (fun c => { c with open' := c.open'.map fun v =>
          { v with len := u.len + k, trunc := u.trunc || decide (k < bs.length) } }) s
      | (false, s) => unitLost p d u s

/-- Bytes 0x00-0x27 of the unit stamp (Table 6.6); USER is the strands'. -/
def stampBytes (p : Nat) (u : OpenUnit) : List Byte :=
  leBytes 8 u.pos.toNat ++ leBytes 8 u.time.toNat ++ leBytes 4 u.seq.toNat ++ leBytes 4 u.n.toNat ++ leBytes 4 (u.flags.toNat + 8 * b2n u.trunc) ++ leBytes 4 u.len ++
  leBytes 1 u.axis.toNat ++ leBytes 1 p ++ leBytes 2 0 ++ leBytes 4 u.drops.toNat

/-- The open unit ends: its stamp is written, then FILLED is signalled with n + 1. A fault of either discards the unit (R331). -/
def unitEnd (p : Nat) (s : State) : State :=
  match (camOf s p).open' with
  | none => s
  | some u =>
    let shut := updCam p (fun c => { c with open' := none })
    if !u.admitted then shut s else
    match unitDest s p u with
    | none => shut s
    | some d =>
      match portWrite p d (slotVa d u.n) (clean (stampBytes p u)) s with
      | (true, s) =>
        let (ok, s) := destFilled p d (u.n + 1) (shut s)
        if ok then s else shut (unitFault p d u s)
      | (false, s) => shut (unitLost p d u s)

/-! ### Packets of a sensor (R319-R323) -/

/-- A valid header has been decoded. -/
def camHeader (p : Nat) (s : State) : State := updCam p (fun c => { c with rx := true, lastHdr := s.time }) s

/-- Does the port accept a long packet's virtual channel and data type (R319)? -/
def camAccepts (c : Cam) (vc : BitVec 5) (dt : BitVec 6) : Bool :=
  c.en && vc == c.vc && (if c.dt = 0 then decide (0x18 ≤ dt.toNat) else dt == c.dt)

/-- An accepted long packet: a unit of its own in line mode, part of the open unit in frame mode. -/
def camLong (p : Nat) (bs : List Byte) (s : State) : State :=
  let c := camOf s p
  if c.frame then (if c.open'.isNone then camFrameErr p s else unitBytes p bs s)
  else unitEnd p (unitBytes p bs (unitStart p s))

/-- LONG_PACKET; the receiver of a port with EN = 0 is off (R580). `hdrOk` is false where the header has an uncorrectable error; `crcOk` is the payload's CRC (R320). -/
def execLongPacket (p : Fin 4) (vc : BitVec 5) (dt : BitVec 6) (payload : List Byte) (hdrOk crcOk : Bool) (t : W64) (s : State) : Res :=
  let s := s.at t
  if !(camOf s p).en then fin s
  else if !hdrOk then fin (camEccErr p s)
  else
    let s := camHeader p s
    if !(camAccepts (camOf s p) vc dt) then fin s
    else
      let s := if crcOk then s else camCrcErr p s
      fin (camLong p payload s)

/-- FRAME_START: in frame mode a unit begins; one that is open ends as received (R322). -/
def execFrameStart (p : Fin 4) (vc : BitVec 5) (t : W64) (s : State) : Res :=
  let s := s.at t
  let c := camOf s p
  let s := if c.en then camHeader p s else s
  if !c.en || !c.frame || vc != c.vc then fin s
  else
    let s := if c.open'.isSome then unitEnd p (camFrameErr p s) else s
    fin (unitStart p s)

/-- FRAME_END: the open unit ends (R322). -/
def execFrameEnd (p : Fin 4) (vc : BitVec 5) (t : W64) (s : State) : Res :=
  let s := s.at t
  let c := camOf s p
  let s := if c.en then camHeader p s else s
  if !c.en || !c.frame || vc != c.vc then fin s
  else if c.open'.isNone then fin (camFrameErr p s) else fin (unitEnd p s)

/-- CAM_RX_LOSS: 100 ms without a valid header. -/
def execCamRxLoss (p : Fin 4) (t : W64) (s : State) : Res :=
  let s := s.at t
  if (camOf s p).lastHdr.toNat + 100000000 ≤ s.now then fin (updCam p (fun c => { c with rx := false }) s) else fin s

/-! ### ISO demand of ports (R318, R337) -/

/-- Capacity of a port in sevenths of a byte a second: lanes x rate / 8, or trios x rate x 16 / 7 / 8. -/
def camCapacity (c : Cam) : Nat :=
  if c.cphy then c.lanes.toNat * c.rate.toNat * 2000000 else c.lanes.toNat * c.rate.toNat * 875000

/-- Capacity of a port with a ring in LPDDR, in sevenths of a byte a second. -/
def camLpddr (s : State) (c : Cam) : Nat :=
  if c.en && c.dest == 2 && rangeLpddr s c.ctx c.ring.base.toNat (c.ring.slots * c.ring.slotSize) .store then camCapacity c else 0

end Sys2Proof.Machine
end

