-- ==== Sys2Proof/Machine/Contexts.lean ====
section
/-! DEFINITION. Contexts.lean: contexts and queues: creating and destroying them (13 R448-R457, Tables 13.1, 13.2; 14 R478). -/
namespace Sys2Proof.Machine

/-- The function whose root queue carries a command. -/
def rootFn (s : State) (c : Cmd) : Nat := (queueOf s c.q).fn.val

/-- CONTEXT_CREATE (R448, R449, R478). -/
def startContextCreate (c : Cmd) (s : State) : Go × State :=
  let fn := rootFn s c
  let root := dq c.pkt 10
  let part := if fn = 0 then some (fld (dw c.pkt 8) 2 0) else vfPart s (fn - 1)
  match part with
  | none => (.ended St.paramRange, s)
  | some p =>
    if !(partOf s p).en || root % 4096 != 0 || decide (2 ^ 36 ≤ root) then (.ended St.paramRange, s)
    else match (List.range 64).find? fun i => (ctxOf s i).life == .free with
      | none => (.ended St.contextLimit, s)
      | some i =>
        let s := updCtx i (fun x => { life := .live, part := fin' 7 p, fn := fin' 8 fn, generation := x.generation + 1, root := BitVec.ofNat 64 root }) s
        (.ended St.success, setRes0 c.id i s)

/-- The context a packet of a root queue names, if it is LIVE. -/
def namedLive (s : State) (c : Cmd) : Bool := decide (cmdCtx c < 64) && (ctxOf s (cmdCtx c)).life == .live

/-- QUEUE_CREATE (R451, R452). -/
def startQueueCreate (c : Cmd) (s : State) : Go × State :=
  let d := dw c.pkt 8
  let fn := rootFn s c
  let sz (n : Nat) : Bool := decide (4 ≤ n) && decide (n ≤ 16)
  if !(namedLive s c) || fld d 1 0 == 3 || !(sz (fld d 12 8)) || !(sz (fld d 20 16)) || decide (vectors fn ≤ fld d 29 24) || dq c.pkt 10 % 4096 != 0 || dq c.pkt 12 % 4096 != 0 then
    (.ended St.paramRange, s)
  else match (List.range 248).find? fun i => i != 0 && (queueOf s i).life == .free with
    | none => (.ended St.queueLimit, s)
    | some i =>
      let x : Queue :=
        { life := .live, fn := fin' 8 fn, ctx := fin' 63 (cmdCtx c), kind := BitVec.ofNat 2 (fld d 1 0), share := BitVec.ofNat 4 (fld d 7 4), size := fld d 12 8
          csize := fld d 20 16, vector := fld d 29 24, ring := BitVec.ofNat 64 (dq c.pkt 10), cring := BitVec.ofNat 64 (dq c.pkt 12) }
      (.ended St.success, setRes0 c.id i (updQueue i (fun _ => x) s))

/-- The commands of a queue end without records (R453). -/
def endQueue (q : Nat) (st : Status) (s : State) : State :=
  let s := (s.ex.cmds.filter fun y => y.q.val == q).foldl (endSilently st) s
  withdraw (fun r _ => match r with | .fetch k => k.val == q | _ => false) s

/-- Why a QUEUE_DESTROY fails (R423, R453). -/
def queueDestroyBad (c : Cmd) (s : State) : Option Status :=
  let x := queueOf s (fld (dw c.pkt 8) 7 0)
  let fn := rootFn s c
  if fn ≠ 0 && x.life != .free && !x.root && vfPart s (fn - 1) != some (ctxOf s x.ctx).part.val then some St.privileged
  else if x.life == .free || x.root || x.ctx.val != cmdCtx c then some St.paramRange
  else none

/-- At its acceptance a QUEUE_DESTROY takes the queue to DESTROYING (Table 13.1). -/
def markQueue (c : Cmd) (s : State) : State :=
  if (queueDestroyBad c s).isSome then s else updQueue (fld (dw c.pkt 8) 7 0) (fun x => { x with life := .destroying }) s

/-- QUEUE_DESTROY (R453). -/
def startQueueDestroy (c : Cmd) (s : State) : Go × State :=
  match queueDestroyBad c s with
  | some st => (.ended st, s)
  | none =>
    let q := fld (dw c.pkt 8) 7 0
    (.ended St.success, updQueue q (fun _ => {}) (endQueue q St.queueDestroyed s))

/-! ### CONTEXT_DESTROY -/

/-- Step 1: the attachments of its passes and direct draws hold unspecified values from now on (08 R317); its queues' commands end, and those that root queues perform for it end with a record. -/
def destroyWork (c : Nat) (me : Option Nat) (s : State) : State :=
  let s := updCtx c (fun x => { x with life := .destroying }) s
  let s := (s.gx.passes.filter (·.ctx.val == c)).foldl (fun s p => freeAttachments p s) s
  let qs := ctxQueues s c
  let s := qs.foldl (fun s q => updQueue q (fun x => { x with life := .destroying }) (endQueue q St.contextDestroyed s)) s
  (s.ex.cmds.filter fun y => cmdCtx y == c && some y.id != me && y.phase != .waiting && pktOpcode y.pkt != 0xA1).foldl
    (fun s y => killCmd y St.contextDestroyed s) s

/-- Step 2: braids and passes. -/
def destroyBraids (c : Nat) (s : State) : State :=
  let s := (List.range 16).foldl (fun s b =>
    let x := braidOf s b
    if x.state != .free && x.ctx.val == c then
      freeBraid b (if bActive x then haltBraid b .stopped s else s)
    else s) s
  (s.gx.passes.filter (·.ctx.val == c)).foldl (fun s p => endPass p s) (settleOrphans s)

/-- Step 3: cameras with DEST 2, layers and writeback, and the remote operations made for the context, whose answers find no one. -/
def destroyDma (c : Nat) (s : State) : State :=
  let cam (x : Cam) : Cam := if x.en && x.dest == 2 && x.ctx.val == c then { x with en := false, open' := none } else x
  let lay (x : Layer) : Layer := if x.shadow.ctx.val == c && x.shadow.en then { x with shadow := { x.shadow with en := false }, dirty := true } else x
  let s := { s with dom := { s.dom with reqs := s.dom.reqs.filter (·.ctx.val != c) } }
  updGx (fun g => { g with
    cams := g.cams.map cam, layers := g.layers.map lay
    wb := if g.wb.shadow.ctx.val == c && g.wb.shadow.en then { g.wb with shadow := { g.wb.shadow with en := false }, dirty := true } else g.wb }) s

/-- Step 4: the knots of the signal set that are mapped writable are abandoned; their number. -/
def abandonSet (c : Nat) : List W64 → Nat → State → Nat × State
  | [], n, s => (n, s)
  | va :: r, n, s =>
    match translate c va.toNat .store s with
    | (.ok _ (.lpddr _), s) => abandonSet c r n s
    | (.ok _ pl, s) => abandonSet c r (n + 1) (abandon (ctxFn s c) pl s)
    | (_, s) => abandonSet c r n s

/-- Step 5: models, signature entries and graphs (DEDUCED, unsafe, log 45). -/
def destroyModels (c : Nat) (s : State) : State :=
  let s := (List.range 1024).foldl (fun s m =>
    let x := modelOf s m
    if x.state != .empty && x.ctx.val == c && !x.orphan then
      if x.shared && 0 < selUses m s then updModel m (fun x => { x with orphan := true }) s
      else settleEvict m (updModel m (fun x => { x with state := .evicting }) s)
    else s) s
  let s := updGx (fun g => { g with sigdir := g.sigdir.filter (·.ctx.val != c) }) s
  (List.range 256).foldl (fun s g =>
    let x := graphOf s g
    if x.ctx.val == c && (x.live || !x.vers.isEmpty) then settleGraph g (updGraph g (fun x => { x with live := false }) s) else s) s

/-- Steps 1 to 5, and the withdrawal of step 6: the knots abandoned. -/
def destroyBegin (c : Nat) (me : Option Nat) (s : State) : Nat × State :=
  let s := destroyDma c (destroyBraids c (destroyWork c me s))
  let (n, s) := abandonSet c (ctxOf s c).sigset 0 s
  let s := destroyModels c s
  let s := withdraw (fun _ x => x.val == c) s
  (n, updCtx c (fun x => { x with abandoned := BitVec.ofNat 32 n }) s)

/-- Is a command the CONTEXT_DESTROY that destroys context `c`? -/
def destroys (c : Nat) (y : Cmd) : Bool := match y.work with | .destroy k => k.val == c | _ => false

/-- The command whose steps destroy context `c`: the first accepted of those that name it (R457). -/
def destroyer (c : Nat) (s : State) : Option Cmd := s.ex.cmds.find? (destroys c)

/-- What a destroyed context left on a core is no longer its number's: the next context of that number is another one (R88). -/
def forgetCtx (c : Nat) (k : Core) : Core :=
  { k with regCtx := k.regCtx.map fun l => l.filter (·.1.val != c), lmCtx := k.lmCtx.map fun o => o.filter (·.val != c) }

/-- Step 7: an epoch with the context and its queues FREE, and the release walk pending (R461); ICN source 64 + c. -/
def destroyEnd (c : Nat) (s : State) : State :=
  let x := ctxOf s c
  let s := (ctxQueues s c).foldl (fun s q => updQueue q (fun _ => {}) s) s
  let s := updCtx c (fun x => { x with life := .free, lastStatus := 0, sigset := [] }) s
  let s := updEx (fun e => { e with cores := e.cores.map (forgetCtx c) }) s
  let s := xlUpd (fun y => { y with walksPend := y.walksPend ++ [(x.root, partOf s x.part)] }) s
  let s := publish s
  let s := match destroyer c s with
    | some y => setRes0 y.id x.abandoned.toNat s
    | none => s
  icnPulse (64 + c) ((s.ex.cmds.filter (destroys c)).foldl (fun s y => finish y.id St.success s) s)

/-- At its acceptance a CONTEXT_DESTROY sets a LIVE context and its queues to DESTROYING in one step (R454). -/
def markContext (id c : Nat) (s : State) : State :=
  let s := updCmd id (fun y => { y with work := .destroy (fin' 63 c) }) s
  if (ctxOf s c).life != .live then s
  else
    let s := (ctxQueues s c).foldl (fun s q => updQueue q (fun x => { x with life := .destroying }) s) s
    updCtx c (fun x => { x with life := .destroying }) s

/-- CONTEXT_DESTROY (R454, R457): steps 1 to 5, then it waits for its invalidation; a later one that names the context waits for the
first. -/
def startContextDestroy (c : Cmd) (s : State) : Go × State :=
  let x := cmdCtx c
  if 64 ≤ x then (.ended St.paramRange, s)
  else
    let s := updCmd c.id (fun y => { y with work := .destroy (fin' 63 x) }) s
    if (ctxOf s x).life == .free then (.ended St.success, s)
    else if (destroyer x s).map (·.id) == some c.id then
      let (_, s) := destroyBegin x (some c.id) s
      let (_, s) := invalStart x 0 (2 ^ 24) [] [] (some c.id) s
      (.running, s)
    else (.running, s)

/-- A context is destroyed at once, within a reset (11 R382, R383). -/
def destroyNow (c : Nat) (s : State) : State :=
  if (ctxOf s c).life == .free then s
  else
    let begun : Bool := match destroyer c s with | some y => y.phase == .running | none => false
    let s := if begun then s else (destroyBegin c none s).2
    destroyEnd c (xlDrop c 0 (2 ^ 24) s)

end Sys2Proof.Machine
end

