-- ==== Sys2Proof/Machine/Trans.lean ====
section
/-! DEFINITION. Trans.lean: the translation packets and events: mapping, invalidations, fault replies, the fault queue's
registers, frame counts and their scans (13 R458-R464, R469; 14 R484-R504). -/
namespace Sys2Proof.Machine

/-! ### MEM_MAP and MEM_UNMAP (R484-R486) -/

/-- Where the leaf entry of a page lies under its directory entry. -/
def leafAddr (d : W64) (page : Nat) : Nat := fld d 34 15 * 32768 + 8 * (page % 4096)

/-- The leaf entry of a page as a map or an unmap finds it: its memory, its address, whether its word may be used, and the word. -/
structure Leaf where
  page : Nat
  lp : Bool
  a : Nat
  clean : Bool
  e : W64
  deriving DecidableEq, Repr

/-- No leaf entry: the directory entry is invalid, or a walk read that R483 does not allow faults. -/
inductive LeafAns where
  | none
  | bad (dir : Bool) (e : W64)
  | ok (x : Leaf)
  deriving DecidableEq, Repr

/-- The leaf entry of a page. A poisoned word in a table inside the partition is found as such: it may be written over, and no entry of it
is known (R483-R485; DESIGN CHOICE, unsafe, log 49). -/
def leafAt (c page : Nat) (s : State) : LeafAns × State :=
  let part := (ctxOf s c).part.val
  match dirEntry c part (page * 65536) s with
  | ((false, d), s) => (.bad true d, s)
  | ((true, d), s) =>
    if !bit d 0 || dirBad d then (.none, s)
    else if !(inPartition s part (bit d 1) (leafAddr d page) 8) then (.bad false 0, s)
    else
      let (e, s) := walkRead part (bit d 1) (leafAddr d page) s
      (.ok { page := page, lp := bit d 1, a := leafAddr d page, clean := e.1, e := if e.1 then e.2 else 0 }, s)

/-- The leaf entries of pages in order, without those whose directory entry is invalid; whether there is one, and the first that faults. -/
def leavesAt (c : Nat) : List Nat → State → Except (Nat × Bool × W64) (List Leaf × Bool) × State
  | [], s => (.ok ([], false), s)
  | p :: r, s =>
    match leafAt c p s with
    | (.bad d e, s) => (.error (p, d, e), s)
    | (.none, s) => (match leavesAt c r s with | (.ok (l, _), s) => (.ok (l, true), s) | x => x)
    | (.ok x, s) => (match leavesAt c r s with | (.ok (l, h), s) => (.ok (x :: l, h), s) | x => x)

/-- A map or an unmap that R483 stops: KIND TABLE under FAIL. -/
def leafFault (c : Cmd) (k : Access) (x : Nat × Bool × W64) (s : State) : Go × State :=
  (.ended (failStatus 2), fqInfo (faultWords 0xFFFF 2 1 (cmdCtx c) (x.1 * 65536) true x.2.1 k c.who.rq x.2.2 s.time) s)

/-- Entry fields of MEM_MAP (Table 12.9). -/
structure MapF where
  tgt : Nat
  rdev : Nat
  r : Bool
  w : Bool
  x : Bool
  cache : Nat
  cls : Nat
  contig : Bool
  deriving DecidableEq, Repr

def mapF (p : Pkt) : MapF :=
  let d := dw p 11
  { tgt := fld d 1 0, rdev := fld d 5 2, r := bit d 6, w := bit d 7, x := bit d 8, cache := fld d 10 9, cls := fld d 12 11, contig := bit d 13 }

/-- Does the map write valid entries? With R, W and X all 0 it writes V = 0 (R484). -/
def MapF.valid (f : MapF) : Bool := f.r || f.w || f.x
/-- The leaf entry written for a frame (Table 14.2). -/
def MapF.entry (f : MapF) (frame : Nat) : W64 :=
  if f.valid then
    BitVec.ofNat 64 (1 + 2 * f.tgt + 8 * f.rdev + 128 * b2n f.r + 256 * b2n f.w + 512 * b2n f.x + 1024 * f.cache + 4096 * f.cls + 65536 * frame)
  else BitVec.ofNat 64 (4096 * f.cls)

/-- May the entries name this frame (R469, R484, Table 14.3)? -/
def frameOk (s : State) (part : Nat) (f : MapF) (frame : Nat) : Bool :=
  decide (frame < 2 ^ 28) &&
  match f.tgt with
  | 0 => inPartition s part false (frame * 65536) 65536
  | 1 => inPartition s part true (frame * 65536) 65536
  | _ => true

/-- The frame count of a frame (R458). -/
def countOf (s : State) (lp : Bool) (f : Nat) : Nat := (pairGet (if lp then s.mm.xl.cntLpddr else s.mm.xl.cntPeat) f).getD 0
/-- Would a count pass 0xFFFF_FFFF (R464)? -/
def countsOver (s : State) (lp : Bool) (fs : List Nat) : Bool := fs.any fun f => decide (0xFFFFFFFF < countOf s lp f + fs.count f)

/-- Write entries in ascending page order, each as one 8-byte write. -/
def writeLeaves : List (Leaf × W64) → State → State
  | [], s => s
  | (x, e) :: r, s => writeLeaves r (writeDev x.lp x.a (clean (leBytes 8 e.toNat)) s)

/-- A valid entry of target 3 is counted by the device it names: a message for each (R458, R459). -/
def farEntry (e : W64) : Option Nat := if bit e 0 && !leafBad e && leafTgt e == 3 then some (fld e 6 3) else none
def countFar (es : List W64) (s : State) : State :=
  (es.filterMap farEntry).foldl (fun s d => match remoteLink s d 0 with | some k => linkTx k s | none => linkDrop (routeLink s d 0) s) s

/-- One invalidation for each replaced entry that may have been valid; their numbers (R484, R501). -/
def invalEach (c cmd : Nat) : List Leaf → State → List Nat × State
  | [], s => ([], s)
  | x :: r, s =>
    if !x.clean || (bit x.e 0 && !leafBad x.e) then
      let (sp, sl) : List Nat × List Nat := match countedFrame x.e with | some (false, f) => ([f], []) | some (true, f) => ([], [f]) | none => ([], [])
      let (i, s) := invalStart c x.page 1 sp sl (some cmd) s
      let (is, s) := invalEach c cmd r s
      (i :: is, s)
    else invalEach c cmd r s

/-- A translation command that waits for nothing more ends: its added frames are counted; while a scan runs a command that
changes counts waits (R459, R463). -/
def invalSettle (c : Cmd) (s : State) : State :=
  match c.work with
  | .inval [] add counts =>
    if counts && s.mm.xl.scanning then s else finish c.id St.success (add.foldl (fun s x => frameCount x.1 x.2 true s) s)
  | _ => s
def settleInval (c : Nat) (s : State) : State := match findCmd s c with | some x => if x.phase == .done then s else invalSettle x s | none => s

/-- Set what a command waits for; it ends at once if it waits for nothing. -/
def invalWait (c : Cmd) (ids : List Nat) (add : List (Bool × Nat)) (counts : Bool) (s : State) : Go × State :=
  let w : Work := .inval ids add counts
  let s := updCmd c.id (fun x => { x with work := w }) s
  (.running, settleInval c.id s)

/-- The frames of a MEM_MAP (R484): consecutive, or read from its list once. -/
def mapFrames (c : Cmd) (f : MapF) (n : Nat) (s : State) : Rd (List Nat) × State :=
  if f.contig then (.ok ((List.range n).map fun i => dq c.pkt 12 + i), s)
  else match c.who.read (dq c.pkt 12) (4 * n) .load s with
    | (.ok bs, s) => (.ok ((bytesWords bs).map (·.toNat)), s)
    | (.fail st o, s) => (.fail st o, s)
    | (.stall, s) => (.stall, s)

/-- Are both ways to a device down, so that its frame counts cannot be changed (R459, R572)? -/
def deviceCut (s : State) (dev : Nat) : Bool := (remoteLink s dev 0).isNone && (remoteLink s dev 0x1000).isNone

/-- Does the device that entries of target 3 name answer that a count would pass the limit (R464)? Its counts are not known here (DESIGN
CHOICE, safe, log 111). -/
def farOver (far : Bool) (s : State) : Bool × State :=
  if far then ((Config.freeValue s.freeCtr).toNat % 2 == 1, { s with freeCtr := s.freeCtr + 1 }) else (false, s)

/-- MEM_MAP (R464, R469, R484, R568). -/
def startMemMap (c : Cmd) (s : State) : Go × State :=
  let f := mapF c.pkt
  let x := cmdCtx c
  let part := (ctxOf s x).part.val
  let n := (dw c.pkt 10).toNat
  let page := dq c.pkt 8 / 65536
  let pages := (List.range n).map (page + ·)
  if f.cache = 3 ∨ f.cls = 3 ∨ (f.tgt ≠ 3 ∧ f.rdev ≠ 0) then (.ended St.paramRange, s)
  else if f.tgt = 3 && !(linksPresent s.part) then (.ended St.resourceAbsent, s)
  else if f.tgt = 3 && f.rdev = s.dom.id.toNat then (.ended St.paramRange, s)
  else
    match leavesAt x pages s with
    | (.error e, s) => leafFault c .store e s
    | (.ok (_, true), s) => (.ended St.paramRange, s)
    | (.ok (old, _), s) =>
      Rd.run (mapFrames c f n s) fun frames s =>
        if f.valid && !(frames.all (frameOk s part f)) then (.ended St.paramRange, s)
        else if f.valid && f.tgt = 3 && deviceCut s f.rdev then (.ended St.linkDown, linkDrop (routeLink s f.rdev 0) s)
        else
          let lp := decide (f.tgt = 1)
          let counted := f.valid && decide (f.tgt ≤ 1)
          let (past, s) := farOver (f.valid && f.tgt == 3) s
          if (counted && countsOver s lp frames) || past then (.ended St.frameCountLimit, s)
          else
            let s := countFar (old.map (·.e) ++ frames.map f.entry) (writeLeaves (old.zip (frames.map f.entry)) s)
            let (ids, s) := invalEach x c.id old s
            let subs := old.any fun e => (countedFrame e.e).isSome
            invalWait c ids (if counted then frames.map fun k => (lp, k) else []) (counted || subs) s

/-- MEM_UNMAP (R485). -/
def startMemUnmap (c : Cmd) (s : State) : Go × State :=
  let x := cmdCtx c
  let n := (dw c.pkt 10).toNat
  let page := dq c.pkt 8 / 65536
  match leavesAt x ((List.range n).map (page + ·)) s with
  | (.error e, s) => leafFault c .store e s
  | (.ok (old, _), s) =>
    let old := old.filter fun l => !l.clean || l.e != 0
    let s := countFar (old.map (·.e)) (writeLeaves (old.map fun l => (l, 0)) s)
    let fs := old.filterMap fun l => countedFrame l.e
    let (i, s) := invalStart x page n ((fs.filter fun k => !k.1).map (·.2)) ((fs.filter fun k => k.1).map (·.2)) (some c.id) s
    invalWait c [i] [] (!fs.isEmpty) s

/-- XL_INVALIDATE (R501). -/
def startXlInvalidate (c : Cmd) (s : State) : Go × State :=
  let (i, s) := invalStart (cmdCtx c) (dq c.pkt 8 / 65536) (dw c.pkt 10).toNat [] [] (some c.id) s
  invalWait c [i] [] false s

/-! ### Completion of an invalidation (R502, R504) -/

/-- The invalidation's effect: matching entries are dropped, residency and the signature directory are recomputed, the
frames it frees are counted down. -/
def invalEffect (v : Inval) (s : State) : State :=
  let s := xlUpd (fun x => { x with invals := x.invals.filter (·.id != v.id) }) (xlDrop v.ctx v.page v.npages s)
  let s := sigInvalidate v.ctx v.page v.npages (recomputeResidency v.ctx v.page v.npages s)
  let s := v.subPeat.foldl (fun s f => frameCount false f false s) s
  v.subLpddr.foldl (fun s f => frameCount true f false s) s

/-- What waited for it goes on: a translation command, or CONTEXT_DESTROY's step 7. -/
def invalAfter (v : Inval) (s : State) : State :=
  match v.cmd.bind (findCmd s) with
  | none => s
  | some c =>
    match c.work with
    | .inval ids add counts =>
      let w : Work := .inval (ids.filter (· != v.id)) add counts
      settleInval c.id (updCmd c.id (fun x => { x with work := w }) s)
    | .destroy k => destroyEnd k s
    | _ => s

/-- Does a snapshot's hold keep step 7 of a destroy waiting (Table 13.3)? -/
def invalHeld (v : Inval) (s : State) : Bool :=
  holding s && match v.cmd.bind (findCmd s) with
    | some c => (match c.work with | .destroy _ => true | _ => false)
    | none => false

/-- INVALIDATION_COMPLETE: every holder has acknowledged invalidation `i`. -/
def execInvalidationComplete (i : Nat) (s : State) : Res :=
  match s.mm.xl.invals.find? (·.id == i) with
  | none => done s
  | some v => if invalHeld v s then done s else done (invalAfter v (invalEffect v s))

/-! ### Walks and replies (R488, R493, R498, R499) -/

/-- The access of an engine whose own record keeps nothing of it. -/
def engRq (e : Nat) : Rq := { who := if neverWaits e then none else some (.engine (fin' 45 e)), eng := some e }

/-- Address of a slot by its count. -/
def ringSlotVa (x : Queue) (n : Nat) : Nat := x.ring.toNat + 64 * (n % 2 ^ x.size)

/-- Does a fetch of a queue that faulted at `va` read the header of its next packet? -/
def fetchHeader (s : State) (q va : Nat) : Bool := let x := queueOf s q; ringSlotVa x x.fetch.toNat == va

/-- One requester takes the reply (R498). RETRY repeats an engine's walk at its own address; a braid whose strand is aborted faults (R234); an
aborted slot fetch treats its slot as poisoned (R398). -/
def resumeOne (abort : Bool) (s : State) (r : PmtReq) : State :=
  match r.who with
  | .group g =>
    if abort then match findGrp s g with | some x => failOwner x St.xlAborted s | none => s
    else missGo r s
  | .cmd c =>
    match findCmd s c with
    | some x =>
      if !abort then s
      else if x.phase == .done then updCmd c (fun x => if statusOk x.status then { x with status := St.xlAborted } else x) s
      else killCmd x St.xlAborted s
    | none => s
  | .fetch q => updQueue q (fun x => { x with stalled := false, abortFetch := if abort then some (fetchHeader s q.val r.va) else none }) s
  | .engine e => if abort then s else (xl r.ctx r.va r.kind (engRq e) s).2

/-- FAULT_RESUME. Commands that waited start again when their queue next does (`kick`). -/
def startFaultResume (c : Cmd) (s : State) : Go × State :=
  let d := dw c.pkt 8
  let id := fld d 15 0
  let fn := rootFn s c
  match s.mm.xl.pmt.find? fun e => e.posted && e.recId.toNat == id with
  | none => (.ended St.success, s)
  | some e =>
    let ctxs := setBits (e.words.getD 3 0)
    if fn ≠ 0 && ctxs.any (fun k => vfPart s (fn - 1) != some (ctxOf s k).part.val) then (.ended St.privileged, s)
    else
      let s := pmtRelease e.idx s
      (.ended St.success, e.reqs.foldl (resumeOne (bit d 16)) s)

/-! ### The fault queue's registers (R495-R497) -/

/-- XL_FQBASE: BASE is kept while EN = 1; setting EN zeroes TAIL and HEAD. -/
def writeFqbase (v : W64) (s : State) : State :=
  let b := s.mm.xl.fqbase
  let keep := bit b 0
  let base := if keep then fld b 63 12 else fld v 63 12
  let s := xlUpd (fun x => { x with fqbase := BitVec.ofNat 64 (4096 * base + b2n (bit v 0)) }) s
  let s := if bit v 0 && !keep then xlUpd (fun x => { x with tail := 0, head := 0 }) s else s
  fqDrain 256 s
/-- XL_FQBASE_WRITE. -/
def execXlFqbaseWrite (v : W64) (s : State) : Res := done (writeFqbase v s)

/-- XL_FQCFG. -/
def writeFqcfg (v : W32) (s : State) : State := if bit s.mm.xl.fqbase 0 then s else xlUpd (fun x => { x with fqcfg := v &&& 0x1F }) s

/-- XL_FQHEAD: an accepted value frees room for waiting records (R497). -/
def writeFqhead (v : W32) (s : State) : State :=
  if (s.mm.xl.tail - v).toNat ≤ 2 ^ fqSize s.mm.xl then fqDrain 256 (xlUpd (fun x => { x with head := v }) s)
  else xlUpd (fun x => { x with headErr := true }) s
/-- XL_FQHEAD. -/
def execXlFqhead (v : W32) (s : State) : Res := done (writeFqhead v s)

/-- XL_STAT, and XL_COUNT as one number. -/
def xlStat (s : State) : Nat :=
  let x := s.mm.xl
  b2n (x.pmt.any fun e => !e.posted) + 2 * b2n (!x.missq.isEmpty) + 4 * b2n x.headErr + 2 ^ 16 * x.pmt.length
def xlCount (s : State) : Nat :=
  let x := s.mm.xl
  x.walks.toNat + 2 ^ 32 * x.waits.toNat + 2 ^ 64 * x.infoLost.toNat + 2 ^ 96 * x.zeroed.toNat

/-! ### Frame-count scans and release walks (R461-R463) -/

/-- A scan starts: it waits while a release walk is pending. -/
def scanStart (s : State) : State :=
  if s.mm.xl.walksPend.isEmpty then xlUpd (fun x => { x with scanning := true, scanPending := false }) s
  else xlUpd (fun x => { x with scanPending := true }) s

/-- XL_REFQ: FIRST, TGT and NFRAMES are set by every write (Table 0.4, RW); GO starts a scan of that range and is ignored while
BUSY = 1 (R463). -/
def writeRefq (v : W64) (s : State) : State :=
  let q := v &&& 0x0000FFFF1FFFFFFF
  let s := xlUpd (fun x => { x with refq := q }) s
  if bit v 63 && !s.mm.xl.scanning then scanStart (xlUpd (fun x => { x with scanQ := q }) s) else s
/-- XL_REFQ. -/
def execXlRefq (v : W64) (s : State) : Res := done (writeRefq v s)

/-- The number of frames of a target. -/
def framesOf (s : State) (lp : Bool) : Nat := if lp then lpddrMib s * 16 else peatBytes s.part / 65536

/-- What a scan reports: ERR, NONZERO, MAXCOUNT. -/
def scanResult (s : State) : Bool × Nat × Nat :=
  let q := s.mm.xl.scanQ
  let lp := bit q 28
  let first := fld q 27 0
  let n := fld q 47 32 + 1
  if framesOf s lp < first + n then (true, 0, 0)
  else
    let cs := ((if lp then s.mm.xl.cntLpddr else s.mm.xl.cntPeat).filter fun c => decide (first ≤ c.1) && decide (c.1 < first + n)).map (·.2)
    (false, cs.length, cs.foldl max 0)

/-- SCAN_COMPLETE: the result stands; what waited for the scan changes the counts now. -/
def execScanComplete (s : State) : Res :=
  if !s.mm.xl.scanning then done s
  else
    let (e, n, m) := scanResult s
    let held := s.mm.xl.heldCnt
    let s := xlUpd (fun x => { x with scanning := false, scanErr := e, nonzero := n, maxcount := BitVec.ofNat 32 m, heldCnt := [] }) s
    let s := held.foldl (fun s x => frameCount x.1 x.2.1 x.2.2 s) s
    done ((s.ex.cmds.map (·.id)).foldl (fun s c => settleInval c s) s)

def xlRefstat (s : State) : Nat :=
  let x := s.mm.xl
  b2n x.scanning + 2 * b2n x.scanErr + 4 * b2n (!x.walksPend.isEmpty) + 2 ^ 15 * x.nonzero + 2 ^ 32 * x.maxcount.toNat

/-- The first `k` entries of a leaf table, as far as the partition `p` may read them. -/
def leafEntries (p : Partition) (d : W64) : Nat → State → List W64 × State
  | 0, s => ([], s)
  | k + 1, s =>
    let (l, s) := leafEntries p d k s
    let (e, s) := areaRead p (bit d 1) (leafAddr d k) s
    (if e.1 then l ++ [e.2] else l, s)

/-- The entries under a directory entry as read. -/
def dirEntries (p : Partition) (d : Bool × W64) (s : State) : List W64 × State :=
  if d.1 && bit d.2 0 && !dirBad d.2 then leafEntries p d.2 4096 s else ([], s)

/-- The entries under the first `k` directory entries of a translation. -/
def treeEntries (root : W64) (p : Partition) : Nat → State → List W64 × State
  | 0, s => ([], s)
  | k + 1, s =>
    let (l, s) := treeEntries root p k s
    let (d, s) := areaRead p (bit root 35) (fld root 34 0 + 8 * k) s
    let (m, s) := dirEntries p d s
    (l ++ m, s)

/-- The entries of a walk are counted down, and it is no longer pending; a scan that waited starts after the last. -/
def walkEnd (rest : List (W64 × Partition)) (t : List W64 × State) : State :=
  let s := (t.1.filterMap countedFrame).foldl (fun s x => frameCount x.1 x.2 false s) (countFar t.1 t.2)
  let s := xlUpd (fun x => { x with walksPend := rest }) s
  if rest.isEmpty && s.mm.xl.scanPending then scanStart s else s

/-- RELEASE_WALK: the steward's walk of the first destroyed context ends. -/
def execReleaseWalk (s : State) : Res :=
  match s.mm.xl.walksPend with
  | [] => done s
  | (root, p) :: r => if s.mm.xl.scanning then done s else done (walkEnd r (treeEntries root p 4096 s))

end Sys2Proof.Machine
end

