-- ==== Sys2Proof/Machine/Display.lean ====
section
/-! DEFINITION. Display.lean: CAM_CONFIG and LAYER_SET, composition, writeback and the display outputs (09 R324-R345; 12 Tables
12.13, 12.14). -/
namespace Sys2Proof.Machine

def layerOf (s : State) (n : Nat) : Layer := tabD s.gx.layers n {}
def dpoOf (s : State) (d : Nat) : Dpo := tabD s.gx.dpos d {}
def updLayer (n : Nat) (f : Layer → Layer) (s : State) : State := updGx (fun g => { g with layers := tabUpd g.layers n f }) s
def updDpo (d : Nat) (f : Dpo → Dpo) (s : State) : State := updGx (fun g => { g with dpos := tabUpd g.dpos d f }) s
def updWb (f : Writeback → Writeback) (s : State) : State := updGx (fun g => { g with wb := f g.wb }) s

def hActive (x : Dpo) : Nat := fld x.h 15 0
def hTotal (x : Dpo) : Nat := fld x.h 31 16
def vActive (x : Dpo) : Nat := fld x.v 15 0
def vTotal (x : Dpo) : Nat := fld x.v 31 16
def dpoOn (x : Dpo) : Bool := bit x.ctrl 0

/-! ### ISO demand (R337) -/

/-- A sum of demands as bytes a frame of each output. -/
abbrev Demand := Nat × Nat

/-- Bytes a frame of a layer's shadow set. -/
def layerFrame (x : LayerSet) : Nat := if x.en then x.w * x.h * formatBytes x.format.toNat else 0
def wbFrame (s : State) (x : LayerSet) : Nat := if x.en then hActive (dpoOf s x.output.val) * vActive (dpoOf s x.output.val) * 4 else 0

def demandAdd (d : Demand) (o n : Nat) : Demand := if o = 0 then (d.1 + n, d.2) else (d.1, d.2 + n)

/-- Bytes of one buffer of a layer. -/
def bufBytes (x : LayerSet) : Nat := if x.compressed then tilesX x.bw * ((x.bh + 31) / 32) * 4096 else x.pitch * x.bh
/-- Does a buffer of a layer lie in LPDDR? -/
def layerLpddr (s : State) (x : LayerSet) : Bool := (x.bufs.take x.nbuf).any fun b => rangeLpddr s x.ctx b.toNat (bufBytes x) .load
def wbLpddr (s : State) (x : LayerSet) : Bool :=
  (x.bufs.take x.nbuf).any fun b => rangeLpddr s x.ctx b.toNat (x.pitch * vActive (dpoOf s x.output.val)) .store

/-- Bytes a frame of the shadow sets: all of them, or those in LPDDR. -/
def demand (s : State) (lp : Bool) : Demand :=
  let d := s.gx.layers.toList.foldl (fun d (l : Layer) => if !lp || layerLpddr s l.shadow then demandAdd d l.shadow.output.val (layerFrame l.shadow) else d) (0, 0)
  let w := s.gx.wb.shadow
  if !lp || wbLpddr s w then demandAdd d w.output.val (wbFrame s w) else d

/-- The demand in bytes a second as a fraction: the refresh rate is PCLK / (HTOTAL x VTOTAL); an output without timings has
none. -/
def demandRate (s : State) (d : Demand) : Nat × Nat :=
  let den (o : Nat) : Nat := let n := hTotal (dpoOf s o) * vTotal (dpoOf s o); if n = 0 then 1 else n
  let num (o n : Nat) : Nat := if hTotal (dpoOf s o) * vTotal (dpoOf s o) = 0 then 0 else n * (fld (dpoOf s o).pclk 19 0 * 1000)
  (num 0 d.1 * den 1 + num 1 d.2 * den 0, den 0 * den 1)

/-- Would the shadow sets and rings pass R337's limits? -/
def isoOver (s : State) : Bool :=
  let (n, d) := demandRate s (demand s false)
  let (m, e) := demandRate s (demand s true)
  let rings := s.gx.cams.toList.foldl (fun a c => a + camLpddr s c) 0
  decide (24000000000 * d < n) || decide (7 * 16000000000 * e < 7 * m + rings * e)

/-- CMX_ISO: MB/s. -/
def cmxIso (s : State) : Nat :=
  let (n, d) := demandRate s (demand s false)
  let (m, e) := demandRate s (demand s true)
  let rings := s.gx.cams.toList.foldl (fun a c => a + camLpddr s c) 0
  min (n / d / 1000000) 65535 + 65536 * min ((7 * m + rings * e) / (7 * e) / 1000000) 65535

/-! ### CAM_CONFIG (R324-R326) -/

/-- The configuration that a CAM_CONFIG packet carries. -/
def camOfPkt (p : Pkt) (ctx : Nat) (gen : W64) (c : Cam) : Cam :=
  let d := dw p 8
  { c with
    en := bit d 2, cphy := bit d 3, lanes := BitVec.ofNat 3 (fld d 6 4), frame := bit d 7, vc := BitVec.ofNat 5 (fld d 12 8), dt := BitVec.ofNat 6 (fld d 18 13)
    dest := BitVec.ofNat 2 (fld d 20 19), axis := BitVec.ofNat 3 (fld d 23 21), rate := BitVec.ofNat 16 (dw p 9).toNat, swmin := dw p 10, swmax := dw p 11
    ctx := fin' 63 ctx, ctxGen := gen, ring := { base := BitVec.ofNat 64 (dq p 16), slotSize := (dw p 18).toNat, slots := (dw p 19).toNat }
    filled := BitVec.ofNat 64 (dq p 20), freed := BitVec.ofNat 64 (dq p 22), units := 0, drops := 0, open' := none }

/-- R326. -/
def camConfigOk (s : State) (p : Pkt) (c : Cam) : Bool :=
  let rate := (dw p 9).toNat
  let lanes := c.lanes.toNat
  decide (80 ≤ rate) && (if c.cphy then decide (rate ≤ 6000) && decide (1 ≤ lanes) && decide (lanes ≤ 3)
    else decide (rate ≤ 4500) && (lanes == 1 || lanes == 2 || lanes == 4) && decide (c.vc.toNat ≤ 15)) &&
  c.dest != 3 && decide (c.swmin.toNat ≤ c.swmax.toNat) &&
  (c.dest != 2 ||
    (c.ring.base.toNat % 64 == 0 && c.ring.slotSize % 64 == 0 && decide (128 ≤ c.ring.slotSize) && decide (c.ring.slotSize ≤ 0xC00000) && decide (2 ≤ c.ring.slots) &&
     decide (c.ring.slots ≤ 65536) && rangeDev s c.ctx c.ring.base.toNat (c.ring.slots * c.ring.slotSize) .store && knotPeat s c.ctx c.filled.toNat .store &&
     knotPeat s c.ctx c.freed.toNat .load))

/-- Was the port last configured by another context that has not been destroyed since (R325)? -/
def camTaken (s : State) (ctx : Nat) (c : Cam) : Bool :=
  let x := ctxOf s c.ctx
  x.life != .free && x.generation == c.ctxGen && c.ctx.val != ctx

/-- CAM_CONFIG; a unit in progress is counted in OVERRUN, once (R324); the FILLED knot of a ring enters the context's signal set (R360). -/
def startCamConfig (c : Cmd) (s : State) : Go × State :=
  let p := fld (dw c.pkt 8) 1 0
  let old := camOf s p
  let new := camOfPkt c.pkt (cmdCtx c) (ctxOf s (cmdCtx c)).generation old
  let s' := updCam p (fun _ => new) s
  if (openBraid s p).isSome || (old.en && camTaken s (cmdCtx c) old) then (.ended 0x0150, s)
  else if !(camConfigOk s c.pkt new) then (.ended 0x0151, s)
  else if isoOver s' then (.ended 0x0250, s)
  else match addSigs (cmdCtx c) (if new.dest = 2 then [new.filled.toNat] else []) s' with
    | none => (.ended St.signalSetFull, s)
    | some s' =>
      let s' := if old.open'.any (fun u => !u.counted) then camOverrun p s' else s'
      (.ended St.success, settlePd s')

/-! ### LAYER_SET (R332-R334, R340) -/

/-- Bytes of layer entry `i`. -/
def layEntry (p : Pkt) (i : Nat) : List Byte := sliceB (wordsBytes p.dws) (64 + 128 * i) 128

/-- A layer entry's parameters (Table 12.13). -/
def layerSetOf (ctx : Nat) (d : List Byte) : LayerSet :=
  let f := leAt d 1 1
  { en := f.testBit 0, output := fin' 1 (b2n (f.testBit 1)), compressed := f.testBit 2, continuous := f.testBit 3, format := BitVec.ofNat 4 (leAt d 2 1)
    blend := BitVec.ofNat 2 (leAt d 3 1), alpha := BitVec.ofNat 8 (leAt d 4 1), nbuf := leAt d 5 1, pitch := leAt d 8 4, bw := leAt d 0xC 2, bh := leAt d 0xE 2
    sx := leAt d 0x10 2, sy := leAt d 0x12 2, w := leAt d 0x14 2, h := leAt d 0x16 2, x := leAt d 0x18 2, y := leAt d 0x1A 2
    bufs := (List.range 4).map fun i => BitVec.ofNat 64 (leAt d (0x20 + 8 * i) 8), hdrs := (List.range 4).map fun i => BitVec.ofNat 64 (leAt d (0x40 + 8 * i) 8)
    ready := BitVec.ofNat 64 (leAt d 0x60 8), shown := BitVec.ofNat 64 (leAt d 0x68 8), ctx := fin' 63 ctx }

/-- Formats that the CMX shows. -/
def cmxFormat (f : Nat) : Bool := (decide (1 ≤ f) && decide (f ≤ 5)) || f == 8

/-- A layer's entry within Table 9.3, its buffers readable at target 0 or 1 (R332). -/
def layerEntryOk (s : State) (d : List Byte) (x : LayerSet) : Bool :=
  let o := dpoOf s x.output.val
  let f := leAt d 2 1
  decide (leAt d 1 1 < 16) && cmxFormat f && decide (leAt d 3 1 ≤ 2) && decide (1 ≤ x.nbuf) && decide (x.nbuf ≤ 4) && leAt d 6 2 == 0 && leAt d 0x1C 4 == 0 &&
  leAt d 0x70 16 == 0 && decide (1 ≤ x.bw) && decide (x.bw ≤ 8192) && decide (1 ≤ x.bh) && decide (x.bh ≤ 8192) && decide (x.sx + x.w ≤ x.bw) &&
  decide (x.sy + x.h ≤ x.bh) && decide (x.x + x.w ≤ hActive o) && decide (x.y + x.h ≤ vActive o) &&
  (if x.compressed then fmtCompressible f && x.pitch == 0 else x.pitch % 64 == 0 && decide (x.bw * formatBytes f ≤ x.pitch)) &&
  (List.range x.nbuf).all (fun i =>
    let b := (x.bufs.getD i 0).toNat
    let h := (x.hdrs.getD i 0).toNat
    b % (if x.compressed then 4096 else 256) == 0 && rangeDev s x.ctx b (bufBytes x) .load &&
    (if x.compressed then h % 64 == 0 && rangeDev s x.ctx h (8 * tilesX x.bw * ((x.bh + 31) / 32)) .load else h == 0)) &&
  knotPeat s x.ctx x.ready.toNat .load && knotPeat s x.ctx x.shown.toNat .store

/-- The writeback entry (R340): FORMAT 0x01 or 0x03, 1 to 4 slots. -/
def wbEntryOk (s : State) (d : List Byte) (x : LayerSet) : Bool :=
  let o := dpoOf s x.output.val
  let f := leAt d 2 1
  decide (leAt d 1 1 < 4) && (f == 1 || f == 3) && decide (1 ≤ x.nbuf) && decide (x.nbuf ≤ 4) && leAt d 6 2 == 0 && leAt d 0x1C 4 == 0 && leAt d 0x70 16 == 0 &&
  x.pitch % 64 == 0 && decide (4 * hActive o ≤ x.pitch) &&
  (List.range x.nbuf).all (fun i => (x.bufs.getD i 0).toNat % 256 == 0 && rangeDev s x.ctx (x.bufs.getD i 0).toNat (x.pitch * vActive o) .load) &&
  knotPeat s x.ctx x.ready.toNat .store && knotPeat s x.ctx x.shown.toNat .load

/-- Entry number and parameters. -/
def entriesOf (c : Cmd) : List (Nat × List Byte × LayerSet) :=
  (List.range (fld (dw c.pkt 8) 4 0)).map fun i => let d := layEntry c.pkt i; (leAt d 0 1, d, layerSetOf (cmdCtx c) d)

/-- Shadow and active set of layer 0-15, or writeback at 16. -/
def setsOf (s : State) (n : Nat) : LayerSet × LayerSet := if n = 16 then (s.gx.wb.shadow, s.gx.wb.active) else ((layerOf s n).shadow, (layerOf s n).active)

def entryBad (s : State) (e : Nat × List Byte × LayerSet) : Bool :=
  decide (16 < e.1) || !(if e.1 = 16 then wbEntryOk s e.2.1 e.2.2 else layerEntryOk s e.2.1 e.2.2)
/-- LAYER_OWNER (R332). -/
def entryOwned (s : State) (e : Nat × List Byte × LayerSet) : Bool :=
  let (sh, ac) := setsOf s e.1
  ((sh.en && sh.ctx != e.2.2.ctx) || (ac.en && ac.ctx != e.2.2.ctx)) || (ac.en && ac.output != e.2.2.output)

/-- Write one shadow set. -/
def putShadow (s : State) (e : Nat × List Byte × LayerSet) : State :=
  if e.1 = 16 then updWb (fun w => { w with shadow := e.2.2, dirty := true }) s else updLayer e.1 (fun l => { l with shadow := e.2.2, dirty := true }) s

/-- The shadow sets of an output's layers, and of writeback, become active (R333). -/
def activate (d : Nat) (s : State) : State :=
  let s := updGx (fun g => { g with layers := g.layers.map fun l =>
    if l.shadow.output.val = d then { l with active := l.shadow, dirty := false, frame := if l.active == l.shadow then l.frame else none } else l }) s
  updWb (fun w => if w.shadow.output.val = d then { w with active := w.shadow, dirty := false } else w) s

/-- LAYER_SETs that wait for a latch point of output `d` (R334). -/
def latchDone (d : Nat) (s : State) : State :=
  s.ex.cmds.foldl (fun s c =>
    match c.phase, c.work with
    | .running, .latch os =>
      let r := os.filter (·.val != d)
      let w : Work := .latch r
      let s := updCmd c.id (fun x => { x with work := w }) s
      if r.isEmpty then finish c.id St.success s else s
    | _, _ => s) s

/-- The knots of LAYER_SET's entries that the CMX signals: SHOWN of layers, DONE of writeback (R360). -/
def entryKnots (es : List (Nat × List Byte × LayerSet)) : List Nat := es.map fun e => if e.1 = 16 then e.2.2.ready.toNat else e.2.2.shown.toNat

/-- LAYER_SET: one step over all shadow sets; it completes at the latch points concerned. -/
def startLayerSet (c : Cmd) (s : State) : Go × State :=
  let es := entriesOf c
  if es.any (entryBad s) then (.ended 0x0160, s)
  else if es.any (entryOwned s) then (.ended 0x0161, s)
  else
    let s' := es.foldl putShadow s
    if isoOver s' then (.ended 0x0250, s)
    else match addSigs (cmdCtx c) (entryKnots es) s' with
    | none => (.ended St.signalSetFull, s)
    | some s' =>
      let outs := ([0, 1] : List (Fin 2)).filter fun d => es.any fun e => e.2.2.output == d
      let off := outs.filter fun d => !(dpoOn (dpoOf s d.val))
      let s' := off.foldl (fun s d => activate d.val s) s'
      let wait := outs.filter fun d => dpoOn (dpoOf s d.val)
      if wait.isEmpty then (.ended St.success, s')
      else
        let w : Work := .latch wait
        (.running, updCmd c.id (fun x => { x with work := w }) s')

/-! ### Composition (R338, R339) -/

def cmxRq : Rq := { eng := some 33 }

/-- A pixel of a layer as R, G, B, A with its poison; none where it shows nothing. -/
abbrev CmxPx := Option (List W32 × Bool)

/-- Decode a pixel: 0x05 and 0x08 show as grey. -/
def cmxDecode (f v : Nat) : List W32 :=
  let c := decodePixel f v
  if f = 5 ∨ f = 8 then [chan c 0, chan c 0, chan c 0, one32] else c

/-- Pixels of row `j` of a layer's source rectangle in an uncompressed buffer; whether a read faulted. -/
def plainRow (x : LayerSet) (buf j : Nat) (s : State) : List CmxPx × Bool × State :=
  let n := formatBytes x.format.toNat
  let (bs, a, s) := readVa x.ctx (buf + (x.sy + j) * x.pitch + x.sx * n) (x.w * n) .load cmxRq s
  let px := (List.range x.w).map fun i =>
    if n * (i + 1) ≤ bs.length then
      let b := (bs.drop (n * i)).take n
      some (cmxDecode x.format.toNat (leVal (dataOf b)), anyPoison b)
    else none
  (px, a != .ok, s)

/-- Tiles of a row of tiles, read once each. -/
def rowTiles (x : LayerSet) (buf hdr ty : Nat) : List Nat → State → List (Nat × Option PB) × State
  | [], s => ([], s)
  | tx :: r, s =>
    let (bs, a, s) := readTileC x.ctx cmxRq buf hdr (ty * tilesX x.bw + tx) s
    let (l, s) := rowTiles x buf hdr ty r s
    ((tx, if a == .ok then some bs else none) :: l, s)

/-- The same of a compressed buffer. -/
def tiledRow (x : LayerSet) (buf hdr j : Nat) (s : State) : List CmxPx × Bool × State :=
  let y := x.sy + j
  let t0 := x.sx / 32
  let (ts, s) := rowTiles x buf hdr (y / 32) ((List.range ((x.sx + x.w + 31) / 32 - t0)).map (t0 + ·)) s
  let px := (List.range x.w).map fun i =>
    let cx := x.sx + i
    match (pairGet ts (cx / 32)).getD none with
    | some bs =>
      let b := (bs.drop (4 * (y % 32 * 32 + cx % 32))).take 4
      some (cmxDecode x.format.toNat (leVal (dataOf b)), anyPoison b)
    | none => none
  (px, ts.any (·.2.isNone), s)

/-- Row `j` of what layer `n` shows; faults count once a row, poisoned pixels one by one. -/
def layerRow (n : Nat) (l : Layer) (f : W64) (j : Nat) (s : State) : List CmxPx × State :=
  let x := l.active
  let k := if x.nbuf ≤ 1 then 0 else f.toNat % x.nbuf
  let buf := (x.bufs.getD k 0).toNat
  let (px, bad, s) := if x.compressed then tiledRow x buf (x.hdrs.getD k 0).toNat j s else plainRow x buf j s
  let z := (px.filter fun p => match p with | some (_, q) => q | none => false).length
  (px, updLayer n (fun l => { l with faults := if bad then satInc l.faults else l.faults, poison := satAdd l.poison z }) s)

/-- The source colour with the global alpha (R338). -/
def withAlpha (x : LayerSet) (c : List W32) : List W32 :=
  let k := fromNorm 8 x.alpha.toNat
  if x.blend = 2 then [chan c 0, chan c 1, chan c 2, f32 2 (chan c 3) k] else (List.range 4).map fun i => f32 2 (chan c i) k

/-- Blend one layer's row over a row of the image. -/
def overRow (x : LayerSet) (px : List CmxPx) (img : List (List W32 × Bool)) : List (List W32 × Bool) :=
  (img.zip (List.range img.length)).map fun ((d, z), i) =>
    if x.x ≤ i ∧ i < x.x + x.w then
      match px.getD (i - x.x) none with
      | some (c, false) => (blend x.blend.toNat (withAlpha x c) d, z)
      | some (_, true) => (d, true)
      | none => (d, z)
    else (d, z)

/-- Blend the layers from `n` on into row `y` of output `d`. -/
def composeRow (d y : Nat) : List Nat → List (List W32 × Bool) → State → List (List W32 × Bool) × State
  | [], img, s => (img, s)
  | n :: r, img, s =>
    let l := layerOf s n
    match l.frame with
    | some f =>
      if l.active.en ∧ l.active.output.val = d ∧ l.active.y ≤ y ∧ y < l.active.y + l.active.h then
        let (px, s) := layerRow n l f (y - l.active.y) s
        composeRow d y r (overRow l.active px img) s
      else composeRow d y r img s
    | none => composeRow d y r img s

/-- The background of an output. -/
def background (x : Dpo) : List W32 := [fromNorm 10 (fld x.bg 29 20), fromNorm 10 (fld x.bg 19 10), fromNorm 10 (fld x.bg 9 0), one32]

/-- Store one row of the written-back image with alpha 1; a pixel blended from a poisoned source is stored poisoned (R341). -/
def wbRow (w : Writeback) (y : Nat) (img : List (List W32 × Bool)) (s : State) : State :=
  let x := w.active
  let va := (x.bufs.getD (w.w.toNat % max x.nbuf 1) 0).toNat + y * x.pitch
  let bs : PB := img.flatMap fun (c, z) => (leBytes 4 (encodePixel x.format.toNat (c.take 3 ++ [one32]))).map fun b => (b, z)
  (writeVa x.ctx va bs cmxRq s).2.2

/-- When line `y` of output `d` ends, counted from the last event that fixed its line. -/
def lineEnd (x : Dpo) (y : Nat) : Nat :=
  x.lineT.toNat + ((y + vTotal x - x.line.toNat) % max (vTotal x) 1 + 1) * hTotal x * 1000000 / max (fld x.pclk 19 0) 1

/-- Device memory as a line that ends at `t` shows it: a write appears from the line on which it lands (R336). -/
def asOfLine (t : Nat) (s : State) : State :=
  match (s.mm.old.filter fun o => decide (t ≤ o.before.toNat)).getLast? with
  | some o => { s with mm := { s.mm with peat := o.peat, lpddr := o.lpddr } }
  | none => s

/-- A blended pixel on the output: R, G, B clamped to [0, 1] and rounded to `b` bits each (R338). -/
def outPixel (b : Nat) (c : List W32) : W32 :=
  BitVec.ofNat 32 (toNorm b (chan c 0) * 2 ^ (2 * b) + toNorm b (chan c 1) * 2 ^ b + toNorm b (chan c 2))
def outBits (x : Dpo) : Nat := if bit x.ctrl 1 then 10 else 8

/-- Scan out the lines of a frame of output `d`, each from memory as it stood at its time, and write it back where writeback takes
it; the rows of the image. -/
def scanRows (d : Nat) (wb : Bool) : List Nat → State → List (List W32) × State
  | [], s => ([], s)
  | y :: r, s =>
    let o := dpoOf s d
    let mm := s.mm
    let (img, s) := composeRow d y (List.range 16) (List.replicate (hActive o) (background o, false)) (asOfLine (lineEnd o y) s)
    let s := { s with mm := { s.mm with peat := mm.peat, lpddr := mm.lpddr } }
    let (rows, s) := scanRows d wb r (if wb then wbRow s.gx.wb y img s else s)
    (img.map (fun p => outPixel (outBits o) p.1) :: rows, s)

/-- Memories that no line of an output still to be scanned reads are dropped. -/
def dropOld (s : State) : State :=
  let ts := (s.gx.dpos.toList.filter dpoOn).map (·.lineT.toNat)
  { s with mm := { s.mm with old := s.mm.old.filter fun o => ts.any fun t => decide (t < o.before.toNat) } }

/-- The frame that ends at a latch point: scanned, and written back with DONE signalled (R341). -/
def scanFrame (d : Nat) (s : State) : State :=
  let w := s.gx.wb
  let wb := w.writing && w.active.output.val == d
  let (rows, s) := scanRows d wb (List.range (vActive (dpoOf s d))) s
  let s := updDpo d (fun x => { x with image := rows }) s
  if wb then
    let s := (signalRq cmxRq w.active.ctx w.active.ready.toNat (w.w + 1) s).2
    updWb (fun w => { w with w := w.w + 1, written := w.written + 1, writing := false }) s
  else s

/-! ### Latch points (R333-R336, R341) -/

/-- A knot read of the CMX faulted: the layer is transparent for this frame, and FAULTS counts (R331). -/
def layerFault (n : Nat) (s : State) : State := updLayer n (fun l => { l with frame := none, faults := satInc l.faults }) s

/-- The layer shows its previous frame again; with CONTINUOUS that counts, and pulses ICN source 48 + n (R335, Table 11.7). -/
def repeatFrame (n v : Nat) (s : State) : State :=
  let s := updLayer n (fun l => { l with frame := if v = 0 then none else some (l.frame.getD (BitVec.ofNat 64 (v - 1))) }) s
  if (layerOf s n).active.continuous then icnPulse (48 + n) (updLayer n (fun l => { l with repeats := satInc l.repeats }) s) else s

/-- One layer takes its newest frame. -/
def latchLayer (n : Nat) (s : State) : State :=
  let x := (layerOf s n).active
  match knotValRq cmxRq x.ctx x.ready.toNat s with
  | (none, s) => layerFault n s
  | (some r, s) =>
    if x.nbuf ≤ 1 then updLayer n (fun l => { l with frame := if 1 ≤ r then some 0 else none }) s
    else match knotValRq cmxRq x.ctx x.shown.toNat s with
      | (none, s) => layerFault n s
      | (some v, s) =>
        if v < r then
          let s := updLayer n (fun l => { l with frame := some (BitVec.ofNat 64 (r - 1)), shownVal := BitVec.ofNat 64 r }) s
          (signalRq cmxRq x.ctx x.shown.toNat (BitVec.ofNat 64 r) s).2
        else repeatFrame n v s

/-- Writeback starts a frame if its slot is free, else skips it. -/
def latchWb (d : Nat) (s : State) : State :=
  let x := s.gx.wb.active
  if x.output.val != d then s else if !x.en then updWb (fun w => { w with writing := false }) s else
  let (free, s) := knotValRq cmxRq x.ctx x.shown.toNat s
  if s.gx.wb.w.toNat + 1 ≤ free.getD 0 + x.nbuf then updWb (fun w => { w with writing := true }) s else updWb (fun w => { w with writing := false, skip := satInc w.skip }) s

/-- LATCH_POINT: the start of line VACTIVE of an output whose timing generator runs. -/
def execLatchPoint (d : Fin 2) (t : W64) (s : State) : Res :=
  let s := s.at t
  if !(dpoOn (dpoOf s d)) then fin s
  else
    let s := scanFrame d s
    let s := dropOld (updDpo d (fun x =>
      { x with frames := x.frames + 1, latches := x.latches + 1, line := BitVec.ofNat 16 (vActive x), lineT := s.time, msgHeld := false }) s)
    let s := latchDone d (activate d s)
    let s := (List.range 16).foldl (fun s n => if (layerOf s n).active.en ∧ (layerOf s n).active.output = d then latchLayer n s else s) s
    fin (latchWb d s)

/-! ### Outputs (R342-R345) -/

/-- Lane rate of DPO0 in kb/s. -/
def dpRate (k : Nat) : Nat := ([1620000, 2160000, 2430000, 2700000, 3240000, 4320000, 5400000, 8100000] : List Nat).getD k 0

/-- Pixels a second of the largest mode of Table 9.4 at 60 Hz: the refresh rate is PCLK / (HTOTAL x VTOTAL). A smaller mode may be
refreshed faster up to the same number (DEDUCED, unsafe, log 88). -/
def withinLargest (d : Nat) (x : Dpo) : Bool :=
  decide (hActive x * vActive x * fld x.pclk 19 0 * 1000 ≤ (if d = 0 then 3840 * 2160 else 2560 * 1600) * 60 * hTotal x * vTotal x)

/-- R342: may the timing generator start with these settings? -/
def modeOk (d : Nat) (c : W32) (x : Dpo) : Bool :=
  let lanes := fld c 4 2
  let pclk := fld x.pclk 19 0
  let bpc := if bit c 1 then 10 else 8
  let drate := fld x.drate 12 0
  let cap := if d = 0 then lanes * dpRate (fld c 7 5) * 8 / 10 else lanes * drate * 1000
  decide (8 ≤ vTotal x - vActive x) && decide (32 ≤ hTotal x - hActive x) && decide (pclk * 3 * bpc ≤ cap) && decide (1 ≤ hActive x) && decide (1 ≤ vActive x) &&
  decide (1 ≤ pclk) && withinLargest d x && (if d = 0 then (lanes == 1 || lanes == 2 || lanes == 4) && decide (pclk ≤ 600000) && decide (hActive x ≤ 3840) && decide (vActive x ≤ 2160)
    else decide (1 ≤ lanes) && decide (lanes ≤ 4) && decide (pclk ≤ 300000) && decide (80 ≤ drate) && decide (drate ≤ 4500) && decide (hActive x ≤ 2560) &&
      decide (vActive x ≤ 1600))

/-- An output stops: the frame that writeback had begun on it is not finished (R341). -/
def stopWriteback (d : Nat) (s : State) : State := updWb (fun w => if w.active.output.val = d then { w with writing := false } else w) s

/-- A write of DPO_CTRL: while EN = 1 only EN takes effect (R343). An output that stops shows its shadow sets at once (R334). -/
def writeDpoCtrl (d : Nat) (v : W32) (s : State) : State :=
  let x := dpoOf s d
  if dpoOn x then
    if bit v 0 then s else settlePd (latchDone d (activate d (stopWriteback d (dropOld (updDpo d (fun x => { x with ctrl := setBit x.ctrl 0 false, msgHeld := false }) s)))))
  else
    let c := v &&& 0xFFE
    if !(bit v 0) then updDpo d (fun x => { x with ctrl := c }) s
    else if modeOk d c x then
      settlePd (updDpo d (fun x => { x with ctrl := c ||| 1, modeErr := false, line := 0, lineT := s.time }) s)
    else updDpo d (fun x => { x with ctrl := c, modeErr := true }) s

/-- DPO_CTRL_WRITE. -/
def execDpoCtrlWrite (d : Fin 2) (v : W32) (s : State) : Res := fin (writeDpoCtrl d v s)

/-- Timing registers are writable while EN = 0. -/
def writeTiming (d : Nat) (f : Dpo → Dpo) (s : State) : State := if dpoOn (dpoOf s d) then s else updDpo d f s

/-- TRAIN: DPO0's steward starts training; an eDP-only rate without EDP sets TRAIN_ERR (R344). -/
def startTrain (d : Nat) (s : State) : State :=
  let x := dpoOf s d
  let edpOnly := ([1, 2, 4, 5] : List Nat).contains (fld x.ctrl 7 5)
  if d ≠ 0 then s
  else if edpOnly && !(bit x.ctrl 8) then updDpo d (fun x => { x with link := false, trainErr := true }) s
  else updDpo d (fun x => { x with training := true, link := false, trainErr := false }) s
def execTrain (d : Fin 2) (s : State) : Res := fin (startTrain d s)

/-- TRAIN_COMPLETE: LINK or TRAIN_ERR. -/
def execTrainComplete (d : Fin 2) (ok : Bool) (s : State) : Res :=
  if (dpoOf s d).training then fin (updDpo d (fun x => { x with training := false, link := ok, trainErr := !ok }) s) else fin s

/-- DPO_MSGGO.GO: a message of LEN + 1 bytes starts; ignored while BUSY = 1. A DSI message waits for the next vertical blanking while
EN = 1 (R345). -/
def msgStart (d : Nat) (x : Dpo) : Dpo :=
  { x with busy := true, done' := false, nack := false, timeout := false, rlen := 0, msgOf := x.msgCtl
           msgBytes := (leBytes 16 x.data.toNat).take (fld x.msgCtl 31 28 + 1), msgHeld := d == 1 && dpoOn x }
def msgGo (d : Nat) (s : State) : State := if (dpoOf s d).busy then s else updDpo d (msgStart d) s
def execDpoMsggo (d : Fin 2) (s : State) : Res := fin (msgGo d s)

/-- MESSAGE_DONE: the outcome of a message that has been sent, with the bytes returned. -/
def execMessageDone (d : Fin 2) (o : MsgOutcome) (data : List Byte) (s : State) : Res :=
  if !(dpoOf s d).busy || (dpoOf s d).msgHeld then fin s
  else
    let bs := data.take 16
    fin (updDpo d (fun x =>
      { x with busy := false, done' := o == .done, nack := o == .nack, timeout := o == .timeout
               rlen := BitVec.ofNat 5 bs.length
               data := BitVec.ofNat 128 (leVal (putB (leBytes 16 x.data.toNat) 0 bs)) }) s)

/-- HPD: ICN sources 9 and 10 follow the level. -/
def execHpd (d : Fin 2) (level : Bool) (s : State) : Res := fin (updDpo d (fun x => { x with hpd := level }) s)

/-- LINE now: lines passed since the last event that fixed it. -/
def dpoLine (s : State) (x : Dpo) : Nat :=
  if !(dpoOn x) then 0
  else
    let n := (s.now - x.lineT.toNat) * fld x.pclk 19 0 / (max (hTotal x) 1 * 1000000)
    (x.line.toNat + n) % max (vTotal x) 1

/-! ### Walks for engines (14 R488, R491, R493) -/

/-- Does a layer's active set read its image at `va`? -/
def layerReads (l : Layer) (c va : Nat) : Bool :=
  l.active.en && l.active.ctx.val == c && l.frame.isSome && ((l.active.bufs.take l.active.nbuf).any fun b => decide (b.toNat ≤ va) && decide (va < b.toNat + bufBytes l.active))

/-- What a faulting walk of an engine that never waits does besides its record (R331): the unit in progress at a camera port is discarded,
and the layers that read the page show nothing for this frame. -/
def walkOutcome (e c va : Nat) (s : State) : State :=
  if e = 33 then (List.range 16).foldl (fun s n => if layerReads (layerOf s n) c va then layerFault n s else s) s
  else if 35 ≤ e ∧ e ≤ 38 then
    match (camOf s (e - 35)).open' with
    | some u =>
      if !u.admitted then s else match unitDest s (e - 35) u with
      | some d => if d.ctx = c then unitLost (e - 35) d u s else s
      | none => s
    | none => s
  else s

/-- WALK_COMPLETE: the walk for an engine's access ends: the caches take its entry, or it faults under the entry's class. An
address already in the caches needs no walk. An engine that the part does not have asks for nothing (R3). -/
def execWalkComplete (e : Fin 46) (c : Fin 64) (va : W64) (k : Access) (s : State) : Res :=
  if (ctxOf s c).life == .free || !(engPresent s.part e) then done s
  else match xl c va.toNat k (engRq e) s with
    | (.fail _, s) => done (walkOutcome e c va.toNat s)
    | (_, s) => done s

end Sys2Proof.Machine
end

