-- ==== Sys2Proof/Machine/Hawser.lean ====
section
/-! DEFINITION. Hawser.lean: Hawser links, remote operations, and the domain packets and events (17). -/
namespace Sys2Proof.Machine

def updDom (f : Domain → Domain) (s : State) : State := { s with dom := f s.dom }
def linkOf (s : State) (k : Nat) : Link := tabD s.links k {}

/-! ### Remote requests of groups (R568-R572) -/

def findReq (s : State) (i : Nat) : Option RemoteReq := s.dom.reqs.find? (·.id == i)
def dropReq (i : Nat) (s : State) : State := updDom (fun d => { d with reqs := d.reqs.filter (·.id != i) }) s

/-- Data for a load's part of a group: register, lane, bytes and extension as its request holds them. What later instructions have written
stays (03 R123). -/
def deliverTo (r : RemoteReq) (v : W64) (poison : Bool) (g : Group) : Group :=
  let f (i : Nat) : Nat := (r.dst.getD i 0).toNat
  let n := f 2
  let sz := match n with | 1 => 0 | 2 => 1 | 4 => 2 | _ => 3
  let bs : PB := (leBytes n v.toNat).map fun b => (b, poison)
  let y := putLoads (f 0) sz (f 3 == 1) (match r.atom with | some (w, ops) => (atomFold w ops bs).1 | none => [(f 1, bs)]) g
  r.lost.foldl (fun y (x : Nat × Nat) => wrVs x.1 1 (maskOf 32 [x.2]) (fun _ l => rdV g x.1 l) y) y

/-- A group whose last awaited remote operation has ended goes on. -/
def remoteWake (g : Nat) (s : State) : State :=
  updGrp g (fun x =>
    match x.wait with
    | .remote 0 => if remoteLoads s g then x else { x with wait := .ready }
    | .remote _ => if mustAwait s g true then x else { x with wait := .ready }
    | _ => x) s

/-- A request ends: its data, or poison, is delivered, an acquire that completes with it drops its core's far-read cache (03 R126), and its
group may go on. -/
def endReq (r : RemoteReq) (v : W64) (poison : Bool) (s : State) : State :=
  let s := dropReq r.id s
  match r.group with
  | none => s
  | some g =>
    let s := if r.acq then (match findGrp s g with | some x => dropFar x.core s | none => s) else s
    remoteWake g (if r.isStore then s else updGrp g (deliverTo r v poison) s)

/-- Does an address of a braid lie in one of its channels or its knots (R238)? -/
def braidTouches (s : State) (b va : Nat) : Bool :=
  va / 65536 == knotPage || (braidOf s b).chans.any fun c => decide (c.base.toNat ≤ va) && decide (va < c.base.toNat + c.slots * c.slotSize)

/-- A remote store fails whose group has ended: the command, which has not completed, ends with the status (R571, R572). -/
def lateFail (c : Nat) (st : Status) (s : State) : State :=
  match findCmd s c with
  | some y => if y.phase == .done then updCmd c (fun y => { y with status := if statusOk y.status then st else y.status }) s
    else finish c st (stepFailed c st (stopCmd c s))
  | none => s

/-- Is a command a MIXED_STEP that has not completed? -/
def stepRuns (s : State) (c : Nat) : Bool := (findCmd s c).any fun x => pktOpcode x.pkt == 0x3A && x.phase != .done

/-- A remote operation has failed: a braid faults whose channel or knot it touches (R238), a step fails (R263), and with `all` every other
command ends (R571, R572), whether or not the group that asked is still there. -/
def remoteFailed (r : RemoteReq) (st : Status) (all : Bool) (s : State) : State :=
  match r.braid with
  | some b => if braidTouches s b r.va.toNat then braidFault b st none s else s
  | none =>
    if !(all || r.cmd.any (stepRuns s)) then s
    else match r.group.bind (findGrp s), r.cmd with
      | some g, _ => failOwner g st s
      | none, some c => lateFail c st s
      | none, none => s

/-- The owner of a refused access ends with 0x0402, and an information record is posted (R568, Table 14.5); of a camera the unit is
counted (09 R331). -/
def refusedReq (r : RemoteReq) (s : State) : State :=
  let e := (tlbFind s.mm.xl.tlb r.ctx (r.va.toNat / 65536)).getD 0
  let s := fqInfo (faultWords 0xFFFF 1 1 r.ctx r.va.toNat true false r.kind { eng := r.eng.map (·.val) } e s.time) (dropReq r.id s)
  match r.group.bind (findGrp s), r.braid, r.cmd with
  | some g, _, _ => trapG g.id St.xlPermission s
  | none, some b, _ => if r.group.isNone then camFault (braidOf s b).source.toNat s else braidFault b St.xlPermission none s
  | none, none, some c => lateFail c St.xlPermission s
  | none, none, none => s

/-- REMOTE_RESPONSE: data for a load or returning atomic; a refused access fails as KIND PERMISSION under FAIL (R568). One
that arrives after its request has ended is discarded. -/
def execRemoteResponse (i : Nat) (data : W64) (poison refused : Bool) (s : State) : Res :=
  match findReq s i with
  | none => fin s
  | some r =>
    if r.isStore then fin s
    else if refused then fin (refusedReq r s)
    else fin (endReq r data poison s)

/-- REMOTE_STORE_ACK: the store has reached its ordering point, or was refused (R568, R569). -/
def execRemoteStoreAck (i : Nat) (refused : Bool) (s : State) : Res :=
  match findReq s i with
  | none => fin s
  | some r =>
    if !r.isStore then fin s
    else if refused then fin (refusedReq r s)
    else fin (endReq r 0 false s)

/-- R570's bound, 50 µs. -/
def remoteLate (s : State) (r : RemoteReq) : Bool := decide (r.issued.toNat + 50000 ≤ s.now)

/-- REMOTE_LOAD_TIMEOUT: poison is delivered and counted (R570). -/
def execRemoteLoadTimeout (i : Nat) (t : W64) (s : State) : Res :=
  let s := s.at t
  match findReq s i with
  | none => fin s
  | some r =>
    if r.isStore || !(remoteLate s r) then fin s
    else fin (remoteFailed r St.remoteTimeout false (linkTimeout r.link (endReq r 0 true s)))

/-- REMOTE_STORE_TIMEOUT: the store is counted as dropped and its command ends with 0x0802 (R571). -/
def execRemoteStoreTimeout (i : Nat) (t : W64) (s : State) : Res :=
  let s := s.at t
  match findReq s i with
  | none => fin s
  | some r =>
    if !r.isStore || !(remoteLate s r) then fin s
    else fin (remoteFailed r St.remoteTimeout true (linkDrop r.link (endReq r 0 false s)))

/-! ### Accesses of other devices (R568, R569) -/

/-- Bytes that a remote operation touches. -/
def opBytes (op : RemoteOp) : Nat :=
  match op with | .load n => n | .store d _ => d.length | .signal _ => 8 | .abandon => 8 | .knotReset _ => 8 | .atomic w _ _ => atomBytes w | .frameCount _ => 0

/-- A KNOT_RESET from another device reaches its port (R356, R361): the answer is 0, or 0x0205 with waiters registered. A
snapshot holds it (R368). -/
def remoteReset (pl : Place) (v : W64) (s : State) : State :=
  if holding s then hold (.reset pl v) s
  else
    let (ok, s) := knotResetNow 0 pl v s
    { s with readData := if ok then 0 else St.knotWaiters.setWidth 64 }

/-- Another member's entry of target 3 comes or goes: the frame it names is counted, or the answer is 0x0207 (13 R458, R459, R464). -/
def remoteCount (lp : Bool) (f : Nat) (up : Bool) (s : State) : State :=
  let there := decide (f < (if lp then lpddrMib s * 16 else peatBytes s.part / 65536))
  if !there then { s with readData := 0 }
  else if up && countsOver s lp [f] then { s with readData := St.frameCountLimit.setWidth 64 }
  else frameCount lp f up (xlUpd (fun x => { x with cntFar := if up then x.cntFar + 1 else x.cntFar - 1 }) { s with readData := 0 })

/-- Perform a remote operation at a device address; its answer is what `readData` and `readPoison` show. -/
def remotePerform (lp : Bool) (a : Nat) (op : RemoteOp) (s : State) : State :=
  match op with
  | .load n =>
    let (bs, s) := readDev lp a n s
    { s with readData := BitVec.ofNat 64 (leVal (dataOf bs)), readPoison := anyPoison bs }
  | .store d p => writeDev lp a (d.map fun b => (b, p)) s
  | .signal v => if lp then s else signal 0 (.peat a) v s
  | .abandon => if lp then s else abandon 0 (.peat a) s
  | .knotReset v => if lp then s else remoteReset (.peat a) v s
  | .atomic w b c =>
    let (old, s) := readDev lp a (atomBytes w) s
    let s := { s with readData := BitVec.ofNat 64 (leVal (dataOf old)), readPoison := anyPoison old }
    writeDev lp a (atomStep w old (b.1.toNat, b.2) (c.1.toNat, c.2)) s
  | .frameCount up => remoteCount lp (a / 65536) up s

/-- Knots of a SPAN braid that its strands on other members use (06 R237): of the partition that the message names. -/
def spanKnots (s : State) (part : Fin 8) (a : Nat) : Bool :=
  let x := braidOf s (a % 65536 / 4096)
  s.dom.member && a / 65536 == knotFrame s && x.state != .free && bit x.flags 2 && (ctxOf s x.ctx).part == part

/-- REMOTE_ACCESS_ARRIVAL: checked against the partition of the same number, then performed; the answer leaves on the same
link. The bytes are those of Hawser DMA that acts for the partition's contexts (13 Table 13.5). -/
def execRemoteAccessArrival (k : Fin 4) (part : Fin 8) (lp : Bool) (frame : BitVec 27) (off : BitVec 16) (op : RemoteOp) (s : State) : Res :=
  if !(linkOf s k).up then fin s
  else
    let a := frame.toNat * 65536 + off.toNat
    let knots := !lp && (guestKnots s a || spanKnots s part a)
    let count := match op with | .frameCount _ => true | _ => false
    let ok := count || ((partOf s part).en && (inPartition s part lp a (opBytes op) || knots))
    let needs := if count then [0, 0, 0] else bulkNeeds none (if lp then .lpddr a else .peat a) (opBytes op)
    fin (linkTx k (if ok then remotePerform lp a op (bulkDebt part needs s) else s))

/-! ### Links (R559-R562, R567, R572) -/

/-- A waiting knot wait whose knot lies over link `k`. -/
def placeVia (s : State) (k : Nat) (pl : Place) : Bool :=
  match pl with | .remote d _ o => firstLink s.dom.size.toNat s.dom.id.toNat d.val (o.toNat.testBit 12) == some k | _ => false

/-- Waits on remote knots over a link that went down fail (R572). -/
def failKnotWaits (k : Nat) (s : State) : State :=
  let s := (s.ex.waiters.filter fun x => placeVia s k x.k).foldl (fun s x => finish x.cmd St.linkDown s) s
  (s.ex.groups.filter fun g => match g.wait with | .knot pl .. => placeVia s k pl | _ => false).foldl (fun s g => failOwner g St.linkDown s) s

/-- Requests over a link that went down (R572). -/
def failReqs (k : Nat) (s : State) : State :=
  (s.dom.reqs.filter (·.link.val == k)).foldl (fun s r =>
    let s := endReq r 0 true s
    remoteFailed r St.linkDown true (if r.isStore then linkDrop k s else linkTimeout k s)) s

/-- Does a route to device `d` use link `k`? -/
def viaLink (s : State) (k d : Nat) : Bool := [false, true].any fun o => firstLink s.dom.size.toNat s.dom.id.toNat d o == some k

/-- Braids that a lost link touches: a channel consumed on a device to which link `k` leads, or its knots (R238). -/
def spanVia (s : State) (k b : Nat) : Bool :=
  let x := braidOf s b
  bActive x && (List.range x.chans.length).any fun c => match chanPeer s x c with
    | some d => viaLink s k d
    | none => false
def failSpans (k : Nat) (s : State) : State := (List.range 16).foldl (fun s b => if spanVia s k b then braidFault b St.linkDown none s else s) s

/-- A link goes down (R561): the event, and what R572 makes of its messages. -/
def linkGoesDown (k : Nat) (s : State) : State :=
  if !(linkOf s k).up then s else
  let s := updLink k (fun l => { linkNow s.time l with txq := [], up := false, width := 0, downs := satInc l.downs, failRun := 0, againRun := 0 }) s
  recomputeDegraded (failStages (viaLink s k) (failLoads (viaLink s k) (failSpans k (failKnotWaits k (failReqs k (linkEvent k 0 s))))))

/-- The sender's side of a flit that has arrived: what the peer has taken leaves the replay buffer; what it asks for again is sent again,
in order (R559). -/
def replayOf (now : W64) (f : FlitInfo) (l : Link) : Link :=
  let l := { linkNow now l with replayBuf := (linkNow now l).replayBuf - f.taken }
  if f.again && l.replayBuf != 0 then
    { l with replays := satInc l.replays, againRun := (if f.taken = 0 then l.againRun else 0) + 1, busy := max l.busy (2 * now.toNat) + flitHalf l }
  else if f.taken = 0 then l else { l with againRun := 0 }

/-- FLIT_RECEIPT: a valid flit is delivered; a broken one is replayed by its sender (R559). -/
def execFlitReceipt (k : Fin 4) (crcOk : Bool) (f : FlitInfo) (t : W64) (s : State) : Res :=
  let s := s.at t
  if !(linkOf s k).up then fin s
  else if crcOk then
    fin (updLink k (fun l => replayOf s.time f { l with lastFlit := s.time, failRun := 0, rxflits := if f.idle then l.rxflits else l.rxflits + 1 }) s)
  else fin (updLink k (fun l => { l with replays := satInc l.replays, failRun := l.failRun + 1 }) s)

/-- REPLAY_LIMIT: 16 consecutive replays of one flit have failed, after the flit itself (R561). -/
def execReplayLimit (k : Fin 4) (t : W64) (s : State) : Res :=
  let s := s.at t
  if 17 ≤ (linkOf s k).failRun || 17 ≤ (linkOf s k).againRun then fin (linkGoesDown k s) else fin s

/-- LINK_FLIT_TIMEOUT: no valid flit for 10 µs. -/
def execLinkFlitTimeout (k : Fin 4) (t : W64) (s : State) : Res :=
  let s := s.at t
  if (linkOf s k).lastFlit.toNat + 10000 ≤ s.now then fin (linkGoesDown k s) else fin s

/-- Is a peer's ID the neighbour that R565 expects? Links that the shape does not use, and devices outside a domain, expect
none. -/
def peerOk (s : State) (k peer : Nat) : Bool :=
  !s.dom.member || !((linksUsed s.dom.size.toNat).contains k) || peer == neighbour s.dom.size.toNat s.dom.id.toNat k

/-- Are the links that the domain's shape needs up? -/
def domainWhole (s : State) : Bool := (linksUsed s.dom.size.toNat).all fun k => (linkOf s k).up

/-- Is every other member reachable (R563)? Members that no link of this device leads to are reached over links that are not its own,
which a free value answers for (DESIGN CHOICE, safe, log 111). -/
def membersReached (s : State) : Bool × State :=
  if !(domainWhole s) then (false, s)
  else if s.dom.size.toNat ≤ 2 then (true, s)
  else ((Config.freeValue s.freeCtr).toNat % 2 == 1, { s with freeCtr := s.freeCtr + 1 })

/-- JOINs that wait complete once every other member is reachable (R563). -/
def settleJoin (s : State) : State :=
  if !s.dom.member then s else
  let (ok, s) := membersReached s
  if !ok then s else
  s.ex.cmds.foldl (fun s c => if c.phase == .running && c.work == .join then finish c.id St.success s else s) s

/-- LINK_UP: the link, whose power domain is on, has trained and IDs are exchanged; an unexpected peer leaves it down (R561, R562). -/
def execLinkUp (k : Fin 4) (width : BitVec 3) (peer : Fin 16) (s : State) : Res :=
  let l := linkOf s k
  if !(linksPresent s.part) || !l.en || l.up || pdOf s (58 + k) != .on || !(width == 1 || width == 2 || width == 4) then fin s
  else if !(peerOk s k peer) then
    fin (updLink k (fun l => { l with peer := BitVec.ofNat 4 peer, peerErr := true, alarm := setBit l.alarm 3 true }) s)
  else
    let s := updLink k (fun l =>
      { l with up := true, width := width, peer := BitVec.ofNat 4 peer, peerErr := false, lastFlit := s.time, failRun := 0, againRun := 0, alarm := if width = 4 then l.alarm else setBit l.alarm 2 true }) s
    fin (settleJoin (recomputeDegraded (linkEvent k 1 s)))

/-- HL_CTRL: EN, and RETRAIN which takes the link down. -/
def writeHlCtrl (k : Nat) (v : W32) (s : State) : State :=
  if !(linksPresent s.part) then s else
  let s := settlePd (updLink k (fun l => { l with en := bit v 0 }) s)
  if !(bit v 0) || bit v 1 then linkGoesDown k s else s
def execHlCtrl (k : Fin 4) (v : W32) (s : State) : Res := fin (writeHlCtrl k v s)

/-- RETRAIN. -/
def execRetrain (k : Fin 4) (s : State) : Res := fin (if linksPresent s.part then linkGoesDown k s else s)

/-! ### Domain packets (R563-R577) -/

/-- What every DOMAIN_ packet checks first: links (R4); a reset in progress makes it wait (R577). -/
def domainGo (s : State) (f : State → Go × State) : Go × State :=
  if !(linksPresent s.part) then (.ended St.resourceAbsent, s) else if s.dom.resetting then (.blocked, s) else f s

/-- DOMAIN_CONFIG JOIN (R563). -/
def startDomainJoin (c : Cmd) (s : State) : Go × State :=
  domainGo s fun s =>
    let d := dw c.pkt 8
    let id := fld d 3 0
    let size := fld d 8 4
    if !(([1, 2, 4, 8, 16] : List Nat).contains size) || size ≤ id then (.ended St.paramRange, s)
    else if s.dom.member then (.ended St.domainState, s)
    else
      let s := updDom (fun x => { x with id := BitVec.ofNat 4 id, size := BitVec.ofNat 5 size, member := true, arrived := [], withdrawn := [] }) s
      let s := (linksUsed size).foldl (fun s k =>
        if (linkOf s k).up && !(peerOk s k (linkOf s k).peer.toNat) then
          linkGoesDown k (updLink k (fun l => { l with peerErr := true, alarm := setBit l.alarm 3 true }) s)
        else s) s
      let s := recomputeDegraded s
      let (ok, s) := membersReached s
      if ok then (.ended St.success, s) else (.running, updCmd c.id (fun x => { x with work := .join }) s)

/-- A SPAN braid or SPAN model exists (R564). -/
def spanExists (s : State) : Bool :=
  s.ob.braids.toList.any (fun b => b.state != .free && bit b.flags 2) || s.ob.models.toList.any fun m => m.state != .empty && m.span

/-- DOMAIN_CONFIG LEAVE (R564): not while a frame count includes another member's entries, or a SPAN braid or model exists. -/
def startDomainLeave (_ : Cmd) (s : State) : Go × State :=
  domainGo s fun s =>
    if spanExists s || s.mm.xl.cntFar != 0 then (.ended St.domainState, s)
    else (.ended St.success, updDom (fun x => { x with id := 0, size := 0, member := false, degraded := false, arrived := [], withdrawn := [] }) s)

/-- Checks of global operations: membership, and every link up (R573, R578). -/
def globalGo (s : State) (f : State → Go × State) : Go × State :=
  domainGo s fun s => if !s.dom.member then (.ended St.domainState, s) else if s.dom.degraded then (.ended St.linkDown, s) else f s

/-- A GLOBAL message leaves towards device 0. -/
def toRoot (s : State) : State := match firstLink s.dom.size.toNat s.dom.id.toNat 0 false with | some k => linkGlobal k s | none => s

/-- DOMAIN_BARRIER (R574). -/
def startDomainBarrier (c : Cmd) (s : State) : Go × State :=
  globalGo s fun s =>
    let b := BitVec.ofNat 8 (fld (dw c.pkt 8) 7 0)
    if s.dom.arrived.contains b then (.ended St.domainState, s)
    else (.running, toRoot (updDom (fun x => { x with arrived := x.arrived ++ [b] }) (updCmd c.id (fun x => { x with work := .barrier b }) s)))

/-- A barrier's timeout: a withdrawal goes to device 0, and its answer is awaited (R575). -/
def withdrawBarrier (b : BitVec 8) (s : State) : State :=
  if s.dom.withdrawn.contains b then s else toRoot (updDom (fun x => { x with withdrawn := x.withdrawn ++ [b] }) s)

/-- Commands that wait at a barrier. -/
def endBarrier (p : BitVec 8 → Bool) (st : Status) (s : State) : State :=
  s.ex.cmds.foldl (fun s c => match c.phase, c.work with | .running, .barrier b => if p b then finish c.id st s else s | _, _ => s) s

/-- BARRIER_RELEASE: the barrier completes on this member (R574). -/
def execBarrierRelease (b : BitVec 8) (s : State) : Res :=
  if !(s.dom.arrived.contains b) then fin s
  else
    let s := updDom (fun x => { x with arrived := x.arrived.erase b, withdrawn := x.withdrawn.filter (· != b), barriers := x.barriers + 1 }) s
    fin (endBarrier (· == b) St.success s)

/-- BARRIER_WITHDRAWAL_ANSWER: the arrival was removed, or the barrier's release is on its way (R575). -/
def execBarrierWithdrawalAnswer (b : BitVec 8) (removed : Bool) (s : State) : Res :=
  if !(s.dom.withdrawn.contains b) then fin s
  else
    let s := updDom (fun x => { x with withdrawn := x.withdrawn.filter (· != b) }) s
    if removed then fin (endBarrier (· == b) St.timeoutUnchanged (updDom (fun x => { x with arrived := x.arrived.erase b }) s)) else fin s

/-- DOMAIN_BROADCAST (R573, R576): this member's copy; the copies of other members are theirs. The spec does not say which link's engine
copies: its faults name that of HL0, engine 41 (R31; DESIGN CHOICE, unsafe, log 95). -/
def startDomainBroadcast (c : Cmd) (s : State) : Go × State :=
  globalGo s fun s =>
    if (ctxOf s (cmdCtx c)).life != .live then (.ended St.domainState, s)
    else runXfer c (bcastXfer c.pkt) 41 (match c.work with | .copy _ _ => s | _ => toMembers s)

/-- What a domain reset does on this member (R577). -/
def domainReset (s : State) : State :=
  let s := endBarrier (fun _ => true) St.domainState s
  let s := (s.ex.cmds.filter fun c => pktOpcode c.pkt == 0xB2 && c.phase != .done && (match c.work with | .copy _ _ => true | _ => false)).foldl
    (fun s c => finish c.id St.domainState (stopXfer c false s)) s
  let s := s.dom.reqs.foldl (fun s r => let s := endReq r 0 true s; if r.isStore then linkDrop r.link s else s) s
  let s := { s with links := s.links.map fun l => { linkNow s.time l with txq := [], replayBuf := 0, failRun := 0, againRun := 0 } }
  recomputeDegraded (updDom (fun x => { x with arrived := [], withdrawn := [], resets := satInc x.resets }) s)

/-- DOMAIN_RESET: a member that cannot be reached leaves the command to its timeout. -/
def startDomainReset (c : Cmd) (s : State) : Go × State :=
  domainGo s fun s =>
    if !s.dom.member then (.ended St.domainState, s)
    else
      let s := (linksUsed s.dom.size.toNat).foldl (fun s k => if (linkOf s k).up then linkGlobal k s else s) s
      let s := domainReset s
      if domainWhole s then (.ended St.success, s) else (.running, updCmd c.id (fun x => { x with work := .domReset }) s)

/-- DOMAIN_RESET_ARRIVAL: a reset that another member issued. -/
def execDomainResetArrival (s : State) : Res := fin (if s.dom.member then domainReset s else s)

end Sys2Proof.Machine
end

