-- ==== Sys2Proof/Machine/MemRows.lean ====
section
/-! DEFINITION. MemRows.lean: scrubbers, their laps, and check-bit test mode (16 R548-R550). -/
namespace Sys2Proof.Machine

def ctlUpd (f : MemCtl → MemCtl) (s : State) : State := { s with mm := { s.mm with ctl := f s.mm.ctl } }

/-- Words that unit `u` scrubs: a Peat region, or the data of an LPDDR channel. -/
def unitWords (s : State) (u : Nat) : Nat := if u < 32 then regionBytes / 8 else s.mm.ctl.mibPerCh * 7 / 8 * 1048576 / 8

/-- Position of channel `k` among the trained ones (R539). -/
def chanRank (s : State) (k : Nat) : Nat := ((setBits s.mm.ctl.chmask).filter fun j => decide (j < k)).length

/-- Device-physical address of word `w` of a unit (R539). -/
def unitAddr (s : State) (u w : Nat) : Nat :=
  if u < 32 then u * regionBytes + 8 * w
  else (8 * w / 4096 * max (popcount s.mm.ctl.chmask) 1 + chanRank s (u - 32)) * 4096 + 8 * w % 4096

/-- Does the unit exist, and is it on? -/
def unitOn (s : State) (u : Nat) : Bool :=
  if u < 32 then decide (u < presentCores s.part) && pdOf s (36 + u / 4) == .on
  else s.mm.ctl.initDone && bit s.mm.ctl.chmask (u - 32) && pdOf s (44 + (u - 32)) == .on

/-- The data of a word as stored, and storing data with what its check bits are: the top of LPDDR holds the frame counts (13 R460). -/
def storedData (lp : Bool) (g : Nat) (s : State) : W64 :=
  if lp && isCountGran s g then countWord s g else BitVec.ofNat 64 (leVal ((devMem lp s).bytes (8 * g) 8))
def storeData (lp : Bool) (g : Nat) (d : W64) (mk : Option Mark) (s : State) : State :=
  let s := if lp && isCountGran s g then putCountWord g d s else setDevMem lp ((devMem lp s).putBytes (8 * g) (leBytes 8 d.toNat)) s
  setDevMem lp ((devMem lp s).putMark g mk) s

/-- What the scrubber makes of the word it reads. -/
def scrubWord (lp : Bool) (g : Nat) (s : State) : State :=
  let (d, f) := wordFound (storedData lp g s) (pairGet (devMem lp s).marks g)
  match f with
  | .corrected =>
    let s := eccNote lp g .corrected (storeData lp g d none s)
    eccCount lp (8 * g) (fun u => { u with scrubFix := satInc u.scrubFix }) s
  | .uncorrectable => eccNote lp g .uncorrectable (storeData lp g d (some .poison) s)
  | _ => s

/-- SCRUB: the unit's scrubber takes its next word while it runs. -/
def execScrub (u : Fin 36) (s : State) : Res :=
  let lp := decide (32 ≤ u.val)
  let n := unitWords s u
  if !(bit s.mm.ctl.ctrl (b2n lp)) || !(unitOn s u) || n = 0 then done s
  else
    let w := tabD s.mm.ctl.scrubPos u 0
    let s := ctlUpd (fun c => { c with scrubPos := tabUpd c.scrubPos u fun _ => (w + 1) % n, scrubCnt := tabUpd c.scrubCnt u (· + 1) }) s
    done (scrubWord lp (unitAddr s u w / 8) s)

/-- Units of a lap: every present region, or every trained channel. -/
def lapUnits (lp : Bool) (s : State) : List Nat :=
  if lp then (if s.mm.ctl.initDone then (setBits s.mm.ctl.chmask).map (32 + ·) else []) else List.range (presentCores s.part)

/-- SCRUB_LAP_END: every unit has been scrubbed once since the lap began; one that is not on, which the scrubber skips, keeps the lap open
(R548, R549). -/
def execScrubLapEnd (lp : Bool) (t : W64) (s : State) : Res :=
  let s := s.at t
  let us := lapUnits lp s
  if us.isEmpty || us.any (fun u => decide (tabD s.mm.ctl.scrubCnt u 0 < unitWords s u)) then done s
  else
    done (ctlUpd (fun c => { c with
      scrub := tabUpd c.scrub (b2n lp) fun x => { laps := x.laps + 1, lastLap := BitVec.ofNat 32 ((s.now - x.lapStart.toNat) / 1000), lapStart := s.time }
      scrubCnt := us.foldl (fun v u => tabUpd v u fun _ => 0) c.scrubCnt }) s)

/-! ### Check-bit test mode (R550) -/

/-- The word that the test registers name: target and granule, none where ERR is set. -/
def testWord (s : State) : Option (Bool × Nat) :=
  let a := fld s.mm.ctl.testAddr 34 3 * 8
  if bit s.mm.ctl.testAddr 35 then (if a + 8 ≤ lpddrBytes s ∧ (s.mm.ctl.initDone = true) then some (true, a / 8) else none)
  else if a + 8 ≤ peatBytes s.part ∧ pdOf s (36 + a / groupBytes) = .on then some (false, a / 8) else none

/-- The check bits of a word as stored. -/
def rawCheck (d : W64) (mk : Option Mark) : Byte := match mk with | none => secdedCheck d | some .poison => ~~~ (secdedCheck d) | some (.raw c) => c

def testWrite (s : State) : State :=
  match testWord s with
  | none => ctlUpd (fun c => { c with testErr := true }) s
  | some (lp, g) =>
    ctlUpd (fun c => { c with testErr := false }) (storeData lp g s.mm.ctl.testData (if secdedCheck s.mm.ctl.testData = s.mm.ctl.testCheck then none else some (.raw s.mm.ctl.testCheck)) s)

def testRead (s : State) : State :=
  match testWord s with
  | none => ctlUpd (fun c => { c with testErr := true }) s
  | some (lp, g) =>
    let d := storedData lp g s
    let k := rawCheck d (pairGet (devMem lp s).marks g)
    ctlUpd (fun c => { c with testErr := false, testData := d, testCheck := k }) s

/-- ECC_TEST_CTRL.WRITE and READ. -/
def execEccTestWrite (s : State) : Res := done (testWrite s)
def execEccTestRead (s : State) : Res := done (testRead s)

/-- A write of ECC_TEST_CTRL. -/
def writeTestCtrl (v : W32) (s : State) : State :=
  let s := ctlUpd (fun c => { c with testCheck := BitVec.ofNat 8 (fld v 7 0) }) s
  let s := if bit v 8 then testWrite s else s
  if bit v 9 then testRead s else s

end Sys2Proof.Machine
end

