-- ==== Sys2Proof/Machine/Deflate.lean ====
section
/-! DEFINITION. Deflate.lean: DZ_RUN, the Deflate engine's command (12 Table 12.14; 16 R551-R558). The whole run takes place when
the command starts; a fault or an empty bucket makes it start over. -/
namespace Sys2Proof.Machine

/-- Big-endian bytes. -/
def beBytes (n v : Nat) : List Byte := (leBytes n v).reverse

/-! ### Compression (R552-R554): the form of the stream is fixed, its matches and codes are the compressor's -/

/-- The 64 KiB pieces of an input. -/
def dzPieces : Nat → List Byte → List (List Byte)
  | 0, _ => []
  | f + 1, bs => if bs.isEmpty then [] else bs.take 65536 :: dzPieces f (bs.drop 65536)

/-- The next block of a stream: BFINAL, BTYPE, and the decoder after it. -/
def infBlock (x : Inf) : Option (Nat × Nat × Inf) :=
  match takeBits 3 x.bits with
  | none => none
  | some (h, r) =>
    let y : Option Inf := match h / 2 with
      | 0 => (match takeBits 32 (alignBits r) with
        | some (v, r) => if v % 65536 + v / 65536 = 65535 then (infStored (v % 65536) { x with bits := r }).toOption else none
        | none => none)
      | 1 => (infSyms fixedLit fixedDist (r.length + 1) { x with bits := r }).toOption
      | 2 => (match infDyn r with
        | .ok (lit, dist, r) => (infSyms lit dist (r.length + 1) { x with bits := r }).toOption
        | .error _ => none)
      | _ => none
    y.map fun y => (h % 2, h / 2, y)

/-- Bits of a stored block of `n` bytes where the decoder stands. -/
def storedBits (x : Inf) (n : Nat) : Nat := 35 + (x.bits.length - 3) % 8 + 8 * n

/-- Is a stream of the form of R552 and R554: one block for each piece, static or, with DYN, dynamic or stored when that is
shorter; the last final, or with FLUSH none, and an empty stored block at the end? -/
def dzForm (dyn flush : Bool) : List (List Byte) → Inf → Bool
  | [], x =>
    if flush then (match infBlock x with | some (0, 0, y) => y.n == x.n && y.bits.isEmpty | _ => false)
    else decide (x.bits.length < 8)
  | p :: r, x =>
    match infBlock x with
    | none => false
    | some (f, ty, y) =>
      f == b2n (r.isEmpty && !flush) && y.n == x.n + p.length && y.out.take p.length == p.reverse &&
      (if dyn then ty == 0 || (ty == 2 && (decide (65535 < p.length) || decide (x.bits.length - y.bits.length ≤ storedBits x p.length))) else ty == 1) &&
      dzForm dyn flush r y

def lsbBits (n v : Nat) : List Bool := (List.range n).map fun i => v.testBit i
def msbBits (n v : Nat) : List Bool := (List.range n).map fun i => v.testBit (n - 1 - i)

/-- A block of literals with static codes. -/
def staticBlock (last : Bool) (p : List Byte) : List Bool :=
  last :: true :: false :: p.flatMap (fun b => if b.toNat < 144 then msbBits 8 (0x30 + b.toNat) else msbBits 9 (0x100 + b.toNat)) ++ msbBits 7 0

/-- A block of literals with dynamic codes: 8 bits for the values below 255, 9 for 255 and the end of the block. -/
def dynamicBlock (last : Bool) (p : List Byte) : List Bool :=
  last :: false :: true :: lsbBits 14 (3 * 1024) ++ (([0, 0, 0, 2, 1, 0, 2] : List Nat).flatMap (lsbBits 3)) ++
  List.replicate 255 false ++ ([true, true, true, true, true, false] : List Bool) ++
  p.flatMap (fun b => if b.toNat < 255 then msbBits 8 b.toNat else msbBits 9 510) ++ msbBits 9 511

/-- A stored block after `n` bits. -/
def storedBlock (n : Nat) (last : Bool) (p : List Byte) : List Bool :=
  last :: false :: false :: List.replicate ((8 - (n + 3) % 8) % 8) false ++ lsbBits 16 p.length ++ lsbBits 16 (65535 - p.length) ++ toBits p

/-- A stream of the form of R552 with no matches. -/
def plainBlocks (dyn flush : Bool) : List (List Byte) → List Bool → List Bool
  | [], l => if flush then l ++ storedBlock l.length false [] else l
  | p :: r, l =>
    let last := r.isEmpty && !flush
    plainBlocks dyn flush r (l ++ (if !dyn then staticBlock last p else if p.length < 65536 then storedBlock l.length last p else dynamicBlock last p))

/-- Bits as bytes, least significant first, the last byte filled with zeros. -/
def packBits : Nat → List Bool → List Byte
  | 0, _ => []
  | f + 1, l => if l.isEmpty then [] else BitVec.ofNat 8 (sumN ((List.range 8).map fun i => b2n (l.getD i false) * 2 ^ i)) :: packBits f (l.drop 8)

/-- The body of a compressed stream: the compressor's own, which has the form of R552 and R554 (DESIGN CHOICE, safe, log 18). -/
def deflateBody (dyn flush : Bool) (bs : List Byte) : List Byte :=
  let ps := dzPieces (bs.length / 65536 + 1) bs
  let o := Config.deflate dyn flush bs
  if dzForm dyn flush ps { bits := toBits o, max := bs.length } then o
  else let l := plainBlocks dyn flush ps []; packBits (l.length / 8 + 1) l

/-- The compressed stream of an input (R552-R554). -/
def dzCompress (z : Dz) (bs : List Byte) : List Byte :=
  let body := deflateBody z.dyn z.flush bs
  match z.wrap with
  | 0 => body
  | 1 => ([0x78, 0x9C] : List Byte) ++ body ++ beBytes 4 (adler32 bs).toNat
  | _ => ([0x1F, 0x8B, 0x08, 0x00, 0, 0, 0, 0, 0x00, 0xFF] : List Byte) ++ body ++ leBytes 4 (crc32 bs).toNat ++ leBytes 4 bs.length

/-- What a run gives: status, output, bytes consumed, uncompressed bytes that the check value covers, and the first byte of
output that follows poisoned input. -/
structure DzOut where
  st : Status
  out : List Byte
  used : Nat
  plain : List Byte
  poisonFrom : Nat
  deriving DecidableEq, Repr

def dzStatus (e : DzEnd) : Status :=
  match e with | .ok => St.success | .stream => St.dzStream | .check => St.dzCheck | .full => St.dzOutputFull

/-- Bytes before the first poisoned one. -/
def cleanLen (bs : PB) : Nat := (bs.takeWhile fun b => !b.2).length

/-- Where the blocks of a raw stream begin and end, in bits. -/
def blockSpans : Nat → Nat → Inf → List (Nat × Nat)
  | 0, _, _ => []
  | f + 1, o, x =>
    match infBlock x with
    | some (_, _, y) => let e := o + (x.bits.length - y.bits.length); (o, e) :: blockSpans f e y
    | none => []

/-- Where compressed output becomes poisoned: a free place in the block of the piece that holds the first poisoned byte, whose place in its
own block is the compressor's (R552, R558; DESIGN CHOICE, safe, log 18). -/
def dzPoisonFrom (z : Dz) (bs : PB) (out : List Byte) (v : Nat) : Nat :=
  let h := match z.wrap with | 0 => 0 | 1 => 2 | _ => 11
  let k := cleanLen bs / 65536
  let x : Inf := { bits := toBits (out.drop h), max := bs.length }
  match (blockSpans (k + 1) 0 x)[k]? with
  | some (b, e) => let lo := h + b / 8; lo + v % ((e + 7) / 8 + h - lo)
  | none => 0

/-- Run over the input as delivered. Where compressed output lies against its input, and what a full output had consumed, are
free values (DESIGN CHOICE, safe, log 18). -/
def dzRun (z : Dz) (bs : PB) (s : State) : DzOut × State :=
  let data := dataOf bs
  if z.decomp then
    let (e, out, used) := decompress z.wrap z.flush data z.dstSize
    let from' := if anyPoison bs then (decompress z.wrap z.flush (data.take (cleanLen bs)) z.dstSize).2.1.length else out.length
    ({ st := dzStatus e, out := out, used := used, plain := out, poisonFrom := from' }, s)
  else
    let out := dzCompress z data
    let (a, s) := s.draw
    let (b, s) := s.draw
    let used := a.toNat % (data.length + 1)
    let from' := if anyPoison bs then dzPoisonFrom z bs out b.toNat else out.length
    if z.dstSize < out.length then
      ({ st := St.dzOutputFull, out := out.take z.dstSize, used := used, plain := data.take used, poisonFrom := from' }, s)
    else ({ st := St.success, out := out, used := data.length, plain := data, poisonFrom := from' }, s)

/-- Store output piece by piece: the bytes written, and how it ended. -/
def dzStore (ctx : Nat) (rq : Rq) : List (Nat × Nat) → PB → Nat → State → Nat × XferEnd × State
  | [], _, n, s => (n, .done, s)
  | (va, k) :: r, bs, n, s =>
    match xferPl ctx va .store rq s with
    | (.stop st, s) => (n, .stop st, s)
    | (.stall, s) => (n, .blocked, s)
    | (.at' pl, s) =>
      match xferStore ctx va rq pl (bs.take k) s with
      | (m, some st, s) => (n + m, .stop st, s)
      | (m, none, s) => dzStore ctx rq r (bs.drop k) (n + m) s

/-- Bytes of the destination from byte `n` on hold free values (R557). -/
def dzFree (ctx dst : Nat) : List (Nat × Nat) → State → State
  | [], s => s
  | (va, k) :: r, s =>
    match translate ctx va .store s with
    | (.ok _ pl, s) =>
      let bs : PB := (List.range k).map fun i => (BitVec.ofNat 8 (Config.freeValue (s.freeCtr + i)).toNat, false)
      dzFree ctx dst r (writePlace (ctxFn s ctx) pl bs { s with freeCtr := s.freeCtr + k })
    | (_, s) => dzFree ctx dst r s
def freeFrom (z : Dz) (ctx n : Nat) (s : State) : State := dzFree ctx z.dst (pagePieces (z.dst + n) (z.dstSize - n)) s

/-- Bytes that the pages of a range move through the regulators. -/
def rangeNeeds (ctx : Nat) (k : Access) : List (Nat × Nat) → State → List Nat × State
  | [], s => ([0, 0, 0], s)
  | (va, n) :: r, s =>
    match translate ctx va k s with
    | (.ok _ pl, s) => let (l, s) := rangeNeeds ctx k r s; (addNeeds (bulkNeeds none pl n) l, s)
    | (_, s) => rangeNeeds ctx k r s

/-- The check value of DW6 (R556). -/
def dzCheck (z : Dz) (bs : List Byte) : W32 := if z.wrap = 1 then adler32 bs else crc32 bs

/-- The command ends: DW4, DW5 and DW6; after a failure what lies above DW5 is unspecified. -/
def dzEnd (c : Cmd) (z : Dz) (st : Status) (used made : Nat) (chk : W32) (s : State) : Go × State :=
  let s := if statusOk st then s else freeFrom z (cmdCtx c) made s
  (.ended st, setRes c.id [BitVec.ofNat 32 used, BitVec.ofNat 32 made, chk, 0] s)

/-- Store what a run produced. -/
def dzWrite (c : Cmd) (z : Dz) (rq : Rq) (o : DzOut) (s : State) : Go × State :=
  let out : PB := (o.out.zip (List.range o.out.length)).map fun x => (x.1, decide (o.poisonFrom ≤ x.2))
  match dzStore (cmdCtx c) rq (pagePieces z.dst out.length) out 0 s with
  | (_, .blocked, s) => (.blocked, s)
  | (n, .stop st, s) => dzEnd c z st o.used n (dzCheck z o.plain) s
  | (n, .done, s) => dzEnd c z o.st o.used n (dzCheck z o.plain) s

/-- DZ_RUN. -/
def startDzRun (c : Cmd) (s : State) : Go × State :=
  let z := dzOf c.pkt
  let x := cmdCtx c
  match dzBad z with
  | some st => (.ended st, s)
  | none =>
    let rq : Rq := { who := some (.cmd c.id), eng := some 34 }
    match readVa x z.src z.srcSize .load rq s with
    | (_, .stall, s) => (.blocked, s)
    | (bs, .fail st, s) => dzEnd c z st bs.length 0 (dzCheck z []) s
    | (bs, .ok, s) =>
      let (o, s) := dzRun z bs s
      let (a, s) := rangeNeeds x .load (pagePieces z.src z.srcSize) s
      let (b, s) := rangeNeeds x .store (pagePieces z.dst o.out.length) s
      match bulk (ctxOf s x).part.val (addNeeds a b) s with
      | none => (.blocked, s)
      | some s => dzWrite c z rq o s

/-- A timeout stops a run that has not been able to go on: nothing of it stands (R432, R557). -/
def stopDz (c : Cmd) (s : State) : State := freeFrom (dzOf c.pkt) (cmdCtx c) 0 (setRes c.id [0, 0, dzCheck (dzOf c.pkt) [], 0] s)

end Sys2Proof.Machine
end

