-- ==== Sys2Proof/Machine/Partition.lean ====
section
/-! DEFINITION. Partition.lean: PARTITION_CONFIG (13 R467-R471, R474; 00 R4). -/
namespace Sys2Proof.Machine

/-- The partition as the packet writes it; 0 for the window stands for 1,000. The scheduler's records of the partition stand. -/
def partImage (p : Pkt) (x : Partition) : Partition :=
  let w := dw p 17
  { x with
    en := bit (dw p 8) 17, vf := BitVec.ofNat 4 (fld (dw p 8) 11 8), cluster := bit (dw p 8) 16, cores := dw p 9, peat := dw p 10
    lpBase := BitVec.ofNat 64 (dq p 12), lpSize := BitVec.ofNat 64 (dq p 14), shares := (List.range 3).map fun i => BitVec.ofNat 8 (fld (dw p 16) (8 * i + 7) (8 * i))
    full := [false, false, false], window := if w = 0 then 1000 else w }

/-- Does the packet change a field that a partition with contexts keeps (R468)? -/
def partLocked (a b : Partition) : Bool :=
  a.en != b.en || a.cores != b.cores || a.peat != b.peat || a.lpBase != b.lpBase || a.lpSize != b.lpSize || a.vf != b.vf || a.cluster != b.cluster

/-- Do two enabled partitions share a core, a region, an LPDDR byte or a VF? -/
def partClash (a b : Partition) : Bool :=
  a.cores &&& b.cores != 0 || a.peat &&& b.peat != 0 || (a.vf != 0xF && a.vf == b.vf) ||
  (a.lpSize != 0 && b.lpSize != 0 && decide (a.lpBase.toNat < b.lpBase.toNat + b.lpSize.toNat) && decide (b.lpBase.toNat < a.lpBase.toNat + a.lpSize.toNat))

/-- Buckets that the step fills: those whose share or window changed (R474). -/
def keepBuckets (mts : Nat) (now : W64) (old new : Partition) : Partition :=
  let old := refill mts now old
  let same (i : Nat) : Bool := old.full.getD i false == new.full.getD i false && old.shares.getD i 0 == new.shares.getD i 0 && old.window == new.window
  { new with short := (List.range 3).map fun i => if same i then old.short.getD i 0 else 0, bucketT := now }

/-- The records of a partition that a step enables: every DEBT is zero, no overrun is measured and no class holds the turn (15 R518). -/
def freshClasses (x : Partition) : Partition :=
  { x with turn := none, turnFrom := none, overruns := [], classes := x.classes.map fun k => { k with debt := 0 } }

/-- PARTITION_CONFIG. -/
def startPartitionConfig (c : Cmd) (s : State) : Go × State :=
  let p := c.pkt
  let k := fld (dw p 8) 2 0
  let old := partOf s k
  let new := partImage p old
  let used := s.ex.ctxs.toList.any fun x => x.life != .free && x.part.val == k
  let others := (List.range 8).filter fun i => i != k && (partOf s i).en
  if decide (8 ≤ new.vf.toNat) && new.vf != 0xF then (.ended St.paramRange, s)
  else if !(decide (10 ≤ new.window.toNat) && decide (new.window.toNat ≤ 100000)) then (.ended St.paramRange, s)
  else if new.lpBase.toNat % 65536 != 0 || new.lpSize.toNat % 65536 != 0 then (.ended St.paramRange, s)
  else if new.cores &&& ~~~(coreMask s.part) != 0 || new.peat &&& ~~~(coreMask s.part) != 0 then (.ended St.resourceAbsent, s)
  else if decide (lpddrMib s * 1048576 < new.lpBase.toNat + new.lpSize.toNat) || (used && partLocked old new) || (new.en && new.cores == 0) ||
      (new.en && others.any fun i => partClash new (partOf s i)) then (.ended St.paramRange, s)
  else
    let x := keepBuckets s.mm.ctl.mts.toNat s.time old new
    (.ended St.success, settlePd (updPart k (fun _ => if x.en && old.en then x else freshClasses x) s))

end Sys2Proof.Machine
end

