-- ==== Sys2Proof/Machine/Query.lean ====
section
/-! DEFINITION. Query.lean: the capability table (11 R390-R392, Table 11.3), the partition reply (15 R534, Table 15.4) and QUERY
(12 Table 12.9). -/
namespace Sys2Proof.Machine

/-- The partition of a function: the PF sees the whole device. -/
def fnPart (s : State) (fn : Nat) : Option Nat := if fn = 0 then none else vfPart s (fn - 1)

/-- Bytes of zero. -/
def zeroB (n : Nat) : List Byte := List.replicate n 0

/-- Header of a capability entry: version 1. -/
def capHead (id len : Nat) : List Byte := leBytes 4 (id + 0x10000 + len * 2 ^ 24)

/-- Power domains of the part (Table 18.1): those of absent cores, bank groups and links do not exist on KF32-AC. -/
def pdMask (p : Part) : Nat :=
  match p with
  | .ae => 2 ^ 64 - 1
  | .ac => 2 ^ 64 - 1 - (2 ^ 8 - 1) * 2 ^ 28 - (2 ^ 2 - 1) * 2 ^ 42 - (2 ^ 4 - 1) * 2 ^ 58

/-- STEPPING: B0, the current silicon (00, Table 11.3; DEDUCED, unsafe, log 43). -/
def stepping : Byte := 0x10

/-- The entries of a function's table (Table 11.3). -/
def capEntries (s : State) (fn : Nat) : List Byte :=
  let part := fnPart s fn
  let p := match part with | some k => partOf s k | none => {}
  let cores := if fn = 0 then coreMask s.part else p.cores &&& coreMask s.part
  let peat := if fn = 0 then coreMask s.part else p.peat &&& coreMask s.part
  let mib := if fn = 0 then lpddrMib s else p.lpSize.toNat / 1048576
  let fw := if fwOn s then s.boot.fwver.toNat else 0
  capHead 1 3 ++ leBytes 2 (match s.part with | .ae => 0 | .ac => 1) ++ ([stepping, 0] : List Byte) ++ leBytes 4 fw ++ zeroB 12 ++
  capHead 2 2 ++ leBytes 4 cores.toNat ++ leBytes 4 250000 ++ zeroB 4 ++
  capHead 3 3 ++ leBytes 4 peat.toNat ++ leBytes 4 mib ++ leBytes 2 s.mm.ctl.mts.toNat ++ ([BitVec.ofNat 8 s.mm.ctl.chmask.toNat] : List Byte) ++ zeroB 9 ++
  capHead 4 2 ++ ([0x0F, 0x03, if linksPresent s.part then 0x0F else 0, 8, 4, 2, 4, 32] : List Byte) ++ zeroB 4 ++
  capHead 5 4 ++ leBytes 2 64 ++ leBytes 2 256 ++ ([8, 16, 16, 4] : List Byte) ++ leBytes 2 128 ++ leBytes 2 1024 ++ leBytes 2 256 ++ ([16, 0] : List Byte) ++ leBytes 2 4096 ++ leBytes 2 256 ++
    leBytes 4 65536 ++ leBytes 4 65536 ++
  capHead 6 2 ++ zeroB 4 ++ leBytes 8 (pdMask s.part) ++
  capHead 7 2 ++ ([BitVec.ofNat 8 fn, match part with | some k => BitVec.ofNat 8 k | none => 0xFF, BitVec.ofNat 8 (if fn = 0 then 0 else 247 + fn), BitVec.ofNat 8 (vectors fn)] : List Byte) ++
    zeroB 8 ++
  capHead 0 1 ++ zeroB 4

/-- The capability table of a function (R390). -/
def capTable (s : State) (fn : Nat) : List Byte :=
  let es := capEntries s fn
  leBytes 4 0x50434B45 ++ leBytes 2 1 ++ leBytes 2 (8 + es.length) ++ es

/-- The reply for partition `p` (Table 15.4). A share of 256 does not fit its byte and reads 0 there (DEDUCED, unsafe, log 44). -/
def partReply (s : State) (p : Nat) : List Byte :=
  let x := partOf s p
  if !x.en then putB (zeroB 576) 3 [0xFF]
  else
    let cls := (List.range 16).flatMap fun c =>
      let k := tabD x.classes c {}
      ([BitVec.ofNat 8 (16 - c), BitVec.ofNat 8 (b2n (backlogged s p c))] : List Byte) ++ leBytes 2 ((classBlocks s p c).filter (·.parked)).length ++ leBytes 4 k.debt.toNat ++
      leBytes 4 k.turns.toNat ++ leBytes 4 k.maxover.toNat
    let ctxs := (List.range 64).flatMap fun c =>
      let y := ctxOf s c
      if y.life != .free && y.part.val == p then
        leBytes 2 (s.ex.blocks.filter fun b => b.part.val == p && b.ctx.val == c).length ++ ([BitVec.ofNat 8 (jobCount s c), 0] : List Byte)
      else [0, 0, 0, 0]
    ([1, BitVec.ofNat 8 x.vf.toNat, BitVec.ofNat 8 (b2n x.cluster), match x.turn with | some t => BitVec.ofNat 8 t.val | none => 0xFF] : List Byte) ++ leBytes 4 x.cores.toNat ++
    leBytes 4 x.peat.toNat ++ leBytes 4 x.window.toNat ++ leBytes 8 x.lpBase.toNat ++ leBytes 8 x.lpSize.toNat ++
    ((List.range 3).map fun i => if x.full.getD i false then 0 else x.shares.getD i 0) ++ zeroB 5 ++ leBytes 8 (if x.turn.isSome then x.turnStart.toNat else 0) ++
    zeroB 16 ++ cls ++ ctxs

/-- The reply of a QUERY, or why there is none (R423, R534). -/
def queryReply (c : Cmd) (s : State) : Except Status (List Byte) :=
  let i := fld (dw c.pkt 8) 31 16
  let fn := (queueOf s c.q).fn.val
  match fld (dw c.pkt 8) 7 0 with
  | 0 => .ok (capTable s fn)
  | 1 => .ok (modelDesc s i)
  | 2 => if fn ≠ 0 && fnPart s fn != some i then .error St.privileged else .ok (partReply s i)
  | _ => .ok (braidRec s i)

/-- QUERY: at most SIZE bytes. -/
def startQuery (c : Cmd) (s : State) : Go × State :=
  match queryReply c s with
  | .error st => (.ended st, s)
  | .ok bs =>
    let w := c.who
    let bs := bs.take (dw c.pkt 12).toNat
    match writablePieces w.ctx w.rq (pagePieces (dq c.pkt 10) bs.length) s with
    | (.stall, s) => (.blocked, s)
    | (.fail st, s) => (.ended st, s)
    | (.ok, s) =>
      let (_, _, s) := writeVa w.ctx (dq c.pkt 10) (clean bs) w.rq s
      (.ended St.success, setRes0 c.id bs.length s)

end Sys2Proof.Machine
end

