-- ==== Sys2Proof/Machine/Hif.lean ====
section
/-! DEFINITION. Hif.lean: the host interface of each function: link, configuration space, resets, root queue, mirror, BAR2 and
ICN target registers (11 R379-R395, R409, R412-R418). -/
namespace Sys2Proof.Machine

def funcOf (s : State) (fn : Nat) : Func := tabD s.hi.funcs fn {}
def updFunc (fn : Nat) (f : Func → Func) (s : State) : State := updHi (fun h => { h with funcs := tabUpd h.funcs fn f }) s

/-- Root queue of a function (R393). -/
def rootQ (fn : Nat) : Nat := if fn = 0 then 0 else 247 + fn

/-- HIF_STATUS.READY (R384, R631): firmware running, first epoch published, and for a VF a partition bound. -/
def hifReady (s : State) (fn : Nat) : Bool := fwOn s && s.hi.page.epoch != 0 && (fn == 0 || (vfPart s (fn - 1)).isSome)

/-- A bit of HIF_ALARM; each also posts its code (Table 12.18). -/
def hifAlarm (b fn : Nat) (s : State) : State :=
  postAlarm (0x10 + b) fn 0 (updFunc fn (fun f => { f with alarm := setBit f.alarm b true }) s)

/-- An ignored doorbell write (R399, R400). -/
def doorbellBad (fn : Nat) (s : State) : State :=
  hifAlarm 0 fn (updFunc fn (fun f => { f with doorbellErr := satInc f.doorbellErr }) s)

/-- Does an access of function `fn` reach its BARs? -/
def barOn (s : State) (fn : Nat) : Bool := s.hi.pcie.up && (funcOf s fn).enabled && (funcOf s fn).memDecode && !(funcOf s fn).d3hot

/-! ### Root queues (R393-R395) -/

def ringSizeOk (n : Nat) : Bool := decide (4 ≤ n) && decide (n ≤ 16)

/-- The queue that enabling creates afresh, all its counts zero. -/
def rootQueue (fn : Nat) (f : Func) : Queue :=
  { life := .live, root := true, fn := fin' 8 fn, size := fld f.rootqCfg 4 0, csize := fld f.rootqCfg 12 8, vector := fld f.rootqCfg 21 16
    ring := f.rootqBase, cring := f.rootqCbase }

/-- A root queue that has been disabled is FREE once its accepted packets have run to completion and their records are out. -/
def settleRoot (fn : Nat) (s : State) : State :=
  let q := rootQ fn
  if (queueOf s q).root && !(funcOf s fn).rootqOn && !(s.ex.cmds.any fun c => c.q.val == q) && (queueOf s q).waitRecs.isEmpty then updQueue q (fun _ => {}) s else s

/-- ROOTQ_CTRL.EN (R394). -/
def writeRootq (fn : Nat) (v : W32) (s : State) : State :=
  let f := funcOf s fn
  if bit v 0 then
    if f.rootqOn then s
    else if hifReady s fn && ringSizeOk (fld f.rootqCfg 4 0) && ringSizeOk (fld f.rootqCfg 12 8) then
      updQueue (rootQ fn) (fun _ => rootQueue fn f) (updFunc fn (fun f => { f with rootqOn := true }) s)
    else hifAlarm 2 fn s
  else settleRoot fn (updQueue (rootQ fn) (fun x => { x with slots := [] }) (updFunc fn (fun f => { f with rootqOn := false }) s))

/-- ROOTQ_CTRL: a write of EN. -/
def execRootqCtrl (fn : Fin 9) (v : W32) (s : State) : Res := if barOn s fn then fin (writeRootq fn v s) else done s

/-- MIRROR_BASE: enabling, or a new BASE, makes the next publication write the whole view (R409). -/
def writeMirror (fn : Nat) (v : W64) (s : State) : State :=
  let v := setFld v 15 1 0
  updFunc fn (fun f => { f with mirror := v, mirrorWhole := f.mirrorWhole || v != f.mirror }) s

/-- MIRROR_BASE write. -/
def execMirrorBaseWrite (fn : Fin 9) (v : W64) (s : State) : Res := if barOn s fn then done (writeMirror fn v s) else done s

/-! ### BAR2 (R387-R389) -/

/-- The place of one piece of a BAR2 access, if R387 and R388 let it through. -/
def bar2Place (fn va : Nat) (k : Access) (s : State) : Option Place × State :=
  let f := funcOf s fn
  let c := fld f.bar2Map 53 48
  let x := ctxOf s c
  let mine := fn = 0 || vfPart s (fn - 1) == some x.part.val
  if !(bit f.bar2Map 63) || x.life != .live || !mine then (none, s)
  else match translate c va k s with
    | (.ok _ (.host _), s) => (none, s)
    | (.ok _ pl, s) => (some pl, s)
    | (_, s) => (none, s)

/-- One faulty access: BAR2_FAULT counts (R388). -/
def bar2Bad (fn : Nat) (s : State) : State :=
  hifAlarm 1 fn (updFunc fn (fun f => { f with bar2Fault := satInc f.bar2Fault }) s)

/-- Device virtual address at a BAR2 offset. -/
def bar2Va (f : Func) (off : Nat) : Nat := fld f.bar2Map 39 28 * 2 ^ 28 + off

/-- Bytes of a piece at the partition's LPDDR and Peat regulators: host traffic is BULK, injected by no engine of Table 13.5's first
row (R25, R472). -/
def bar2Charge (fn : Nat) (pl : Place) (n : Nat) (s : State) : State :=
  bulkDebt (ctxOf s (fld (funcOf s fn).bar2Map 53 48)).part.val (match pl with | .peat _ => [0, 0, n] | .lpddr _ => [0, n, 0] | _ => [0, 0, 0]) s

/-- An access to another device leaves over its link; on a route that is down a read counts as timed out, and a write as dropped (17 R572). -/
def bar2Send (store : Bool) (pl : Place) (s : State) : State :=
  match remoteDev pl with
  | none => s
  | some (d, o) => let k := routeLink s d o; if routeDown s pl then (if store then linkDrop k s else linkTimeout k s) else linkTx k s

/-- Read the pieces of an access: bytes, whether a piece faulted, and whether a byte was poisoned. -/
def bar2Get (fn : Nat) : List (Nat × Nat) → State → List Byte × Bool × Bool × State
  | [], s => ([], false, false, s)
  | (va, n) :: r, s =>
    match bar2Place fn va .load s with
    | (none, s) =>
      let (bs, _, p, s) := bar2Get fn r s
      (List.replicate n 0xFF ++ bs, true, p, s)
    | (some pl, s) =>
      let lost := routeDown s pl
      let (b, s) := readPlace fn pl n (bar2Send false pl (bar2Charge fn pl n s))
      let (bs, bad, p, s) := bar2Get fn r s
      (dataOf b ++ bs, bad, p || anyPoison b || lost, s)

/-- Write the pieces of an access, with their marks; whether a piece was dropped. Over a route that is down a write is dropped and counted
(17 R572). -/
def bar2Put (fn : Nat) : List (Nat × Nat) → PB → State → Bool × State
  | [], _, s => (false, s)
  | (va, n) :: r, bs, s =>
    match bar2Place fn va .store s with
    | (none, s) => let (_, s) := bar2Put fn r (bs.drop n) s; (true, s)
    | (some pl, s) => bar2Put fn r (bs.drop n) (writePlace fn pl (bs.take n) (bar2Send true pl (bar2Charge fn pl n s)))

/-- Is an offset inside the function's BAR2 (R389)? -/
def bar2In (s : State) (fn off : Nat) : Bool := decide (off < 2 ^ (20 + (funcOf s fn).bar2Size.toNat))

/-- A BAR2 read: its bytes, the low 8 of them as the read data (DESIGN CHOICE, safe, log 9), and the poisoned-TLP bit (R388). -/
def bar2Read (fn off n : Nat) (s : State) : State :=
  let (bs, bad, poison, s) := bar2Get fn (pagePieces (bar2Va (funcOf s fn) off) n) s
  let s := if bad then bar2Bad fn s else s
  { s with readData := BitVec.ofNat 64 (leAt bs 0 8), readBytes := bs, readPoison := poison }

/-- A BAR2 write; a poisoned TLP is received as such (Table 11.1). -/
def bar2Write (fn off : Nat) (bs : PB) (s : State) : State :=
  let s := if anyPoison bs then updFunc fn (fun x => { x with aer := setBit x.aer 12 true }) s else s
  let (bad, s) := bar2Put fn (pagePieces (bar2Va (funcOf s fn) off) bs.length) bs s
  if bad then bar2Bad fn s else s

/-! ### The interrupt concentrator's target registers (R413-R418) -/

/-- A read of CLAIM (R416). -/
def claim (t : Nat) (s : State) : State :=
  let out := (tabD s.hi.icn.tgts t {}).outstanding
  let w := icnWinner s.hi.icn t
  let s := updHi (fun h => { h with icn := { h.icn with tgts := tabUpd h.icn.tgts t fun x => { x with outstanding := false } } }) s
  let s := match w with
    | some n => updHi (fun h => { h with icn := { h.icn with srcs := tabUpd h.icn.srcs n fun c => { c with active := true, pending := false } } }) s
    | none => s
  { s with readData := BitVec.ofNat 64 (match w with | some n => n | none => if out then 1023 else 1022) }

/-- A write of COMPLETE (R417). -/
def complete (t : Nat) (v : W32) (s : State) : State :=
  let n := fld v 9 0
  let f (c : IcnSrc) : IcnSrc := if c.active && icnTargetOf c == t then { c with active := false } else c
  updHi (fun h => { h with icn := { h.icn with srcs := tabUpd h.icn.srcs n f } }) s

/-- ICN_CLAIM. -/
def execIcnClaim (t : Fin 9) (s : State) : Res := if barOn s t then done (claim t s) else done s
/-- ICN_COMPLETE. -/
def execIcnComplete (t : Fin 9) (v : W32) (s : State) : Res := if barOn s t then done (complete t v s) else done s

/-- A write of ICN_SRC: EN, SENSE, PRIO and TARGET; reserved sources never become pending. -/
def writeIcnSrc (n : Nat) (v : W32) (s : State) : State :=
  updHi (fun h => { h with icn := { h.icn with srcs := tabUpd h.icn.srcs n fun c =>
    { c with en := bit v 0, sense := BitVec.ofNat 3 (fld v 3 1), prio := BitVec.ofNat 4 (fld v 7 4), target := BitVec.ofNat 4 (fld v 11 8) } } }) s

/-- A read of ICN_SRC. -/
def readIcnSrc (n : Nat) (s : State) : W32 :=
  let c := tabD s.hi.icn.srcs n {}
  BitVec.ofNat 32 (b2n c.en + 2 * c.sense.toNat + 16 * c.prio.toNat + 256 * c.target.toNat +
    4096 * b2n (icnAssigned n && icnPending n c) + 8192 * b2n c.active + 16384 * b2n c.input)

/-! ### Link, configuration space and resets (R379-R383) -/

/-- The configuration space of a function returns to its reset values: Bus Master Enable, memory decode, VF Enable, BAR2 size, MSI-X
Enable and Function Mask, payload and request sizes, power management, AER. -/
def cfgReset (pf : Bool) (f : Func) : Func :=
  { f with busMaster := false, memDecode := false, bar2Size := 8, enabled := pf, msixEn := false, msixMask := false, maxPayload := 0, maxRead := 2
           d3hot := false, aspmL1 := false, l1sub := 0, ltr := false, ecrcGen := false, ecrcCheck := false, tags10 := false, aer := 0 }

def cfgResetAll (s : State) : State :=
  updHi (fun h => { h with funcs := Vector.ofFn fun i => cfgReset (i.val == 0) (tabD h.funcs i.val {}) }) s

/-- PCIE_LINK_UP (R379): the port is released from STAGE 2 on (R631). -/
def execPcieLinkUp (rate : Fin 5) (width : Fin 4) (s : State) : Res :=
  if decide (2 ≤ s.boot.stage.toNat) && s.pwr.state != .dormant then
    done (updHi (fun h => { h with pcie := { up := true, rate := rate, width := width } }) { s with wakeN := false })
  else done s

/-- The link goes down without a reset (R382). -/
def linkLost (s : State) : State := cfgResetAll (updHi (fun h => { h with pcie := { up := false } }) s)

/-- PCIE_LINK_DOWN. -/
def execPcieLinkDown (s : State) : Res := done (linkLost s)

/-- Pending messages of entries that nothing masks any more are sent (R407). -/
def msixFlush (fn : Nat) (s : State) : State :=
  let f := funcOf s fn
  if f.msixMask || !f.msixEn then s
  else (List.range f.msix.length).foldl (fun s i => match (funcOf s fn).msix[i]? with
    | some e => if e.pend && !(bit e.ctrl 0) then msiSend fn i (updFunc fn (fun f => { f with msix := f.msix.set i { e with pend := false } }) s) else s
    | none => s) s

/-- CONFIGURATION_SPACE_WRITE (R381, R389, R407, Table 11.1). Values that Table 11.1 does not list are ignored (PRESUMED, unsafe, log 86). -/
def execConfigurationSpaceWrite (fn : Fin 9) (f : CfgField) (v : W32) (s : State) : Res :=
  if !s.hi.pcie.up || !(funcOf s fn).enabled then done s else
  match f with
  | .busMaster => done (updFunc fn (fun x => { x with busMaster := bit v 0 }) s)
  | .memDecode => done (updFunc fn (fun x => { x with memDecode := bit v 0 }) s)
  | .vfEnable =>
    if fn.val = 0 then
      done ((List.range 8).foldl (fun s k => updFunc (k + 1) (fun x => { x with enabled := bit v 0 }) s) s)
    else done s
  | .bar2Size =>
    let top := if fn.val = 0 then 15 else 12
    if (funcOf s fn).memDecode || decide (v.toNat < 8) || decide (top < v.toNat) then done s
    else done (updFunc fn (fun x => { x with bar2Size := v }) s)
  | .msixEnable => done (msixFlush fn (updFunc fn (fun x => { x with msixEn := bit v 0 }) s))
  | .msixMask => done (msixFlush fn (updFunc fn (fun x => { x with msixMask := bit v 0 }) s))
  | .maxPayload => if v.toNat ≤ 2 then done (updFunc fn (fun x => { x with maxPayload := BitVec.ofNat 3 v.toNat }) s) else done s
  | .maxReadRequest => if v.toNat ≤ 5 then done (updFunc fn (fun x => { x with maxRead := BitVec.ofNat 3 v.toNat }) s) else done s
  | .powerState =>
    if v = 0 then done (updFunc fn (fun x => { x with d3hot := false }) s)
    else if v = 3 then done (updFunc fn (fun x => { x with d3hot := true }) s)
    else done s
  | .aspm => done (updFunc fn (fun x => { x with aspmL1 := bit v 1 }) s)
  | .l1Substates => done (updFunc fn (fun x => { x with l1sub := BitVec.ofNat 2 (fld v 1 0) }) s)
  | .ltr => done (updFunc fn (fun x => { x with ltr := bit v 0 }) s)
  | .ecrcGeneration => done (updFunc fn (fun x => { x with ecrcGen := bit v 0 }) s)
  | .ecrcChecking => done (updFunc fn (fun x => { x with ecrcCheck := bit v 0 }) s)
  | .tenBitTags => done (updFunc fn (fun x => { x with tags10 := bit v 0 }) s)
  | .aerStatus => done (updFunc fn (fun x => { x with aer := x.aer &&& ~~~v }) s)

/-- A root queue goes with its commands. -/
def dropRoot (fn : Nat) (s : State) : State := updQueue (rootQ fn) (fun _ => {}) (endQueue (rootQ fn) St.queueDestroyed s)

/-- The concentrator's configuration at reset; the levels of its inputs stay. -/
def icnReset (x : Icn) : Icn := { srcs := x.srcs.map fun c => { input := c.input } }

/-- A PF reset (R382): contexts destroyed, VFs disabled, HIF registers, doorbells, MSI-X table and ICN configuration reset. -/
def pfReset (k : PfResetKind) (s : State) : State :=
  let s := (List.range 64).foldl (fun s c => destroyNow c s) s
  let s := (List.range 9).foldl (fun s fn => dropRoot fn s) s
  let s := updHi (fun h => { h with
    funcs := Vector.ofFn fun i => { Func.reset (i.val == 0) with enabled := i.val == 0 }
    icn := icnReset h.icn
    pcie := match k with | .flr => h.pcie | _ => { up := false } }) s
  publish s

/-- A VF Function Level Reset (R383). -/
def vfReset (v : Nat) (s : State) : State :=
  let fn := v + 1
  let s := match vfPart s v with
    | some p => (List.range 64).foldl (fun s c => if (ctxOf s c).life != .free && (ctxOf s c).part.val == p then destroyNow c s else s) s
    | none => s
  let s := dropRoot fn s
  let s := updFunc fn (fun f => { Func.reset false with enabled := f.enabled }) s
  publish (updHi (fun h => { h with icn := { h.icn with tgts := tabUpd h.icn.tgts fn fun _ => {} } }) s)

end Sys2Proof.Machine
end

