-- ==== Sys2Proof/Machine/Boot.lean ====
section
/-! DEFINITION. Boot.lean: device reset, image checks, identity, the safety configuration block, firmware start, the DORMANT
path and attestation (20 R623-R636; 16 R541; 19 R603-R605). -/
namespace Sys2Proof.Machine

/-! ### Device reset (R623, R625, R648) -/

/-- What a device reset leaves: the part, its fuses, host memory, the levels that outside sources hold, and with `keep` the
shutdown record in the Wisp SRAM. Partition 0 has the cores and regions of the part (Table 13.4), and the power domains follow (R3, R580). -/
def deviceReset (src : BitVec 2) (keep : Bool) (s : State) : State :=
  let r := State.reset
  settlePd <| updPart 0 (fun p => { p with cores := p.cores &&& coreMask s.part, peat := p.peat &&& coreMask s.part })
  { r with
    pending := s.pending, freeCtr := s.freeCtr, readData := s.readData, part := s.part, fuses := s.fuses
    pte := { r.pte with outs := s.pte.outs.map fun o => { force := o.force } }
    sfi := { r.sfi with armIn := s.sfi.armIn, forceA := s.sfi.forceA, forceB := s.sfi.forceB, badClock := s.sfi.badClock, badRail := s.sfi.badRail }
    st := { r.st with shutRec := if keep then s.st.shutRec else none }
    boot := { r.boot with rstsrc := src }
    mm := { r.mm with host := s.mm.host } }

/-- POWER_ON_RESET: VDD_SAFE rises through 0.72 V; the Wisp SRAM has lost its contents. -/
def execPowerOnReset (s : State) : Res := done (deviceReset 1 false s)

/-- RST_N: a low pulse of 10 µs or more resets the device; a shorter one has no effect (R648). -/
def execRstN (lowNs : Nat) (s : State) : Res := if lowNs < 10000 then done s else done (deviceReset 2 true s)

/-- VDD_SAFE_LOSS (R643): the device is without supply; the keeper holds SO and TRG low and both SAFE balls asserted. -/
def execVddSafeLoss (s : State) : Res := done (updSfi (fun x => { x with keeper := true }) (deviceReset 1 false s))

/-- VDDIO_MACH_COLLAPSE (R643): the keeper lets go. -/
def execVddioMachCollapse (s : State) : Res := done (updSfi (fun x => { x with keeper := false }) s)

/-! ### Image checks (Tables 20.2-20.4) -/

/-- The rollback count C: consecutive blown bits from bit 0 (R626). -/
def rollbackC (f : Fuses) : Nat := ((List.range 64).takeWhile fun i => bit f.rollback i).length

def pkLen : Nat := 2592
def sigLen : Nat := 4627
def imageMax : Nat := 1572864

def bodySize (im : List Byte) : Nat := leAt im 0x10 4
def imgBody (im : List Byte) : List Byte := sliceB im 0 (bodySize im)
def imgVpk (im : List Byte) : List Byte := sliceB im (bodySize im) pkLen
def imgVsig (im : List Byte) : List Byte := sliceB im (bodySize im + pkLen) sigLen
def imgCpk (im : List Byte) : List Byte := sliceB im (bodySize im + pkLen + sigLen) pkLen
def imgCsig (im : List Byte) : List Byte := sliceB im (bodySize im + 2 * pkLen + sigLen) sigLen
def imgSvn (im : List Byte) : Nat := leAt im 8 1

/-- Section entries of an image. -/
def imgSects (im : List Byte) : List (List Byte) := (List.range (leAt im 0x14 2)).map fun i => sliceB im (0x40 + 16 * i) 16
def sectType (e : List Byte) : Nat := leAt e 0 2
/-- The first section of a type. -/
def imgSect (im : List Byte) (ty : Nat) : Option (List Byte) :=
  ((imgSects im).find? fun e => sectType e == ty).map fun e => sliceB im (leAt e 4 4) (leAt e 8 4)

/-- Header as Table 20.2. -/
def imgHeaderOk (im : List Byte) : Bool :=
  leAt im 0 4 == 0x57464B45 && leAt im 4 2 == 1 && decide (leAt im 6 2 < 2) && decide (imgSvn im ≤ 64) && leAt im 9 3 == 0 &&
  bodySize im % 64 == 0 && decide (2 ≤ leAt im 0x14 2) && decide (leAt im 0x14 2 ≤ 16) && leAt im 0x16 42 == 0

/-- Section table as Table 20.3. -/
def imgSectsOk (im : List Byte) : Bool :=
  let es := imgSects im
  let n (t : Nat) : Nat := (es.filter fun e => sectType e == t).length
  decide (0x40 + 16 * es.length ≤ bodySize im) &&
  es.all (fun e => decide (1 ≤ sectType e) && decide (sectType e ≤ 7) && leAt e 2 2 == 0 && leAt e 12 4 == 0 && leAt e 4 4 % 64 == 0 &&
    decide (leAt e 4 4 + leAt e 8 4 ≤ bodySize im)) &&
  [1, 2, 3, 4, 6].all (fun t => n t == 1) && decide (n 5 ≤ 1)

/-- A fuse value of 64 bytes. -/
def fuse64 (x : BitVec 512) : List Byte := leBytes 64 x.toNat

/-- The checks of Table 20.4 in order: the ERR code of the first that fails, 0 for none. -/
def imageErr (f : Fuses) (size : Nat) (im : List Byte) (poison : Bool) : Nat :=
  let d := sha3_512 (imgBody im)
  if !(size == bodySize im + 7219 || size == bodySize im + 14438) || decide (imageMax < size) || poison then 1
  else if !(imgHeaderOk im && imgSectsOk im) then 2
  else if sha3_512 (imgVpk im) != fuse64 f.vkh then 3
  else if !Config.mldsaVerify (imgVpk im) d (imgVsig im) then 4
  else if f.cust && (size != bodySize im + 14438 || sha3_512 (imgCpk im) != fuse64 f.ckh ||
      !Config.mldsaVerify (imgCpk im) (sha3_512 (d ++ imgVsig im)) (imgCsig im)) then 5
  else if imgSvn im < rollbackC f then 6
  else 0

/-! ### Identity (R632) -/

def ascii (t : String) : List Byte := t.toList.map fun c => BitVec.ofNat 8 c.toNat
/-- FLAGS byte of the measurement: CUST, DEBUG_OPEN. -/
def measureFlags (f : Fuses) : Nat := b2n f.cust + 2 * b2n (!f.debugLock)

/-- Step 6 of R631: D, M, the DeviceID and Alias keys and ENDORSE; UDS is locked. -/
def identity (f : Fuses) (im : List Byte) (b : Boot) : Boot :=
  let d := sha3_512 (imgBody im)
  let m := sha3_512 (d ++ [BitVec.ofNat 8 (imgSvn im), BitVec.ofNat 8 (measureFlags f)] ++ fuse64 f.vkh ++ fuse64 f.ckh)
  let uds := leBytes 32 f.uds.toNat
  let cdi := shake256 64 (uds ++ ascii "EK-CDI" ++ m)
  let dev := Config.mldsaKeyGen (shake256 32 (uds ++ ascii "EK-DEVID"))
  let al := Config.mldsaKeyGen (shake256 32 (cdi ++ ascii "EK-ALIAS"))
  { b with
    digest := digestVal d, measure := digestVal m, svn := BitVec.ofNat 8 (imgSvn im), fwver := BitVec.ofNat 32 (leAt im 0xC 4), udsLocked := true
    devPk := dev.1, aliasPk := al.1, aliasSk := al.2, endorse := Config.mldsaSign dev.2 (m ++ al.1) }

/-! ### Safety configuration block (19 Table 19.3) -/

def windowOk (n : Nat) : Bool := decide (1 ≤ n) && decide (n ≤ 60000)

def scbOk (b : List Byte) : Bool :=
  b.length == 256 && leAt b 0 4 == 0x42534B45 && leAt b 4 2 == 1 && decide (leAt b 6 1 < 2) && leAt b 7 1 == 0 && decide (leAt b 8 8 < 2 ^ 36) &&
  (List.range 36).all (fun o => decide (leAt b (0x10 + o) 1 < 6)) && leAt b 0x34 12 == 0 &&
  (List.range 16).all (fun i => windowOk (leAt b (0x40 + 8 * i) 2) && decide (leAt b (0x46 + 8 * i) 1 < 2) && leAt b (0x47 + 8 * i) 1 == 0) &&
  (List.range 8).all (fun i => windowOk (leAt b (0xC0 + 8 * i) 2) && leAt b (0xC4 + 8 * i) 4 == 0)

def scbOf (b : List Byte) : Scb :=
  let h (o : Nat) : BitVec 16 := BitVec.ofNat 16 (leAt b o 2)
  { rearm := leAt b 6 1 == 1, safeOut := BitVec.ofNat 36 (leAt b 8 8), level := Vector.ofFn fun i => BitVec.ofNat 8 (leAt b (0x10 + i.val) 1)
    braids := Vector.ofFn fun i => { window := h (0x40 + 8 * i.val), missLim := h (0x42 + 8 * i.val), lateLim := h (0x44 + 8 * i.val), required := leAt b (0x46 + 8 * i.val) 1 == 1 }
    axes := Vector.ofFn fun i => { window := h (0xC0 + 8 * i.val), lateLim := h (0xC2 + 8 * i.val) } }

/-- The SFI code starts with the image's SCB (R603-R605): applied, or a class A cause latched; HOLD either way. -/
def startSfi (im : List Byte) (s : State) : State :=
  let sect := imgSect im 5
  let s := updSfi (fun x => { x with scb := none, scbDigest := match sect with | some b => digestVal (sha3_512 b) | none => 0 }) s
  let s := match sect with
    | some b => if scbOk b then applyLevels (scbOf b) (updSfi (fun x => { x with scb := some (scbOf b) }) s) else trip 0x10 0 0 true s
    | none => trip 0x10 0 0 true s
  updSfi (fun x => { x with state := if x.state == .boot then .hold else x.state }) s

/-! ### LPDDR (16 R538, R541; Table 20.6) -/

/-- A training result that the channels can have: at least one channel, a supported rate and capacity (R538). -/
def trainOk (r : BitVec 14 × BitVec 4 × Nat) : Bool :=
  r.2.1 != 0 && [8533, 7500, 6400, 5500, 4267].contains r.1.toNat && [1024, 2048, 4096, 8192].contains r.2.2

/-- Where the image copy lies. -/
def copyBase (s : State) : Nat := lpddrMib s * 1048576 + 0x200000

/-- Step 8 of R631: LPDDR trained and written with zeros, partition 0's carve-out spans it, the image copied; the first LPDDR lap begins (16 R549). -/
def setupLpddr (r : BitVec 14 × BitVec 4 × Nat) (im : List Byte) (s : State) : State :=
  let s := { s with mm := { s.mm with lpddr := {}, ctl := { s.mm.ctl with mts := r.1, chmask := r.2.1, mibPerCh := r.2.2, initDone := true, scrub := tabUpd s.mm.ctl.scrub 1 fun x => { x with lapStart := s.time } } } }
  let s := updPart 0 (fun p => if p.en then { p with lpSize := BitVec.ofNat 64 (lpddrMib s * 1048576) } else p) s
  let s := writeDev true (copyBase s) (clean im) s
  settlePd { s with boot := { s.boot with copySize := im.length } }

/-! ### Loading (R628-R631) -/

def updBoot (f : Boot → Boot) (s : State) : State := { s with boot := f s.boot }

/-- A failed load: ERR, one more in FAILS, STAGE 2 (R628, R630). -/
def loadFailed (e : Nat) (s : State) : State := updBoot (fun b => { b with err := BitVec.ofNat 4 e, fails := satInc b.fails, stage := 2 }) s

/-- Step 5 of R631: blow ROLLBACK bits C to SVN - 1. Whether each comes to read blown within four further attempts is a free
value (DESIGN CHOICE, safe, log 2); the ones before the first that does not are blown. -/
def blowTo : Nat → Nat → State → Bool × State
  | 0, _, s => (true, s)
  | n + 1, i, s =>
    let (v, s) := s.draw
    let s' := { s with fuses := { s.fuses with rollback := setBit s.fuses.rollback i true } }
    if bit v 0 then blowTo n (i + 1) s' else if bit v 1 then (false, s') else (false, s)

def advance (im : List Byte) (s : State) : Bool × State :=
  let c := rollbackC s.fuses
  if bit (BitVec.ofNat 16 (leAt im 6 2)) 0 && decide (c < imgSvn im) then blowTo (imgSvn im - c) c s else (true, s)

/-- Steps 6 to 9 of R631: identity, firmware start, SFI, LPDDR, first epoch, READY. -/
def startFirmware (im : List Byte) (s : State) : State :=
  let s := startSfi im (updBoot (identity s.fuses im) s)
  let r := Config.lpddrTrain ((imgSect im 6).getD [])
  if trainOk r then publish (setupLpddr r im (updBoot (fun b => { b with stage := 6 }) s))
  else loadFailed 8 s

/-- GO (R628-R631): the image is read once and checked, and runs if every check passes. -/
def bootGo (s : State) : State :=
  let size := s.boot.size.toNat
  let (raw, s) := hostReadP 0 s.boot.img.toNat (min size imageMax) s
  let im := dataOf raw
  match imageErr s.fuses size im (anyPoison raw) with
  | 0 =>
    match advance im s with
    | (true, s) => startFirmware im s
    | (false, s) => loadFailed 6 s
  | e => loadFailed e s

/-- BOOT_CTRL: GO takes effect only in STAGE 2 (R630). -/
def writeBootCtrl (v : W32) (s : State) : State := if bit v 0 && s.boot.stage == 2 then bootGo s else s
def execBootCtrl (v : W32) (s : State) : Res := if barOn s 0 then done (writeBootCtrl v s) else done s

/-! ### The DORMANT path (R635, R636) -/

/-- The stored image is checked again and runs, or the device waits for a cold load. -/
def dormantBoot (s : State) : Bool × State :=
  let s := updBoot (fun b => { b with rstsrc := 3 }) s
  let (raw, s) := readDev true (copyBase s) s.boot.copySize s
  let im := dataOf raw
  match imageErr s.fuses s.boot.copySize im (anyPoison raw) with
  | 0 => (true, updBoot (fun b => { identity s.fuses im b with stage := 6 }) s)
  | e => (false, { loadFailed e s with wakeN := true })

/-! ### Output of root-queue packets (DEDUCED, unsafe, log 46) -/

/-- Write bytes to a buffer of a root-queue packet: in the translation of the header's context, or at a bus address when that
is 0xFF. -/
def putOut (c : Cmd) (va : Nat) (bs : List Byte) (s : State) : VaAns × State :=
  if cmdCtx c = 0xFF then (.ok, hostWrite (rootFn s c) va bs s)
  else
    let w := c.who
    match writablePieces w.ctx w.rq (pagePieces va bs.length) s with
    | (.ok, s) => let (_, a, s) := writeVa w.ctx va (clean bs) w.rq s; (a, s)
    | r => r

/-! ### Attestation (R634, Table 20.5) -/

/-- Bytes 0x0000-0x27D7 of the report. -/
def reportBody (nonce : List Byte) (s : State) : List Byte :=
  let b := s.boot
  let flags := b2n s.fuses.cust + 2 * b2n (!s.fuses.debugLock) + 4 * b2n s.sfi.scb.isSome + 8 * b2n (s.sfi.state == .armed)
  let part : Nat := match s.part with | .ae => 0 | .ac => 1
  leBytes 4 0x54414B45 ++ leBytes 2 1 ++ leBytes 2 flags ++ leBytes 2 part ++ ([stepping, 0] : List Byte) ++ leBytes 4 b.fwver.toNat ++
  ([b.svn, BitVec.ofNat 8 (rollbackC s.fuses)] : List Byte) ++ zeroB 6 ++ leBytes 8 s.now ++ sliceB nonce 0 32 ++ leBytes 64 b.digest.toNat ++
  leBytes 64 s.sfi.scbDigest.toNat ++ leBytes 64 b.measure.toNat ++ fuse64 s.fuses.vkh ++ fuse64 s.fuses.ckh ++ sliceB b.aliasPk 0 pkLen ++
  sliceB b.devPk 0 pkLen ++ sliceB b.endorse 0 sigLen ++ zeroB 5

def reportLen : Nat := 14827

/-- ATTEST. -/
def startAttest (c : Cmd) (s : State) : Go × State :=
  if (dw c.pkt 18).toNat < reportLen then (.ended St.paramRange, s)
  else
    let body := reportBody (wordsBytes ((List.range 8).map fun i => dw c.pkt (8 + i))) s
    let rep := body ++ sliceB (Config.mldsaSign s.boot.aliasSk body) 0 sigLen
    match putOut c (dq c.pkt 16) rep s with
    | (.stall, s) => (.blocked, s)
    | (.fail st, s) => (.ended st, s)
    | (.ok, s) => (.ended St.success, setRes0 c.id reportLen s)

end Sys2Proof.Machine
end

