-- ==== Sys2Proof/Machine/Power.lean ====
section
/-! DEFINITION. Power.lean: device states, wake events, the Wisp, voltage requests, thermal throttling (18 R581-R598; 19 R607, R609;
21 R650-R653). -/
namespace Sys2Proof.Machine

def updPwr (f : Pwr → Pwr) (s : State) : State := { s with pwr := f s.pwr }

/-! ### Eligibility (R583, R584) -/

/-- Exit latency of a state in µs (Table 18.2). -/
def exitUs (p : PState) : Nat := match p with | .run => 0 | .idle => 1 | .nap => 40 | .doze => 600 | .sleep => 5000 | .dormant => 80000

/-- The condition of Table 18.3 for one state. -/
def ownCondition (s : State) (p : PState) : Bool :=
  match p with
  | .run => true
  | .idle => true
  | .nap =>
    s.ex.cmds.all (fun c => pktOpcode c.pkt == 0x51 && c.phase != .done) && (List.range 16).all (fun b => !(bActive (braidOf s b))) && s.gx.passes.isEmpty
  | .doze =>
    s.gx.dpos.toList.all (fun d => !(bit d.ctrl 0)) && s.gx.cams.toList.all (fun c => !c.en) && !s.dom.member && s.snap.cur.isNone
  | .sleep =>
    s.pte.axes.toList.all (fun a => !(axEn a)) && s.pte.tgs.toList.all (fun g => !(tgEn g)) && s.pte.outs.toList.all (fun o => !(outEn o) && o.pend.isEmpty)
  | .dormant =>
    s.ex.ctxs.toList.all (fun c => c.life == .free) && s.ob.models.toList.all (fun m => m.state == .empty) && s.ob.braids.toList.all (fun b => b.state == .free)

/-- The states below RUN, shallowest first. -/
def lowStates : List PState := [.idle, .nap, .doze, .sleep, .dormant]

/-- Is a state within the budget (R584)? -/
def inBudget (s : State) (p : PState) : Bool := s.pwr.budget == 0xFFFFFFFF || decide (exitUs p ≤ s.pwr.budget.toNat)

/-- The deepest state that R584 allows (PWR_STATUS.TARGET); the steward decides while firmware runs. -/
def pwrTarget (s : State) : PState :=
  if !fwOn s then .run
  else ((lowStates.takeWhile fun p => ownCondition s p && inBudget s p).getLast?).getD .run

/-! ### Entry (R585, R588, R591, R609) -/

/-- The earliest expiry of a running timeout (R424, R588); all-ones without one. -/
def wakeTime (s : State) : W64 :=
  (s.ex.cmds.filter fun c => c.startT.isSome && c.phase != .done).foldl (fun m c =>
    let e := c.startT.getD s.time + BitVec.ofNat 64 (pktTimeoutNs c.pkt)
    if e.toNat < m.toNat then e else m) (BitVec.allOnes 64)

/-- Cores off: registers and LM are lost; unspecified for the context that used them last (R88). -/
def coresOff (s : State) : State := updEx (fun e => { e with cores := e.cores.map fun k => { regCtx := k.regCtx, lmCtx := k.lmCtx, claim := k.claim } }) s

/-- A link whose domain turns off goes down (R561). -/
def linkOff (s : State) (k : Nat) : State :=
  if (tabD s.links k {}).up then
    linkEvent k 0 (updLink k (fun l => { linkNow s.time l with txq := [], up := false, width := 0, downs := satInc l.downs, failRun := 0, againRun := 0, replayBuf := 0 }) s)
  else s

/-- The XLU and the links off: cached translations go, the links go down. -/
def edgesOff (s : State) : State := (List.range 4).foldl linkOff (xlUpd (fun x => { x with tlb := [], dirs := [] }) s)

/-- SAFE balls asserted and outputs at their safe levels before PD1 and PD62 turn off: a trip with cause POWER (R591, R609). -/
def safeOff (s : State) : State := pteSafe (trip causePower 0 0 false s)

/-- Turn the domains down to state `p` (Table 18.2). -/
def powerDown (p : PState) (s : State) : State :=
  let n := pwrCode p
  let s := updPwr (fun x => { x with mode := BitVec.ofNat 3 n, entries := tabUpd x.entries n (· + 1) }) s
  let s := if 2 ≤ n then coresOff s else s
  let s := if 3 ≤ n then edgesOff s else s
  let s := if 4 ≤ n then safeOff s else s
  let s := match p with | .dormant => pfReset .hot s | _ => s
  let timer := match p with | .doze => wakeTime s | .sleep => wakeTime s | _ => BitVec.allOnes 64
  settlePd (updPwr (fun x => { x with state := p, wakeTimer := timer }) s)

/-- POWER_STATE_ENTRY: the steward enters the state that R584 gives, from a shallower one in which it still executes. -/
def execPowerStateEntry (p : PState) (s : State) : Res :=
  if p == pwrTarget s && decide (pwrCode s.pwr.state < pwrCode p) && decide (pwrCode s.pwr.state ≤ 2) then done (powerDown p s) else done s

/-! ### Exit (R586-R591, R607) -/

/-- Can a wake event occur in a state (Table 18.4)? -/
def wakeIn (p : PState) (code : Nat) : Bool :=
  let n := pwrCode p
  let within (lo hi : Nat) : Bool := decide (lo ≤ n) && decide (n ≤ hi)
  match code with
  | 1 => within 1 4
  | 2 => within 2 4
  | 3 => within 2 5
  | 4 => within 2 5
  | 5 => within 3 5
  | 6 => within 2 3
  | 7 => within 2 5
  | _ => false

/-- PD62 turns on: the PTE registers take their reset values; what outside sources hold on the balls stays (R591). -/
def pteOn (s : State) : State := { s with pte := { outs := s.pte.outs.map fun o => { force := o.force } } }

/-- The SFI after PD62 turned on: LEVEL written again (R604), and an automatic re-arm (R607). -/
def sfiResume (okA okB : Bool) (s : State) : State :=
  match s.sfi.scb with
  | none => s
  | some c =>
    let s := applyLevels c s
    if c.rearm && s.sfi.powerOnly && s.sfi.armIn && !(armBarred s) then arming okA okB s else s

/-- The device is back in RUN (R581); from DORMANT it runs its stored image or waits for a load (R635, R636). -/
def powerUp (okA okB : Bool) (s : State) : State :=
  let from' := s.pwr.state
  let s := settlePd (updPwr (fun x => { x with state := .run, wakeTimer := BitVec.allOnes 64 }) s)
  let s := icnPulse 18 s
  match from' with
  | .sleep => sfiResume okA okB (pteOn s)
  | .dormant =>
    let (ok, s) := dormantBoot (pteOn { s with wakeN := true })
    if ok then sfiResume okA okB s else s
  | _ => s

/-- Wake events with the given codes end a state in which they can occur (R586): LAST takes the lowest code, MASK all. -/
def wakeUp (codes : List Nat) (okA okB : Bool) (s : State) : State :=
  let cs := codes.filter (wakeIn s.pwr.state)
  match cs with
  | [] => s
  | c :: r =>
    let lo := r.foldl min c
    powerUp okA okB (updPwr (fun x => { x with wakeLast := BitVec.ofNat 4 lo, wakeMask := maskOf 7 (cs.map (· - 1)) }) s)

/-- Does a SAFE ball follow its release, as far as outside sources let it? -/
def ballFree (f : Option Bool) : Bool := f != some true

/-- A wake event of another command. -/
def wakeBy (code : Nat) (s : State) : State := wakeUp [code] (ballFree s.sfi.forceA) (ballFree s.sfi.forceB) s

/-- POWER_STATE_EXIT: the wake events of a cycle, bit c - 1 for code c. -/
def execPowerStateExit (codes : BitVec 7) (okA okB : Bool) (t : W64) (s : State) : Res :=
  fin (wakeUp ((setBits codes).map (· + 1)) okA okB (s.at t))

/-- HWAKE_N falls (code 4). -/
def execHwakeN (t : W64) (s : State) : Res := fin (wakeBy 4 (s.at t))

/-- PTE time reaches WAKE_TIMER (code 5). -/
def execWakeTimer (t : W64) (s : State) : Res :=
  let s := s.at t
  if s.pwr.wakeTimer.toNat ≤ s.now then fin (wakeBy 5 s) else fin s

/-- The resets of R382, a wake event of a low-power state (code 7) and in PD3 itself. -/
def execPfReset (k : PfResetKind) (s : State) : Res := fin (pfReset k (match k with | .flr => s | _ => wakeBy 7 s))
/-- VF_FUNCTION_LEVEL_RESET (R383). -/
def execVfFunctionLevelReset (v : Fin 8) (s : State) : Res := fin (vfReset v.val s)

/-- POWER_HINT (R584). -/
def startPowerHint (c : Cmd) (s : State) : Go × State := (.ended St.success, updPwr (fun x => { x with budget := dw c.pkt 8 }) s)

/-! ### The Wisp (R594-R598) -/

def updWisp (f : Wisp → Wisp) (s : State) : State := { s with wisp := f s.wisp }
def wispOn (w : Wisp) : Bool := bit w.ctrl 0
def filtKind (f : WispFilter) : Nat := let k := fld f.cfg 2 0; if k ≤ 4 then k else 0
def filtInput (f : WispFilter) : Nat := fld f.cfg 5 3
def orOne (n : Nat) : Nat := if n = 0 then 1 else n
def updFilts (g : WispFilter → WispFilter) (w : Wisp) : Wisp := { w with filts := w.filts.map g }
/-- A filter produces a value. -/
def produce (v : Nat) (n : Nat) (f : WispFilter) : WispFilter := { f with value := BitVec.ofNat 32 v, produced := f.produced + n }

/-- Warm (R596). -/
def filtWarm (f : WispFilter) : Bool := filtKind f != 0 && decide (orOne (fld f.cfg 15 8) ≤ f.produced)
/-- The decision of a filter; a filter that is not warm makes none, which counts as false (R596, R597). -/
def filtTrue (f : WispFilter) : Bool :=
  filtWarm f && (if bit f.cfg 6 then decide (f.value.toNat ≤ fld f.cfg 63 32) else decide (fld f.cfg 63 32 ≤ f.value.toNat))

/-- DEBOUNCED_LEVEL (R594, R595): pin-level filters take the level, pin-edge filters note a rising edge. -/
def execDebouncedLevel (i : Fin 8) (level : Bool) (t : W64) (s : State) : Res :=
  let s := s.at t
  let w := s.wisp
  if !(wispOn w) || !(bit (tabD w.pins i 0) 0) then done s
  else
    let rise := level && !(tabD w.levels i true)
    let g (f : WispFilter) : WispFilter :=
      if filtInput f != i.val then f
      else if filtKind f = 1 then produce (b2n level) 1 f
      else if filtKind f = 2 && rise then { f with edges := f.edges ++ [s.time] }
      else f
    done (updWisp (fun w => updFilts g { w with levels := tabUpd w.levels i fun _ => level }) s)

/-- Sums of the 4 x 4 blocks of a frame of 160 x 120 pixels: 40 x 30 of them. -/
def blockSums (px : List Byte) : List Nat :=
  (List.range 1200).map fun k =>
    sumN ((List.range 16).map fun j => leAt px ((4 * (k / 40) + j / 4) * 160 + 4 * (k % 40) + j % 4) 1)

def natDist (a b : Nat) : Nat := (a - b) + (b - a)

/-- Motion (R595): means and background are exact numbers, the mean a block sum over 16, the background B a numerator over
16^k after k frames (DEDUCED, unsafe, log 52). -/
def motion (sums : List Nat) (f : WispFilter) : WispFilter :=
  let k := f.produced
  if k = 0 then { produce 0 1 f with back := sums }
  else
    let pairs := sums.zip f.back
    let n := (pairs.filter fun x => decide (16 * 16 ^ k < natDist (x.1 * 16 ^ (k - 1)) x.2)).length
    { produce n 1 f with back := pairs.map fun x => 15 * x.2 + x.1 * 16 ^ (k - 1) }

/-- WCAM_FRAME (R594, R595). The mean of a frame that is not a whole number is rounded down or up, as a free value says. -/
def execWcamFrame (px : List Byte) (t : W64) (s : State) : Res :=
  let s := s.at t
  if !(wispOn s.wisp) || !(bit s.wisp.ctrl 1) then done s
  else
    let px := sliceB px 0 19200
    let (r, s) := s.draw
    let sum := sumN (px.map BitVec.toNat)
    let mean := if sum % 19200 = 0 then sum / 19200 else sum / 19200 + b2n (bit r 0)
    let sums := blockSums px
    let g (f : WispFilter) : WispFilter :=
      match filtKind f with | 3 => motion sums f | 4 => produce mean 1 f | _ => f
    done (updWisp (fun w => updFilts g { w with frame := px }) s)

/-- The pin filters each millisecond (R595): a level filter has produced a value every µs, an edge filter counts its window. -/
def pinFilter (levels : Tab Bool 8) (now : Nat) (f : WispFilter) : WispFilter :=
  match filtKind f with
  | 1 => produce (b2n (tabD levels (filtInput f) true)) 1000 f
  | 2 =>
    let es := f.edges.filter fun t => decide (now < t.toNat + orOne (fld f.cfg 31 16) * 1000000)
    { produce es.length 1 f with edges := es }
  | _ => f

/-- The combination of a rule (R597). -/
def ruleTrue (w : Wisp) (r : W32) : Bool :=
  let ds := (setBits (BitVec.ofNat 8 (fld r 7 0))).map fun i => filtTrue (tabD w.filts i {})
  if bit r 8 then ds.all id else ds.any id

/-- One rule: its run of true evaluations, and whether it fires. -/
def ruleStep (w : Wisp) (k : Nat) : Nat × Bool :=
  let r := tabD w.rules k 0
  if bit r 31 && ruleTrue w r then
    let n := tabD w.runs k 0 + 1
    (n, decide (orOne (fld r 23 16) ≤ n))
  else (0, false)

/-- RULE_EVALUATION, every millisecond: pin filters, rules, FIRED, and a wake event with code 3. -/
def execRuleEvaluation (t : W64) (s : State) : Res :=
  let s := s.at t
  if !(wispOn s.wisp) then done s
  else
    let w := updFilts (pinFilter s.wisp.levels s.now) s.wisp
    let st (k : Nat) : Nat × Bool := ruleStep w k
    let fired := maskOf 4 ((List.range 4).filter fun k => (st k).2)
    let s := { s with wisp := { w with runs := Vector.ofFn fun i => (st i.val).1, fired := w.fired ||| fired } }
    if fired = 0 then done s else fin (wakeBy 3 s)

/-- A write of WISP_CTRL: while EN = 1 only EN itself; setting EN starts every filter afresh (R598). -/
def writeWispCtrl (v : W32) (s : State) : State :=
  let w := s.wisp
  if wispOn w then updWisp (fun w => { w with ctrl := setBit w.ctrl 0 (bit v 0) }) s
  else
    let w := { w with ctrl := v &&& 0x3F }
    if bit v 0 then
      updWisp (fun _ => updFilts (fun f => { cfg := f.cfg }) { w with runs := Vector.replicate 4 0 }) s
    else updWisp (fun _ => w) s

/-- WISP_CTRL write; the registers of PD0 are reachable while the link is up (R587). -/
def execWispCtrlWrite (v : W32) (s : State) : Res := if barOn s 0 then done (writeWispCtrl v s) else done s

/-! ### Voltage requests and the arithmetic clock (R592, R593, R650) -/

def updAvs (f : Avs → Avs) (s : State) : State := { s with avs := f s.avs }
def updTherm (f : Therm → Therm) (s : State) : State := { s with therm := f s.therm }

/-- VDD_ARITH of a clock step, in mV (Table 21.10). -/
def stepMv (k : Nat) : Nat := [550, 510, 480, 450, 420].getD k 420
/-- The highest clock step that a voltage allows. -/
def allowStep (mv : Nat) : Nat := ((List.range 5).find? fun k => decide (stepMv k ≤ mv)).getD 4
/-- R650: the deepest of the thermal step and the step that the voltage allows. -/
def reclock (t : Therm) : Therm := { t with clk := fin' 4 (max t.step.val t.vstep.val) }

/-- Send a voltage request for rail 0. -/
def askVolt (k : Nat) (s : State) : State :=
  updAvs (fun a => { a with req := tabUpd a.req 0 fun _ => .sent (BitVec.ofNat 16 (stepMv k)) 1 }) s

/-- AVS_ACKNOWLEDGE: the rail has its new voltage; a lower one bounds the clock at once, a higher one after SETTLE. -/
def execAvsAcknowledge (rail : Fin 2) (mv : BitVec 16) (s : State) : Res :=
  match tabD s.avs.req rail .idle with
  | .sent m _ =>
    if m != mv then done s
    else
      let s := updAvs (fun a => { a with vout := tabUpd a.vout rail (fun _ => mv), req := tabUpd a.req rail fun _ => .settling mv }) s
      if rail = 0 then done (updTherm (fun t => reclock { t with vstep := fin' 4 (max t.vstep.val (allowStep mv.toNat)) }) s) else done s
  | _ => done s

/-- SETTLE_EXPIRY: the clock rises to what the voltage allows. -/
def execSettleExpiry (rail : Fin 2) (s : State) : Res :=
  match tabD s.avs.req rail .idle with
  | .settling mv =>
    let s := updAvs (fun a => { a with req := tabUpd a.req rail fun _ => .idle }) s
    if rail = 0 then done (updTherm (fun t => reclock { t with vstep := fin' 4 (allowStep mv.toNat) }) s) else done s
  | _ => done s

/-- AVS_NOACK_TIMEOUT: sent again up to three times, then NOACK and no request (R593). -/
def execAvsNoackTimeout (rail : Fin 2) (s : State) : Res :=
  match tabD s.avs.req rail .idle with
  | .sent mv n =>
    if n < 4 then done (updAvs (fun a => { a with req := tabUpd a.req rail fun _ => .sent mv (n + 1) }) s)
    else done (updAvs (fun a => { a with req := tabUpd a.req rail (fun _ => .idle), alarm := setBit a.alarm rail.val true }) s)
  | _ => done s

/-! ### Thermal behaviour (R651-R653) -/

/-- TJ_SAMPLE: Tj is the highest reading; THERM_N at 110 °C or above, until 100 °C. -/
def execTjSample (readings : List Int) (t : W64) (s : State) : Res :=
  let s := s.at t
  match readings with
  | [] => done s
  | x :: r =>
    let tj := r.foldl max x
    done (updTherm (fun h => { h with tj := tj, thermN := decide (110 ≤ tj) || (h.thermN && decide (100 < tj)) }) s)

/-- A new thermal step: alarm 0x1F, the clock, and the voltage request: lowering, the clock first; raising, the voltage first. -/
def setThermStep (k : Nat) (s : State) : State :=
  askVolt k (postAlarm 0x1F 0xFFFF 0 (updTherm (fun h => reclock { h with step := fin' 4 k }) s))

/-- THERMAL_STEP (R652): one step deeper at 100 °C or above, one up at 95 °C or below. -/
def execThermalStep (t : W64) (s : State) : Res :=
  let s := s.at t
  let k := s.therm.step.val
  if 100 ≤ s.therm.tj && decide (k < 4) then done (setThermStep (k + 1) s)
  else if s.therm.tj ≤ 95 && decide (0 < k) then done (setThermStep (k - 1) s)
  else done s

end Sys2Proof.Machine
end

