-- ==== Sys2Proof/Machine/PtePkt.lean ====
section
/-! DEFINITION. PtePkt.lean: AXIS_CONFIG, OUT_CONFIG and HIT_POST (12 R439, R440, Table 12.14; 02 R62, R71, R77, R655; 19
R616). -/
namespace Sys2Proof.Machine

/-- Write a disabled axis's registers from the images of AXIS_CONFIG. -/
def axisImages (p : Pkt) (a : Axis) : Axis :=
  { a with cfg := setBit (dw p 9 &&& 0x3FF) 0 false, filt := dw p 10 &&& 0xFF, stall := dw p 11, mains := dw p 12 &&& 0xFFFF
           moffs := dw p 13 &&& 0xFFFFF, rate := dw p 14, zload := BitVec.ofNat 64 (dq p 16) }

/-- Write a disabled generator's registers. -/
def tgImages (p : Pkt) (g : TrigGen) : TrigGen :=
  { g with cfg := setBit (dw p 18 &&& 0xFF) 0 false, width := dw p 19, start := BitVec.ofNat 64 (dq p 20), pitch := BitVec.ofNat 64 (dq p 22), count := dw p 24, k := 0 }

/-- Stop every generator bound to an axis (R44). -/
def stopTgs (a : Nat) (s : State) : State :=
  updPte (fun p => { p with tgs := p.tgs.map fun g => if tgAxis g = a then { g with cfg := setBit g.cfg 0 false } else g }) s

/-- AXIS_CONFIG (R439, R616, R655). -/
def startAxisConfig (c : Cmd) (s : State) : Go × State :=
  let p := c.pkt
  let d := dw p 8
  let a := fld d 2 0
  let axen := bit d 3
  let keep := bit d 4
  let tgv := bit d 5
  let g := fld d 7 6
  let run := tgv && bit d 8
  let named := fld (dw p 18) 3 1
  if run && !(if named = a then axen else axEn (axis s named)) then (.ended St.paramRange, s)
  else if sfiArmed s && safetyAxis s a then (.ended St.safetyLocked, s)
  else
    let s := if tgv then updTg g (fun x => { x with cfg := setBit x.cfg 0 false }) s else s
    let s := disableAxis a keep s
    let s := if keep && axen then s else stopTgs a s
    let s := updAxis a (axisImages p) s
    let s := if tgv then updTg g (tgImages p) s else s
    let s := if axen then enableAxis a keep s else s
    (.ended St.success, if run then tgRun g (updTg g (fun x => { x with cfg := setBit x.cfg 0 true }) s) else s)

/-- OUT_CONFIG (R439, R616). -/
def startOutConfig (c : Cmd) (s : State) : Go × State :=
  let p := c.pkt
  let os := (List.range 36).filter fun o => (dq p 8).testBit o
  if sfiArmed s && os.any (safetyOut s) then (.ended St.safetyLocked, s)
  else (.ended St.success, os.foldl (fun s o => updOut o (fun x => { x with defw := dw p 11 }) (writeOutCfg o (dw p 10) s)) s)

/-- Post records in order until one is refused: the number accepted and the status (R440). -/
def postHits : List HitRec → Nat → State → Nat × Status × State
  | [], n, s => (n, St.success, s)
  | r :: rs, n, s =>
    match hitNow r .host s with
    | (.refused st, s) => (n, st, s)
    | (_, s) => postHits rs (n + 1) s

/-- HIT_POST (R440). -/
def startHitPost (c : Cmd) (s : State) : Go × State :=
  let rs := postRecords c.pkt
  if !(rs.all (hitFormatOk s)) then (.ended St.hitRecord, s)
  else
    let (n, st, s) := postHits rs 0 s
    (.ended st, setRes0 c.id n s)

end Sys2Proof.Machine
end

