-- ==== Sys2Proof/Machine/Rings.lean ====
section
/-! DEFINITION. Rings.lean: ALARM_READ, the log ring and the trace ring (12 R444-R447). What the firmware logs and which events
a trace meets is left open: the idle step writes entries as free values say (DESIGN CHOICE, unsafe, log 41). -/
namespace Sys2Proof.Machine

/-! ### ALARM_READ (R444) -/

def alarmBytes (e : AlarmEntry) : List Byte :=
  leBytes 2 e.code.toNat ++ leBytes 2 e.unit.toNat ++ leBytes 4 e.count.toNat ++ leBytes 8 e.first.toNat ++ leBytes 8 e.last.toNat ++ leBytes 8 e.detail.toNat

/-- The `n` oldest entries, oldest first. -/
def oldestAlarms : Nat → List AlarmEntry → List AlarmEntry
  | 0, _ => []
  | n + 1, l => match oldestAlarm (fun _ => true) l with
    | none => []
    | some e => e :: oldestAlarms n (l.filter (· != e))

/-- Is an alarm one of a partition: of its cameras' ports, its VF, its queues and braids, its Peat? The others are the device's (R423;
DEDUCED, unsafe, log 96). -/
def alarmIn (s : State) (fn part : Nat) (e : AlarmEntry) : Bool :=
  let k := e.code.toNat
  let u := e.unit.toNat
  let ctxIn (c : Fin 64) : Bool := (ctxOf s c).life != .free && (ctxOf s c).part.val == part
  if 0x08 ≤ k ∧ k ≤ 0x0D then decide (u < 4) && (match (tabD s.gx.cams u {}).dest with | 0 => false | _ => ctxIn (tabD s.gx.cams u {}).ctx)
  else if 0x10 ≤ k ∧ k ≤ 0x12 then u == fn
  else if k = 0x19 then decide (u < 256) && (if 248 ≤ u then u == 247 + fn else (queueOf s u).life != .free && ctxIn (queueOf s u).ctx)
  else if k = 0x1A then decide (u < 16) && (braidOf s u).state != .free && ctxIn (braidOf s u).ctx
  else if k = 0x1B ∨ k = 0x1C then decide (u < 32) && bit (partOf s part).peat u
  else false

/-- The alarms that a root queue of function `fn` reads. -/
def alarmsOf (s : State) (fn : Nat) : List AlarmEntry :=
  if fn = 0 then s.hi.alarms else match vfPart s (fn - 1) with | some p => s.hi.alarms.filter (alarmIn s fn p) | none => []

/-- ALARM_READ: entries copied and freed in one step. -/
def startAlarmRead (c : Cmd) (s : State) : Go × State :=
  let es := oldestAlarms (fld (dw c.pkt 8) 6 0) (alarmsOf s (queueOf s c.q).fn)
  match putOut c (dq c.pkt 10) (es.flatMap alarmBytes) s with
  | (.stall, s) => (.blocked, s)
  | (.fail st, s) => (.ended st, s)
  | (.ok, s) => (.ended St.success, setRes0 c.id es.length (updHi (fun h => { h with alarms := h.alarms.filter fun e => !es.contains e }) s))

/-! ### Ring memory -/

/-- Read of a ring: its context's translation, or a bus address. -/
def ringRead (r : RingCfg) (va n : Nat) (s : State) : List Byte × State :=
  match r.ctx with
  | none => let (b, s) := hostReadP r.fn.val va n s; (dataOf b, s)
  | some c => let (b, _, s) := readVa c va n .load {} s; (sliceB (dataOf b) 0 n, s)

def ringWrite (r : RingCfg) (va : Nat) (bs : List Byte) (s : State) : State :=
  match r.ctx with
  | none => hostWrite r.fn.val va bs s
  | some c => (writeVa c va (clean bs) {} s).2.2

/-- A ring is written while it is enabled and its context lives. -/
def ringOn (r : RingCfg) (s : State) : Bool := fwOn s && r.en && (match r.ctx with | none => true | some c => (ctxOf s c).life == .live)

/-- CONSUMED as memory holds it. -/
def ringConsumed (r : RingCfg) (s : State) : W64 × State := let (b, s) := ringRead r (r.buf.toNat + 8) 8 s; (BitVec.ofNat 64 (leAt b 0 8), s)

/-- An entry, then WRITTEN as a release. -/
def ringPut (r : RingCfg) (size : Nat) (bs : List Byte) (s : State) : RingCfg × State :=
  let s := ringWrite r (r.buf.toNat + 64 + size * (r.written.toNat % max r.entries.toNat 1)) bs s
  let w := r.written + 1
  ({ r with written := w }, ringWrite r r.buf.toNat (leBytes 8 w.toNat) s)

/-- DROPS counts one. -/
def ringDrop (r : RingCfg) (s : State) : RingCfg × State :=
  let d := r.drops + 1
  ({ r with drops := d }, ringWrite r (r.buf.toNat + 16) (leBytes 8 d.toNat) s)

def ringFull (r : RingCfg) : Bool := decide (r.entries.toNat ≤ ringFill r)

/-! ### Configuration -/

/-- The ring of a CONFIG packet, afresh: its header written with zero counts. -/
def ringOf (c : Cmd) (s : State) : RingCfg :=
  { en := bit (dw c.pkt 8) 0, thresh := dw c.pkt 9, buf := BitVec.ofNat 64 (dq c.pkt 10), entries := dw c.pkt 12
    ctx := if cmdCtx c = 0xFF then none else some (fin' 63 (cmdCtx c)), fn := fin' 8 (rootFn s c) }

/-- LOG_CONFIG. -/
def startLogConfig (c : Cmd) (s : State) : Go × State :=
  (.ended St.success, updHi (fun h => { h with logr := { ringOf c s with level := BitVec.ofNat 3 (fld (dw c.pkt 8) 3 1) } }) s)

/-- TRACE_CONFIG; it alone lowers SHIFT (R447). -/
def startTraceConfig (c : Cmd) (s : State) : Go × State :=
  (.ended St.success, updHi (fun h => { h with trcr := { ringOf c s with thresh := 0, events := dw c.pkt 9, shift := BitVec.ofNat 5 (fld (dw c.pkt 8) 5 1) } }) s)

/-! ### Entries -/

/-- Free bytes. -/
def drawBytes : Nat → State → List Byte × State
  | 0, s => ([], s)
  | n + 1, s => let (v, s) := s.draw; let (l, s) := drawBytes n s; (leBytes 8 v.toNat ++ l, s)

/-- A log entry of the firmware (R445, R446): level, source, code and arguments are free. -/
def logEntry (v : W64) (s : State) : State :=
  let r := s.hi.logr
  let lvl := fld v 10 8 % (r.level.toNat + 1)
  let (args, s) := drawBytes 5 s
  let e := leBytes 8 r.written.toNat ++ leBytes 8 s.now ++ ([BitVec.ofNat 8 lvl, BitVec.ofNat 8 (fld v 17 16 % 3)] : List Byte) ++ leBytes 2 (fld v 39 24) ++ zeroB 4 ++ args
  let (r, s) := if ringFull r then (let (k, s) := ringConsumed r s; ({ r with consumed := k }, s)) else (r, s)
  let past := ringFull r
  let (r, s) := ringPut r 64 e s
  let (r, s) := if past then ringDrop r s else (r, s)
  let s := updHi (fun h => { h with logr := r }) s
  if past then postAlarm 0x20 0xFFFF 0 (updHi (fun h => { h with logDrops := h.logDrops + 1 }) s) else s

/-- ENGINE of a trace entry: an ID of Table 1.3 that the part has (R31, R3); a value outside stands for SC0. -/
def traceEngine (p : Part) (v : W64) : Nat := let e := fld v 23 16 % 46; if engPresent p e then e else 0

/-- A trace entry: discarded and counted at a full ring; a fill that rises above 3/4 raises SHIFT, with a marker (R447). R447 gives a marker EVENT and SHIFT alone: its ENGINE byte is a free
value among the IDs of Table 1.3 and its ARG and ARG2 are free values (DESIGN CHOICE, safe, log 84). -/
def tracePut (bs : List Byte) (s : State) : State :=
  let r := s.hi.trcr
  let (k, s) := ringConsumed r s
  let r := { r with consumed := k }
  if ringFull r then
    let (r, s) := ringDrop r s
    updHi (fun h => { h with trcr := r }) s
  else
    let above (x : RingCfg) : Bool := decide (3 * x.entries.toNat < 4 * ringFill x)
    let was := above r
    let (r, s) := ringPut r 32 bs s
    if above r && !was then
      let r := { r with shift := if r.shift = 31 then 31 else r.shift + 1 }
      let (v, s) := s.draw
      let (a, s) := s.draw
      let (b, s) := s.draw
      let mark := leBytes 8 s.now ++ leBytes 2 0xFFFF ++ ([BitVec.ofNat 8 (traceEngine s.part v), BitVec.ofNat 8 r.shift.toNat] : List Byte) ++
        leBytes 4 a.toNat ++ leBytes 8 b.toNat ++ zeroB 8
      let (r, s) := if ringFull r then ringDrop r s else ringPut r 32 mark s
      postAlarm 0x21 0xFFFF 0 (updHi (fun h => { h with trcr := r }) s)
    else updHi (fun h => { h with trcr := r }) s

/-- An event of an enabled type: one in 2^SHIFT is recorded. -/
def traceEvent (v : W64) (s : State) : State :=
  let r := s.hi.trcr
  let ev := fld v 12 8
  if !(bit r.events ev) then s
  else if tabD r.phase ev 0 + 1 < 2 ^ r.shift.toNat then updHi (fun h => { h with trcr := { r with phase := tabUpd r.phase ev (· + 1) } }) s
  else
    let (a, s) := s.draw
    let (b, s) := s.draw
    let s := updHi (fun h => { h with trcr := { r with phase := tabUpd r.phase ev fun _ => 0 } }) s
    tracePut (leBytes 8 s.now ++ leBytes 2 ev ++ ([BitVec.ofNat 8 (traceEngine s.part v), BitVec.ofNat 8 r.shift.toNat] : List Byte) ++ leBytes 4 a.toNat ++ leBytes 8 b.toNat ++ zeroB 8) s

/-- On the idle step a free value says whether an entry is written. -/
def ringsTick (s : State) : State :=
  let s := if ringOn s.hi.logr s then (let (v, s) := s.draw; if bit v 0 then logEntry v s else s) else s
  if ringOn s.hi.trcr s then (let (v, s) := s.draw; if bit v 0 then traceEvent v s else s) else s

end Sys2Proof.Machine
end

