-- ==== Sys2Proof/Machine/SelfTest.lean ====
section
/-! DEFINITION. SelfTest.lean: start-up and shutdown self-test, BIST slices (19 R617-R622; 20 R631; 21 R642). -/
namespace Sys2Proof.Machine

def updSt (f : SelfTest → SelfTest) (s : State) : State := { s with st := f s.st }

/-- What a test found: it passes when no logic BIST failed and every failing word, of at most 16, was repaired (R617, R620). -/
def testRec (pass : Bool) (failPd : W64) (fails : List MemFail) : TestRec :=
  { pass := pass && failPd == 0 && decide (fails.length ≤ 16) && fails.all (·.fixed), failPd := failPd, fails := fails.take 16 }

/-- The ST registers take a result. -/
def showTest (src : BitVec 2) (r : TestRec) (s : State) : State :=
  updSt (fun x => { x with source := src, pass := r.pass, repaired := r.fails.any (·.fixed), failPd := r.failPd, fails := r.fails }) s

/-- RAIL_MONITORS_IN_RANGE (R642): STAGE 0 ends. An intact passing record serves the start and is invalid from then on; else the
start-up test runs with the given result (R619). A failing test keeps STAGE 1, with a class A cause (R621). -/
def execRailMonitorsInRange (pass : Bool) (failPd : W64) (fails : List MemFail) (s : State) : Res :=
  if s.boot.stage != 0 || s.sfi.keeper then done s
  else
    let old := s.st.shutRec
    let s := updSt (fun x => { x with shutRec := none }) s
    match old.filter (·.pass) with
    | some r => done (updBoot (fun b => { b with stage := 2 }) (showTest 1 r s))
    | none =>
      let r := testRec pass failPd fails
      let s := showTest 2 r s
      if r.pass then done (updBoot (fun b => { b with stage := 2 }) s)
      else
        let s := trip 0x0C 0 0 true s
        done (updBoot (fun b => { b with stage := 1 }) (updSfi (fun x => { x with state := .hold }) (updSt (fun x => { x with shutRec := some r }) s)))

/-- SHUTDOWN (R617): with BIST = 1 an armed SFI trips with cause POWER; the device halts once the completion is out. -/
def startShutdown (c : Cmd) (s : State) : Go × State :=
  (.ended St.success, if bit (dw c.pkt 8) 0 && sfiArmed s then trip causePower 0 0 false s else s)

/-- The device halts after SHUTDOWN (BOOT_STATUS.STAGE 7); with BIST = 1 the test runs over every domain but PD0. -/
def halt (bist : Bool) (s : State) : State :=
  let s := updBoot (fun b => { b with stage := 7 }) s
  if bist then
    updSt (fun x => { x with testing := true }) (updEx (fun e => { e with cmds := [], waiters := [], blocks := [], groups := [] }) (coresOff s))
  else s

/-- SHUTDOWN_TEST_COMPLETE (R618): the record, passing or failing, goes into the Wisp SRAM; the device stays halted. -/
def execShutdownTestComplete (failPd : W64) (fails : List MemFail) (t : W64) (s : State) : Res :=
  let s := s.at t
  if s.st.testing then done (updSt (fun x => { x with testing := false, shutRec := some (testRec true failPd fails) }) s) else done s

/-! ### Slices (R622) -/

def strandOn (s : State) (k : Nat) : Bool := (blocksOn s k).any fun b => match b.owner with | .strand _ _ => true | _ => false

/-- TEST_SLICE: the core is claimed; it waits while another claim holds it. -/
def startTestSlice (c : Cmd) (s : State) : Go × State :=
  let k := fld (dw c.pkt 8) 4 0
  let fn := rootFn s c
  if presentCores s.part ≤ k then (.ended St.resourceAbsent, s)
  else if fn ≠ 0 && !((vfPart s (fn - 1)).any fun p => bit (partOf s p).cores k) then (.ended St.privileged, s)
  else if strandOn s k then (.ended 0x0120, s)
  else if (coreOf s k).claim.isSome then (.blocked, s)
  else
    let s := updCore k (fun x => { x with claim := some .bist }) s
    (.running, updCmd c.id (fun y => { y with work := .slice (fin' 31 k) (BitVec.ofNat 6 (fld (dw c.pkt 8) 10 5)) }) s)

/-- The slice that a core runs. -/
def sliceOf (s : State) (k : Nat) : Option (Nat × Nat) :=
  s.ex.cmds.findSome? fun c => match c.phase, c.work with
    | .running, .slice x n => if x.val == k then some (c.id, n.toNat) else none
    | _, _ => none

/-- SLICE_COMPLETE: a core that is empty, with no tile begun on it and no direct draw within a primitive there (08 R315), has run its slice; its
registers and LM are cleared, and it is released. -/
def execSliceComplete (core : Fin 32) (ok : Bool) (t : W64) (s : State) : Res :=
  let s := s.at t
  match sliceOf s core with
  | none => fin s
  | some (c, n) =>
    if !(blocksOn s core).isEmpty || s.gx.passes.any (keptBy · core.val) then fin s
    else
      let s := updCore core (fun x => { ageCtr := x.ageCtr, cycles := x.cycles }) s
      if ok then fin (finish c St.success (updSt (fun x => { x with slices := tabUpd x.slices core fun w => setBit w n true }) s))
      else
        let s := updSt (fun x => { x with sliceFail := BitVec.ofNat 32 (core.val + 32 * n + 2048) }) s
        fin (finish c St.safeStateActive (trip 0x0C 0 0 true s))

end Sys2Proof.Machine
end

