-- ==== Sys2Proof/Machine/Start.lean ====
section
/-! DEFINITION. Start.lean: the start of an accepted command: what R422 checks before its opcode's chapter, its completion knot,
and its opcode's start (12 R419-R424; 13 R450; 10 R354, R360). -/
namespace Sys2Proof.Machine

/-- NOP. -/
def startNop (_ : Cmd) (s : State) : Go × State := (.ended St.success, s)

/-- BRAID_STOP by its MODE. -/
def startBraidStop (c : Cmd) (s : State) : Go × State :=
  match fld (dw c.pkt 8) 5 4 with
  | 0 => startDrain c s
  | 1 => startHalt c s
  | _ => startRelease c s

/-- RENDER_PASS by END. -/
def startRenderPass (c : Cmd) (s : State) : Go × State := if pktEnd c.pkt then startPassEnd c s else startPassBegin c s

/-- DOMAIN_CONFIG by JOIN. -/
def startDomainConfig (c : Cmd) (s : State) : Go × State := if bit (dw c.pkt 8) 9 then startDomainJoin c s else startDomainLeave c s

/-- The start of each opcode (Table 12.3). -/
def startOp (c : Cmd) (s : State) : Go × State :=
  match pktOpcode c.pkt with
  | 0x01 => startQuery c s
  | 0x10 => startMemMap c s
  | 0x11 => startMemUnmap c s
  | 0x12 => startXlInvalidate c s
  | 0x13 => startFaultResume c s
  | 0x18 => startCopy c s
  | 0x20 => startLaunch c s
  | 0x30 => startBraidDefine c s
  | 0x31 => startBraidStart c s
  | 0x32 => startBraidStop c s
  | 0x38 => startModelLoad c s
  | 0x39 => startModelEvict c s
  | 0x3A => startMixedStep c s
  | 0x3B => startModelSelect c s
  | 0x40 => startGraphRecord c s
  | 0x41 => startGraphLaunch c s
  | 0x42 => startGraphSplice c s
  | 0x43 => startGraphFree c s
  | 0x50 => startKnotSignal c s
  | 0x51 => startKnotWait c s
  | 0x52 => startKnotReset c s
  | 0x60 => startRenderPass c s
  | 0x61 => startDraw c s
  | 0x62 => startDirect c s
  | 0x68 => startLayerSet c s
  | 0x6C => startCamConfig c s
  | 0x70 => startAxisConfig c s
  | 0x71 => startHitPost c s
  | 0x72 => startOutConfig c s
  | 0x78 => startDzRun c s
  | 0x80 => startPowerHint c s
  | 0x90 => startSnapshot c s
  | 0x91 => startLogConfig c s
  | 0x92 => startTraceConfig c s
  | 0x93 => startAlarmRead c s
  | 0xA0 => startContextCreate c s
  | 0xA1 => startContextDestroy c s
  | 0xA2 => startQueueCreate c s
  | 0xA3 => startQueueDestroy c s
  | 0xA8 => startPartitionConfig c s
  | 0xB0 => startDomainConfig c s
  | 0xB1 => startDomainBarrier c s
  | 0xB2 => startDomainBroadcast c s
  | 0xB3 => startDomainReset c s
  | 0xC0 => startTestSlice c s
  | 0xF0 => startShutdown c s
  | 0xF4 => startAttest c s
  | _ => startNop c s

/-- The completion knot of a packet with SIGNAL (R354, R360): it enters the signal set of the header's context; with context 0xFF
it is a host knot at a bus address (DEDUCED, unsafe, log 46). -/
def checkKnot (c : Cmd) (s : State) : Go × State :=
  let va := pktCknot c.pkt
  if !(pktSignal c.pkt) then (.running, s)
  else if cmdCtx c = 0xFF then (if va % 8 = 0 then .running else .ended St.knotAddress, s)
  else
    let w := c.who
    match knotAddr w.ctx va .store w.rq s with
    | (.bad, s) => (.ended St.knotAddress, s)
    | (.fail st, s) => (.ended st, s)
    | (.stall, s) => (.blocked, s)
    | (_, s) => match addSigs w.ctx [va] s with
      | none => (.ended St.signalSetFull, s)
      | some s => (.running, s)

/-- The packets that act at their acceptance: their knot is checked there (R454, Table 13.1). -/
def destroyPkt (p : Pkt) : Bool := pktOpcode p == 0xA1 || pktOpcode p == 0xA3

/-- The check of the completion knot at a command's start. -/
def checkCknot (c : Cmd) (s : State) : Go × State := if destroyPkt c.pkt then (.running, s) else checkKnot c s

/-- A packet of a root queue whose context is being, or has been, destroyed since its acceptance (R450, R457). -/
def contextGone (s : State) (c : Cmd) : Bool :=
  (queueOf s c.q).root && decide (cmdCtx c < 64) && pktOpcode c.pkt != 0xA1 && (ctxOf s (cmdCtx c)).life != .live

/-- Start a command: checks in order, then its opcode. What its acceptance found stands (R360). -/
def startCmd (c : Cmd) (s : State) : Go × State :=
  if contextGone s c then (.ended St.contextDestroyed, s)
  else match bodyBad s c.q c.pkt with
    | some st => (.ended st, s)
    | none => if !(statusOk c.status) then (.ended c.status, s) else match checkCknot c s with
      | (.running, s) => startOp c s
      | r => r

/-- A start's outcome: ended, running, or waiting on. -/
def applyStart (id : Nat) (r : Go × State) : State :=
  match r with
  | (.ended st, s) => finish id st s
  | (.running, s) => updCmd id (fun y => if y.phase == .waiting then { y with phase := .running } else y) s
  | (.blocked, s) => s

/-- The commands that run groups: launches, braids, steps and rendering. -/
def groupOpcode (op : Nat) : Bool := [0x20, 0x31, 0x3A, 0x60, 0x61, 0x62].contains op

/-- A command's start is an acquire at SYSTEM scope for its groups: no core they can run on keeps a far-read line (R126, R130). -/
def startAcquire (c : Cmd) (s : State) : State :=
  if groupOpcode (pktOpcode c.pkt) then (partCores s (cmdPart s c)).foldl (fun s k => dropFar k s) s else s

/-- Try to start a command that R374 allows; its timeout runs from the first time (R424). -/
def tryStart (id : Nat) (s : State) : State :=
  match findCmd s id with
  | none => s
  | some c =>
    if c.phase != .waiting || faultWaits s id then s
    else
      let c := { c with startT := some (c.startT.getD s.time) }
      applyStart id (startCmd c (startAcquire c (updCmd id (fun _ => c) s)))

/-! ### Order of starts (R374, R375, R405) -/

/-- Has a command begun? A packet that has ended before its turn (a framing failure, a wait met early) has not. -/
def begun (c : Cmd) : Bool := (c.phase != .waiting && c.startT.isSome) || (match c.work with | .copy _ n => decide (0 < n) | _ => false)

/-- Earlier unpublished commands of its queue, or of its graph launch. -/
def earlier (s : State) (c : Cmd) : List Cmd := s.ex.cmds.filter fun y => y.q == c.q && y.parent == c.parent && decide (y.id < c.id)

/-- Does R374 allow the command to start? -/
def mayStart (s : State) (c : Cmd) : Bool :=
  let es := earlier s c
  if pktOverlap c.pkt then
    (match es.getLast? with | none => true | some p => begun p) && !(es.any fun y => pktOpcode y.pkt == 0x51 && y.phase != .done)
  else es.isEmpty

/-- A full completion ring starts no further command (R405). -/
def ringFullQ (x : Queue) : Bool := !x.waitRecs.isEmpty || x.written - x.chead == BitVec.ofNat 32 (2 ^ x.csize)

def startable (s : State) (c : Cmd) : Bool := c.phase == .waiting && !(ringFullQ (queueOf s c.q)) && mayStart s c

/-- R374 allows a command to start: its timeout runs from here, whatever still keeps it (R424). -/
def noteStarts (s : State) : State :=
  updEx (fun e => { e with cmds := e.cmds.map fun c =>
    if c.phase == .waiting && c.startT.isNone && mayStart s c then { c with startT := some s.time } else c }) s

/-- Commands of a tier, in order of acceptance (15 R523). -/
def tierCmds (s : State) (t : Nat) : List Nat := (s.ex.cmds.filter fun c => cmdTier s c == t).map (·.id)

/-- Try every waiting command: in tier order, and in order of acceptance within a tier. -/
def startAll (s : State) : State :=
  (tierCmds s 0 ++ tierCmds s 1 ++ tierCmds s 2).foldl (fun s id =>
    match findCmd s id with
    | some c => if startable s c then tryStart id s else s
    | none => s) s

/-! ### Graph launches (R435, R436) -/

/-- Opcodes whose commands of one queue complete in its order: COPY (R430), DIRECT_DRAW (08 R301). -/
def orderedOpcode (op : Nat) : Bool := op == 0x18 || op == 0x62

/-- Must the command's completion wait for an earlier one of its queue, which may be a packet of a launch, or still to come in one (R435)? -/
def orderWaits (s : State) (c : Cmd) : Bool :=
  let place := c.parent.getD c.id
  orderedOpcode (pktOpcode c.pkt) && s.ex.cmds.any fun y =>
    y.q == c.q &&
    ((pktOpcode y.pkt == pktOpcode c.pkt &&
      (decide (y.parent.getD y.id < place) || (y.parent.getD y.id == place && decide (y.id < c.id)))) ||
     (decide (y.id < place) && (match y.work with | .graph _ _ rest => rest.any (fun p => pktOpcode p == pktOpcode c.pkt) | _ => false)))

/-- Does a command's completion signal its knot (R421)? None is signalled for a context whose destruction ended the command or is complete
(13 Table 13.2, step 1; its translation is gone). -/
def signalsCknot (c : Cmd) (s : State) : Bool :=
  pktSignal c.pkt && (statusOk c.status || pktSigAlways c.pkt) &&
  !(decide (cmdCtx c < 64) && (c.status == St.contextDestroyed || (ctxOf s (cmdCtx c)).life == .free))

/-- The translation of a completion knot, asked before the command completes (14 R489): none while its fault waits; under FAIL the command
fails; under ZERO the signal changes nothing (DESIGN CHOICE, unsafe, log 49). -/
def cknotGo (c : Cmd) (s : State) : Option Cmd × State :=
  if !(signalsCknot c s) || decide (64 ≤ cmdCtx c) then (some c, s)
  else if faultWaits s c.id then (none, s)
  else match knotAddr c.who.ctx (pktCknot c.pkt) .store c.who.rq s with
    | (.stall, s) => (none, s)
    | (.fail st, s) => (some (if statusOk c.status then { c with status := st } else c), s)
    | (_, s) => (some c, s)

/-- A packet of a launch is done: its own knot under R421; its saturations, and the first failure, go to the launch, also where the launch itself
has ended (R436). DW6 shows a trap's PC or a code object's OFFSET (Table 12.16). -/
def retireChild (l : Nat) (c : Cmd) (s : State) : State :=
  let ok := statusOk c.status
  let s := updEx (fun e => { e with cmds := e.cmds.filter (·.id != c.id) }) s
  let off := if [0x20, 0x3A, 0x61, 0x62].contains (pktOpcode c.pkt) then c.res.getD 2 0 else 0
  let s := if signalsCknot c s then signalVa (cmdCtx c) (pktCknot c.pkt) (pktCkval c.pkt) s else s
  updCmd l (fun y =>
    let y := { y with sat := y.sat + c.sat }
    let known := y.status != 0 && (y.phase != .done || y.work == .single)
    if ok || known then y
    else if y.phase == .done then { y with trap := c.trap, res := [0, BitVec.ofNat 32 c.gidx, off, 0], work := .single }
    else
      let work := match y.work with | .graph g v _ => .graph g v [] | w => w
      { y with status := c.status, trap := c.trap, res := [0, BitVec.ofNat 32 c.gidx, off, 0], work := work }) s

/-- The next packet of a launch becomes a command of its own. -/
def bornChild (l : Cmd) (g : Fin 256) (v : Nat) (p : Pkt) (rest : List Pkt) (s : State) : State :=
  let ver := (tabD s.ob.graphs g {}).vers.find? (·.ver == v)
  let idx := ((ver.map (·.pkts.length)).getD 0) - (rest.length + 1)
  let code := ver.bind fun x => (x.codes.find? (·.1 == idx)).map (·.2)
  let c : Cmd := { id := s.ex.nextCmd, q := l.q, pkt := p, parent := some l.id, gidx := idx, gcode := code }
  updCmd l.id (fun y => { y with work := .graph g v rest }) (updEx (fun e => { e with nextCmd := e.nextCmd + 1, cmds := e.cmds ++ [c] }) s)

/-- One step of a launch: retire a packet, take the next, or end. -/
def graphStep (l : Nat) (s : State) : Option State :=
  match findCmd s l with
  | none => none
  | some y =>
    match y.phase, y.work with
    | .running, .graph g v rest =>
      let kids := children s l
      match kids.find? (fun k => k.phase == .done && !(acksDue s k.id) && !(orderWaits s k) && !(faultWaits s k.id)) with
      | some k => match cknotGo k s with
        | (some k, s) => some (retireChild l k s)
        | (none, s) => some s
      | none =>
        match rest with
        | [] => if kids.isEmpty then some (finish l y.status s) else none
        | p :: r =>
          if kids.isEmpty || (pktOverlap p && kids.all begun && !(kids.any fun k => pktOpcode k.pkt == 0x51)) then
            let s := bornChild y g v p r s
            some (tryStart (s.ex.nextCmd - 1) s)
          else none
    | _, _ => none

def graphRun (l : Nat) : Nat → State → State
  | 0, s => s
  | n + 1, s => match graphStep l s with | some s => graphRun l n s | none => s

/-- Every running launch goes as far as it can. -/
def graphsGo (s : State) : State :=
  s.ex.cmds.foldl (fun s y => match y.work with
    | .graph _ _ rest => graphRun y.id (3 * (rest.length + (children s y.id).length) + 3) s
    | _ => s) s

/-- After an event: misses take entries (14 R488), commands start, steps advance, launches go on, and the scheduler settles; nothing moves while a snapshot holds
(R368) or firmware does not run. -/
def goOn (s : State) : State :=
  let s := noteStarts (missDrain s.mm.xl.missq.length s)
  if holding s || !fwOn s then s else schedSettle (graphsGo (advanceDraws (advanceSteps (advanceLoads (startAll s)))))

end Sys2Proof.Machine
end

