-- ==== Sys2Proof/Machine/Life.lean ====
section
/-! DEFINITION. Life.lean: the life of a packet: fetch, framing and acceptance, timeouts, completion (11 R397-R407; 10 R352, R353,
R364, R368; 12 R421, R424-R426, R441; 20 STAGE 7). -/
namespace Sys2Proof.Machine

/-! ### Acceptance (R397-R402) -/

/-- What the fetch of a packet's slots gives; `poison` says whether the header is poisoned. -/
inductive Fetch where
  | ok
  | poison (hdr : Bool)
  | failed (st : Status)
  | stalled
  deriving DecidableEq, Repr

/-- Poison of a slot as it arrives: of its header word, of any byte. A ring in host memory arrives whole poisoned while the function
cannot reach the host (R381), and by the granules that a completion delivers poisoned (R656). -/
def slotPoison (fn : Nat) (pl : Place) (s : State) : (Bool × Bool) × State :=
  let (b, s) := readPlace fn pl 64 s
  ((anyPoison (b.take 8), anyPoison b), s)

/-- Fetch the slots in ring order, each through its own page's translation; a fault stops the fetch as its class says (R402, R489,
R498). `first` marks the slot with the header. -/
def fetchPages (q : Nat) (x : Queue) (first : Bool) : List Nat → State → Fetch × State
  | [], s => (.ok, s)
  | n :: r, s =>
    match xl x.ctx (ringSlotVa x n) .load { who := some (.fetch (fin' 255 q)), queue := some q } s with
    | (.ok pl, s) =>
      let (b, s) := slotPoison x.fn pl s
      if first && b.1 then (.poison true, s)
      else match fetchPages q x false r s with
        | (.ok, s) => (if b.2 then .poison false else .ok, s)
        | r => r
    | (.zero, s) => (.failed St.packetLength, s)
    | (.fail st, s) => (.failed st, s)
    | (.stall, s) => (.stalled, s)

/-- The slots of a root queue lie at bus addresses (R395). -/
def fetchBus (x : Queue) (first : Bool) : List Nat → State → Fetch × State
  | [], s => (.ok, s)
  | n :: r, s =>
    let (b, s) := slotPoison x.fn (.host (ringSlotVa x n)) s
    if first && b.1 then (.poison true, s)
    else match fetchBus x false r s with
      | (.ok, s) => (if b.2 then .poison false else .ok, s)
      | r => r

/-- The fetch of `n` slots: a root queue reads host memory (R395), another its context's translation. -/
def fetchSlots (q n : Nat) (s : State) : Fetch × State :=
  let x := queueOf s q
  let l := (List.range n).map (x.fetch.toNat + ·)
  match x.abortFetch with
  | some hdr => (.poison hdr, updQueue q (fun x => { x with abortFetch := none }) s)
  | none =>
  if x.root then fetchBus x true l s
  else fetchPages q x true l s

/-- Does a queue fetch slots: ACTIVE, a root queue enabled, and not waiting for FAULT_RESUME. -/
def queueFetches (s : State) (q : Nat) : Bool :=
  let x := queueOf s q
  x.life == .live && (!x.root || (tabD s.hi.funcs x.fn {}).rootqOn) && !(stalls (fun w => match w with | .fetch k => k.val == q | _ => false) s)

/-- The counts of a queue after a packet of `n` slots. -/
def countFetch (q n : Nat) (s : State) : State :=
  updQueue q (fun x => { x with fetch := x.fetch + BitVec.ofNat 64 n, accepted := x.accepted + 1, stalled := false }) s

/-- A new command at the end of its queue. -/
def pushCmd (q : Nat) (p : Pkt) (phase : Phase) (st : Status) (s : State) : Nat × State :=
  let id := s.ex.nextCmd
  (id, updEx (fun e => { e with nextCmd := id + 1, cmds := e.cmds ++ [{ id := id, q := fin' 255 q, pkt := p, phase := phase, status := st }] }) s)

/-- The packet of a framing failure as its record shows it: no knot, and nothing of a poisoned header (R398, Table 11.6). -/
def failedPkt (hdrPoison : Bool) (p : Pkt) : Pkt :=
  if hdrPoison then { dws := [] } else { dws := [setBit (dw p 0) 15 false, dw p 1] }

/-- A packet that fails framing: it executes nothing and completes with its status (R398). -/
def refusePkt (q : Nat) (hdrPoison : Bool) (n : Nat) (st : Status) (p : Pkt) (s : State) : State :=
  (pushCmd q (failedPkt hdrPoison p) .done st (countFetch q n s)).2

/-- A destroy packet at its acceptance (R454, Table 13.1): one that passes its checks takes its object to DESTROYING. -/
def acceptDestroy (c : Cmd) (s : State) : State :=
  if (bodyBad s c.q c.pkt).isSome || !(statusOk c.status) then s
  else match (checkKnot c s).1 with
    | .ended st => updCmd c.id (fun y => { y with status := st }) s
    | _ =>
      if pktOpcode c.pkt = 0xA3 then markQueue c s
      else if cmdCtx c < 64 then markContext c.id (cmdCtx c) s
      else s

/-- A KNOT_WAIT that passes its checks is a registered waiter from its acceptance (R358). -/
def acceptWait (c : Cmd) (s : State) : State :=
  if (bodyBad s c.q c.pkt).isSome || !(statusOk c.status) || dq c.pkt 8 % 8 != 0 || (checkKnot c s).1 != .running then s
  else match translate (cmdCtx c) (dq c.pkt 8) .load s with
    | (.ok _ (.peat a), s) => registerWait c (.peat a) s
    | (.ok _ (.remote d f o), s) => if routeDown s (.remote d f o) then s else registerWait c (.remote d f o) s
    | (_, s) => s

/-- What acceptance itself does: a GRAPH_LAUNCH binds its version (R364), a KNOT_WAIT registers (R358), and a destroy takes its
object to DESTROYING (R454). -/
def atAcceptance (id : Nat) (s : State) : State :=
  match findCmd s id with
  | none => s
  | some c =>
    match pktOpcode c.pkt with
    | 0x41 => bindGraph c s
    | 0x51 => acceptWait c s
    | 0xA1 => acceptDestroy c s
    | 0xA3 => acceptDestroy c s
    | _ => s

/-- Knots that a packet names to signal. -/
def namedKnots (p : Pkt) : List Nat :=
  ((if pktSignal p then [pktCknot p] else []) ++ (if pktOpcode p = 0x50 then [dq p 8] else [])).filter (· % 8 = 0)

/-- Those of them that can be knots: not at target 1 (R354). -/
def realKnots (ctx : Nat) : List Nat → State → List Nat × State
  | [], s => ([], s)
  | va :: r, s =>
    let (a, s) := translate ctx va .store s
    let (l, s) := realKnots ctx r s
    (match a with | .ok _ (.lpddr _) => l | _ => va :: l, s)

/-- Acceptance adds the knots named to signal to the signal set of its context, if that lives (13 R450); a packet that finds no room fails at its
turn (R360). -/
def noteSigs (id : Nat) (s : State) : State :=
  match findCmd s id with
  | none => s
  | some c =>
    if cmdCtx c < 64 && (ctxOf s (cmdCtx c)).life == .live then
      let (vas, s) := realKnots (cmdCtx c) (namedKnots c.pkt) s
      match addSigs (cmdCtx c) vas s with
      | some s => s
      | none => updCmd id (fun y => { y with status := St.signalSetFull }) s
    else s

/-- Slots that a packet takes up in a ring of `room`: LENGTH, or 1 where LENGTH cannot be one (Table 11.5). -/
def pktSlots (room : Nat) (p : Pkt) : Nat := if pktLength p = 0 || decide (room < pktLength p) then 1 else pktLength p

/-- Accept a packet of queue `q` (R397-R399). -/
def acceptPkt (q : Nat) (p : Pkt) (hdrPoison anyPoison : Bool) (s : State) : State :=
  let x := queueOf s q
  let room := 2 ^ x.size
  let n := pktSlots room p
  match fetchSlots q n s with
  | (.stalled, s) => updQueue q (fun x => { x with stalled := true }) s
  | (.failed st, s) => refusePkt q true 1 st p s
  | (.poison true, s) => refusePkt q true 1 St.poisonPacket p s
  | (.poison false, s) => if hdrPoison then refusePkt q true 1 St.poisonPacket p s else refusePkt q false n St.poisonPacket p s
  | (.ok, s) =>
    if hdrPoison then refusePkt q true 1 St.poisonPacket p s
    else if anyPoison then refusePkt q false n St.poisonPacket p s
    else match framingBad room (contextOk s q (pktContext p)) p with
      | some st => refusePkt q false n st p s
      | none =>
        let (id, s) := pushCmd q p .waiting St.success (countFetch q n s)
        atAcceptance id (noteSigs id s)

/-! ### The front end (R399, R510) -/

/-- May a packet reach the command processor: firmware runs, in RUN, IDLE or NAP, and the queue fetches. -/
def takesPkt (s : State) (q : Nat) : Bool := fwOn s && decide (pwrCode s.pwr.state ≤ 2) && queueFetches s q

/-- May the packet be accepted now: behind no packet of its queue that is still to be accepted? One that makes a step or reads memory at its
acceptance is accepted when R374 lets its command start, so that its start is its acceptance and the steps of all queues fall in the order of
acceptance (R376; DEDUCED, unsafe, log 87). -/
def acceptable (s : State) (q : Nat) (p : Pkt) : Bool :=
  !(s.ex.cmds.any fun c => c.q.val == q && unaccepted c) &&
  (!(stepOpcodes.contains (pktOpcode p)) || (!(holding s) && mayStart s { id := s.ex.nextCmd, q := fin' 255 q, pkt := p }))

/-- The packet that a queue's front end can take: the next in ring order, when all its slots lie below TAIL (R399). -/
def headPkt (s : State) (q : Nat) : Option RingPkt :=
  let x := queueOf s q
  match x.slots with
  | [] => none
  | p :: _ => if pktSlots (2 ^ x.size) p.pkt ≤ (x.tail - BitVec.ofNat 32 x.fetch.toNat).toNat then some p else none

/-- Is a doorbell of the queue pending: slots below TAIL that the front end has not fetched (R399), and nothing that keeps it from them? A
packet that is not yet whole below TAIL keeps it. -/
def doorbellPending (s : State) (q : Nat) : Bool :=
  let x := queueOf s q
  takesPkt s q && x.tail != BitVec.ofNat 32 x.fetch.toNat &&
  (x.slots.isEmpty || (match headPkt s q with | some p => acceptable s q p.pkt | none => false))

/-- The first queue of tier `t` with a pending doorbell, from number `from'` upward and round (R510). -/
def feTier (s : State) (t : Nat) : Option Nat :=
  let from' := tabD s.ex.feFrom t 0
  ((List.range 256).map fun i => (from' + i) % 256).find? fun q => queueTier (queueOf s q) == t && doorbellPending s q

/-- The queue that the front end turns to: tier order, round-robin within a tier (R510). -/
def feNext (s : State) : Option Nat := (feTier s 0).orElse fun _ => (feTier s 1).orElse fun _ => feTier s 2

/-- The front end has turned to queue `q` and takes packet `p` at the head of its ring; round-robin goes on behind the queue (R510). -/
def feTook (q : Nat) (p : RingPkt) (s : State) : State :=
  let s := updEx (fun e => { e with feFrom := tabUpd e.feFrom (queueTier (queueOf s q)) fun _ => (q + 1) % 256 }) s
  let s' := acceptPkt q p.pkt p.hdrPoison p.anyPoison (returnToRun s)
  if (queueOf s' q).stalled then s' else updQueue q (fun x => { x with slots := x.slots.drop 1 }) s'

/-- The front end takes the next packet of the queue that R510 names, once that packet has been handed in. -/
def feStep (s : State) : Option State :=
  (feNext s).bind fun q => (headPkt s q).map fun p => goOn (feTook q p s)

/-- The front end takes packets while it can, at most `n`. -/
def feRun : Nat → State → State
  | 0, s => s
  | n + 1, s => match feStep s with | some s => feRun n s | none => s

/-- Packets that stand in the rings. -/
def slotsHeld (s : State) : Nat := sumN (s.ex.queues.toList.map fun x => x.slots.length)

/-- After an event: what waits goes on, and the front end takes what it can. -/
def kick (s : State) : State :=
  let s := goOn s
  feRun (slotsHeld s) s

/-- A packet comes to stand in a queue's ring, if the ring has its slots free. -/
def placePkt (q : Nat) (p : RingPkt) (s : State) : State :=
  updQueue q (fun x =>
    let room := 2 ^ x.size
    if sumN (x.slots.map fun y => pktSlots room y.pkt) + pktSlots room p.pkt ≤ room then { x with slots := x.slots ++ [p] } else x) s

/-- A packet of one row of the table: it stands in the ring of its queue, and the front end takes it when its order comes (DEDUCED,
unsafe, log 31). `mine` says that the packet is one of the row. During a snapshot's hold it keeps its place among the operations held (R368). -/
def acceptRow (q : Nat) (mine : Bool) (p : RingPkt) (s : State) : State :=
  if mine && (queueOf s q).life == .live then
    let s := placePkt q p s
    if holding s then updSnap (fun x => { x with held := x.held ++ [.fetch] }) (feRun (slotsHeld s) s) else kick s
  else s

/-- FRAMING_FAILURE (R398): a packet that fails a check of Table 11.5. -/
def execFramingFailure (q : Fin 256) (p : Pkt) (hdrPoison anyPoison : Bool) (s : State) : Res :=
  let bad := hdrPoison || anyPoison || (framingBad (2 ^ (queueOf s q).size) (contextOk s q (pktContext p)) p).isSome
  fin (acceptRow q bad { pkt := p, hdrPoison := hdrPoison, anyPoison := anyPoison } s)

/-! ### Completion (R352, R353, R403-R407, R441) -/

/-- Status, engine and place of a trap in a result (Table 12.16). -/
def trapWords (c : Cmd) (k : List W32) : List W32 :=
  let sat := min c.sat 0xFFFF
  match c.trap with
  | some t => [BitVec.ofNat 32 (sat + t.engine.toNat * 65536 + t.quarter.toNat * 2 ^ 24), t.age, t.pc, t.mask]
  | none => [BitVec.ofNat 32 (sat + 0xFF0000), k.getD 1 0, k.getD 2 0, k.getD 3 0]

/-- RESULT (Table 12.16); zero for framing failures. -/
def resultWords (c : Cmd) : List W32 :=
  if c.startT.isNone && pktOpcode c.pkt != 0x51 then [0, 0, 0, 0]
  else match pktOpcode c.pkt with
    | 0x20 => trapWords c c.res
    | 0x3A => trapWords c c.res
    | 0x62 => trapWords c c.res
    | 0x40 => trapWords c c.res
    | 0x42 => trapWords c c.res
    | 0x41 =>
      let w := trapWords c c.res
      [w.getD 0 0, c.res.getD 1 0, w.getD 2 0, w.getD 3 0]
    | _ => c.res

/-- A completion record but for PHASE (Table 11.6). -/
def recordWords (q : Nat) (c : Cmd) (seq : W64) : List W32 :=
  [BitVec.ofNat 32 ((pktTag c.pkt).toNat + pktOpcode c.pkt * 65536), BitVec.ofNat 32 (c.status.toNat + pktContext c.pkt * 65536 + q * 2 ^ 24),
   half64 seq false, half64 seq true] ++ resultWords c

/-- A record that could not be written (R353): COMPLETION_LOST and alarm 0x19. -/
def lostRec (q : Nat) (s : State) : State := postAlarm 0x19 q 0 (updQueue q (fun x => { x with lost := true }) s)

/-- Write a record with its PHASE at the next index (R404, R406). -/
def writeRec (q : Nat) (dws : List W32) (s : State) : State :=
  let x := queueOf s q
  let w := x.written.toNat
  let ph := (w / 2 ^ x.csize) % 2 = 0
  let bs := wordsBytes ((setBit (dws.getD 0 0) 31 ph) :: dws.drop 1)
  let va := x.cring.toNat + 32 * (w % 2 ^ x.csize)
  let count := updQueue q (fun x => { x with written := x.written + 1 })
  let put (pl : Place) (s : State) : State :=
    match pl with
    | .host _ => if busOn s x.fn then count (writePlace x.fn pl (clean bs) s) else lostRec q s
    | _ => count (writePlace x.fn pl (clean bs) s)
  if x.root then put (.host va) s
  else match xl x.ctx va .store {} s with
    | (.ok pl, s) => put pl s
    | (_, s) => lostRec q s

/-- Step 5 of R352. -/
def sendIrq (q : Nat) (irq : Bool) (s : State) : State := if irq then msiSend (queueOf s q).fn (queueOf s q).vector s else s

/-- The completion knot (step 3 of R352; R421). -/
def signalCknot (c : Cmd) (s : State) : State :=
  if signalsCknot c s then
    (if cmdCtx c = 0xFF then signal (queueOf s c.q).fn (.host (pktCknot c.pkt)) (pktCkval c.pkt) s
     else signalVa (cmdCtx c) (pktCknot c.pkt) (pktCkval c.pkt) s)
  else s

/-- With the publication, the next command of the queue may start (R374): before the record, which may fill the ring (R405). -/
def startNext (q : Nat) (s : State) : State :=
  if holding s || !fwOn s then s
  else ((s.ex.cmds.filter (·.q.val == q)).map (·.id)).foldl (fun s id =>
    match findCmd s id with
    | some c => if startable s c then tryStart id s else s
    | none => s) s

/-- A command's completion in the order of R352; `next` lets the next command of its queue start with it. -/
def complete1 (next : Bool) (c : Cmd) (s : State) : State :=
  let q := c.q.val
  let s := updEx (fun e => { e with cmds := e.cmds.filter (·.id != c.id) }) s
  let s := updQueue q (fun x => { x with completed := x.completed + 1, lastStatus := c.status, lastTag := pktTag c.pkt }) s
  let s := signalCknot c (publish s)
  let s := if next then startNext q s else s
  let x := queueOf s q
  let dws := recordWords q c x.completed
  let irq := pktIrq c.pkt
  let s := if ringFullQ x then updQueue q (fun x => { x with waitRecs := x.waitRecs ++ [{ dws := dws, irq := irq }] }) s else sendIrq q irq (writeRec q dws s)
  let s := settleRoot x.fn s
  if pktOpcode c.pkt = 0xF0 && statusOk c.status then halt (bit (dw c.pkt 8) 0) s else s

/-- May a command's completion come now: its work has ended; a COPY, and a DIRECT_DRAW, waits for the earlier ones of its
queue (R430, 08 R301), and a packet
that executes nothing for its turn in the queue (R374, R403). -/
def completes (s : State) (c : Cmd) : Bool :=
  (c.startT.isSome || (!(ringFullQ (queueOf s c.q)) && mayStart s c)) &&
  (c.phase == .done || (c.phase == .running && (match c.work with | .load _ none => true | _ => false))) && c.parent.isNone && !(acksDue s c.id) &&
  !(orderWaits s c)

/-- The next completion of a queue, once its knot's translation allows it (14 R489); a model being loaded becomes RESIDENT with it (R244). -/
def completionNow (next : Bool) (q : Nat) (s : State) : State :=
  match s.ex.cmds.find? fun c => c.q.val == q && completes s c with
    | none => s
    | some c =>
      match cknotGo c s with
      | (none, s) => s
      | (some c, s) =>
        let s := if c.phase == .running then endLoad c s else s
        let s := (children s c.id).foldl (fun s y => retireChild c.id y s) s
        let y := (findCmd s c.id).getD c
        complete1 next (if statusOk y.status then { y with status := c.status } else y) s

def completion (q : Nat) (s : State) : State := kick (completionNow true q s)

/-- COMMAND_COMPLETION: a snapshot holds it (R368). -/
def execCommandCompletion (q : Fin 256) (s : State) : Res :=
  if !fwOn s then fin s else if holding s then fin (hold (.completion q) s) else fin (completion q.val s)

/-! ### The end of a hold (R368, R370) -/

/-- One held operation proceeds; commands start only after the last of them. -/
def release (h : Held) (s : State) : State :=
  match h with
  | .signal fn pl v => signalNow fn pl v s
  | .abandon fn pl => abandonNow fn pl s
  | .reset pl v => (knotResetNow 0 pl v s).2
  | .hit r src => (hitNow r src s).2
  | .publish => publishNow s
  | .completion q => completionNow false q.val s
  | .fetch => s

/-- HOLD_END: the capture ends, and held operations proceed in their order. -/
def execHoldEnd (t : W64) (s : State) : Res :=
  let s := s.at t
  match s.snap.cur with
  | some c =>
    if c.triggered then
      let held := s.snap.held
      let s := updSnap (fun x => { x with held := [] }) (snapCapture c s)
      fin (kick (held.foldl (fun s h => release h s) s))
    else fin s
  | none => fin s

/-! ### Timeouts (R424-R426) -/

/-- Has a command's timeout elapsed? -/
def timedOut (s : State) (c : Cmd) : Bool :=
  match c.startT with
  | some t => c.phase != .done && decide (t.toNat + pktTimeoutNs c.pkt ≤ s.now)
  | none => false

/-- Drain (R425): no further block is dispatched, and 1 ms is allowed. -/
def drainCmd (c : Cmd) (s : State) : State :=
  let mark (y : Cmd) : Cmd := { y with drainEnd := some (s.time + 1000000) }
  let s := updCmd c.id (fun y => mark { y with work := match y.work with | .graph g v _ => .graph g v [] | w => w }) s
  let s := (children s c.id).foldl (fun s y => settleCmd y.id (updCmd y.id mark s)) s
  settleCmd c.id s

/-- A drain-or-kill command; one that has not begun has no group to drain. -/
def drainOrKill (c : Cmd) (s : State) : State :=
  if pktKill c.pkt then killCmd c St.timeoutKilled s
  else if c.phase == .waiting then finish c.id St.timeoutDrained s
  else if c.drainEnd.isSome then s
  else drainCmd c s

/-- Waits: 0x0303 while it has not begun (R426). -/
def waitsOnly (c : Cmd) (s : State) : State := if c.phase == .waiting then finish c.id St.timeoutUnchanged s else s

/-- A KNOT_WAIT times out: its knot is evaluated once more (R357), and 0x0303 ends it where neither case holds (R358, R426), each
with the knot word (Table 12.16). -/
def timeoutWait (c : Cmd) (s : State) : State :=
  match c.work with
  | .knotWait pl =>
    let (w, poison, s) := knotRead (queueOf s c.q).fn pl s
    let st := if poison then St.poisonKnot else match knotCase w (BitVec.ofNat 64 (dq c.pkt 10)) false with
      | .sat => St.success | .abandoned => St.abandoned | _ => St.timeoutUnchanged
    finish c.id st (setRes64 c.id w.toNat s)
  | _ => finish c.id St.timeoutUnchanged s

/-- The last column of Table 12.3. -/
def timeoutOf (c : Cmd) (s : State) : State :=
  match pktOpcode c.pkt with
  | 0x10 => waitsOnly c s
  | 0x11 => waitsOnly c s
  | 0x12 => waitsOnly c s
  | 0x18 => finish c.id St.timeoutKilled (stopXfer c true s)
  | 0x20 => drainOrKill c s
  | 0x38 => killCmd c St.timeoutKilled s
  | 0x39 => finish c.id St.timeoutUnchanged (stopWork c St.timeoutUnchanged s)
  | 0x3A => drainOrKill c s
  | 0x3B => waitsOnly c s
  | 0x41 => drainOrKill c s
  | 0x51 => timeoutWait c s
  | 0x60 => drainOrKill c s
  | 0x61 => waitsOnly c s
  | 0x62 => drainOrKill c s
  | 0x78 => finish c.id St.timeoutKilled (stopDz c s)
  | 0x90 =>
    let s' := stopWork c St.timeoutUnchanged s
    if (match s.snap.cur with | some y => y.triggered && y.cmd == some c.id | none => false) then s else finish c.id St.timeoutUnchanged s'
  | 0xB0 => if bit (dw c.pkt 8) 9 then finish c.id St.linkDown s else s
  | 0xB1 => match c.work with
    | .barrier b => if c.phase == .running then withdrawBarrier b s else waitsOnly c s
    | _ => waitsOnly c s
  | 0xB2 => finish c.id St.timeoutKilled (stopXfer c true s)
  | 0xB3 => finish c.id St.linkDown s
  | _ => s

/-- COMMAND_TIMEOUT. -/
def execCommandTimeout (c : Nat) (t : W64) (s : State) : Res :=
  let s := s.at t
  match findCmd s c with
  | some y => if timedOut s y && fwOn s then fin (kick (timeoutOf y s)) else fin s
  | none => fin s

/-- TIMEOUT_DRAIN_ALLOWANCE: 1 ms after the timeout: drained if every group has ended, else killed (R425). -/
def execTimeoutDrainAllowance (c : Nat) (t : W64) (s : State) : Res :=
  let s := s.at t
  match findCmd s c with
  | none => fin s
  | some y =>
    match y.drainEnd with
    | none => fin s
    | some e =>
      if s.now < e.toNat || y.phase == .done || !fwOn s then fin s
      else
        let tile := match y.work with | .render p => s.ex.blocks.any (fun b => b.owner == .tile p) | _ => false
        let kids := (children s c).any fun k => k.phase != .done && (ownedBy s k.id || (match k.work with | .render p => s.ex.blocks.any (fun b => b.owner == .tile p) | _ => false))
        fin (kick (killCmd y (if ownedBy s c || tile || kids then St.timeoutKilled else St.timeoutDrained) s))

/-- SELECTION_RECORD_RETIRED (R258, R261): a MODEL_SELECT that waited goes on, and a dying model's eviction may end. -/
def execSelectionRecordRetired (_ : Fin 16) (s : State) : Res := fin (kick (settleOrphans s))

end Sys2Proof.Machine
end

