-- ==== Sys2Proof/Machine/Packets.lean ====
section
/-! DEFINITION. Packets.lean: the packet rows of the table. Each accepts its packet on its queue (11 R397-R399) and lets the queue's
commands start (10 R374); what a packet does at its start is its `start` function, named in `startOp` (12 R422, Table 12.3). A packet
that is not the row's has no effect. -/
namespace Sys2Proof.Machine

/-- NOP (opcode 0x00). -/
def execNop (q : Fin 256) (p : Pkt) (s : State) : Res := fin (acceptRow q (pktOpcode p == 0x00) { pkt := p } s)
/-- QUERY (opcode 0x01). -/
def execQuery (q : Fin 256) (p : Pkt) (s : State) : Res := fin (acceptRow q (pktOpcode p == 0x01) { pkt := p } s)
/-- MEM_MAP (opcode 0x10). -/
def execMemMap (q : Fin 256) (p : Pkt) (s : State) : Res := fin (acceptRow q (pktOpcode p == 0x10) { pkt := p } s)
/-- MEM_UNMAP (opcode 0x11). -/
def execMemUnmap (q : Fin 256) (p : Pkt) (s : State) : Res := fin (acceptRow q (pktOpcode p == 0x11) { pkt := p } s)
/-- XL_INVALIDATE (opcode 0x12). -/
def execXlInvalidate (q : Fin 256) (p : Pkt) (s : State) : Res := fin (acceptRow q (pktOpcode p == 0x12) { pkt := p } s)
/-- FAULT_RESUME (opcode 0x13). -/
def execFaultResume (q : Fin 256) (p : Pkt) (s : State) : Res := fin (acceptRow q (pktOpcode p == 0x13) { pkt := p } s)
/-- COPY (opcode 0x18). -/
def execCopy (q : Fin 256) (p : Pkt) (s : State) : Res := fin (acceptRow q (pktOpcode p == 0x18) { pkt := p } s)
/-- LAUNCH (opcode 0x20). -/
def execLaunch (q : Fin 256) (p : Pkt) (s : State) : Res := fin (acceptRow q (pktOpcode p == 0x20) { pkt := p } s)
/-- BRAID_DEFINE (opcode 0x30). -/
def execBraidDefine (q : Fin 256) (p : Pkt) (s : State) : Res := fin (acceptRow q (pktOpcode p == 0x30) { pkt := p } s)
/-- BRAID_START (opcode 0x31). -/
def execBraidStart (q : Fin 256) (p : Pkt) (s : State) : Res := fin (acceptRow q (pktOpcode p == 0x31) { pkt := p } s)
/-- BRAID_STOP, MODE 0 or the reserved 3 (opcode 0x32). -/
def execBraidStopDrain (q : Fin 256) (p : Pkt) (s : State) : Res := fin (acceptRow q (pktOpcode p == 0x32 && (fld (dw p 8) 5 4 == 0 || fld (dw p 8) 5 4 == 3)) { pkt := p } s)
/-- BRAID_STOP, MODE 1 (opcode 0x32). -/
def execBraidStopHalt (q : Fin 256) (p : Pkt) (s : State) : Res := fin (acceptRow q (pktOpcode p == 0x32 && fld (dw p 8) 5 4 == 1) { pkt := p } s)
/-- BRAID_STOP, MODE 2 (opcode 0x32). -/
def execBraidStopRelease (q : Fin 256) (p : Pkt) (s : State) : Res := fin (acceptRow q (pktOpcode p == 0x32 && fld (dw p 8) 5 4 == 2) { pkt := p } s)
/-- MODEL_LOAD (opcode 0x38). -/
def execModelLoad (q : Fin 256) (p : Pkt) (s : State) : Res := fin (acceptRow q (pktOpcode p == 0x38) { pkt := p } s)
/-- MODEL_EVICT (opcode 0x39). -/
def execModelEvict (q : Fin 256) (p : Pkt) (s : State) : Res := fin (acceptRow q (pktOpcode p == 0x39) { pkt := p } s)
/-- MIXED_STEP (opcode 0x3A). -/
def execMixedStep (q : Fin 256) (p : Pkt) (s : State) : Res := fin (acceptRow q (pktOpcode p == 0x3A) { pkt := p } s)
/-- MODEL_SELECT (opcode 0x3B). -/
def execModelSelect (q : Fin 256) (p : Pkt) (s : State) : Res := fin (acceptRow q (pktOpcode p == 0x3B) { pkt := p } s)
/-- GRAPH_RECORD (opcode 0x40). -/
def execGraphRecord (q : Fin 256) (p : Pkt) (s : State) : Res := fin (acceptRow q (pktOpcode p == 0x40) { pkt := p } s)
/-- GRAPH_LAUNCH (opcode 0x41). -/
def execGraphLaunch (q : Fin 256) (p : Pkt) (s : State) : Res := fin (acceptRow q (pktOpcode p == 0x41) { pkt := p } s)
/-- GRAPH_SPLICE (opcode 0x42). -/
def execGraphSplice (q : Fin 256) (p : Pkt) (s : State) : Res := fin (acceptRow q (pktOpcode p == 0x42) { pkt := p } s)
/-- GRAPH_FREE (opcode 0x43). -/
def execGraphFree (q : Fin 256) (p : Pkt) (s : State) : Res := fin (acceptRow q (pktOpcode p == 0x43) { pkt := p } s)
/-- KNOT_SIGNAL (opcode 0x50). -/
def execKnotSignal (q : Fin 256) (p : Pkt) (s : State) : Res := fin (acceptRow q (pktOpcode p == 0x50) { pkt := p } s)
/-- KNOT_WAIT (opcode 0x51). -/
def execKnotWait (q : Fin 256) (p : Pkt) (s : State) : Res := fin (acceptRow q (pktOpcode p == 0x51) { pkt := p } s)
/-- KNOT_RESET (opcode 0x52). -/
def execKnotReset (q : Fin 256) (p : Pkt) (s : State) : Res := fin (acceptRow q (pktOpcode p == 0x52) { pkt := p } s)
/-- RENDER_PASS with END = 0 (opcode 0x60). -/
def execRenderPassBegin (q : Fin 256) (p : Pkt) (s : State) : Res := fin (acceptRow q (pktOpcode p == 0x60 && !(pktEnd p)) { pkt := p } s)
/-- RENDER_PASS with END = 1 (opcode 0x60). -/
def execRenderPassEnd (q : Fin 256) (p : Pkt) (s : State) : Res := fin (acceptRow q (pktOpcode p == 0x60 && pktEnd p) { pkt := p } s)
/-- DRAW (opcode 0x61). -/
def execDraw (q : Fin 256) (p : Pkt) (s : State) : Res := fin (acceptRow q (pktOpcode p == 0x61) { pkt := p } s)
/-- DIRECT_DRAW (opcode 0x62). -/
def execDirectDraw (q : Fin 256) (p : Pkt) (s : State) : Res := fin (acceptRow q (pktOpcode p == 0x62) { pkt := p } s)
/-- LAYER_SET (opcode 0x68). -/
def execLayerSet (q : Fin 256) (p : Pkt) (s : State) : Res := fin (acceptRow q (pktOpcode p == 0x68) { pkt := p } s)
/-- CAM_CONFIG (opcode 0x6C). -/
def execCamConfig (q : Fin 256) (p : Pkt) (s : State) : Res := fin (acceptRow q (pktOpcode p == 0x6C) { pkt := p } s)
/-- AXIS_CONFIG (opcode 0x70). -/
def execAxisConfig (q : Fin 256) (p : Pkt) (s : State) : Res := fin (acceptRow q (pktOpcode p == 0x70) { pkt := p } s)
/-- HIT_POST (opcode 0x71). -/
def execHitPost (q : Fin 256) (p : Pkt) (s : State) : Res := fin (acceptRow q (pktOpcode p == 0x71) { pkt := p } s)
/-- OUT_CONFIG (opcode 0x72). -/
def execOutConfig (q : Fin 256) (p : Pkt) (s : State) : Res := fin (acceptRow q (pktOpcode p == 0x72) { pkt := p } s)
/-- DZ_RUN with DIR = 0 (opcode 0x78). -/
def execDzRunCompress (q : Fin 256) (p : Pkt) (s : State) : Res := fin (acceptRow q (pktOpcode p == 0x78 && !(bit (dw p 8) 0)) { pkt := p } s)
/-- DZ_RUN with DIR = 1 (opcode 0x78). -/
def execDzRunDecompress (q : Fin 256) (p : Pkt) (s : State) : Res := fin (acceptRow q (pktOpcode p == 0x78 && bit (dw p 8) 0) { pkt := p } s)
/-- POWER_HINT (opcode 0x80). -/
def execPowerHint (q : Fin 256) (p : Pkt) (s : State) : Res := fin (acceptRow q (pktOpcode p == 0x80) { pkt := p } s)
/-- SNAPSHOT (opcode 0x90). -/
def execSnapshot (q : Fin 256) (p : Pkt) (s : State) : Res := fin (acceptRow q (pktOpcode p == 0x90) { pkt := p } s)
/-- LOG_CONFIG (opcode 0x91). -/
def execLogConfig (q : Fin 256) (p : Pkt) (s : State) : Res := fin (acceptRow q (pktOpcode p == 0x91) { pkt := p } s)
/-- TRACE_CONFIG (opcode 0x92). -/
def execTraceConfig (q : Fin 256) (p : Pkt) (s : State) : Res := fin (acceptRow q (pktOpcode p == 0x92) { pkt := p } s)
/-- ALARM_READ (opcode 0x93). -/
def execAlarmRead (q : Fin 256) (p : Pkt) (s : State) : Res := fin (acceptRow q (pktOpcode p == 0x93) { pkt := p } s)
/-- CONTEXT_CREATE (opcode 0xA0). -/
def execContextCreate (q : Fin 256) (p : Pkt) (s : State) : Res := fin (acceptRow q (pktOpcode p == 0xA0) { pkt := p } s)
/-- CONTEXT_DESTROY (opcode 0xA1). -/
def execContextDestroy (q : Fin 256) (p : Pkt) (s : State) : Res := fin (acceptRow q (pktOpcode p == 0xA1) { pkt := p } s)
/-- QUEUE_CREATE (opcode 0xA2). -/
def execQueueCreate (q : Fin 256) (p : Pkt) (s : State) : Res := fin (acceptRow q (pktOpcode p == 0xA2) { pkt := p } s)
/-- QUEUE_DESTROY (opcode 0xA3). -/
def execQueueDestroy (q : Fin 256) (p : Pkt) (s : State) : Res := fin (acceptRow q (pktOpcode p == 0xA3) { pkt := p } s)
/-- PARTITION_CONFIG (opcode 0xA8). -/
def execPartitionConfig (q : Fin 256) (p : Pkt) (s : State) : Res := fin (acceptRow q (pktOpcode p == 0xA8) { pkt := p } s)
/-- DOMAIN_CONFIG with JOIN = 1 (opcode 0xB0). -/
def execDomainConfigJoin (q : Fin 256) (p : Pkt) (s : State) : Res := fin (acceptRow q (pktOpcode p == 0xB0 && bit (dw p 8) 9) { pkt := p } s)
/-- DOMAIN_CONFIG with JOIN = 0 (opcode 0xB0). -/
def execDomainConfigLeave (q : Fin 256) (p : Pkt) (s : State) : Res := fin (acceptRow q (pktOpcode p == 0xB0 && !(bit (dw p 8) 9)) { pkt := p } s)
/-- DOMAIN_BARRIER (opcode 0xB1). -/
def execDomainBarrier (q : Fin 256) (p : Pkt) (s : State) : Res := fin (acceptRow q (pktOpcode p == 0xB1) { pkt := p } s)
/-- DOMAIN_BROADCAST (opcode 0xB2). -/
def execDomainBroadcast (q : Fin 256) (p : Pkt) (s : State) : Res := fin (acceptRow q (pktOpcode p == 0xB2) { pkt := p } s)
/-- DOMAIN_RESET (opcode 0xB3). -/
def execDomainReset (q : Fin 256) (p : Pkt) (s : State) : Res := fin (acceptRow q (pktOpcode p == 0xB3) { pkt := p } s)
/-- TEST_SLICE (opcode 0xC0). -/
def execTestSlice (q : Fin 256) (p : Pkt) (s : State) : Res := fin (acceptRow q (pktOpcode p == 0xC0) { pkt := p } s)
/-- SHUTDOWN (opcode 0xF0). -/
def execShutdown (q : Fin 256) (p : Pkt) (s : State) : Res := fin (acceptRow q (pktOpcode p == 0xF0) { pkt := p } s)
/-- ATTEST (opcode 0xF4). -/
def execAttest (q : Fin 256) (p : Pkt) (s : State) : Res := fin (acceptRow q (pktOpcode p == 0xF4) { pkt := p } s)

end Sys2Proof.Machine
end

