-- ==== Sys2Proof/Machine/Registers.lean ====
section
/-! DEFINITION. Registers.lean: the BAR0 registers as software reads them, block by block (09, 11, 14, 16-20; those of the PTE
are in Pte.lean). Each function answers the 32-bit word at an offset of its block; offsets that the spec does not list read
zero. -/
namespace Sys2Proof.Machine

/-- Word at byte offset `o` of a register or table that is one number, byte 0 lowest. -/
def wordOf (v o : Nat) : W32 := BitVec.ofNat 32 (v / 2 ^ (8 * o))
/-- Two 32-bit counters, the lower first. -/
def two (a b : W32) : Nat := a.toNat + 2 ^ 32 * b.toNat

/-! ### Host interface (11) -/

/-- MSI-X table: 16 bytes an entry: address, data, vector control (R408). -/
def msixWord (f : Func) (o : Nat) : W32 :=
  match f.msix[o / 16]? with
  | none => 0
  | some e => wordOf (e.addr.toNat + 2 ^ 64 * e.data.toNat + 2 ^ 96 * fld e.ctrl 0 0) (o % 16)
/-- The pending-bit array. -/
def pbaWord (f : Func) (o : Nat) : W32 :=
  wordOf (sumN ((List.range f.msix.length).map fun i => match f.msix[i]? with | some e => if e.pend then 2 ^ i else 0 | none => 0)) o

/-- ICN_TGT. -/
def icnTgtWord (s : State) (t : Nat) : W32 := (tabD s.hi.icn.tgts t {}).cfg

/-- HIF registers of a function, by offset from 0x08_1000. -/
def hifWord (s : State) (fn o : Nat) : W32 :=
  let f := funcOf s fn
  match o with
  | 0x00 => BitVec.ofNat 32 (b2n (hifReady s fn) + 2 * b2n f.rootqOn + 4 * b2n (bit f.mirror 0))
  | 0x08 => half64 f.rootqBase false
  | 0x0C => half64 f.rootqBase true
  | 0x10 => half64 f.rootqCbase false
  | 0x14 => half64 f.rootqCbase true
  | 0x18 => f.rootqCfg
  | 0x1C => BitVec.ofNat 32 (b2n f.rootqOn)
  | 0x20 => half64 f.mirror false
  | 0x24 => half64 f.mirror true
  | 0x28 => half64 f.bar2Map false
  | 0x2C => half64 f.bar2Map true
  | 0x30 => f.alarm
  | 0x38 => f.doorbellErr
  | 0x3C => f.bar2Fault
  | _ => 0

/-! ### Boot mailbox (20) -/

/-- Boot mailbox, by offset from 0x08_0000. -/
def bootWord (s : State) (o : Nat) : W32 :=
  let b := s.boot
  if 0x40 ≤ o ∧ o < 0x80 then wordOf b.digest.toNat (o - 0x40) else
  match o with
  | 0x00 => BitVec.ofNat 32 (b.stage.toNat + 256 * b.err.toNat + 4096 * b.rstsrc.toNat)
  | 0x08 => half64 b.img false
  | 0x0C => half64 b.img true
  | 0x10 => b.size
  | 0x18 => BitVec.ofNat 32 (rollbackC s.fuses + 128 * b2n s.fuses.cust + 256 * b2n s.fuses.debugLock)
  | 0x1C => b.fails
  | _ => 0

/-! ### Cameras, layers, outputs (09) -/

def camCfgWord (c : Cam) : W32 :=
  BitVec.ofNat 32 (b2n c.en + 2 * b2n c.cphy + 4 * c.lanes.toNat + 32 * b2n c.frame + 64 * c.dest.toNat + 256 * c.vc.toNat +
    2 ^ 13 * c.dt.toNat + 2 ^ 19 * c.ctx.val)

def camWord (s : State) (p o : Nat) : W32 :=
  let c := camOf s p
  match o with
  | 0x00 => camCfgWord c
  | 0x04 => BitVec.ofNat 32 c.rate.toNat
  | 0x08 => c.swmin
  | 0x0C => c.swmax
  | 0x10 => BitVec.ofNat 32 (b2n c.rx + 2 * b2n c.open'.isSome + 4 * c.fifo.length)
  | 0x14 => c.alarm
  | 0x20 => c.cUnits
  | 0x24 => c.cOverrun
  | 0x28 => c.cCrc
  | 0x2C => c.cEcc
  | 0x30 => c.cStale
  | 0x34 => c.cOvf
  | 0x38 => c.cFrame
  | 0x3C => c.cFaults
  | _ => 0

def laCfgWord (x : LayerSet) : W32 :=
  BitVec.ofNat 32 (b2n x.en + 2 * x.output.val + 4 * x.format.toNat + 64 * x.blend.toNat + 256 * b2n x.compressed + 512 * b2n x.continuous +
    1024 * ((x.nbuf - 1) % 4) + 4096 * x.alpha.toNat + 2 ^ 20 * x.ctx.val)

/-- Two 16-bit values. -/
def pair16 (a b : Nat) : W32 := BitVec.ofNat 32 (a % 65536 + 65536 * (b % 65536))

def layerWord (s : State) (n o : Nat) : W32 :=
  let l := layerOf s n
  let x := l.active
  match o with
  | 0x00 => laCfgWord x
  | 0x04 => pair16 x.x x.y
  | 0x08 => pair16 x.w x.h
  | 0x0C => pair16 x.sx x.sy
  | 0x10 => half64 l.shownVal false
  | 0x14 => half64 l.shownVal true &&& 0x7FFFFFFF
  | 0x18 => l.repeats
  | 0x1C => l.faults
  | 0x20 => l.poison
  | 0x24 => l.underrun
  | _ => 0

/-- CMX_ISO, LA_*, WB_*, by offset from 0x20_0000. -/
def cmxWord (s : State) (o : Nat) : W32 :=
  let w := s.gx.wb.active
  if 0x1000 ≤ o ∧ o < 0x1400 then layerWord s ((o - 0x1000) / 0x40) (o % 0x40)
  else match o with
    | 0x0000 => BitVec.ofNat 32 (cmxIso s)
    | 0x1400 => BitVec.ofNat 32 (b2n w.en + 2 * w.output.val + 4 * w.format.toNat)
    | 0x1408 => s.gx.wb.written
    | 0x140C => s.gx.wb.skip
    | _ => 0

def dpoWord (s : State) (d o : Nat) : W32 :=
  let x := dpoOf s d
  if 0x50 ≤ o ∧ o < 0x60 then wordOf x.data.toNat (o - 0x50) else
  match o with
  | 0x00 => x.ctrl
  | 0x04 => x.h
  | 0x08 => x.hs
  | 0x0C => x.v
  | 0x10 => x.vs
  | 0x14 => x.pclk
  | 0x18 => x.drate
  | 0x1C => x.bg
  | 0x24 => BitVec.ofNat 32 (b2n x.hpd + 2 * b2n x.link + 4 * b2n x.trainErr + 8 * b2n x.modeErr + 65536 * (dpoLine s x % 65536))
  | 0x28 => x.frames
  | 0x2C => x.latches
  | 0x40 => x.msgCtl
  | 0x48 => BitVec.ofNat 32 (b2n x.busy + 2 * b2n x.done' + 4 * b2n x.nack + 8 * b2n x.timeout + 16 * x.rlen.toNat)
  | _ => 0

/-! ### Power, Wisp, AVSBus (18, 21) -/

def pdCode (p : PdLevel) : Nat := match p with | .off => 0 | .retention => 1 | .on => 2
def pdStateVal (s : State) : Nat := sumN ((List.range 64).map fun i => pdCode (pdOf s i) * 4 ^ i)

/-- Power registers, by offset from 0x30_0000. ENTERING reads 0: an entry takes no command's time (DESIGN CHOICE, unsafe, log 47). -/
def pwrWord (s : State) (o : Nat) : W32 :=
  let p := s.pwr
  if 0x20 ≤ o ∧ o < 0x30 then wordOf (pdStateVal s) (o - 0x20)
  else if 0x48 ≤ o ∧ o < 0x70 then
    (if o % 8 = 0 then tabD p.entries ((o - 0x40) / 8) 0 else tabD p.aborts ((o - 0x40) / 8) 0)
  else match o with
    | 0x00 => BitVec.ofNat 32 (pwrCode p.state + 8 * pwrCode (pwrTarget s))
    | 0x04 => p.budget
    | 0x08 => BitVec.ofNat 32 p.mode.toNat
    | 0x10 => BitVec.ofNat 32 (p.wakeLast.toNat + 256 * p.wakeMask.toNat)
    | 0x18 => half64 p.wakeTimer false
    | 0x1C => half64 p.wakeTimer true
    | 0x70 => p.offacc
    | _ => 0

/-- Wisp registers, by offset from 0x30_1000. -/
def wispWord (s : State) (o : Nat) : W32 :=
  let w := s.wisp
  let mask (p : WispFilter → Bool) : Nat := sumN ((List.range 8).map fun i => if p (tabD w.filts i {}) then 2 ^ i else 0)
  if 0x10 ≤ o ∧ o < 0x30 then tabD w.pins ((o - 0x10) / 4) 0
  else if 0x80 ≤ o ∧ o < 0xC0 then half64 (tabD w.filts ((o - 0x80) / 8) {}).cfg (decide (o % 8 = 4))
  else if 0xC0 ≤ o ∧ o < 0xD0 then tabD w.rules ((o - 0xC0) / 4) 0
  else if 0xE0 ≤ o ∧ o < 0x100 then (tabD w.filts ((o - 0xE0) / 4) {}).value
  else if 0x7000 ≤ o ∧ o < 0xBB00 then BitVec.ofNat 32 (leAt w.frame (o - 0x7000) 4)
  else match o with
    | 0x00 => w.ctrl
    | 0xD0 => BitVec.ofNat 32 (mask filtWarm + 256 * mask filtTrue + 65536 * w.fired.toNat)
    | _ => 0

/-- AVSBus registers, by offset from 0x38_0000. -/
def avsWord (s : State) (o : Nat) : W32 :=
  let a := s.avs
  match o with
  | 0x00 => a.cfg
  | 0x04 => BitVec.ofNat 32 (tabD a.vout 0 0).toNat
  | 0x08 => BitVec.ofNat 32 (tabD a.vout 1 0).toNat
  | 0x10 => BitVec.ofNat 32 a.alarm.toNat
  | _ => 0

/-! ### Safety island, self-test (19) -/

def sfiCode (x : SfiState) : Nat := match x with | .boot => 0 | .hold => 1 | .arming => 2 | .armed => 3

/-- SFI_ESC: events in the window now (R615); none while no SCB is applied. -/
def escWord (s : State) (b : Nat) : W32 :=
  match s.sfi.scb with
  | none => 0
  | some c =>
    if b < 16 then
      match c.braids.toArray[b]? with
      | some m => pair16 (inWindow s.now m.window.toNat (tabD s.sfi.misses b [])).length (inWindow s.now m.window.toNat (tabD s.sfi.lates b [])).length
      | none => 0
    else match c.axes.toArray[b - 16]? with
      | some m => pair16 0 (inWindow s.now m.window.toNat (tabD s.sfi.axLates (b - 16) [])).length
      | none => 0

def causeVal (e : CauseEntry) : Nat := e.code.toNat + 256 * e.unit.toNat + 2 ^ 32 * e.detail.toNat + 2 ^ 64 * e.time.toNat

/-- SFI host view, by offset from 0x40_0000. -/
def sfiWord (s : State) (o : Nat) : W32 :=
  let x := s.sfi
  if 0x40 ≤ o ∧ o < 0x80 then wordOf x.scbDigest.toNat (o - 0x40)
  else if 0x100 ≤ o ∧ o < 0x200 then wordOf (causeVal (tabD x.log ((o - 0x100) / 16) {})) (o % 16)
  else if 0x200 ≤ o ∧ o < 0x2C0 then (if o % 8 = 0 then escWord s ((o - 0x200) / 8) else 0)
  else match o with
    | 0x00 => BitVec.ofNat 32 (sfiCode x.state + 4 * b2n x.latchA + 8 * b2n x.armIn + 16 * b2n (safeAAsserted s) + 32 * b2n (safeBAsserted s) +
        64 * b2n x.scb.isSome + 65536 * x.cause.toNat)
    | 0x04 => BitVec.ofNat 32 (sfiMon s).toNat
    | 0x08 => x.trips
    | 0x0C => x.arms
    | 0x10 => x.refused
    | 0x14 => x.causeSeq
    | _ => 0

/-- ST_RESULT. -/
def stResult (x : SelfTest) : W32 :=
  BitVec.ofNat 32 (x.source.toNat + 4 * b2n x.pass + 8 * b2n x.repaired + 256 * min x.fails.length 16)
/-- ST_MEMFAIL. -/
def memFailVal (f : MemFail) : Nat := f.mem.toNat + 128 * b2n f.fixed + 256 * f.word.toNat + 2 ^ 29 * f.bit.toNat
def stMemFail (x : SelfTest) (i : Nat) : Nat := match x.fails[i]? with | some f => memFailVal f | none => 0

/-- Self-test registers, by offset from 0x58_0000. -/
def stWord (s : State) (o : Nat) : W32 :=
  let x := s.st
  if 0x100 ≤ o ∧ o < 0x180 then wordOf (stMemFail x ((o - 0x100) / 8)) (o % 8)
  else if 0x200 ≤ o ∧ o < 0x300 then half64 (tabD x.slices ((o - 0x200) / 8) 0) (decide (o % 8 = 4))
  else match o with
    | 0x00 => stResult x
    | 0x08 => half64 x.failPd false
    | 0x0C => half64 x.failPd true
    | 0x400 => x.sliceFail
    | _ => 0

/-! ### Memory control (16), Hawser (17), translation (14) -/

/-- Memory-control registers, by offset from 0x48_0000. -/
def eccWord (s : State) (o : Nat) : W32 :=
  let c := s.mm.ctl
  if 0x40 ≤ o ∧ o < 0x80 then
    let k := tabD c.scrub ((o - 0x40) / 0x20) {}
    wordOf (two k.laps k.lastLap + 2 ^ 64 * k.lapStart.toNat) (o % 0x20)
  else if 0x1000 ≤ o ∧ o < 0x1240 then
    let u := tabD c.units ((o - 0x1000) / 16) {}
    wordOf (two u.ce u.ue + 2 ^ 64 * two u.poisonRead u.scrubFix) (o % 16)
  else match o with
    | 0x00 => c.ctrl
    | 0x04 => c.alarm
    | 0x10 => half64 c.uelogLo false
    | 0x14 => half64 c.uelogLo true
    | 0x18 => half64 c.uelogTime false
    | 0x1C => half64 c.uelogTime true
    | 0x20 => BitVec.ofNat 32 (c.mts.toNat + 2 ^ 14 * c.chmask.toNat + 2 ^ 18 * b2n c.initDone)
    | 0x2000 => half64 c.testAddr false
    | 0x2004 => half64 c.testAddr true
    | 0x2008 => half64 c.testData false
    | 0x200C => half64 c.testData true
    | 0x2010 => BitVec.ofNat 32 (c.testCheck.toNat + 2 ^ 17 * b2n c.testErr)
    | _ => 0

def linkWord (s : State) (k o : Nat) : W32 :=
  let l := linkOf s k
  if !(linksPresent s.part) then 0 else
  match o with
  | 0x00 => BitVec.ofNat 32 (b2n l.en)
  | 0x04 => BitVec.ofNat 32 (b2n l.up + 2 * l.width.toNat + 16 * l.peer.toNat + 256 * b2n l.peerErr)
  | 0x08 => l.alarm
  | 0x10 => l.replays
  | 0x14 => l.downs
  | 0x18 => l.timeouts
  | 0x1C => l.dropped
  | 0x20 => (linkNow s.time l).txflits
  | 0x24 => l.rxflits
  | _ => 0

/-- Domain and link registers, by offset from 0x50_0000. -/
def domWord (s : State) (o : Nat) : W32 :=
  let d := s.dom
  if 0x1000 ≤ o ∧ o < 0x1400 then linkWord s ((o - 0x1000) / 0x100) (o % 0x100)
  else match o with
    | 0x00 => BitVec.ofNat 32 (d.id.toNat + 16 * d.size.toNat + 512 * b2n d.member + 1024 * b2n d.degraded + 2048 * b2n d.resetting)
    | 0x08 => d.barriers
    | 0x0C => d.resets
    | _ => 0

/-- Translation registers, by offset from 0x60_0000. -/
def xlWord (s : State) (o : Nat) : W32 :=
  let x := s.mm.xl
  if 0x20 ≤ o ∧ o < 0x30 then wordOf (xlCount s) (o - 0x20)
  else match o with
    | 0x00 => half64 x.fqbase false
    | 0x04 => half64 x.fqbase true
    | 0x08 => x.fqcfg
    | 0x10 => x.tail
    | 0x14 => x.head
    | 0x18 => BitVec.ofNat 32 (xlStat s)
    | 0x8000 => half64 x.refq false
    | 0x8004 => half64 x.refq true
    | 0x8008 => wordOf (xlRefstat s) 0
    | 0x800C => wordOf (xlRefstat s) 4
    | _ => 0

end Sys2Proof.Machine
end

