-- ==== Sys2Proof/Machine/Bar0.lean ====
section
/-! DEFINITION. Bar0.lean: accesses of the host to BAR0 and BAR2: doorbells, register reads and writes by their access codes,
blocks whose domain is off (00 R12, R13; 11 R385-R389, R399, R400, R405, R408; 18 R586, R587). -/
namespace Sys2Proof.Machine

/-! ### Doorbells (R399, R400) -/

/-- Is the queue ACTIVE, and open to this function? A VF reaches the queues of its partition and its own root queue. -/
def queueActive (s : State) (q : Nat) : Bool :=
  let x := queueOf s q
  x.life == .live && (!x.root || (funcOf s x.fn).rootqOn)
/-- Does the queue take CHEAD values: ACTIVE, or a disabled root queue whose accepted packets still run to completion, whose records
need room (R394, R405; DEDUCED, unsafe, log 31)? -/
def queueDrains (s : State) (q : Nat) : Bool := (queueOf s q).life == .live
def queueMine (s : State) (fn q : Nat) : Bool :=
  let x := queueOf s q
  fn == 0 || (if x.root then x.fn.val == fn else vfPart s (fn - 1) == some (ctxOf s x.ctx).part.val)

/-- R399: is a TAIL value accepted? -/
def tailOk (x : Queue) (t : W32) : Bool := decide ((x.tail - BitVec.ofNat 32 x.fetch.toNat).toNat + (t - x.tail).toNat ≤ 2 ^ x.size)
/-- R400: is a CHEAD value accepted? -/
def cheadOk (x : Queue) (h : W32) : Bool := decide ((x.written - h).toNat ≤ 2 ^ x.csize)

/-- A doorbell write to an ACTIVE queue wakes the device (Table 18.4, code 1). -/
def doorbellWake (q : Nat) (s : State) : State := if queueActive s q then wakeBy 1 s else s

/-- The TAIL half. The packets that it covers are those that packet commands have placed or will place in the ring (DEDUCED, unsafe,
log 31); the front end takes them (`kick`). -/
def writeTail (fn q : Nat) (t : W32) (s : State) : State :=
  let s := doorbellWake q s
  if queueActive s q && queueMine s fn q && tailOk (queueOf s q) t then kick (updQueue q (fun x => { x with tail := t }) s)
  else doorbellBad fn s

/-- Records that waited for room are written while there is room (R405), and their interrupts sent. -/
def flushRecs (q : Nat) : List WaitRec → State → State
  | [], s => s
  | r :: rs, s =>
    if (queueOf s q).written - (queueOf s q).chead == BitVec.ofNat 32 (2 ^ (queueOf s q).csize) then s
    else flushRecs q rs (sendIrq q r.irq (writeRec q r.dws (updQueue q (fun x => { x with waitRecs := rs }) s)))
def flushRec (q : Nat) (s : State) : State := settleRoot (queueOf s q).fn (flushRecs q (queueOf s q).waitRecs s)

/-- The CHEAD half. -/
def writeChead (fn q : Nat) (h : W32) (s : State) : State :=
  let s := doorbellWake q s
  if queueDrains s q && queueMine s fn q && cheadOk (queueOf s q) h then
    kick (flushRec q (updQueue q (fun x => { x with chead := h }) s))
  else doorbellBad fn s

/-- TAIL. -/
def execTail (fn : Fin 9) (q : Fin 256) (v : W32) (s : State) : Res := if barOn s fn then fin (writeTail fn q v s) else done s
/-- CHEAD. -/
def execChead (fn : Fin 9) (q : Fin 256) (v : W32) (s : State) : Res := if barOn s fn then fin (writeChead fn q v s) else done s

/-! ### BAR2 (R387-R389) -/

/-- BAR2_READ: a wake event in NAP to SLEEP (code 2), after which the access completes. -/
def execBar2Read (fn : Fin 9) (off : W64) (len : Nat) (s : State) : Res :=
  if barOn s fn && decide (0 < len) && bar2In s fn (off.toNat + len - 1) then fin (bar2Read fn off.toNat len (wakeBy 2 s)) else done s
/-- BAR2_WRITE. -/
def execBar2Write (fn : Fin 9) (off : W64) (data : List (Byte × Bool)) (s : State) : Res :=
  if barOn s fn && !data.isEmpty && bar2In s fn (off.toNat + data.length - 1) then fin (bar2Write fn off.toNat data (wakeBy 2 s)) else done s

/-! ### Windows of BAR0 -/

/-- Bytes of a function's BAR0 (Table 11.1). -/
def bar0Bytes (fn : Nat) : Nat := if fn = 0 then 0x1000000 else 0x100000

/-- Offsets of a VF's BAR0 (Table 11.2). -/
def vfWindow (off : Nat) : Bool :=
  decide (off < 0x10800) || (decide (0x20000 ≤ off) && decide (off < 0x22000)) || (decide (0x31000 ≤ off) && decide (off < 0x3100C)) ||
  (decide (0x40000 ≤ off) && decide (off < 0x50000)) || (decide (0x81000 ≤ off) && decide (off < 0x81040))

/-- The power domain of the block that an offset of the PF's BAR0 names (Table 18.1), none where a block is always reachable. -/
def blockPd (off : Nat) : Option Nat :=
  match off / 0x10000 with
  | 0x03 => some 2
  | 0x04 => some 2
  | 0x08 => if off < 0x81000 then some 2 else none
  | 0x18 => some 57
  | 0x20 => some 49
  | 0x40 => some 1
  | 0x48 => some 63
  | 0x50 => some 63
  | 0x58 => some 2
  | 0x60 => some 57
  | k => if 0x10 ≤ k ∧ k ≤ 0x17 then some 62 else none

/-- Is the block's domain off (R587)? -/
def blockOff (s : State) (off : Nat) : Bool := match blockPd off with | some k => pdOf s k != .on | none => false

/-- May the access be performed: R386 and the function's window. -/
def accessOk (fn off width : Nat) : Bool := off % width == 0 && decide (off + width ≤ bar0Bytes fn) && (fn == 0 || vfWindow off)

/-- An access to a block whose domain is off counts and wakes (R586 code 2, R587). -/
def offAccess (s : State) : State := wakeBy 2 (updPwr (fun x => { x with offacc := satInc x.offacc }) s)

/-! ### Reads -/

/-- ICN target registers of target `t`: a read of CLAIM claims (R416). -/
def icnRead (t o : Nat) (s : State) : W32 × State :=
  match o with
  | 0x0 => (icnTgtWord s t, s)
  | 0x4 => let s := claim t s; (BitVec.ofNat 32 s.readData.toNat, s)
  | _ => (0, s)

/-- The 32-bit word at an offset of a function's BAR0. -/
def regRead (fn off : Nat) (s : State) : W32 × State :=
  let o := off % 0x10000
  match off / 0x10000 with
  | 0x00 => (BitVec.ofNat 32 (leAt (capTable s fn) off 4), s)
  | 0x02 => (if o < 0x1000 then msixWord (funcOf s fn) o else if o < 0x1008 then pbaWord (funcOf s fn) (o - 0x1000) else 0, s)
  | 0x03 =>
    if o < 0x400 then (readIcnSrc (o / 4) s, s)
    else if 0x1000 ≤ o ∧ o < 0x1090 then icnRead (if fn = 0 then (o - 0x1000) / 0x10 else fn) (o % 0x10) s
    else (0, s)
  | 0x04 => (BitVec.ofNat 32 (leVal ((List.range 4).map fun i => viewByte s fn (o + i))), s)
  | 0x08 => (if o < 0x1000 then bootWord s o else hifWord s fn (o - 0x1000), s)
  | 0x18 => (if o < 0x4000 then camWord s (o / 0x1000) (o % 0x1000) else 0, s)
  | 0x20 => (if o < 0x8000 then cmxWord s o else if o < 0xA000 then dpoWord s ((o - 0x8000) / 0x1000) (o % 0x1000) else 0, s)
  | 0x30 => (if o < 0x1000 then pwrWord s o else wispWord s (o - 0x1000), s)
  | 0x38 => (avsWord s o, s)
  | 0x40 => (sfiWord s o, s)
  | 0x48 => (eccWord s o, s)
  | 0x50 => (domWord s o, s)
  | 0x58 => (stWord s o, s)
  | 0x60 => (xlWord s o, s)
  | k => if 0x10 ≤ k ∧ k ≤ 0x17 then pteRead32 (off - 0x100000) s else (0, s)

/-- Two words at successive offsets in one access, the lower first: of the PTE both are read in the same timing cycle and nothing is
latched (R79); a field of the state page has the value of one epoch (R350). -/
def regReadWide (fn off : Nat) (s : State) : W64 × State :=
  let k := off / 0x10000
  let rd (o : Nat) (s : State) : W32 × State := if 0x10 ≤ k ∧ k ≤ 0x17 then pteRead (o - 0x100000) s else regRead fn o s
  let (lo, s) := rd off s
  let (hi, s) := rd (off + 4) s
  (BitVec.ofNat 64 (lo.toNat + 2 ^ 32 * hi.toNat), s)

/-- The size of an access that R386 lets through. -/
def sizeOk (len : Nat) : Bool := len == 4 || len == 8

/-- HOSTACC_READ: a BAR0 read; its data is the read data (DESIGN CHOICE, safe, log 9). One that is not an aligned 4-byte or 8-byte
access reads zero (R386). -/
def hostReadReg (fn off len : Nat) (s : State) : State :=
  if !(sizeOk len && accessOk fn off len) then { s with readData := 0 }
  else if blockOff s off then offAccess { s with readData := 0 }
  else if len = 8 then
    let (v, s) := regReadWide fn off s
    { s with readData := v }
  else
    let (v, s) := regRead fn off s
    { s with readData := BitVec.ofNat 64 v.toNat }
def execHostaccRead (fn : Fin 9) (a : RegAcc) (s : State) : Res := if barOn s fn then fin (hostReadReg fn a.off.toNat a.len s) else done s

/-! ### Writes -/

/-- A write-1-to-clear write. -/
def w1c (x v : W32) : W32 := x &&& ~~~v

/-- One word of an MSI-X entry. -/
def msixSet (o : Nat) (v : W32) (e : MsixEntry) : MsixEntry :=
  match o with
  | 0x0 => { e with addr := setHalf e.addr false v }
  | 0x4 => { e with addr := setHalf e.addr true v }
  | 0x8 => { e with data := v }
  | _ => { e with ctrl := v &&& 1 }

/-- A write to the MSI-X table; an entry unmasked while its bit is pending sends its message (R407). -/
def writeMsix (fn o : Nat) (v : W32) (s : State) : State :=
  let i := o / 16
  match (funcOf s fn).msix[i]? with
  | none => s
  | some e =>
    let e := msixSet (o % 16) v e
    let send := e.pend && !(bit e.ctrl 0) && !(funcOf s fn).msixMask && (funcOf s fn).msixEn
    let s := updFunc fn (fun f => { f with msix := f.msix.set i { e with pend := e.pend && !send } }) s
    if send then msiSend fn i s else s

/-- A write to the ICN registers of target `t`. -/
def icnWrite (t o : Nat) (v : W32) (s : State) : State :=
  match o with
  | 0x0 => updHi (fun h => { h with icn := { h.icn with tgts := tabUpd h.icn.tgts t fun x => { x with cfg := v &&& 0x7FF } } }) s
  | 0x8 => complete t v s
  | _ => s

/-- ROOTQ_BASE, ROOTQ_CBASE and ROOTQ_CFG are ignored while EN = 1 (R394). -/
def rootqReg (fn : Nat) (f : Func → Func) (s : State) : State := if (funcOf s fn).rootqOn then s else updFunc fn f s

/-- A base whose bits [11:0] are reserved. -/
def base12 (x : W64) : W64 := setFld x 11 0 0
/-- BAR2_MAP without its reserved bits. -/
def bar2Mask (x : W64) : W64 := x &&& 0x803F00FFFFFFFFFF

/-- HIF registers, by offset from 0x08_1000. -/
def hifWrite (fn o : Nat) (v : W32) (s : State) : State :=
  let f := funcOf s fn
  match o with
  | 0x08 => rootqReg fn (fun f => { f with rootqBase := base12 (setHalf f.rootqBase false v) }) s
  | 0x0C => rootqReg fn (fun f => { f with rootqBase := base12 (setHalf f.rootqBase true v) }) s
  | 0x10 => rootqReg fn (fun f => { f with rootqCbase := base12 (setHalf f.rootqCbase false v) }) s
  | 0x14 => rootqReg fn (fun f => { f with rootqCbase := base12 (setHalf f.rootqCbase true v) }) s
  | 0x18 => rootqReg fn (fun f => { f with rootqCfg := v &&& 0x3F1F1F }) s
  | 0x1C => writeRootq fn v s
  | 0x20 => writeMirror fn (setHalf f.mirror false v) s
  | 0x24 => writeMirror fn (setHalf f.mirror true v) s
  | 0x28 => updFunc fn (fun f => { f with bar2Map := bar2Mask (setHalf f.bar2Map false v) }) s
  | 0x2C => updFunc fn (fun f => { f with bar2Map := bar2Mask (setHalf f.bar2Map true v) }) s
  | 0x30 => updFunc fn (fun f => { f with alarm := w1c f.alarm v }) s
  | _ => s

/-- Boot mailbox: a load is described and started while STAGE = 2. -/
def bootWrite (o : Nat) (v : W32) (s : State) : State :=
  if s.boot.stage != 2 then s else
  match o with
  | 0x08 => updBoot (fun b => { b with img := setFld (setHalf b.img false v) 5 0 0 }) s
  | 0x0C => updBoot (fun b => { b with img := setHalf b.img true v }) s
  | 0x10 => updBoot (fun b => { b with size := v }) s
  | 0x14 => writeBootCtrl v s
  | _ => s

def dpoWrite (d o : Nat) (v : W32) (s : State) : State :=
  if 0x50 ≤ o ∧ o < 0x60 then
    updDpo d (fun x => { x with data := setFld x.data (8 * (o - 0x50) + 31) (8 * (o - 0x50)) v.toNat }) s
  else match o with
    | 0x00 => writeDpoCtrl d v s
    | 0x04 => writeTiming d (fun x => { x with h := v }) s
    | 0x08 => writeTiming d (fun x => { x with hs := v }) s
    | 0x0C => writeTiming d (fun x => { x with v := v }) s
    | 0x10 => writeTiming d (fun x => { x with vs := v }) s
    | 0x14 => writeTiming d (fun x => { x with pclk := v &&& 0xFFFFF }) s
    | 0x18 => writeTiming d (fun x => { x with drate := v &&& 0x1FFF }) s
    | 0x1C => updDpo d (fun x => { x with bg := v &&& 0x3FFFFFFF }) s
    | 0x20 => if bit v 0 then startTrain d s else s
    | 0x40 => updDpo d (fun x => { x with msgCtl := v }) s
    | 0x44 => if bit v 0 then msgGo d s else s
    | _ => s

/-- Wisp registers, by offset from 0x30_1000: while EN = 1 only EN and FIRED take writes (R598). -/
def wispWrite (o : Nat) (v : W32) (s : State) : State :=
  if o = 0 then writeWispCtrl v s
  else if o = 0xD0 then updWisp (fun w => { w with fired := w.fired &&& ~~~(BitVec.ofNat 4 (fld v 19 16)) }) s
  else if wispOn s.wisp then s
  else if 0x10 ≤ o ∧ o < 0x30 then updWisp (fun w => { w with pins := tabUpd w.pins ((o - 0x10) / 4) fun _ => v &&& 0xFF03 }) s
  else if 0x80 ≤ o ∧ o < 0xC0 then
    let hi := decide (o % 8 = 4)
    let v := if hi then v else v &&& 0xFFFFFF7F
    updWisp (fun w => { w with filts := tabUpd w.filts ((o - 0x80) / 8) fun f => { f with cfg := setHalf f.cfg hi v } }) s
  else if 0xC0 ≤ o ∧ o < 0xD0 then updWisp (fun w => { w with rules := tabUpd w.rules ((o - 0xC0) / 4) fun _ => v &&& 0x80FF01FF }) s
  else s

def avsWrite (o : Nat) (v : W32) (s : State) : State :=
  match o with
  | 0x00 => updAvs (fun a => { a with cfg := v &&& 0xFFFF }) s
  | 0x10 => updAvs (fun a => { a with alarm := a.alarm &&& ~~~(BitVec.ofNat 2 (fld v 1 0)) }) s
  | _ => s

/-- Memory-control registers, by offset from 0x48_0000. -/
def eccWrite (o : Nat) (v : W32) (s : State) : State :=
  match o with
  | 0x00 => ctlUpd (fun c => { c with ctrl := v &&& 3 }) s
  | 0x04 => ctlUpd (fun c => { c with alarm := w1c c.alarm v }) s
  | 0x2000 => ctlUpd (fun c => { c with testAddr := setHalf c.testAddr false v }) s
  | 0x2004 => ctlUpd (fun c => { c with testAddr := setHalf c.testAddr true (v &&& 0xF) }) s
  | 0x2008 => ctlUpd (fun c => { c with testData := setHalf c.testData false v }) s
  | 0x200C => ctlUpd (fun c => { c with testData := setHalf c.testData true v }) s
  | 0x2010 => writeTestCtrl v s
  | _ => s

def linkWrite (k o : Nat) (v : W32) (s : State) : State :=
  match o with
  | 0x00 => writeHlCtrl k v s
  | 0x08 => updLink k (fun l => { l with alarm := w1c l.alarm v }) s
  | _ => s

/-- Translation registers, by offset from 0x60_0000. -/
def xlWrite (o : Nat) (v : W32) (s : State) : State :=
  let x := s.mm.xl
  match o with
  | 0x00 => writeFqbase (setHalf x.fqbase false v) s
  | 0x04 => writeFqbase (setHalf x.fqbase true v) s
  | 0x08 => writeFqcfg v s
  | 0x14 => writeFqhead v s
  | 0x18 => xlUpd (fun x => { x with headErr := x.headErr && !(bit v 2) }) s
  | 0x8000 => writeRefq (setHalf x.refq false v) s
  | 0x8004 => writeRefq (setHalf x.refq true v) s
  | _ => s

/-- A 32-bit write at an offset of a function's BAR0. -/
def regWrite (fn off : Nat) (v : W32) (s : State) : State :=
  let o := off % 0x10000
  match off / 0x10000 with
  | 0x01 => if 0x800 ≤ o then s else if o % 8 = 0 then writeTail fn (o / 8) v s else writeChead fn (o / 8) v s
  | 0x02 => if o < 0x1000 then writeMsix fn o v s else s
  | 0x03 =>
    if o < 0x400 then writeIcnSrc (o / 4) v s
    else if 0x1000 ≤ o ∧ o < 0x1090 then icnWrite (if fn = 0 then (o - 0x1000) / 0x10 else fn) (o % 0x10) v s
    else s
  | 0x08 => if o < 0x1000 then bootWrite o v s else hifWrite fn (o - 0x1000) v s
  | 0x18 => if o < 0x4000 && o % 0x1000 == 0x14 then updCam (o / 0x1000) (fun c => { c with alarm := w1c c.alarm v }) s else s
  | 0x20 => if 0x8000 ≤ o ∧ o < 0xA000 then dpoWrite ((o - 0x8000) / 0x1000) (o % 0x1000) v s else s
  | 0x30 => if 0x1000 ≤ o then wispWrite (o - 0x1000) v s else s
  | 0x38 => avsWrite o v s
  | 0x48 => eccWrite o v s
  | 0x50 => if 0x1000 ≤ o ∧ o < 0x1400 then linkWrite ((o - 0x1000) / 0x100) (o % 0x100) v s else s
  | 0x60 => xlWrite o v s
  | k => if 0x10 ≤ k ∧ k ≤ 0x17 then pteWrite (off - 0x100000) v s else s

/-- A 64-bit write: one register takes it whole, two take their halves, the lower first (DEDUCED, unsafe, log 53). -/
def regWriteWide (fn off : Nat) (v : W64) (s : State) : State :=
  let lo := half64 v false
  let hi := half64 v true
  if off = 0x600000 then writeFqbase (base12 v ||| (v &&& 1)) s
  else if off = 0x608000 then writeRefq v s
  else if off = 0x81020 then writeMirror fn v s
  else if 0x101000 ≤ off ∧ off < 0x101800 ∧ off % 0x100 = 0x28 then writeZload ((off - 0x101000) / 0x100) v s
  else if 0x103000 ≤ off ∧ off < 0x103100 ∧ (off % 0x40 = 8 ∨ off % 0x40 = 0x10) then writeTgWide ((off - 0x103000) / 0x40) (off % 0x40 = 8) v s
  else if 0x101000 ≤ off ∧ off < 0x101800 ∧ off % 0x100 = 0x38 then writeHostpos ((off - 0x101000) / 0x100) .whole v s
  else regWrite fn (off + 4) hi (regWrite fn off lo s)

/-- REGISTER_WRITE: a BAR0 write; one that is not an aligned 4-byte or 8-byte access is ignored (R386). -/
def hostWriteReg (fn off len : Nat) (v : W64) (s : State) : State :=
  if !(sizeOk len && accessOk fn off len) then s
  else if blockOff s off then offAccess s
  else if len = 8 then regWriteWide fn off v s
  else regWrite fn off (half64 v false) s
def execRegisterWrite (fn : Fin 9) (off : W32) (len : Nat) (v : W64) (s : State) : Res :=
  if barOn s fn then fin (hostWriteReg fn off.toNat len v s) else done s

end Sys2Proof.Machine
end

