-- ==== Sys2Proof/Machine/Control.lean ====
section
/-! DEFINITION. Control.lean: control flow, barriers and fences (04 R160-R163, R165; 03 R101-R105, R110, R125-R128). -/
namespace Sys2Proof.Machine

/-- The byte offset that a signed word offset names. -/
def target (g : Group) (ofs : Int) : Nat := ((g.pc : Int) + 8 * ofs).toNat

/-- BRA: jump if the guard is true in any (ALL = 0) or every (ALL = 1) active lane. -/
def braTaken (w : W64) (g : Group) : Bool :=
  let t := execMask g w
  if bit w 59 then t == g.active else t != 0

def execBra (g : Nat) (w ext : W64) (s : State) : Res :=
  issue 0 (· == 1) g w ext s fun x _ s => putG (if braTaken w x then { x with pc := target x (iOfs w) } else next w x) s

/-- SPLIT on the guard (R161). -/
def splitGroup (w ext : W64) (g : Group) : Group :=
  let t := execMask g w
  let e := g.active &&& ~~~t
  let top : DivEntry := { mask := g.active, elseMask := e, elsePc := target g (iOfs w), joinPc := target g (sextNat 24 (fld ext 23 0)), phase := t == 0 }
  if t != 0 then { g with stack := top :: g.stack, active := t, pc := g.pc + 16 }
  else { g with stack := top :: g.stack, active := e, pc := top.elsePc }

def execSplit (g : Nat) (w ext : W64) (s : State) : Res :=
  issue 0 (· == 2) g w ext s fun x _ s => if 32 ≤ x.stack.length then trapG g 0x0115 s else putG (splitGroup w ext x) s

/-- JOIN (R161, R162). -/
def execJoin (g : Nat) (w ext : W64) (s : State) : Res :=
  issue 0 (· == 3) g w ext s fun x b s =>
    match x.stack with
    | [] => trapG g 0x0117 s
    | t :: r => if x.pc ≠ t.joinPc then trapG g 0x0117 s else settleGroup (joinTop t r x) b s

/-- A tile-shading lane's outputs are what its registers hold at its EXIT (08 R297). -/
def exitOuts (m : W32) (x : Group) (b : Block) : Block :=
  { b with tile := b.tile.map fun j => { j with outs := j.outs ++ (lanesOf m).map fun l => (fin' 31 l, (List.range 16).map (rdV x · l), (rdP x 7 l).1) } }
def keepOuts (b : Block) (s : State) : State :=
  if b.tile.isNone then s else updEx (fun e => { e with blocks := updWhere (·.id == b.id) (fun y => { y with tile := b.tile }) e.blocks }) s

/-- EXIT of the guarded lanes (R102, R162). -/
def execExit (g : Nat) (w ext : W64) (s : State) : Res :=
  issue 0 (· == 4) g w ext s fun x b s =>
    let m := execMask x w
    let b := exitOuts m x b
    settleGroup { next w x with active := x.active &&& ~~~m, exited := x.exited ||| m } b (keepOuts b s)

/-- CALL: DST takes the offset of the next instruction. -/
def execCall (g : Nat) (w ext : W64) (s : State) : Res :=
  issue 0 (· == 5) g w ext s fun x _ s =>
    putG { wrU (iDst w) (BitVec.ofNat 32 (x.pc + iLen w), false) x with pc := target x (iOfs w) } s

/-- Is an offset that of a base word of the block's TEXT? -/
def isBaseWord (s : State) (b : Block) (o : Nat) : Bool :=
  match findCode s b.code with
  | some c => (scanText 0 c.text).any (·.1 == o)
  | none => false

/-- RET (R163). -/
def execRet (g : Nat) (w ext : W64) (s : State) : Res :=
  issue 0 (· == 6) g w ext s fun x b s =>
    let a := rdU x (iSa w)
    if a.2 then trapG g 0x0502 s
    else if !(isBaseWord s b a.1.toNat) then trapG g 0x0117 s
    else putG { x with pc := a.1.toNat } s

/-- Some lane is inactive but not exited (R104). -/
def divergent (g : Group) : Bool := g.active != ~~~g.exited

/-- BAR (R103-R105): a release and an acquire at BLOCK scope, so that remote loads end first (R125, R128). -/
def execBar (g : Nat) (w ext : W64) (s : State) : Res :=
  issue 10 (· == 0) g w ext s fun x b s =>
    if divergent x then trapG g 0x0112 s else if mustAwait s g false then await x false s else releaseBars b (putG { next w x with wait := .blockBar } s)

/-- CBAR (R110); outside a cluster it acts as BAR. -/
def execCbar (g : Nat) (w ext : W64) (s : State) : Res :=
  issue 10 (· == 1) g w ext s fun x b s =>
    if divergent x then trapG g 0x0112 s
    else if mustAwait s g false then await x false s
    else releaseBars b (putG { next w x with wait := if b.cluster.isSome then .clusterBar else .blockBar } s)

/-- FENCE (R125, R126, R569): accesses are performed in program order here (DESIGN CHOICE, unsafe, log 14); it waits for the group's remote
loads, and a release at SYSTEM scope for the acknowledgement of its remote stores; an acquire at DEVICE or SYSTEM scope drops the
core's far-read cache. -/
def fenceStores (w : W64) : Bool := bit w 60 && fld w 63 61 == 4
def fenceDrops (w : W64) (b : Block) : Bool := bit w 59 && scopeDrops b (fld w 63 61 - 1)
def execFence (g : Nat) (w ext : W64) (s : State) : Res :=
  issue 10 (· == 2) g w ext s fun x b s =>
    if mustAwait s g (fenceStores w) then await x (fenceStores w) s
    else putG (next w x) (if fenceDrops w b then dropFar x.core s else s)

end Sys2Proof.Machine
end

