-- ==== Sys2Proof/Machine/KnotIns.lean ====
section
/-! DEFINITION. KnotIns.lean: KSIG, KWAIT and HIT as instructions of a group, a wait's timeout, and a signal that reaches its
port (04 R168-R172; 10 R354-R359; 15 R525-R527). -/
namespace Sys2Proof.Machine

/-- Value or threshold of a knot instruction: a uniform pair or an immediate (R138). -/
def knotArg (w ext : W64) (g : Group) : Nat × Bool := if iKb w = 2 then (fld ext 31 0, false) else rdUPair g (iSb w)

/-- A knot named by a group's pair: poison, alignment, translation and target (R122, R170, R354, R358). -/
def knotOf (g : Nat) (w : W64) (x : Group) (b : Block) (k : Access) (wait : Bool) (s : State) (f : Place → State → State) : State :=
  let a := rdUPair x (iSa w)
  if a.2 then trapG g 0x0501 s
  else if a.1 % 8 ≠ 0 then trapG g 0x0114 s
  else match xl b.ctx a.1 k (rqG x) s with
    | (.fail st, s) => trapG g st s
    | (.stall, s) => stallG x s
    | (.zero, s) => if wait then f zeroKnot s else putG (next w x) s
    | (.ok pl, s) =>
      match pl with
      | .lpddr _ => trapG g St.knotAddress s
      | .host _ => if wait then trapG g St.knotAddress s else f pl s
      | .remote d _ o =>
        if routeDown s pl then
          let k := routeLink s d.val o.toNat
          failOwner x St.linkDown (if wait then linkTimeout k s else linkDrop k s)
        else f pl s
      | .peat _ => f pl s

/-- Does a signal to this place release at SYSTEM scope (R129)? -/
def farKnot (pl : Place) : Bool := match pl with | .host _ => true | .remote _ _ _ => true | _ => false

/-- KSIG (R169): its 8 bytes pass the regulators (13 R472), and the core keeps no far-read line with the knot (R123). -/
def execKsig (g : Nat) (w ext : W64) (s : State) : Res :=
  issue 12 (· == 0) g w ext s fun x b s =>
    let v := knotArg w ext x
    if v.2 then trapG g St.poisonKnot s
    else knotOf g w x b .store false s fun pl s =>
      if mustAwait s g (farKnot pl) then await x (farKnot pl) s
      else match bulk b.part (bulkNeeds (some x.core) pl 8) s with
        | none => s
        | some s => signal (ctxFn s b.ctx) pl (BitVec.ofNat 64 v.1) (farLose x.core pl (putG (next w x) s))

/-- KWAIT begins (R170, R358): it completes at once, or registers; not while a remote load of the group is outstanding (15 R528). -/
def execKwait (g : Nat) (w ext : W64) (s : State) : Res :=
  issue 12 (· == 1) g w ext s fun x b s =>
    let v := knotArg w ext x
    if v.2 then trapG g St.poisonKnot s
    else if mustAwait s g false then await x false s
    else knotOf g w x b .load true s fun pl s =>
      let us := if iExt w then fld ext 63 32 else 0
      let dl := if us = 0 then none else some (BitVec.ofNat 64 (s.now + 1000 * us))
      let y := { x with wait := .knot pl (BitVec.ofNat 64 v.1) (BitVec.ofNat 8 (iDst w)) (BitVec.ofNat 8 (iSc w)) (bit w 59) dl (x.pc + iLen w) }
      let (word, p, s) := knotRead (ctxFn s b.ctx) pl s
      schedPart b.part (parkLate b.id (evalWait word p y s))

/-- KWAIT_TIMEOUT: the wait's time has come; a parked wait waits on (R526). -/
def execKwaitTimeout (g : Nat) (t : W64) (s : State) : Res :=
  let s := s.at t
  match findGrp s g with
  | none => fin s
  | some x =>
    let due := match x.wait with | .knot _ _ _ _ _ dl _ => isLate s dl | _ => false
    fin (if due && !(isParked s x.blk) then rereadWait x s else s)

/-- The record of a lane (R171). -/
def hitOfLane (w : W64) (g : Group) (l : Nat) : HitRec :=
  let r (i : Nat) : W32 := (rdV g (iSa w + i) l).1
  { target := BitVec.ofNat 64 ((r 0).toNat + 2 ^ 32 * (r 1).toNat), dw2 := r 2, width := r 3, tag := r 4 }

/-- Does a record name an output outside the braid's OUTMASK (R222)? -/
def outDenied (s : State) (br : Nat) (r : HitRec) : Bool := !((braidOf s br).outmask.toNat.testBit (hitOutput r))

/-- HIT (R171, R172, R222). -/
def execHit (g : Nat) (w ext : W64) (s : State) : Res :=
  issue 13 (· == 0) g w ext s fun x b s =>
    match b.owner with
    | .strand br _ =>
      let m := execMask x w
      if anyLane m fun l => (List.range 5).any fun i => (rdV x (iSa w + i) l).2 then trapG g 0x0502 s
      else if anyLane m fun l => outDenied s br (hitOfLane w x l) then trapG g 0x011B s
      else (lanesOf m).foldl (fun s l => hitPort (hitOfLane w x l) (.strand br) s) (putG (next w x) s)
    | _ => trapG g 0x0117 s

/-- KNOT_SIGNAL_AT_PORT (R355, R356). -/
def execKnotSignalAtPort (k : Place) (v : W64) (s : State) : Res := fin (signal 0 k v s)

end Sys2Proof.Machine
end

