-- ==== Sys2Proof/Machine/Matrix.lean ====
section
/-! DEFINITION. Matrix.lean: MLD, MMA and MST as instructions of a group (04 R153-R159; 05 R186-R197). -/
namespace Sys2Proof.Machine

/-- Base and stride of a fragment access and whether one is poisoned. -/
def fragBase (w : W64) (g : Group) : Nat × Nat × Bool :=
  let b := if bit w 63 then rdUPair g (iSa w) else ((rdU g (iSa w)).1.toNat, (rdU g (iSa w)).2)
  let st := rdU g (iSb w)
  (b.1, st.1.toNat, b.2 || st.2)

/-- Address of byte range `i`, `j` of an access: rows one stride apart, modulo the space's width. -/
def fragAddr (w : W64) (base stride i o : Nat) : Nat := (base + i * stride + o) % (if bit w 63 then 2 ^ 64 else 2 ^ 32)

/-- Memory pieces of a fragment load: (fragment row, byte offset in it, address, bytes). -/
def mldPieces (w : W64) (base stride : Nat) : List (Nat × Nat × Nat × Nat) :=
  let sz := fmtBits (fld w 59 56) / 8
  if bit w 61 then (List.range 16).flatMap fun r => (List.range (64 / sz)).map fun k => (r, k * sz, fragAddr w base stride k (r * sz), sz)
  else (List.range 16).flatMap fun r => (List.range 16).map fun k => (r, 4 * k, fragAddr w base stride r (4 * k), 4)

/-- Translate the pieces of a device access, all before any is performed. -/
def fragPlaces (c : Nat) (k : Access) (rq : Rq) (l : List (Nat × Nat × Nat × Nat)) (s : State) : LaneAns (List LanePl) × State :=
  let one (p : Nat × Nat × Nat × Nat) : Nat × Nat × Bool := (0, p.2.2.1, false)
  match devLanes c 1 k rq (l.map one) s with
  | (.ok ls, s) => (.ok (ls.map (·.2)), s)
  | (.trap st, s) => (.trap st, s)
  | (.stall, s) => (.stall, s)

/-- LM places of the pieces. -/
def fragLm (s : State) (b : Block) : List (Nat × Nat × Nat × Nat) → Except Status (List (Nat × Nat))
  | [] => .ok []
  | (_, _, a, n) :: r =>
    match lmAddr s b a n with
    | .error st => .error st
    | .ok p => match fragLm s b r with
      | .error st => .error st
      | .ok l => .ok (p :: l)

/-- Read pieces at their places; bytes of class ZERO pages are zero. -/
def readFrag (fn : Nat) : List ((Nat × Nat × Nat × Nat) × LanePl) → State → List (Nat × Nat × PB) × State
  | [], s => ([], s)
  | ((r, o, _, n), pl) :: t, s =>
    let (bs, s) := match pl with | some p => readPlace fn p n s | none => (clean (List.replicate n 0), s)
    let (x, s) := readFrag fn t s
    ((r, o, bs) :: x, s)

/-- The 64 bytes of each fragment row. -/
def fragRows (l : List (Nat × Nat × PB)) : List PB :=
  (List.range 16).map fun r => (l.filter (·.1 == r)).foldl (fun row p => (row.take p.2.1 ++ p.2.2 ++ row.drop (p.2.1 + p.2.2.length))) (clean (List.replicate 64 0))

/-- Rows into registers (R154): lane l holds half l / 16 of row l mod 16. -/
def putFrag (r : Nat) (rows : List PB) (g : Group) : Group :=
  wrVs r 8 allLanes (fun j l => loadReg 2 false (((rows.getD (l % 16) []).drop (32 * (l / 16) + 4 * j)).take 4) 0) g

/-- MLD (R156). A misaligned base or stride traps before a byte out of bounds does (R91; DESIGN CHOICE, unsafe, log 109). -/
def execMld (g : Nat) (w ext : W64) (s : State) : Res :=
  issue 8 (· == 0) g w ext s fun x b s =>
    let (base, stride, p) := fragBase w x
    let al := if bit w 63 then 8 else 4
    let ps := mldPieces w base stride
    if p then trapG g 0x0501 s
    else if base % al ≠ 0 ∨ stride % al ≠ 0 then trapG g 0x0114 s
    else if bit w 63 then
      match fragPlaces b.ctx .load (rqG x) ps s with
      | (.trap st, s) => trapG g st s
      | (.stall, s) => stallG x s
      | (.ok pls, s) =>
        if lanesDown s (pls.map fun q => (0, q)) then
          downAccess x false (pls.map fun q => (0, q)) (putG (next w (wrVs (iDst w) 8 allLanes (fun _ _ => (0, true)) x)) s)
        else match bulk b.part ((ps.zip pls).foldl (fun a q => addNeeds a (laneNeeds x.core q.1.2.2.2 [(0, q.2)])) [0, 0, 0]) s with
          | none => s
          | some s =>
            let (l, s) := readFrag (ctxFn s b.ctx) (ps.zip pls) s
            putG (next w (putFrag (iDst w) (fragRows l) x)) s
    else match fragLm s b ps with
      | .error st => trapG g st s
      | .ok at' =>
        let l := (ps.zip at').map fun q => (q.1.1, q.1.2.1, lmRead q.2.1 q.2.2 q.1.2.2.2 s)
        putG (next w (putFrag (iDst w) (fragRows l) x)) s

/-- MMA (R157, R158, R186-R191); saturated elements are counted for the owner (R197). -/
def execMma (g : Nat) (w ext : W64) (s : State) : Res :=
  issue 8 (· == 1) g w ext s fun x b s =>
    let (y, n) := mmaGroup w ext x
    putG (next w y) (addSat b.owner n s)

/-- Accumulator element (r, c) of MST. -/
def accAt (w : W64) (g : Group) (r c : Nat) : PV := if iDst w = 0xFF then (0, false) else rdV g (iDst w + c % 8) (r + 16 * (c / 8))

/-- Scale, clip and AINT of an MST, with whether scale or clip is poisoned. -/
def mstScale (w : W64) (g : Group) : PV := if iKc w = 1 then rdU g (iSc w) else (one32, false)
def mstClip (w ext : W64) (g : Group) : Option ((Nat × Nat) × Bool) :=
  if iExt w && fld ext 15 8 != 0xFF then
    let a := rdU g (fld ext 15 8)
    let b := rdU g (fld ext 15 8 + 1)
    some ((a.1.toNat, b.1.toNat), a.2 || b.2)
  else none

/-- The 16 column biases, read from LM (Table 4.11). -/
def mstBias (s : State) (b : Block) (w ext : W64) (g : Group) : Except Status (List PV) :=
  if iExt w && fld ext 7 0 != 0xFF then
    let a := rdU g (fld ext 7 0)
    if a.2 then .error 0x0501
    else match fragLm s b ((List.range 16).map fun c => (0, 0, (a.1.toNat + 4 * c) % 2 ^ 32, 4)) with
      | .error st => .error st
      | .ok l => .ok (l.map fun p => loadReg 2 false (lmRead p.1 p.2 4 s) 0)
  else .ok (List.replicate 16 (0, false))

/-- Converted elements of a row: code, mark, counted (R196). -/
def mstRow (w ext : W64) (g : Group) (bias : List PV) (r : Nat) : List (Nat × Bool × Bool) :=
  let sc := mstScale w g
  let clip := mstClip w ext g
  (List.range 16).map fun c =>
    let a := accAt w g r c
    let bi := bias.getD c (0, false)
    let e := mstElem (fld w 59 56) (bit w 60) (fld w 62 61) (iExt w && bit ext 16) a.1.toNat sc.1.toNat bi.1.toNat (clip.map (·.1))
    (e.1, a.2 || sc.2 || bi.2 || ((clip.map (·.2)).getD false), e.2)

/-- Bytes of a row; two 4-bit elements share a byte, the even one low. -/
def mstBytes (bits : Nat) (row : List (Nat × Bool × Bool)) : PB :=
  if bits = 4 then (List.range 8).map fun i =>
    let a := row.getD (2 * i) (0, false, false)
    let b := row.getD (2 * i + 1) (0, false, false)
    (BitVec.ofNat 8 (a.1 % 16 + 16 * (b.1 % 16)), a.2.1 || b.2.1)
  else row.flatMap fun e => (leBytes (bits / 8) e.1).map fun b => (b, e.2.1)

/-- Pieces of a row of bytes: words, or what is left of one. -/
def mstPieces (w : W64) (base stride n : Nat) : List (Nat × Nat × Nat × Nat) :=
  (List.range 16).flatMap fun r => (List.range (n / 4)).map fun k => (r, 4 * k, fragAddr w base stride r (4 * k), 4)

/-- The pieces of MST stored in device memory, and in local memory. -/
def mstStore (x : Group) (b : Block) (data : Nat × Nat × Nat × Nat → PB) (l : List ((Nat × Nat × Nat × Nat) × LanePl)) (s : State) : State :=
  let (l, s) := anyOrder (fun q => localPl q.2) l s
  l.foldl (fun s q => storeLanes x b (fun _ => data q.1) (fun _ => q.1.2.2.1) [(0, q.2)] s) s
def mstStoreLm (data : Nat × Nat × Nat × Nat → PB) (l : List ((Nat × Nat × Nat × Nat) × Nat × Nat)) (s : State) : State :=
  let (l, s) := anyOrder (fun q => some q.2) l s
  l.foldl (fun s q => lmStore q.2.1 q.2.2 (data q.1) s) s

/-- MST (R159, R196, R197). A misaligned base or stride traps before a byte out of bounds does (R91; DESIGN CHOICE, unsafe, log 109). -/
def execMst (g : Nat) (w ext : W64) (s : State) : Res :=
  issue 8 (· == 2) g w ext s fun x b s =>
    let (base, stride, p) := fragBase w x
    let al := if bit w 63 then 8 else 4
    let bits := fmtBits (fld w 59 56)
    let ps := mstPieces w base stride (2 * bits)
    if p then trapG g 0x0501 s
    else if base % al ≠ 0 ∨ stride % al ≠ 0 then trapG g 0x0114 s
    else match mstBias s b w ext x with
      | .error st => trapG g st s
      | .ok bias =>
        let rows := (List.range 16).map (mstRow w ext x bias)
        let bytes := rows.map (mstBytes bits)
        let data (q : Nat × Nat × Nat × Nat) : PB := ((bytes.getD q.1 []).drop q.2.1).take 4
        let n := sumN (rows.map fun r => (r.filter (·.2.2)).length)
        if bit w 63 then
          match fragPlaces b.ctx .store (rqG x) ps s with
          | (.trap st, s) => trapG g st s
          | (.stall, s) => stallG x s
          | (.ok pls, s) =>
            if (ps.zip pls).any fun q => isHost q.2 && anyPoison (data q.1) then trapG g St.poisonHost s
            else if lanesDown s (pls.map fun q => (0, q)) then downAccess x true (pls.map fun q => (0, q)) (putG (next w x) (addSat b.owner n s))
            else match bulk b.part (laneNeeds x.core 4 (pls.map fun q => (0, q))) s with
              | none => s
              | some s =>
                putG (next w x) (addSat b.owner n (mstStore x b data (ps.zip pls) s))
        else match fragLm s b ps with
          | .error st => trapG g st s
          | .ok at' =>
            putG (next w x) (addSat b.owner n (mstStoreLm data (ps.zip at') s))

end Sys2Proof.Machine
end

