-- ==== Sys2Proof/Machine/Sampler.lean ====
section
/-! DEFINITION. Sampler.lean: TEX, TLD and TRES as instructions of a group (04 R151, R152; 08 R302-R308). -/
namespace Sys2Proof.Machine

/-- Coordinates of a lane: u, v and the third, 0 where there is none. -/
def texArg (w : W64) (g : Group) (l : Nat) : W32 × W32 × W32 × Bool :=
  let c (i : Nat) : PV := if iSa w = 0xFF then (0, false) else rdV g (iSa w + i) l
  let z : PV := if bit w 59 then c 2 else (0, false)
  ((c 0).1, (c 1).1, z.1, (c 0).2 || (c 1).2 || z.2)

/-- Coordinates of a lane's quad for the derivatives: an exited lane supplies a free value (R152, DESIGN CHOICE, safe, log 2). -/
def quadArgs (w : W64) (g : Group) (ctr l : Nat) : List W32 :=
  (List.range 4).flatMap fun k =>
    let i := l / 4 * 4 + k
    if bit g.exited i then [BitVec.ofNat 32 (Config.freeValue (ctr + 2 * i)).toNat, BitVec.ofNat 32 (Config.freeValue (ctr + 2 * i + 1)).toNat]
    else let a := texArg w g i; [a.1, a.2.1]

/-- Is a coordinate of a lane of the quad poisoned, so that an implicit level of detail is (R122)? -/
def quadPoison (w : W64) (g : Group) (l : Nat) : Bool :=
  (List.range 4).any fun k => let i := l / 4 * 4 + k; !(bit g.exited i) && (texArg w g i).2.2.2

/-- Level of detail of a lane (R151): implicit, explicit, or implicit with a bias; the poison of its own operand, which faults, and of the
other lanes that it comes from, which propagates. -/
def texLodOf (w ext : W64) (g : Group) (d : List Byte) (ctr l : Nat) : W32 × Bool × Bool :=
  let sc := rdSrc g (iKc w) (iSc w) 0 l ext
  let q := quadArgs w g ctr l ++ [BitVec.ofNat 32 (txW d), BitVec.ofNat 32 (txH d)]
  match fld w 61 60 with
  | 0 => (Config.texLod q 0, false, quadPoison w g l)
  | 1 => (sc.1, sc.2, false)
  | _ => (Config.texLod q sc.1, sc.2, quadPoison w g l)

/-- Run a sampler operation over lanes. -/
def texLanes {α : Type} (f : Nat → State → LaneAns α × State) : List Nat → State → LaneAns (List (Nat × α)) × State
  | [], s => (.ok [], s)
  | l :: r, s =>
    match f l s with
    | (.ok a, s) => (match texLanes f r s with | (.ok x, s) => (.ok ((l, a) :: x), s) | (y, s) => (y, s))
    | (.trap st, s) => (.trap st, s)
    | (.stall, s) => (.stall, s)

/-- Bytes a texture access is charged for: four texels a lane at the place of the texture's first texel (DESIGN CHOICE, unsafe, log 36). -/
def texNeeds (g : Group) (b : Block) (d : List Byte) (n : Nat) (s : State) : List Nat :=
  match (translate b.ctx (txBase d) .load s).1 with
  | .ok _ pl => bulkNeeds (some g.core.val) pl (4 * n * formatBytes (txFmt d))
  | _ => [0, 0, 0]

/-- The shared course of a sampler instruction: descriptor, coordinates, regulators, lanes, result. A poisoned coordinate, level or bias in an
active lane is a poisoned address (R122; DESIGN CHOICE, unsafe, log 109). -/
def texRun {α : Type} (g : Nat) (w ext : W64) (x : Group) (b : Block) (s : State) (f : List Byte → Nat → Nat → State → LaneAns α × State)
    (put : List (Nat × α) → Group → Group) : State :=
  let m := execMask x w
  match b.texs[iSb w]? with
  | none => trapG g 0x0117 s
  | some d =>
    let ctr := s.freeCtr
    if anyLane m (fun l => (texArg w x l).2.2.2 || (texLodOf w ext x d ctr l).2.1) then trapG g 0x0501 s
    else match bulk b.part (texNeeds x b d (popcount m) s) s with
      | none => s
      | some s =>
        match texLanes (f d ctr) (lanesOf m) { s with freeCtr := ctr + 64 } with
        | (.trap st, s) => trapG g st s
        | (.stall, s) => stallG x s
        | (.ok l, s) => putG (next w (put l x)) s

/-- Colours of the lanes to registers: four FP32, or two FP16 pairs (R304). -/
def putTexels (w : W64) (l : List (Nat × (List W32 × Bool))) (g : Group) : Group :=
  let val (k : Nat) : List W32 × Bool := (pairGet l k).getD ([], false)
  let m := maskOf 32 (l.map (·.1))
  if iType w = 0 then wrVs (iDst w) 4 m (fun i k => (chan (val k).1 i, (val k).2)) g
  else wrVs (iDst w) 2 m (fun i k => (pairOf (toHalf (chan (val k).1 (2 * i))) (toHalf (chan (val k).1 (2 * i + 1))), (val k).2)) g

/-- An answer with one more mark of poison. -/
def marked {α : Type} (p : Bool) (r : LaneAns (α × Bool) × State) : LaneAns (α × Bool) × State :=
  match r with | (.ok (a, q), s) => (.ok (a, q || p), s) | x => x

/-- TEX. -/
def execTex (g : Nat) (w ext : W64) (s : State) : Res :=
  issue 7 (· == 0) g w ext s fun x b s =>
    texRun g w ext x b s (fun d ctr l s =>
      let a := texArg w x l
      let lod := texLodOf w ext x d ctr l
      marked lod.2.2 (texSample b.ctx (rqG x) d a.1 a.2.1 a.2.2.1 lod.1 s)) (putTexels w)

/-- TLD: integer coordinates; the level is SC, or 0 with an implicit level of detail (DESIGN CHOICE, unsafe, log 99). -/
def execTld (g : Nat) (w ext : W64) (s : State) : Res :=
  issue 7 (· == 1) g w ext s fun x b s =>
    texRun g w ext x b s (fun d _ l s =>
      let a := texArg w x l
      let lv := if fld w 61 60 = 0 then 0 else (rdSrc x (iKc w) (iSc w) 0 l ext).1
      texFetch b.ctx (rqG x) d a.1 a.2.1 a.2.2.1 lv s) (putTexels w)

/-- TRES (R307). -/
def execTres (g : Nat) (w ext : W64) (s : State) : Res :=
  issue 7 (· == 2) g w ext s fun x b s =>
    texRun g w ext x b s (fun d ctr l s =>
      let a := texArg w x l
      let lod := texLodOf w ext x d ctr l
      marked lod.2.2 (texResident b.ctx (rqG x) d a.1 a.2.1 a.2.2.1 lod.1 s))
      (fun l x => wrP (iDst w) (maskOf 32 (l.map (·.1))) (fun k => (pairGet l k).getD (false, false)) x)

end Sys2Proof.Machine
end

