-- ==== Sys2Proof/Machine/TestPort.lean ====
section
/-! DEFINITION. TestPort.lean: the IEEE 1149.1 port's instructions (20 R638; 21 R649, Table 21.9). -/
namespace Sys2Proof.Machine

/-- Instructions that could change a ball: EXTEST, CLAMP, HIGHZ, EXTEST_PULSE, EXTEST_TRAIN (R649). -/
def testDrives (code : Byte) : Bool := ([0x00, 0x03, 0x04, 0x05, 0x06] : List Byte).contains code
/-- Codes that Table 21.9 assigns, but for BYPASS. -/
def testAssigned (code : Byte) : Bool := testDrives code || code == 0x01 || code == 0x02 || code == 0x10

/-- The instruction that the loaded code acts as: BYPASS for a code that is not assigned, and while the SFI is ARMED or ARMING
for the instructions of R649. -/
def testActs (s : State) (code : Byte) : Byte := if !(testAssigned code) || (testDrives code && sfiArmed s) then 0xFF else code

/-- The self-test record of 1,120 bits: ST_RESULT, ST_LBIST, ST_MEMFAIL entries 0-15, lowest bit first. -/
def selfTestRecord (x : SelfTest) : List Byte :=
  leBytes 4 (stResult x).toNat ++ leBytes 8 x.failPd.toNat ++ (List.range 16).flatMap fun i => leBytes 8 (stMemFail x i)

/-- What an instruction's data register holds, as far as Table 21.9 states it: IDCODE of stepping B0, the self-test record; the
boundary cells are not stated (DESIGN CHOICE, unsafe, log 54). -/
def testData (s : State) (code : Byte) : List Byte :=
  match testActs s code with
  | 0x01 => leBytes 4 0x10B32A97
  | 0x10 => selfTestRecord s.st
  | _ => []

/-- A test instruction is loaded. -/
def loadTest (code : Byte) (s : State) : State := { s with jtagIr := code, tdo := testData s code }

/-- EXTEST. -/
def execExtest (s : State) : Res := done (loadTest 0x00 s)
/-- IDCODE. -/
def execIdcode (s : State) : Res := done (loadTest 0x01 s)
/-- SAMPLE/PRELOAD. -/
def execSamplePreload (s : State) : Res := done (loadTest 0x02 s)
/-- CLAMP. -/
def execClamp (s : State) : Res := done (loadTest 0x03 s)
/-- HIGHZ. -/
def execHighz (s : State) : Res := done (loadTest 0x04 s)
/-- EXTEST_PULSE. -/
def execExtestPulse (s : State) : Res := done (loadTest 0x05 s)
/-- EXTEST_TRAIN. -/
def execExtestTrain (s : State) : Res := done (loadTest 0x06 s)
/-- STREC. -/
def execStrec (s : State) : Res := done (loadTest 0x10 s)
/-- BYPASS, and every code that Table 21.9 does not assign. -/
def execBypass (code : Byte) (s : State) : Res := done (loadTest (if testAssigned code then 0xFF else code) s)

end Sys2Proof.Machine
end

