-- ==== Sys2Proof/Machine/Vector.lean ====
section
/-! DEFINITION. Vector.lean: arithmetic, moves, conversions, special registers and group operations as instructions of a
group (04 R144-R147, R164; 03 R97-R100, R119-R122). -/
namespace Sys2Proof.Machine

def execValu (g : Nat) (w ext : W64) (s : State) : Res :=
  issue 1 (fun _ => true) g w ext s fun x _ s => putG (next w (valuGroup w ext (execMask x w) x)) s

def execVsfu (g : Nat) (w ext : W64) (s : State) : Res :=
  issue 2 (fun _ => true) g w ext s fun x _ s => putG (next w (vsfuGroup w ext (execMask x w) x)) s

/-- The lane whose predicate a UALU SEL reads: no rule names it, so where the active lanes' predicates differ it is a free one (DESIGN
CHOICE, safe, log 30). -/
def selLane (w : W64) (g : Group) (s : State) : Nat × State :=
  let ls := lanesOf g.active
  let l := ls.headD 0
  if iOp w != 0x0F || ls.all fun k => rdP g (iSc w) k == rdP g (iSc w) l then (l, s)
  else
    let (v, s) := s.draw
    (ls.getD (v.toNat % ls.length) l, s)

def execUalu (g : Nat) (w ext : W64) (s : State) : Res :=
  issue 3 (fun _ => true) g w ext s fun x _ s =>
    let (l, s) := selLane w x s
    putG (next w (ualuGroup w ext l x)) s

def execMov (g : Nat) (w ext : W64) (s : State) : Res :=
  issue 4 (· == 0) g w ext s fun x _ s => putG (next w (movGroup w ext (execMask x w) x)) s

def execUmov (g : Nat) (w ext : W64) (s : State) : Res :=
  issue 4 (· == 1) g w ext s fun x _ s => putG (next w (umovGroup w ext x)) s

def execCvt (g : Nat) (w ext : W64) (s : State) : Res :=
  issue 4 (· == 2) g w ext s fun x _ s => putG (next w (cvtGroup w ext (execMask x w) x)) s

/-- A special register in lane `l` (Table 4.6); `cyc` is the core's cycle count. -/
def special (g : Group) (b : Block) (cyc : W64) (n l : Nat) : W32 :=
  match n with
  | 0 => BitVec.ofNat 32 l
  | 1 => BitVec.ofNat 32 g.idx
  | 2 => BitVec.ofNat 32 b.ngroup
  | 3 => BitVec.ofNat 32 b.index
  | 4 => BitVec.ofNat 32 b.nblock
  | 5 => BitVec.ofNat 32 b.rank
  | 6 => BitVec.ofNat 32 g.core.val
  | 7 => BitVec.ofNat 32 g.quarter.val
  | 8 => half64 g.age false
  | 9 => g.active
  | 10 => half64 cyc false
  | _ => half64 cyc true

/-- The core's cycle count has advanced by an unstated number of cycles since it was last seen (DESIGN CHOICE, unsafe, log 6). -/
def seeCycles (core n : Nat) (s : State) : W64 × State :=
  if n < 10 then (0, s)
  else
    let (d, s) := s.draw
    let c := (coreOf s core).cycles + d
    (c, updCore core (fun k => { k with cycles := c }) s)

def execS2r (g : Nat) (w ext : W64) (s : State) : Res :=
  issue 4 (· == 3) g w ext s fun x b s =>
    let (c, s) := seeCycles x.core.val (iSa w) s
    putG (next w (wrV (iDst w) (execMask x w) (fun l => (special x b c (iSa w) l, false)) x)) s

/-- The lane that S2U reads for: it matters to LANE alone, which has no value in a uniform register and reads a free one (DESIGN CHOICE,
safe, log 30). -/
def uniformLane (n : Nat) (s : State) : Nat × State := if n = 0 then (let (v, s) := s.draw; (v.toNat, s)) else (0, s)

/-- S2U. -/
def execS2u (g : Nat) (w ext : W64) (s : State) : Res :=
  issue 4 (· == 4) g w ext s fun x b s =>
    let (l, s) := uniformLane (iSa w) s
    let (c, s) := seeCycles x.core.val (iSa w) s
    putG (next w (wrU (iDst w) (special x b c (iSa w) l, false) x)) s

def isShfl (op : Nat) : Bool := decide (op ≤ 3)
def isVote (op : Nat) : Bool := decide (8 ≤ op) && decide (op ≤ 0xB)
def isRed (op : Nat) : Bool := decide (0x10 ≤ op)

def execShfl (g : Nat) (w ext : W64) (s : State) : Res :=
  issue 9 isShfl g w ext s fun x _ s =>
    if shflFault w ext (execMask x w) x then trapG g 0x0501 s else putG (next w (shflGroup w ext (execMask x w) x)) s

def execVote (g : Nat) (w ext : W64) (s : State) : Res :=
  issue 9 isVote g w ext s fun x _ s => putG (next w (voteGroup w (execMask x w) x)) s

def execMatchLanes (g : Nat) (w ext : W64) (s : State) : Res :=
  issue 9 (· == 0xC) g w ext s fun x _ s => putG (next w (matchGroup w (execMask x w) x)) s

def execRed (g : Nat) (w ext : W64) (s : State) : Res :=
  issue 9 isRed g w ext s fun x _ s => putG (next w (redGroup w (execMask x w) x)) s

end Sys2Proof.Machine
end

