-- ==== Sys2Proof/Machine/Dispatch.lean ====
section
/-! DEFINITION. Dispatch.lean: the meaning of each command, one arm per constructor of Instr. -/
namespace Sys2Proof.Machine
open Sys2Proof

/-- A command's effect on everything but the queue of pending commands. -/
def exec (i : Instr) (s : State) : Host.Outcome State Fault Refusal :=
  match i with
  | .nop q p => Sys2Proof.Machine.execNop q p s
  | .query q p => Sys2Proof.Machine.execQuery q p s
  | .memMap q p => Sys2Proof.Machine.execMemMap q p s
  | .memUnmap q p => Sys2Proof.Machine.execMemUnmap q p s
  | .xlInvalidate q p => Sys2Proof.Machine.execXlInvalidate q p s
  | .faultResume q p => Sys2Proof.Machine.execFaultResume q p s
  | .copy q p => Sys2Proof.Machine.execCopy q p s
  | .launch q p => Sys2Proof.Machine.execLaunch q p s
  | .braidDefine q p => Sys2Proof.Machine.execBraidDefine q p s
  | .braidStart q p => Sys2Proof.Machine.execBraidStart q p s
  | .braidStopDrain q p => Sys2Proof.Machine.execBraidStopDrain q p s
  | .braidStopHalt q p => Sys2Proof.Machine.execBraidStopHalt q p s
  | .braidStopRelease q p => Sys2Proof.Machine.execBraidStopRelease q p s
  | .modelLoad q p => Sys2Proof.Machine.execModelLoad q p s
  | .modelEvict q p => Sys2Proof.Machine.execModelEvict q p s
  | .mixedStep q p => Sys2Proof.Machine.execMixedStep q p s
  | .modelSelect q p => Sys2Proof.Machine.execModelSelect q p s
  | .graphRecord q p => Sys2Proof.Machine.execGraphRecord q p s
  | .graphLaunch q p => Sys2Proof.Machine.execGraphLaunch q p s
  | .graphSplice q p => Sys2Proof.Machine.execGraphSplice q p s
  | .graphFree q p => Sys2Proof.Machine.execGraphFree q p s
  | .knotSignal q p => Sys2Proof.Machine.execKnotSignal q p s
  | .knotWait q p => Sys2Proof.Machine.execKnotWait q p s
  | .knotReset q p => Sys2Proof.Machine.execKnotReset q p s
  | .renderPassBegin q p => Sys2Proof.Machine.execRenderPassBegin q p s
  | .renderPassEnd q p => Sys2Proof.Machine.execRenderPassEnd q p s
  | .draw q p => Sys2Proof.Machine.execDraw q p s
  | .directDraw q p => Sys2Proof.Machine.execDirectDraw q p s
  | .layerSet q p => Sys2Proof.Machine.execLayerSet q p s
  | .camConfig q p => Sys2Proof.Machine.execCamConfig q p s
  | .axisConfig q p => Sys2Proof.Machine.execAxisConfig q p s
  | .hitPost q p => Sys2Proof.Machine.execHitPost q p s
  | .outConfig q p => Sys2Proof.Machine.execOutConfig q p s
  | .dzRunCompress q p => Sys2Proof.Machine.execDzRunCompress q p s
  | .dzRunDecompress q p => Sys2Proof.Machine.execDzRunDecompress q p s
  | .powerHint q p => Sys2Proof.Machine.execPowerHint q p s
  | .snapshot q p => Sys2Proof.Machine.execSnapshot q p s
  | .logConfig q p => Sys2Proof.Machine.execLogConfig q p s
  | .traceConfig q p => Sys2Proof.Machine.execTraceConfig q p s
  | .alarmRead q p => Sys2Proof.Machine.execAlarmRead q p s
  | .contextCreate q p => Sys2Proof.Machine.execContextCreate q p s
  | .contextDestroy q p => Sys2Proof.Machine.execContextDestroy q p s
  | .queueCreate q p => Sys2Proof.Machine.execQueueCreate q p s
  | .queueDestroy q p => Sys2Proof.Machine.execQueueDestroy q p s
  | .partitionConfig q p => Sys2Proof.Machine.execPartitionConfig q p s
  | .domainConfigJoin q p => Sys2Proof.Machine.execDomainConfigJoin q p s
  | .domainConfigLeave q p => Sys2Proof.Machine.execDomainConfigLeave q p s
  | .domainBarrier q p => Sys2Proof.Machine.execDomainBarrier q p s
  | .domainBroadcast q p => Sys2Proof.Machine.execDomainBroadcast q p s
  | .domainReset q p => Sys2Proof.Machine.execDomainReset q p s
  | .testSlice q p => Sys2Proof.Machine.execTestSlice q p s
  | .shutdown q p => Sys2Proof.Machine.execShutdown q p s
  | .attest q p => Sys2Proof.Machine.execAttest q p s
  | .framingFailure q p hdrPoison anyPoison => Sys2Proof.Machine.execFramingFailure q p hdrPoison anyPoison s
  | .commandTimeout c t => Sys2Proof.Machine.execCommandTimeout c t s
  | .timeoutDrainAllowance c t => Sys2Proof.Machine.execTimeoutDrainAllowance c t s
  | .commandCompletion q => Sys2Proof.Machine.execCommandCompletion q s
  | .epochPublication => Sys2Proof.Machine.execEpochPublication s
  | .blockDispatch part => Sys2Proof.Machine.execBlockDispatch part s
  | .coreClaim c t => Sys2Proof.Machine.execCoreClaim c t s
  | .turnEnd part t => Sys2Proof.Machine.execTurnEnd part t s
  | .bra g w ext => Sys2Proof.Machine.execBra g w ext s
  | .split g w ext => Sys2Proof.Machine.execSplit g w ext s
  | .join g w ext => Sys2Proof.Machine.execJoin g w ext s
  | .exit g w ext => Sys2Proof.Machine.execExit g w ext s
  | .call g w ext => Sys2Proof.Machine.execCall g w ext s
  | .ret g w ext => Sys2Proof.Machine.execRet g w ext s
  | .valu g w ext => Sys2Proof.Machine.execValu g w ext s
  | .vsfu g w ext => Sys2Proof.Machine.execVsfu g w ext s
  | .ualu g w ext => Sys2Proof.Machine.execUalu g w ext s
  | .mov g w ext => Sys2Proof.Machine.execMov g w ext s
  | .umov g w ext => Sys2Proof.Machine.execUmov g w ext s
  | .cvt g w ext => Sys2Proof.Machine.execCvt g w ext s
  | .s2r g w ext => Sys2Proof.Machine.execS2r g w ext s
  | .s2u g w ext => Sys2Proof.Machine.execS2u g w ext s
  | .ldl g w ext => Sys2Proof.Machine.execLdl g w ext s
  | .stl g w ext => Sys2Proof.Machine.execStl g w ext s
  | .ldg g w ext => Sys2Proof.Machine.execLdg g w ext s
  | .stg g w ext => Sys2Proof.Machine.execStg g w ext s
  | .ldc g w ext => Sys2Proof.Machine.execLdc g w ext s
  | .tex g w ext => Sys2Proof.Machine.execTex g w ext s
  | .tld g w ext => Sys2Proof.Machine.execTld g w ext s
  | .tres g w ext => Sys2Proof.Machine.execTres g w ext s
  | .mld g w ext => Sys2Proof.Machine.execMld g w ext s
  | .mma g w ext => Sys2Proof.Machine.execMma g w ext s
  | .mst g w ext => Sys2Proof.Machine.execMst g w ext s
  | .shfl g w ext => Sys2Proof.Machine.execShfl g w ext s
  | .vote g w ext => Sys2Proof.Machine.execVote g w ext s
  | .matchLanes g w ext => Sys2Proof.Machine.execMatchLanes g w ext s
  | .red g w ext => Sys2Proof.Machine.execRed g w ext s
  | .bar g w ext => Sys2Proof.Machine.execBar g w ext s
  | .cbar g w ext => Sys2Proof.Machine.execCbar g w ext s
  | .fence g w ext => Sys2Proof.Machine.execFence g w ext s
  | .atom g w ext => Sys2Proof.Machine.execAtom g w ext s
  | .ksig g w ext => Sys2Proof.Machine.execKsig g w ext s
  | .kwait g w ext => Sys2Proof.Machine.execKwait g w ext s
  | .kwaitTimeout g t => Sys2Proof.Machine.execKwaitTimeout g t s
  | .hit g w ext => Sys2Proof.Machine.execHit g w ext s
  | .knotSignalAtPort k v => Sys2Proof.Machine.execKnotSignalAtPort k v s
  | .qualifiedEdge ax a b t => Sys2Proof.Machine.execQualifiedEdge ax a b t s
  | .zEdge ax t => Sys2Proof.Machine.execZEdge ax t s
  | .axStallExpiry a t => Sys2Proof.Machine.execAxStallExpiry a t s
  | .mainsPulse ax e => Sys2Proof.Machine.execMainsPulse ax e s
  | .mainsPulseMissing a t => Sys2Proof.Machine.execMainsPulseMissing a t s
  | .hitPortArrival r src t => Sys2Proof.Machine.execHitPortArrival r src t s
  | .hitFire o bad t => Sys2Proof.Machine.execHitFire o bad t s
  | .pulseEnd o t => Sys2Proof.Machine.execPulseEnd o t s
  | .tgFire g t => Sys2Proof.Machine.execTgFire g t s
  | .tgCountReached g => Sys2Proof.Machine.execTgCountReached g s
  | .axCfgWrite a v => Sys2Proof.Machine.execAxCfgWrite a v s
  | .outCfgWrite o v => Sys2Proof.Machine.execOutCfgWrite o v s
  | .tgCfgWrite g v => Sys2Proof.Machine.execTgCfgWrite g v s
  | .axHostposWrite a half v => Sys2Proof.Machine.execAxHostposWrite a half v s
  | .flush o => Sys2Proof.Machine.execFlush o s
  | .clear o => Sys2Proof.Machine.execClear o s
  | .lowerWordRead off => Sys2Proof.Machine.execLowerWordRead off s
  | .readbackMismatch o t => Sys2Proof.Machine.execReadbackMismatch o t s
  | .safeBall chB t => Sys2Proof.Machine.execSafeBall chB t s
  | .lockstepSfi t => Sys2Proof.Machine.execLockstepSfi t s
  | .lockstepPte o t => Sys2Proof.Machine.execLockstepPte o t s
  | .clock c t => Sys2Proof.Machine.execClock c t s
  | .voltage rail t => Sys2Proof.Machine.execVoltage rail t s
  | .deadlineMiss b n t => Sys2Proof.Machine.execDeadlineMiss b n t s
  | .softwareAssistedDiagnostics ramFault hitFault t => Sys2Proof.Machine.execSoftwareAssistedDiagnostics ramFault hitFault t s
  | .sfiArmNFallingEdge okA okB t => Sys2Proof.Machine.execSfiArmNFallingEdge okA okB t s
  | .disarm t => Sys2Proof.Machine.execDisarm t s
  | .longPacket p vc dt payload hdrOk crcOk t => Sys2Proof.Machine.execLongPacket p vc dt payload hdrOk crcOk t s
  | .frameStart p vc t => Sys2Proof.Machine.execFrameStart p vc t s
  | .frameEnd p vc t => Sys2Proof.Machine.execFrameEnd p vc t s
  | .latchPoint d t => Sys2Proof.Machine.execLatchPoint d t s
  | .dpoCtrlWrite d v => Sys2Proof.Machine.execDpoCtrlWrite d v s
  | .train d => Sys2Proof.Machine.execTrain d s
  | .trainComplete d ok => Sys2Proof.Machine.execTrainComplete d ok s
  | .dpoMsggo d => Sys2Proof.Machine.execDpoMsggo d s
  | .messageDone d o data => Sys2Proof.Machine.execMessageDone d o data s
  | .hpd d level => Sys2Proof.Machine.execHpd d level s
  | .drainResultReached b => Sys2Proof.Machine.execDrainResultReached b s
  | .drainBlocksEnded b => Sys2Proof.Machine.execDrainBlocksEnded b s
  | .braidDrainTimeout b t => Sys2Proof.Machine.execBraidDrainTimeout b t s
  | .selectionRecordRetired b => Sys2Proof.Machine.execSelectionRecordRetired b s
  | .usesZero m => Sys2Proof.Machine.execUsesZero m s
  | .mixedStepStageEnd c => Sys2Proof.Machine.execMixedStepStageEnd c s
  | .tail fn q v => Sys2Proof.Machine.execTail fn q v s
  | .chead fn q v => Sys2Proof.Machine.execChead fn q v s
  | .bar2Read fn off len => Sys2Proof.Machine.execBar2Read fn off len s
  | .bar2Write fn off data => Sys2Proof.Machine.execBar2Write fn off data s
  | .rootqCtrl fn v => Sys2Proof.Machine.execRootqCtrl fn v s
  | .mirrorBaseWrite fn v => Sys2Proof.Machine.execMirrorBaseWrite fn v s
  | .icnClaim tgt => Sys2Proof.Machine.execIcnClaim tgt s
  | .icnComplete tgt v => Sys2Proof.Machine.execIcnComplete tgt v s
  | .pfReset k => Sys2Proof.Machine.execPfReset k s
  | .vfFunctionLevelReset v => Sys2Proof.Machine.execVfFunctionLevelReset v s
  | .pcieLinkDown => Sys2Proof.Machine.execPcieLinkDown s
  | .registerWrite fn off len v => Sys2Proof.Machine.execRegisterWrite fn off len v s
  | .walkComplete eng ctx va kind => Sys2Proof.Machine.execWalkComplete eng ctx va kind s
  | .xlFqbaseWrite v => Sys2Proof.Machine.execXlFqbaseWrite v s
  | .xlFqhead v => Sys2Proof.Machine.execXlFqhead v s
  | .invalidationComplete j => Sys2Proof.Machine.execInvalidationComplete j s
  | .xlRefq v => Sys2Proof.Machine.execXlRefq v s
  | .scanComplete => Sys2Proof.Machine.execScanComplete s
  | .releaseWalk => Sys2Proof.Machine.execReleaseWalk s
  | .scrub unit => Sys2Proof.Machine.execScrub unit s
  | .scrubLapEnd lpddr t => Sys2Proof.Machine.execScrubLapEnd lpddr t s
  | .eccTestWrite => Sys2Proof.Machine.execEccTestWrite s
  | .eccTestRead => Sys2Proof.Machine.execEccTestRead s
  | .flitReceipt k crcOk f t => Sys2Proof.Machine.execFlitReceipt k crcOk f t s
  | .replayLimit k t => Sys2Proof.Machine.execReplayLimit k t s
  | .linkFlitTimeout k t => Sys2Proof.Machine.execLinkFlitTimeout k t s
  | .linkUp k width peer => Sys2Proof.Machine.execLinkUp k width peer s
  | .hlCtrl k v => Sys2Proof.Machine.execHlCtrl k v s
  | .retrain k => Sys2Proof.Machine.execRetrain k s
  | .remoteAccessArrival k part lp frame off op => Sys2Proof.Machine.execRemoteAccessArrival k part lp frame off op s
  | .remoteResponse j data poison refused => Sys2Proof.Machine.execRemoteResponse j data poison refused s
  | .remoteStoreAck j refused => Sys2Proof.Machine.execRemoteStoreAck j refused s
  | .remoteLoadTimeout j t => Sys2Proof.Machine.execRemoteLoadTimeout j t s
  | .remoteStoreTimeout j t => Sys2Proof.Machine.execRemoteStoreTimeout j t s
  | .barrierRelease b => Sys2Proof.Machine.execBarrierRelease b s
  | .powerStateEntry st => Sys2Proof.Machine.execPowerStateEntry st s
  | .powerStateExit codes okA okB t => Sys2Proof.Machine.execPowerStateExit codes okA okB t s
  | .hwakeN t => Sys2Proof.Machine.execHwakeN t s
  | .wakeTimer t => Sys2Proof.Machine.execWakeTimer t s
  | .debouncedLevel j level t => Sys2Proof.Machine.execDebouncedLevel j level t s
  | .wcamFrame pixels t => Sys2Proof.Machine.execWcamFrame pixels t s
  | .ruleEvaluation t => Sys2Proof.Machine.execRuleEvaluation t s
  | .wispCtrlWrite v => Sys2Proof.Machine.execWispCtrlWrite v s
  | .avsAcknowledge rail mv => Sys2Proof.Machine.execAvsAcknowledge rail mv s
  | .settleExpiry rail => Sys2Proof.Machine.execSettleExpiry rail s
  | .avsNoackTimeout rail => Sys2Proof.Machine.execAvsNoackTimeout rail s
  | .tjSample readings t => Sys2Proof.Machine.execTjSample readings t s
  | .thermalStep t => Sys2Proof.Machine.execThermalStep t s
  | .powerOnReset => Sys2Proof.Machine.execPowerOnReset s
  | .rstN lowNs => Sys2Proof.Machine.execRstN lowNs s
  | .vddSafeLoss => Sys2Proof.Machine.execVddSafeLoss s
  | .bootCtrl v => Sys2Proof.Machine.execBootCtrl v s
  | .shutdownTestComplete failPd fails t => Sys2Proof.Machine.execShutdownTestComplete failPd fails t s
  | .sliceComplete core ok t => Sys2Proof.Machine.execSliceComplete core ok t s
  | .snapshotTrigger t => Sys2Proof.Machine.execSnapshotTrigger t s
  | .holdEnd t => Sys2Proof.Machine.execHoldEnd t s
  | .extest => Sys2Proof.Machine.execExtest s
  | .idcode => Sys2Proof.Machine.execIdcode s
  | .samplePreload => Sys2Proof.Machine.execSamplePreload s
  | .clamp => Sys2Proof.Machine.execClamp s
  | .highz => Sys2Proof.Machine.execHighz s
  | .extestPulse => Sys2Proof.Machine.execExtestPulse s
  | .extestTrain => Sys2Proof.Machine.execExtestTrain s
  | .strec => Sys2Proof.Machine.execStrec s
  | .bypass code => Sys2Proof.Machine.execBypass code s
  | .pcieLinkUp rate width => Sys2Proof.Machine.execPcieLinkUp rate width s
  | .configurationSpaceWrite fn f v => Sys2Proof.Machine.execConfigurationSpaceWrite fn f v s
  | .camRxLoss p t => Sys2Proof.Machine.execCamRxLoss p t s
  | .clockInRange c => Sys2Proof.Machine.execClockInRange c s
  | .voltageInRange rail => Sys2Proof.Machine.execVoltageInRange rail s
  | .ballLevelRestored b => Sys2Proof.Machine.execBallLevelRestored b s
  | .railMonitorsInRange pass failPd fails => Sys2Proof.Machine.execRailMonitorsInRange pass failPd fails s
  | .vddioMachCollapse => Sys2Proof.Machine.execVddioMachCollapse s
  | .bankGroupZeroed k => Sys2Proof.Machine.execBankGroupZeroed k s
  | .domainResetArrival => Sys2Proof.Machine.execDomainResetArrival s
  | .domainSnapshotStart ctx buf knots nknot seq t => Sys2Proof.Machine.execDomainSnapshotStart ctx buf knots nknot seq t s
  | .barrierWithdrawalAnswer b removed => Sys2Proof.Machine.execBarrierWithdrawalAnswer b removed s
  | .hostaccRead fn a => Sys2Proof.Machine.execHostaccRead fn a s

end Sys2Proof.Machine
end

