-- ==== Sys2Proof/WellFormed.lean ====
section
/-! DEFINITION. WellFormed.lean: which terms of Instr are commands that the spec's encodings can spell: a packet is whole slots and
carries its row's opcode and variant, an instruction word has its row's class and operation, a register access is aligned, and
payloads have the lengths the spec gives them. `exec` answers for every term; an ill-formed one has no counterpart outside. -/
namespace Sys2Proof

/-- Why a term is no command. -/
inductive IllFormed where
  /-- A packet that is not 1 to 255 whole slots of 16 words (R397). -/
  | packetSlots
  /-- A packet whose OPCODE, or the field that selects the row, is another row's (Table 12.3). -/
  | packetRow
  /-- An instruction word whose CLASS or OP is another row's (Table 4.1). -/
  | instrRow
  /-- An extension word where EXT is 0 (R135). -/
  | extWord
  /-- A register access that is not aligned to its size (R386). -/
  | align
  /-- An access of no byte. -/
  | empty
  /-- A payload longer or shorter than the spec gives it. -/
  | payload
  deriving DecidableEq, Repr

/-- Word `i` of a packet. -/
def Pkt.word (p : Pkt) (i : Nat) : W32 := p.dws.getD i 0
def Pkt.opcode (p : Pkt) : Nat := (p.word 0).toNat % 256

/-- A packet of a row: whole slots, its opcode, its variant. -/
def pktIll (op : Nat) (variant : Bool) (p : Pkt) : Option IllFormed :=
  if p.dws.length % 16 ≠ 0 ∨ p.dws.length = 0 ∨ 16 * 255 < p.dws.length then some .packetSlots
  else if p.opcode ≠ op ∨ variant = false then some .packetRow
  else none

/-- BRAID_STOP's MODE, RENDER_PASS's END, DZ_RUN's DIR, DOMAIN_CONFIG's JOIN. -/
def stopMode (p : Pkt) : Nat := (p.word 8).toNat / 16 % 4
def passEnd (p : Pkt) : Bool := (p.word 0).toNat.testBit 17
def dzDir (p : Pkt) : Bool := (p.word 8).toNat.testBit 0
def joinBit (p : Pkt) : Bool := (p.word 8).toNat.testBit 9

/-- An instruction of a row: CLASS, the operations of the row, and no extension word without EXT. -/
def insIll (cls : Nat) (ops : Nat → Bool) (w ext : W64) : Option IllFormed :=
  if w.toNat % 16 ≠ cls ∨ ops (w.toNat / 16 % 256) = false then some .instrRow
  else if w.toNat.testBit 17 = false ∧ ext ≠ 0 then some .extWord
  else none

def illIf (b : Bool) (e : IllFormed) : Option IllFormed := if b then some e else none

/-- What is wrong with a term, none for a well-formed one. -/
def Instr.ill (i : Instr) : Option IllFormed :=
  match i with
  | .nop _ p => pktIll 0x00 true p
  | .query _ p => pktIll 0x01 true p
  | .memMap _ p => pktIll 0x10 true p
  | .memUnmap _ p => pktIll 0x11 true p
  | .xlInvalidate _ p => pktIll 0x12 true p
  | .faultResume _ p => pktIll 0x13 true p
  | .copy _ p => pktIll 0x18 true p
  | .launch _ p => pktIll 0x20 true p
  | .braidDefine _ p => pktIll 0x30 true p
  | .braidStart _ p => pktIll 0x31 true p
  | .braidStopDrain _ p => pktIll 0x32 (stopMode p == 0 || stopMode p == 3) p
  | .braidStopHalt _ p => pktIll 0x32 (stopMode p == 1) p
  | .braidStopRelease _ p => pktIll 0x32 (stopMode p == 2) p
  | .modelLoad _ p => pktIll 0x38 true p
  | .modelEvict _ p => pktIll 0x39 true p
  | .mixedStep _ p => pktIll 0x3A true p
  | .modelSelect _ p => pktIll 0x3B true p
  | .graphRecord _ p => pktIll 0x40 true p
  | .graphLaunch _ p => pktIll 0x41 true p
  | .graphSplice _ p => pktIll 0x42 true p
  | .graphFree _ p => pktIll 0x43 true p
  | .knotSignal _ p => pktIll 0x50 true p
  | .knotWait _ p => pktIll 0x51 true p
  | .knotReset _ p => pktIll 0x52 true p
  | .renderPassBegin _ p => pktIll 0x60 (!passEnd p) p
  | .renderPassEnd _ p => pktIll 0x60 (passEnd p) p
  | .draw _ p => pktIll 0x61 true p
  | .directDraw _ p => pktIll 0x62 true p
  | .layerSet _ p => pktIll 0x68 true p
  | .camConfig _ p => pktIll 0x6C true p
  | .axisConfig _ p => pktIll 0x70 true p
  | .hitPost _ p => pktIll 0x71 true p
  | .outConfig _ p => pktIll 0x72 true p
  | .dzRunCompress _ p => pktIll 0x78 (!dzDir p) p
  | .dzRunDecompress _ p => pktIll 0x78 (dzDir p) p
  | .powerHint _ p => pktIll 0x80 true p
  | .snapshot _ p => pktIll 0x90 true p
  | .logConfig _ p => pktIll 0x91 true p
  | .traceConfig _ p => pktIll 0x92 true p
  | .alarmRead _ p => pktIll 0x93 true p
  | .contextCreate _ p => pktIll 0xA0 true p
  | .contextDestroy _ p => pktIll 0xA1 true p
  | .queueCreate _ p => pktIll 0xA2 true p
  | .queueDestroy _ p => pktIll 0xA3 true p
  | .partitionConfig _ p => pktIll 0xA8 true p
  | .domainConfigJoin _ p => pktIll 0xB0 (joinBit p) p
  | .domainConfigLeave _ p => pktIll 0xB0 (!joinBit p) p
  | .domainBarrier _ p => pktIll 0xB1 true p
  | .domainBroadcast _ p => pktIll 0xB2 true p
  | .domainReset _ p => pktIll 0xB3 true p
  | .testSlice _ p => pktIll 0xC0 true p
  | .shutdown _ p => pktIll 0xF0 true p
  | .attest _ p => pktIll 0xF4 true p
  | .framingFailure _ _ _ _ => none
  | .commandTimeout _ _ => none
  | .timeoutDrainAllowance _ _ => none
  | .commandCompletion _ => none
  | .epochPublication => none
  | .blockDispatch _ => none
  | .coreClaim _ _ => none
  | .turnEnd _ _ => none
  | .bra _ w ext => insIll 0 (· == 1) w ext
  | .split _ w ext => insIll 0 (· == 2) w ext
  | .join _ w ext => insIll 0 (· == 3) w ext
  | .exit _ w ext => insIll 0 (· == 4) w ext
  | .call _ w ext => insIll 0 (· == 5) w ext
  | .ret _ w ext => insIll 0 (· == 6) w ext
  | .valu _ w ext => insIll 1 (fun _ => true) w ext
  | .vsfu _ w ext => insIll 2 (fun _ => true) w ext
  | .ualu _ w ext => insIll 3 (fun _ => true) w ext
  | .mov _ w ext => insIll 4 (· == 0) w ext
  | .umov _ w ext => insIll 4 (· == 1) w ext
  | .cvt _ w ext => insIll 4 (· == 2) w ext
  | .s2r _ w ext => insIll 4 (· == 3) w ext
  | .s2u _ w ext => insIll 4 (· == 4) w ext
  | .ldl _ w ext => insIll 5 (· == 0) w ext
  | .stl _ w ext => insIll 5 (· == 1) w ext
  | .ldg _ w ext => insIll 6 (· == 0) w ext
  | .stg _ w ext => insIll 6 (· == 1) w ext
  | .ldc _ w ext => insIll 6 (· == 2) w ext
  | .tex _ w ext => insIll 7 (· == 0) w ext
  | .tld _ w ext => insIll 7 (· == 1) w ext
  | .tres _ w ext => insIll 7 (· == 2) w ext
  | .mld _ w ext => insIll 8 (· == 0) w ext
  | .mma _ w ext => insIll 8 (· == 1) w ext
  | .mst _ w ext => insIll 8 (· == 2) w ext
  | .shfl _ w ext => insIll 9 (fun o => decide (o ≤ 3)) w ext
  | .vote _ w ext => insIll 9 (fun o => decide (8 ≤ o) && decide (o ≤ 11)) w ext
  | .matchLanes _ w ext => insIll 9 (· == 12) w ext
  | .red _ w ext => insIll 9 (fun o => decide (16 ≤ o)) w ext
  | .bar _ w ext => insIll 10 (· == 0) w ext
  | .cbar _ w ext => insIll 10 (· == 1) w ext
  | .fence _ w ext => insIll 10 (· == 2) w ext
  | .atom _ w ext => insIll 11 (fun _ => true) w ext
  | .ksig _ w ext => insIll 12 (· == 0) w ext
  | .kwait _ w ext => insIll 12 (· == 1) w ext
  | .kwaitTimeout _ _ => none
  | .hit _ w ext => insIll 13 (· == 0) w ext
  | .knotSignalAtPort _ _ => none
  | .qualifiedEdge _ _ _ _ => none
  | .zEdge _ _ => none
  | .axStallExpiry _ _ => none
  | .mainsPulse _ _ => none
  | .mainsPulseMissing _ _ => none
  | .hitPortArrival _ _ _ => none
  | .hitFire _ _ _ => none
  | .pulseEnd _ _ => none
  | .tgFire _ _ => none
  | .tgCountReached _ => none
  | .axCfgWrite _ _ => none
  | .outCfgWrite _ _ => none
  | .tgCfgWrite _ _ => none
  | .axHostposWrite _ half v => illIf (decide (half ≠ .whole) && decide (4294967296 ≤ v.toNat)) .payload
  | .flush _ => none
  | .clear _ => none
  | .lowerWordRead off => illIf (off.toNat % 4 != 0) .align
  | .readbackMismatch _ _ => none
  | .safeBall _ _ => none
  | .lockstepSfi _ => none
  | .lockstepPte _ _ => none
  | .clock _ _ => none
  | .voltage _ _ => none
  | .deadlineMiss _ _ _ => none
  | .softwareAssistedDiagnostics _ _ _ => none
  | .sfiArmNFallingEdge _ _ _ => none
  | .disarm _ => none
  | .longPacket _ _ _ payload _ _ _ => illIf (decide (65535 < payload.length)) .payload
  | .frameStart _ _ _ => none
  | .frameEnd _ _ _ => none
  | .latchPoint _ _ => none
  | .dpoCtrlWrite _ _ => none
  | .train _ => none
  | .trainComplete _ _ => none
  | .dpoMsggo _ => none
  | .messageDone _ _ data => illIf (decide (16 < data.length)) .payload
  | .hpd _ _ => none
  | .drainResultReached _ => none
  | .drainBlocksEnded _ => none
  | .braidDrainTimeout _ _ => none
  | .selectionRecordRetired _ => none
  | .usesZero _ => none
  | .mixedStepStageEnd _ => none
  | .tail _ _ _ => none
  | .chead _ _ _ => none
  | .bar2Read _ _ len => illIf (len == 0) .empty
  | .bar2Write _ _ data => illIf data.isEmpty .empty
  | .rootqCtrl _ _ => none
  | .mirrorBaseWrite _ _ => none
  | .icnClaim _ => none
  | .icnComplete _ _ => none
  | .pfReset _ => none
  | .vfFunctionLevelReset _ => none
  | .pcieLinkDown => none
  | .registerWrite _ off len _ => illIf ((len != 4 && len != 8) || off.toNat % len != 0) .align
  | .walkComplete _ _ _ _ => none
  | .xlFqbaseWrite _ => none
  | .xlFqhead _ => none
  | .invalidationComplete _ => none
  | .xlRefq _ => none
  | .scanComplete => none
  | .releaseWalk => none
  | .scrub _ => none
  | .scrubLapEnd _ _ => none
  | .eccTestWrite => none
  | .eccTestRead => none
  | .flitReceipt _ _ _ _ => none
  | .replayLimit _ _ => none
  | .linkFlitTimeout _ _ => none
  | .linkUp _ _ _ => none
  | .hlCtrl _ _ => none
  | .retrain _ => none
  | .remoteAccessArrival _ _ _ _ _ op =>
    (match op with
     | .load n => illIf (n == 0) .empty
     | .store d _ => illIf d.isEmpty .empty
     | .signal _ => none
     | .abandon => none
     | .knotReset _ => none
     | .frameCount _ => none
     | .atomic w _ _ => illIf (w.toNat % 16 != 11) .instrRow)
  | .remoteResponse _ _ _ _ => none
  | .remoteStoreAck _ _ => none
  | .remoteLoadTimeout _ _ => none
  | .remoteStoreTimeout _ _ => none
  | .barrierRelease _ => none
  | .powerStateEntry _ => none
  | .powerStateExit _ _ _ _ => none
  | .hwakeN _ => none
  | .wakeTimer _ => none
  | .debouncedLevel _ _ _ => none
  | .wcamFrame pixels _ => illIf (pixels.length != 19200) .payload
  | .ruleEvaluation _ => none
  | .wispCtrlWrite _ => none
  | .avsAcknowledge _ _ => none
  | .settleExpiry _ => none
  | .avsNoackTimeout _ => none
  | .tjSample readings _ => illIf readings.isEmpty .empty
  | .thermalStep _ => none
  | .powerOnReset => none
  | .rstN _ => none
  | .vddSafeLoss => none
  | .bootCtrl _ => none
  | .shutdownTestComplete _ _ _ => none
  | .sliceComplete _ _ _ => none
  | .snapshotTrigger _ => none
  | .holdEnd _ => none
  | .extest => none
  | .idcode => none
  | .samplePreload => none
  | .clamp => none
  | .highz => none
  | .extestPulse => none
  | .extestTrain => none
  | .strec => none
  | .bypass _ => none
  | .pcieLinkUp _ _ => none
  | .configurationSpaceWrite _ _ _ => none
  | .camRxLoss _ _ => none
  | .clockInRange _ => none
  | .voltageInRange _ => none
  | .ballLevelRestored _ => none
  | .railMonitorsInRange _ _ _ => none
  | .vddioMachCollapse => none
  | .bankGroupZeroed _ => none
  | .domainResetArrival => none
  | .domainSnapshotStart _ _ _ nknot _ _ => illIf (decide (256 < nknot)) .payload
  | .barrierWithdrawalAnswer _ _ => none
  | .hostaccRead _ a => illIf ((a.len != 4 && a.len != 8) || a.off.toNat % a.len != 0) .align

/-- Is a term a command of the table? -/
def Instr.wf (i : Instr) : Bool := i.ill.isNone

end Sys2Proof
end

