-- ==== Sys2Proof/Safety.lean ====
section
/-! DEFINITION. Safety.lean: the terms in which claims about the block are stated: what follows every command's own effect, states
without a trapped group, the canonical form of every memory, the safe state of the outputs. -/
namespace Sys2Proof.Machine

/-- What follows a command's own effect: groups that trapped stop their commands (03 R133), then the interrupt concentrator samples
its inputs and sends the messages it owes (11 R413-R415). -/
def after (u : State) : State := icnSettle (settleTraps (u.ex.groups.length + 1) u)

/-- No group is trapped: between commands every state is calm, since a trap is taken before its command's step ends (R133). -/
def Calm (s : State) : Prop := s.ex.groups.all (fun g => (isTrapped g).isNone) = true

/-- Every byte memory of the device, of the host and of the cores is in canonical form (log 7). -/
def MemWf (s : State) : Prop :=
  s.mm.peat.wf = true ∧ s.mm.lpddr.wf = true ∧ s.mm.host.wf = true ∧ s.ex.cores.toList.all (fun c => c.lm.wf) = true

/-- Outputs are under the forced safe state unless the SFI is ARMED (02 R69, R70; 19 R613, R608). -/
def OutputsSafe (s : State) : Prop := s.sfi.state = .armed ∨ s.pte.safeState = true

/-- No output holds a pending hit and every output is inactive while the forced safe state stands (R69). -/
def OutputsIdle (s : State) : Prop := s.pte.outs.toList.all (fun o => o.pend.isEmpty && !o.active) = true

/-- The state with group `g` at the word that it issues. -/
def atWord (g : Nat) (x : Group) (s : State) : State := updGrp g (fun _ => x) s

/-- The state in which the word `w` has its effect: a load of another device that is still to write one of its destination registers loses that
write (R85, log 89). -/
def issued (w : W64) (g : Nat) (x : Group) (s : State) : State := loseWrites w x (atWord g x s)

/-- Group `g` can issue the word `w` with extension `ext` as instruction class `cls`: it is resident in block `b`, ready, at `x` once the
NOPs before the word are passed (R160, log 34), with no write pending to a register of the word (R85); its clock runs (R653); the word is an assigned encoding (Table 4.20); the guard is
not poisoned (Table 3.4). -/
def Issues (s : State) (g : Nat) (w ext : W64) (cls : Nat) (ops : Nat → Bool) (x : Group) (b : Block) : Prop :=
  ∃ y, findGrp s g = some y ∧ findBlk s y.blk = some b ∧ x = atIssue s b y ∧ x.wait = .ready ∧ s.therm.thermN = false ∧
    hazard (atWord g x s) g w ext = false ∧
    iCls w = cls ∧ ops (iOp w) = true ∧ wordOk (declRegs s b) w ext = true ∧ (guardMask x w).2 = false

/-- The queue and the packet of a packet row, and whether the packet is one of the row (Table 12.3). -/
def packetOf (i : Instr) : Option (Fin 256 × Pkt × Bool) :=
  match i with
  | .nop q p => some (q, p, pktOpcode p == 0x00)
  | .query q p => some (q, p, pktOpcode p == 0x01)
  | .memMap q p => some (q, p, pktOpcode p == 0x10)
  | .memUnmap q p => some (q, p, pktOpcode p == 0x11)
  | .xlInvalidate q p => some (q, p, pktOpcode p == 0x12)
  | .faultResume q p => some (q, p, pktOpcode p == 0x13)
  | .copy q p => some (q, p, pktOpcode p == 0x18)
  | .launch q p => some (q, p, pktOpcode p == 0x20)
  | .braidDefine q p => some (q, p, pktOpcode p == 0x30)
  | .braidStart q p => some (q, p, pktOpcode p == 0x31)
  | .braidStopDrain q p => some (q, p, pktOpcode p == 0x32 && (fld (dw p 8) 5 4 == 0 || fld (dw p 8) 5 4 == 3))
  | .braidStopHalt q p => some (q, p, pktOpcode p == 0x32 && fld (dw p 8) 5 4 == 1)
  | .braidStopRelease q p => some (q, p, pktOpcode p == 0x32 && fld (dw p 8) 5 4 == 2)
  | .modelLoad q p => some (q, p, pktOpcode p == 0x38)
  | .modelEvict q p => some (q, p, pktOpcode p == 0x39)
  | .mixedStep q p => some (q, p, pktOpcode p == 0x3A)
  | .modelSelect q p => some (q, p, pktOpcode p == 0x3B)
  | .graphRecord q p => some (q, p, pktOpcode p == 0x40)
  | .graphLaunch q p => some (q, p, pktOpcode p == 0x41)
  | .graphSplice q p => some (q, p, pktOpcode p == 0x42)
  | .graphFree q p => some (q, p, pktOpcode p == 0x43)
  | .knotSignal q p => some (q, p, pktOpcode p == 0x50)
  | .knotWait q p => some (q, p, pktOpcode p == 0x51)
  | .knotReset q p => some (q, p, pktOpcode p == 0x52)
  | .renderPassBegin q p => some (q, p, pktOpcode p == 0x60 && !(pktEnd p))
  | .renderPassEnd q p => some (q, p, pktOpcode p == 0x60 && pktEnd p)
  | .draw q p => some (q, p, pktOpcode p == 0x61)
  | .directDraw q p => some (q, p, pktOpcode p == 0x62)
  | .layerSet q p => some (q, p, pktOpcode p == 0x68)
  | .camConfig q p => some (q, p, pktOpcode p == 0x6C)
  | .axisConfig q p => some (q, p, pktOpcode p == 0x70)
  | .hitPost q p => some (q, p, pktOpcode p == 0x71)
  | .outConfig q p => some (q, p, pktOpcode p == 0x72)
  | .dzRunCompress q p => some (q, p, pktOpcode p == 0x78 && !(bit (dw p 8) 0))
  | .dzRunDecompress q p => some (q, p, pktOpcode p == 0x78 && bit (dw p 8) 0)
  | .powerHint q p => some (q, p, pktOpcode p == 0x80)
  | .snapshot q p => some (q, p, pktOpcode p == 0x90)
  | .logConfig q p => some (q, p, pktOpcode p == 0x91)
  | .traceConfig q p => some (q, p, pktOpcode p == 0x92)
  | .alarmRead q p => some (q, p, pktOpcode p == 0x93)
  | .contextCreate q p => some (q, p, pktOpcode p == 0xA0)
  | .contextDestroy q p => some (q, p, pktOpcode p == 0xA1)
  | .queueCreate q p => some (q, p, pktOpcode p == 0xA2)
  | .queueDestroy q p => some (q, p, pktOpcode p == 0xA3)
  | .partitionConfig q p => some (q, p, pktOpcode p == 0xA8)
  | .domainConfigJoin q p => some (q, p, pktOpcode p == 0xB0 && bit (dw p 8) 9)
  | .domainConfigLeave q p => some (q, p, pktOpcode p == 0xB0 && !(bit (dw p 8) 9))
  | .domainBarrier q p => some (q, p, pktOpcode p == 0xB1)
  | .domainBroadcast q p => some (q, p, pktOpcode p == 0xB2)
  | .domainReset q p => some (q, p, pktOpcode p == 0xB3)
  | .testSlice q p => some (q, p, pktOpcode p == 0xC0)
  | .shutdown q p => some (q, p, pktOpcode p == 0xF0)
  | .attest q p => some (q, p, pktOpcode p == 0xF4)
  | _ => none

end Sys2Proof.Machine
end

