-- ==== Sys2Proof/Certificates/Slice0/Obligations.lean ====
section
/-! DEFINITION. Certificates/Slice0/Obligations.lean: what the provers are asked to prove of the block: its step, its invariants, and for every
command of the table where it completes and with what effect. -/
open Sys2Proof Sys2Proof.Machine

/-! ### The step, every command's answer, and what follows an effect -/

/-- One step takes the command at the front of the queue and is that command's effect on the state with the queue's rest. -/
def Obligations.StepRunsFrontCommand : Prop :=
  ∀ (c : Instr) (rest : List Instr) (s : State), step { s with pending := c :: rest } = exec c { s with pending := rest }

/-- Every command of the table answers a next state in every state: none stops the block. -/
def Obligations.EveryCommandAnswers : Prop := ∀ (c : Instr) (s : State), ∃ t, exec c s = .next t

/-- The interrupt concentrator settles at the end of every command (R413-R415): it may set PENDING, OUTSTANDING and MSI-X pending bits
and write messages to host memory; everything else stays. -/
def Obligations.ConcentratorFrame : Prop :=
  ∀ s : State, ∃ (icn : Icn) (funcs : Tab Func 9) (host : Mem),
    icnSettle s = { s with hi := { s.hi with icn := icn, funcs := funcs }, mm := { s.mm with host := host } } ∧
    ∀ i, (tabD funcs i {}).rootqOn = (tabD s.hi.funcs i {}).rootqOn ∧ (tabD funcs i {}).alarm = (tabD s.hi.funcs i {}).alarm ∧
      (tabD funcs i {}).busMaster = (tabD s.hi.funcs i {}).busMaster ∧ (tabD funcs i {}).bar2Map = (tabD s.hi.funcs i {}).bar2Map

/-- Where no group is trapped, nothing but the concentrator follows a command's own effect. -/
def Obligations.CalmEffectStands : Prop := ∀ u : State, Calm u → after u = icnSettle u

/-! ### Invariants -/

/-- At reset every memory is in canonical form, the outputs are under the forced safe state, and no output is active or holds a hit (R69, R601). -/
def Obligations.ResetInvariants : Prop := MemWf State.reset ∧ OutputsSafe State.reset ∧ OutputsIdle State.reset

/-- Every step keeps every memory in canonical form: bytes and marks at strictly rising places, no listed byte at the value that an unlisted one reads as (log 7). -/
def Obligations.StepKeepsMemoryCanonical : Prop := ∀ s t : State, MemWf s → step s = .next t → MemWf t

/-- Every step keeps the outputs under the forced safe state unless the SFI is ARMED: no command releases them in BOOT, HOLD or ARMING (R608, R613). -/
def Obligations.StepKeepsOutputsSafe : Prop := ∀ s t : State, OutputsSafe s → step s = .next t → OutputsSafe t

/-! ### Instructions of a group (03, 04, 05) -/

/-- Arithmetic, moves, conversions and group operations complete for every word that issues (R97-R100, R144-R147, R164): the group's
registers change as the operation gives, its pc passes the word. SHFL needs unpoisoned lane indices (Table 3.4). A word with a register that a
remote load or atomic of the group has yet to write does not issue (R85; to its destination, the model's reading, log 89). -/
def Obligations.LaneInstructionsComplete : Prop :=
  ∀ (s : State) (g : Nat) (w ext : W64) (x : Group) (b : Block),
    (Issues s g w ext 1 (fun _ => true) x b → exec (.valu g w ext) s = .next (after (putG (next w (valuGroup w ext (execMask x w) x)) (issued w g x s)))) ∧
    (Issues s g w ext 2 (fun _ => true) x b → exec (.vsfu g w ext) s = .next (after (putG (next w (vsfuGroup w ext (execMask x w) x)) (issued w g x s)))) ∧
    (Issues s g w ext 4 (· == 0) x b → exec (.mov g w ext) s = .next (after (putG (next w (movGroup w ext (execMask x w) x)) (issued w g x s)))) ∧
    (Issues s g w ext 4 (· == 2) x b → exec (.cvt g w ext) s = .next (after (putG (next w (cvtGroup w ext (execMask x w) x)) (issued w g x s)))) ∧
    (Issues s g w ext 9 isShfl x b → shflFault w ext (execMask x w) x = false →
      exec (.shfl g w ext) s = .next (after (putG (next w (shflGroup w ext (execMask x w) x)) (issued w g x s)))) ∧
    (Issues s g w ext 9 isVote x b → exec (.vote g w ext) s = .next (after (putG (next w (voteGroup w (execMask x w) x)) (issued w g x s)))) ∧
    (Issues s g w ext 9 (· == 0xC) x b → exec (.matchLanes g w ext) s = .next (after (putG (next w (matchGroup w (execMask x w) x)) (issued w g x s)))) ∧
    (Issues s g w ext 9 isRed x b → exec (.red g w ext) s = .next (after (putG (next w (redGroup w (execMask x w) x)) (issued w g x s)))) ∧
    (∀ y, findGrp s g = some y → findBlk s y.blk = some b → x = atIssue s b y → hazard (atWord g x s) g w ext = true →
      exec (.valu g w ext) s = .next (after (atWord g x s)))

/-- Uniform arithmetic and moves, special registers, and constant loads complete (R144, R147, R148, R150). CYCLES reads what the core's
counter has come to, a free value (log 6), as is LANE in S2U, and the lane whose predicate a UALU SEL reads where the active lanes differ (log 30). -/
def Obligations.UniformInstructionsComplete : Prop :=
  ∀ (s : State) (g : Nat) (w ext : W64) (x : Group) (b : Block),
    (Issues s g w ext 3 (fun _ => true) x b → exec (.ualu g w ext) s = .next (after (putG (next w (ualuGroup w ext (selLane w x (issued w g x s)).1 x)) (selLane w x (issued w g x s)).2))) ∧
    (Issues s g w ext 4 (· == 1) x b → exec (.umov g w ext) s = .next (after (putG (next w (umovGroup w ext x)) (issued w g x s)))) ∧
    (Issues s g w ext 4 (· == 3) x b → iSa w < 10 →
      exec (.s2r g w ext) s = .next (after (putG (next w (wrV (iDst w) (execMask x w) (fun l => (special x b 0 (iSa w) l, false)) x)) (issued w g x s)))) ∧
    (Issues s g w ext 4 (· == 4) x b → iSa w = 0 → ∃ c : W32,
      exec (.s2u g w ext) s = .next (after (putG (next w (wrU (iDst w) (c, false) x)) { issued w g x s with freeCtr := s.freeCtr + 1 }))) ∧
    (Issues s g w ext 4 (· == 4) x b → 0 < iSa w → iSa w < 10 →
      exec (.s2u g w ext) s = .next (after (putG (next w (wrU (iDst w) (special x b 0 (iSa w) 0, false) x)) (issued w g x s)))) ∧
    (Issues s g w ext 4 (· == 3) x b → 10 ≤ iSa w → ∃ c : W64,
      exec (.s2r g w ext) s = .next (after (putG (next w (wrV (iDst w) (execMask x w) (fun l => (special x b c (iSa w) l, false)) x))
        (updCore x.core (fun k => { k with cycles := c }) { issued w g x s with freeCtr := s.freeCtr + 1 })))) ∧
    (Issues s g w ext 4 (· == 4) x b → 10 ≤ iSa w → ∃ c : W64,
      exec (.s2u g w ext) s = .next (after (putG (next w (wrU (iDst w) (special x b c (iSa w) 0, false) x))
        (updCore x.core (fun k => { k with cycles := c }) { issued w g x s with freeCtr := s.freeCtr + 1 })))) ∧
    (Issues s g w ext 6 (· == 2) x b → fld w 49 34 % sizeBytes (iType w) = 0 →
      ∀ (bs : PB) (u : State), bankRead x b (iSa w) (fld w 49 34) (sizeBytes (iType w)) (issued w g x s) = (.ok bs, u) →
      exec (.ldc g w ext) s = .next (after (putG (next w
        (if sizeBytes (iType w) = 8 then wrU (iDst w + 1) (loadReg 3 false bs 1) (wrU (iDst w) (loadReg 2 false bs 0) x) else wrU (iDst w) (loadReg 2 false bs 0) x)) u)))

/-- Control flow completes (R160-R163): a taken or passed branch, a divergence, a reconvergence at its join, the end of lanes (whose registers a tile-shading block
keeps as its outputs, R297), a call and a return. -/
def Obligations.ControlFlowComplete : Prop :=
  ∀ (s : State) (g : Nat) (w ext : W64) (x : Group) (b : Block),
    (Issues s g w ext 0 (· == 1) x b →
      exec (.bra g w ext) s = .next (after (putG (if braTaken w x then { x with pc := target x (iOfs w) } else next w x) (issued w g x s)))) ∧
    (Issues s g w ext 0 (· == 2) x b → x.stack.length < 32 → exec (.split g w ext) s = .next (after (putG (splitGroup w ext x) (issued w g x s)))) ∧
    (∀ t r, Issues s g w ext 0 (· == 3) x b → x.stack = t :: r → x.pc = t.joinPc →
      exec (.join g w ext) s = .next (after (settleGroup (joinTop t r x) b (issued w g x s)))) ∧
    (Issues s g w ext 0 (· == 4) x b →
      exec (.exit g w ext) s = .next (after (settleGroup { next w x with active := x.active &&& ~~~(execMask x w), exited := x.exited ||| execMask x w }
        (exitOuts (execMask x w) x b) (keepOuts (exitOuts (execMask x w) x b) (issued w g x s))))) ∧
    (Issues s g w ext 0 (· == 5) x b →
      exec (.call g w ext) s = .next (after (putG { wrU (iDst w) (BitVec.ofNat 32 (x.pc + iLen w), false) x with pc := target x (iOfs w) } (issued w g x s)))) ∧
    (Issues s g w ext 0 (· == 6) x b → (rdU x (iSa w)).2 = false → isBaseWord (issued w g x s) b (rdU x (iSa w)).1.toNat = true →
      exec (.ret g w ext) s = .next (after (putG { x with pc := (rdU x (iSa w)).1.toNat } (issued w g x s))))

/-- Barriers and fences complete in a group that is not divergent (R103-R105, R110, R125, R126, R569): a group at a barrier waits until every group has
come. The group first waits for its remote loads, and at a release at SYSTEM scope for the acknowledgement of its remote stores; an acquire at DEVICE or SYSTEM scope, or
at CLUSTER scope in a cluster (the model's reading, log 112), drops its
core's far-read cache (R126). -/
def Obligations.BarriersComplete : Prop :=
  ∀ (s : State) (g : Nat) (w ext : W64) (x : Group) (b : Block),
    (Issues s g w ext 10 (· == 0) x b → divergent x = false → mustAwait (issued w g x s) g false = false →
      exec (.bar g w ext) s = .next (after (releaseBars b (putG { next w x with wait := .blockBar } (issued w g x s))))) ∧
    (Issues s g w ext 10 (· == 1) x b → divergent x = false → mustAwait (issued w g x s) g false = false →
      exec (.cbar g w ext) s = .next (after (releaseBars b (putG { next w x with wait := if b.cluster.isSome then .clusterBar else .blockBar } (issued w g x s))))) ∧
    (Issues s g w ext 10 (· == 2) x b → mustAwait (issued w g x s) g (fenceStores w) = false →
      exec (.fence g w ext) s = .next (after (putG (next w x) (if fenceDrops w b then dropFar x.core (issued w g x s) else issued w g x s)))) ∧
    (Issues s g w ext 10 (· == 0) x b → divergent x = true → exec (.bar g w ext) s = .next (after (trapG g 0x0112 (issued w g x s)))) ∧
    (Issues s g w ext 10 (· == 0) x b → divergent x = false → mustAwait (issued w g x s) g false = true →
      exec (.bar g w ext) s = .next (after (await x false (issued w g x s)))) ∧
    (Issues s g w ext 10 (· == 2) x b → mustAwait (issued w g x s) g (fenceStores w) = true →
      exec (.fence g w ext) s = .next (after (await x (fenceStores w) (issued w g x s))))

/-- Loads and stores of local memory complete where every lane's address lies in the block's LM and is aligned (R89, R91, R92, R96). A load that acquires as `farAcquire` says (R126;
at CLUSTER scope the model's reading, log 112) drops the core's far-read cache (R126); a store that releases waits as R125 and R569 say. -/
def Obligations.LocalMemoryComplete : Prop :=
  ∀ (s : State) (g : Nat) (w ext : W64) (x : Group) (b : Block) (ls : List (Nat × Nat × Nat)),
    (Issues s g w ext 5 (· == 0) x b → lmLanes (issued w g x s) b (sizeBytes (iType w)) (lmAddrs x w ext (memOfs w) (execMask x w)) = .ok ls →
      exec (.ldl g w ext) s = .next (after (putG (next w (putLoads (iDst w) (iType w) (bit w 59)
        (ls.map fun t => (t.1, lmRead t.2.1 t.2.2 (sizeBytes (iType w)) (issued w g x s))) x)) (acquireFar w x b (issued w g x s))))) ∧
    (Issues s g w ext 5 (· == 1) x b → (releases w && mustAwait (issued w g x s) g (sysRelease w)) = false → lmLanes (issued w g x s) b (sizeBytes (iType w)) (lmAddrs x w ext (memOfs w) (execMask x w)) = .ok ls →
      exec (.stl g w ext) s = .next (after (putG (next w x)
        (ls.foldl (fun s t => lmStore t.2.1 t.2.2 (laneData x (iDst w) (iType w) t.1) s) (issued w g x s))))) ∧
    (Issues s g w ext 5 (· == 1) x b → (releases w && mustAwait (issued w g x s) g (sysRelease w)) = true →
      exec (.stl g w ext) s = .next (after (await x (sysRelease w) (issued w g x s))))

/-- Loads and stores of device memory complete where every lane's address translates, no route is down and the partition's regulators have room (R149, R472, R488, R572):
loads write their registers, stores write their bytes, in a free order where lanes store to one place (log 37). A load that acquires as `farAcquire` says drops the
core's far-read cache first (R126); a store that releases waits as R125 and R569 say. -/
def Obligations.DeviceMemoryComplete : Prop :=
  ∀ (s u v : State) (g : Nat) (w ext : W64) (x : Group) (b : Block) (ls : List (Nat × LanePl)),
    (Issues s g w ext 6 (· == 0) x b →
      devLanes b.ctx (sizeBytes (iType w)) .load (rqG x) (devAddrs x w ext (memOfs w) (execMask x w)) (issued w g x s) = (.ok ls, u) →
      lanesDown u ls = false → bulk b.part (laneNeeds x.core (sizeBytes (iType w)) ls) u = some v →
      exec (.ldg g w ext) s = .next (after (loadDone w (iDst w) (iType w) (bit w 59)
        (loadLanes x b (iDst w) (iType w) (bit w 59) (laneVa (devAddrs x w ext (memOfs w) (execMask x w))) ls (acquireFar w x b v)).1 x b
        (loadLanes x b (iDst w) (iType w) (bit w 59) (laneVa (devAddrs x w ext (memOfs w) (execMask x w))) ls (acquireFar w x b v)).2))) ∧
    (Issues s g w ext 6 (· == 1) x b → (releases w && mustAwait (issued w g x s) g (sysRelease w)) = false →
      devLanes b.ctx (sizeBytes (iType w)) .store (rqG x) (devAddrs x w ext (memOfs w) (execMask x w)) (issued w g x s) = (.ok ls, u) →
      (ls.any fun t => isHost t.2 && anyPoison (laneData x (iDst w) (iType w) t.1)) = false →
      lanesDown u ls = false → bulk b.part (laneNeeds x.core (sizeBytes (iType w)) ls) u = some v →
      exec (.stg g w ext) s = .next (after (putG (next w x)
        (laneStores x b (sizeBytes (iType w)) (laneData x (iDst w) (iType w)) (laneVa (devAddrs x w ext (memOfs w) (execMask x w))) ls v))))

/-- Sampler instructions complete where the texture is bound, coordinates are not poisoned, the regulators have room and every lane's texels are read (R302-R307). A poisoned coordinate of
another lane of the quad marks what an implicit level of detail gives (R122). -/
def Obligations.SamplerComplete : Prop :=
  ∀ (s u v : State) (g : Nat) (w ext : W64) (x : Group) (b : Block) (d : List Byte),
    b.texs[iSb w]? = some d →
    anyLane (execMask x w) (fun l => (texArg w x l).2.2.2 || (texLodOf w ext x d s.freeCtr l).2.1) = false →
    bulk b.part (texNeeds x b d (popcount (execMask x w)) (issued w g x s)) (issued w g x s) = some u →
    (∀ l, Issues s g w ext 7 (· == 0) x b →
      texLanes (fun k z => marked (texLodOf w ext x d s.freeCtr k).2.2 (texSample b.ctx (rqG x) d (texArg w x k).1 (texArg w x k).2.1 (texArg w x k).2.2.1 (texLodOf w ext x d s.freeCtr k).1 z))
        (lanesOf (execMask x w)) { u with freeCtr := s.freeCtr + 64 } = (.ok l, v) →
      exec (.tex g w ext) s = .next (after (putG (next w (putTexels w l x)) v))) ∧
    (∀ l, Issues s g w ext 7 (· == 1) x b →
      texLanes (fun k z => texFetch b.ctx (rqG x) d (texArg w x k).1 (texArg w x k).2.1 (texArg w x k).2.2.1
        (if fld w 61 60 = 0 then 0 else (rdSrc x (iKc w) (iSc w) 0 k ext).1) z)
        (lanesOf (execMask x w)) { u with freeCtr := s.freeCtr + 64 } = (.ok l, v) →
      exec (.tld g w ext) s = .next (after (putG (next w (putTexels w l x)) v))) ∧
    (∀ l, Issues s g w ext 7 (· == 2) x b →
      texLanes (fun k z => marked (texLodOf w ext x d s.freeCtr k).2.2 (texResident b.ctx (rqG x) d (texArg w x k).1 (texArg w x k).2.1 (texArg w x k).2.2.1 (texLodOf w ext x d s.freeCtr k).1 z))
        (lanesOf (execMask x w)) { u with freeCtr := s.freeCtr + 64 } = (.ok l, v) →
      exec (.tres g w ext) s = .next (after (putG (next w (wrP (iDst w) (maskOf 32 (l.map (·.1))) (fun k => (pairGet l k).getD (false, false)) x)) v)))

/-- Matrix instructions complete (R153-R159, R186-R197): MLD where base and stride are aligned and not poisoned and its pieces can be read, MMA always,
MST where its pieces can be written. LM forms; the device forms are `MatrixDeviceComplete`. -/
def Obligations.MatrixComplete : Prop :=
  ∀ (s : State) (g : Nat) (w ext : W64) (x : Group) (b : Block),
    (Issues s g w ext 8 (· == 1) x b →
      exec (.mma g w ext) s = .next (after (putG (next w (mmaGroup w ext x).1) (addSat b.owner (mmaGroup w ext x).2 (issued w g x s))))) ∧
    (∀ at', Issues s g w ext 8 (· == 0) x b → bit w 63 = false → (fragBase w x).2.2 = false → (fragBase w x).1 % 4 = 0 → (fragBase w x).2.1 % 4 = 0 →
      fragLm (issued w g x s) b (mldPieces w (fragBase w x).1 (fragBase w x).2.1) = .ok at' →
      exec (.mld g w ext) s = .next (after (putG (next w (putFrag (iDst w) (fragRows
        (((mldPieces w (fragBase w x).1 (fragBase w x).2.1).zip at').map fun q => (q.1.1, q.1.2.1, lmRead q.2.1 q.2.2 q.1.2.2.2 (issued w g x s)))) x)) (issued w g x s)))) ∧
    (∀ at' bias, Issues s g w ext 8 (· == 2) x b → bit w 63 = false → (fragBase w x).2.2 = false → (fragBase w x).1 % 4 = 0 → (fragBase w x).2.1 % 4 = 0 →
      mstBias (issued w g x s) b w ext x = .ok bias →
      fragLm (issued w g x s) b (mstPieces w (fragBase w x).1 (fragBase w x).2.1 (2 * fmtBits (fld w 59 56))) = .ok at' →
      exec (.mst g w ext) s = .next (after (putG (next w x) (addSat b.owner
        (sumN (((List.range 16).map (mstRow w ext x bias)).map fun r => (r.filter (·.2.2)).length))
        (mstStoreLm (fun q => (((((List.range 16).map (mstRow w ext x bias)).map (mstBytes (fmtBits (fld w 59 56)))).getD q.1 []).drop q.2.1).take 4)
          ((mstPieces w (fragBase w x).1 (fragBase w x).2.1 (2 * fmtBits (fld w 59 56))).zip at') (issued w g x s))))))

/-- ATOM completes (R112-R117, R166, R167): on LM where every lane's address lies in the block's LM and is aligned; on device memory where every address translates,
no page is host memory, no route is down and the regulators have room. Each lane in turn reads the old value and stores the new one; lanes of one location of device memory combine into one
operation (R113). As a release it waits as R125 and R569 say, as an acquire it drops the core's far-read cache as `farAcquire` says (R126; at CLUSTER scope the
model's reading, log 112). -/
def Obligations.AtomicsComplete : Prop :=
  ∀ (s : State) (g : Nat) (w ext : W64) (x : Group) (b : Block), Issues s g w ext 11 (fun _ => true) x b →
    (releases w && mustAwait (issued w g x s) g (sysRelease w)) = false →
    (∀ ls, bit w 59 = false → lmLanes (issued w g x s) b (atomBytes w) (lmAddrs x w ext 0 (execMask x w)) = .ok ls →
      exec (.atom g w ext) s = .next (after (atomDone w
        (atomLm w ext x (atomOrder w ls (issued w g x s)).1 (atomOrder w ls (issued w g x s)).2).1 x b
        (acquireFar w x b (atomLm w ext x (atomOrder w ls (issued w g x s)).1 (atomOrder w ls (issued w g x s)).2).2)))) ∧
    (∀ ls u v, bit w 59 = true → (((devAddrs x w ext 0 (execMask x w)).all fun l => l.2.1 % atomBytes w == 0 && !l.2.2) && (devAddrs x w ext 0 (execMask x w)).any (hostPage (issued w g x s) b)) = false →
      devLanes b.ctx (atomBytes w) .atomic (rqG x) (devAddrs x w ext 0 (execMask x w)) (issued w g x s) = (.ok ls, u) → lanesDown u ls = false →
      bulk b.part (laneNeeds x.core (atomBytes w) (atomPlaces w ls)) u = some v →
      exec (.atom g w ext) s = .next (after (atomDone w
        (atomDev w ext x b (laneVa (devAddrs x w ext 0 (execMask x w))) 32 (atomOrder w ls v).1 (acquireFar w x b (atomOrder w ls v).2)).1 x b
        (atomDev w ext x b (laneVa (devAddrs x w ext 0 (execMask x w))) 32 (atomOrder w ls v).1 (acquireFar w x b (atomOrder w ls v).2)).2)))

/-- Knot instructions complete on every knot that R354 and R358 let them name, over a route that is up (R168-R172, R354-R358): KSIG signals, KWAIT is evaluated against the word or registers (each once the group's remote
loads are back and the regulators have room for KSIG's 8 bytes, and a KSIG to a host or remote knot once its remote stores are acknowledged, R125, R569, 15 R528), HIT posts each lane's
record in lane order; and a signal that reaches its port takes effect there. -/
def Obligations.KnotInstructionsComplete : Prop :=
  ∀ (s u v : State) (g : Nat) (w ext : W64) (x : Group) (b : Block) (pl : Place), (∀ a, pl ≠ .lpddr a) → routeDown u pl = false →
    (Issues s g w ext 12 (· == 0) x b → (knotArg w ext x).2 = false → (rdUPair x (iSa w)).2 = false → (rdUPair x (iSa w)).1 % 8 = 0 →
      xl b.ctx (rdUPair x (iSa w)).1 .store (rqG x) (issued w g x s) = (.ok pl, u) → mustAwait u g (farKnot pl) = false → bulk b.part (bulkNeeds (some x.core) pl 8) u = some v →
      exec (.ksig g w ext) s = .next (after (signal (ctxFn v b.ctx) pl (BitVec.ofNat 64 (knotArg w ext x).1) (farLose x.core pl (putG (next w x) v))))) ∧
    (Issues s g w ext 12 (· == 1) x b → (knotArg w ext x).2 = false → mustAwait (issued w g x s) g false = false → (rdUPair x (iSa w)).2 = false → (rdUPair x (iSa w)).1 % 8 = 0 →
      xl b.ctx (rdUPair x (iSa w)).1 .load (rqG x) (issued w g x s) = (.ok pl, u) → (∀ a, pl ≠ .host a) →
      ∃ (y : Group) (us : Nat) (dl : Option W64), us = (if iExt w then fld ext 63 32 else 0) ∧
        dl = (if us = 0 then none else some (BitVec.ofNat 64 (u.now + 1000 * us))) ∧
        y = { x with wait := .knot pl (BitVec.ofNat 64 (knotArg w ext x).1) (BitVec.ofNat 8 (iDst w)) (BitVec.ofNat 8 (iSc w)) (bit w 59) dl (x.pc + iLen w) } ∧
        exec (.kwait g w ext) s = .next (after (schedPart b.part (parkLate b.id (evalWait
          (knotRead (ctxFn u b.ctx) pl u).1 (knotRead (ctxFn u b.ctx) pl u).2.1 y (knotRead (ctxFn u b.ctx) pl u).2.2))))) ∧
    (∀ br k, Issues s g w ext 13 (· == 0) x b → b.owner = .strand br k →
      (anyLane (execMask x w) fun l => (List.range 5).any fun i => (rdV x (iSa w + i) l).2) = false →
      (anyLane (execMask x w) fun l => outDenied (issued w g x s) br (hitOfLane w x l)) = false →
      exec (.hit g w ext) s = .next (after ((lanesOf (execMask x w)).foldl (fun s l => hitPort (hitOfLane w x l) (.strand br) s) (putG (next w x) (issued w g x s))))) ∧
    (∀ k v, exec (.knotSignalAtPort k v) s = .next (after (signal 0 k v s)))

/-- KWAIT_TIMEOUT (R170, R526): a wait of a block that is not parked, whose deadline has come, is evaluated against the word once more. -/
def Obligations.KwaitTimeoutCompletes : Prop :=
  ∀ (s : State) (g : Nat) (t : W64) (x : Group) (k : Place) (thr : W64) (dst pred : Byte) (trapab : Bool) (dl : W64) (nxt : Nat),
    findGrp s g = some x → x.wait = .knot k thr dst pred trapab (some dl) nxt → dl.toNat ≤ (timeMax s.time t).toNat → isParked s x.blk = false →
    exec (.kwaitTimeout g t) s = .next (after (rereadWait x (s.at t)))

/-- The device forms of MLD and MST complete where base and stride are aligned and not poisoned, every piece translates, no route is down, the regulators have room,
and MST sends no poisoned element to host memory (R156, R159, R472, R572). -/
def Obligations.MatrixDeviceComplete : Prop :=
  ∀ (s u v : State) (g : Nat) (w ext : W64) (x : Group) (b : Block) (pls : List LanePl),
    bit w 63 = true → (fragBase w x).2.2 = false → (fragBase w x).1 % 8 = 0 → (fragBase w x).2.1 % 8 = 0 →
    (∀ ps, ps = mldPieces w (fragBase w x).1 (fragBase w x).2.1 → Issues s g w ext 8 (· == 0) x b →
      fragPlaces b.ctx .load (rqG x) ps (issued w g x s) = (.ok pls, u) → lanesDown u (pls.map fun q => (0, q)) = false →
      bulk b.part ((ps.zip pls).foldl (fun a q => addNeeds a (laneNeeds x.core q.1.2.2.2 [(0, q.2)])) [0, 0, 0]) u = some v →
      exec (.mld g w ext) s = .next (after (putG (next w (putFrag (iDst w) (fragRows (readFrag (ctxFn v b.ctx) (ps.zip pls) v).1) x)) (readFrag (ctxFn v b.ctx) (ps.zip pls) v).2))) ∧
    (∀ ps bias rows, ps = mstPieces w (fragBase w x).1 (fragBase w x).2.1 (2 * fmtBits (fld w 59 56)) → Issues s g w ext 8 (· == 2) x b →
      mstBias (issued w g x s) b w ext x = .ok bias → rows = (List.range 16).map (mstRow w ext x bias) →
      fragPlaces b.ctx .store (rqG x) ps (issued w g x s) = (.ok pls, u) →
      ((ps.zip pls).any fun q => isHost q.2 && anyPoison ((((rows.map (mstBytes (fmtBits (fld w 59 56)))).getD q.1.1 []).drop q.1.2.1).take 4)) = false →
      lanesDown u (pls.map fun q => (0, q)) = false → bulk b.part (laneNeeds x.core 4 (pls.map fun q => (0, q))) u = some v →
      exec (.mst g w ext) s = .next (after (putG (next w x) (addSat b.owner (sumN (rows.map fun r => (r.filter (·.2.2)).length))
        (mstStore x b (fun q => (((rows.map (mstBytes (fmtBits (fld w 59 56)))).getD q.1 []).drop q.2.1).take 4) (ps.zip pls) v)))))

/-! ### The position timebase (02) -/

/-- The hit port (R62, R42, R64, R65, R70): a malformed record is rejected with 0x0109 and changes nothing; under the safe state every other record is refused with 0x0701;
a record whose target is reached is late; at 4,096 entries in use it is refused with PTE_HITREJ counted and HIT_OVERFLOW set; else it is written into its output's list. -/
def Obligations.HitPortOutcomes : Prop :=
  ∀ (r : HitRec) (s : State) (o a : Nat) (p : W64), o = fld r.dw2 5 0 → a = outAxis (output s o) → p = axPos (axis s a) s.now →
    ((35 < o ∨ 2 < fld r.dw2 8 6 ∨ 2 < fld r.dw2 11 10 ∨ fld r.dw2 31 12 ≠ 0 ∨ r.rsv ≠ 0 ∨ (fld r.dw2 8 6 = 2 ∧ r.width.toNat < 4) ∨
        (fld r.dw2 8 6 ≠ 2 ∧ r.width ≠ 0) ∨ outEn (output s o) = false ∨ axEn (axis s a) = false) → hitArrive r s = (.refused 0x0109, s)) ∧
    (hitFormatOk s r = true → s.pte.safeState = true → hitArrive r s = (.refused 0x0701, s)) ∧
    (hitFormatOk s r = true → s.pte.safeState = false → r.target - p = 0x8000000000000000 → hitArrive r s = (.refused 0x0109, s)) ∧
    (hitFormatOk s r = true → s.pte.safeState = false → r.target - p ≠ 0x8000000000000000 → reached (bit r.dw2 9) p r.target = true →
      hitArrive r s = (.late, lateHit r s)) ∧
    (hitFormatOk s r = true → s.pte.safeState = false → r.target - p ≠ 0x8000000000000000 → reached (bit r.dw2 9) p r.target = false → 4096 ≤ hitsUsed s →
      ∃ t, hitArrive r s = (.refused 0x0210, t) ∧ t.pte.hitrej = satInc s.pte.hitrej ∧ bit t.pte.alarm 0 = true ∧ t.pte.outs = s.pte.outs) ∧
    (hitFormatOk s r = true → s.pte.safeState = false → r.target - p ≠ 0x8000000000000000 → reached (bit r.dw2 9) p r.target = false → hitsUsed s < 4096 →
      ∃ t h, hitArrive r s = (.accepted, t) ∧ h.target = r.target ∧ h.rev = bit r.dw2 9 ∧ h.action.toNat = fld r.dw2 8 6 ∧ h.width = r.width ∧ h.tag = r.tag ∧
        (output t o) = { output s o with pend := (output s o).pend ++ [h] } ∧ (∀ i, i ≠ o → output t i = output s i) ∧ hitsUsed t = hitsUsed s + 1)

/-- A record reaches the port at once while no snapshot holds the signal paths (R64); a strand's record takes its braid's LATE policy, and its refusal counts in
the braid (R171, R223, R224). -/
def Obligations.HitPortArrivalCompletes : Prop :=
  ∀ (r : HitRec) (b : Fin 16) (s : State) (t : W64), holding (s.at t) = false →
    exec (.hitPortArrival r .host t) s = .next (after (hitArrive r (s.at t)).2) ∧
    (∀ u, hitArrive { r with dw2 := setFld r.dw2 11 10 (tabD s.ob.braids b {}).late.toNat } (s.at t) = (.accepted, u) →
      exec (.hitPortArrival r (.strand b) t) s = .next (after (updBraid b (fun x => { x with posted := satInc x.posted }) u))) ∧
    (∀ u, hitArrive { r with dw2 := setFld r.dw2 11 10 (tabD s.ob.braids b {}).late.toNat } (s.at t) = (.refused 0x0701, u) →
      exec (.hitPortArrival r (.strand b) t) s =
        .next (after (updBraid b (fun x => { x with refused := satInc x.refused }) (updBraid b (fun x => { x with posted := satInc x.posted }) u))))

/-- A late hit (R68, R654) counts in AX_COUNT.LATE and sets LATE; FIRE_LATE performs its action now, SKIP discards it, DEFAULT performs DEFACT: a performed action counts
in OUT_FIRED and leaves its TAG in OUT_LASTTAG. PHASE outputs off a locked axis never act (R60). -/
def Obligations.LateHitPolicy : Prop :=
  ∀ (r : HitRec) (s : State) (o : Nat) (f : Output → Output), o = fld r.dw2 5 0 → o < 36 → s.sfi.state ≠ .armed →
    f = (fun y => { y with fired := y.fired + 1, lasttag := r.tag }) →
    (axis (lateHit r s) (outAxis (output s o))).late = satInc (axis s (outAxis (output s o))).late ∧ bit (lateHit r s).pte.alarm 5 = true ∧
    (∀ i, i ≠ o → output (lateHit r s) i = output s i) ∧
    (phaseBarred s (output s o) = true → output (lateHit r s) o = output s o) ∧
    (phaseBarred s (output s o) = false → fld r.dw2 11 10 = 0 → fld r.dw2 8 6 = 0 → output (lateHit r s) o = f { output s o with active := true, until' := none }) ∧
    (phaseBarred s (output s o) = false → fld r.dw2 11 10 = 0 → fld r.dw2 8 6 = 1 → output (lateHit r s) o = f { output s o with active := false, until' := some s.time }) ∧
    (phaseBarred s (output s o) = false → fld r.dw2 11 10 = 0 → fld r.dw2 8 6 = 2 → ∀ u, (output s o).until' = some u →
      output (lateHit r s) o = f { output s o with active := true, until' := some (timeMax u (s.time + BitVec.ofNat 64 r.width.toNat)) }) ∧
    (fld r.dw2 11 10 = 1 → output (lateHit r s) o = output s o) ∧
    (fld r.dw2 11 10 = 2 → outDefact (output s o) = 0 → output (lateHit r s) o = output s o) ∧
    (phaseBarred s (output s o) = false → fld r.dw2 11 10 = 2 → outDefact (output s o) = 1 → output (lateHit r s) o = f { output s o with active := true, until' := none })

/-- Firing is exact (R53, R54, R63, R64): the pending hits whose targets the axis has reached leave the list and every other stays; each one that leaves fires once and counts
in OUT_FIRED, or, on a PHASE output off a locked axis, counts in DROPS instead (R60). -/
def Obligations.FiringIsExact : Prop :=
  ∀ (s : State) (o : Nat) (p : W64), o < 36 → p = axPos (axis s (outAxis (output s o))) s.now →
    (output (fireDue o s) o).pend = (output s o).pend.filter (fun h => !(reached h.rev p h.target)) ∧
    (∀ i, i ≠ o → output (fireDue o s) i = output s i) ∧
    (phaseBarred s (output s o) = false →
      (output (fireDue o s) o).fired = (output s o).fired + BitVec.ofNat 32 ((output s o).pend.filter (fun h => reached h.rev p h.target)).length) ∧
    (phaseBarred s (output s o) = true → (output (fireDue o s) o).active = (output s o).active ∧ (output (fireDue o s) o).fired = (output s o).fired)

/-- The commands of an output: CLEAR (R66, R654), FLUSH, the end of a pulse (R66), hits that come due (R53) and OUT_CFG (R71, R77, R78). -/
def Obligations.OutputCommandsComplete : Prop :=
  ∀ (s : State) (o : Fin 36) (t : W64) (v : W32),
    exec (.clear o) s = .next (icnSettle (updOut o (fun y => { y with active := false, until' := some s.time }) s)) ∧
    exec (.flush o) s = .next (icnSettle (updAxis (outAxis (output s o)) (fun a => { a with drops := satAdd a.drops (output s o).pend.length })
      (updOut o (fun y => { y with pend := [] }) s))) ∧
    (∀ u, (output s o).active = true → (output s o).until' = some u → u.toNat ≤ (timeMax s.time t).toNat →
      exec (.pulseEnd o t) s = .next (icnSettle (updOut o (fun y => { y with active := false }) (s.at t)))) ∧
    exec (.hitFire o none t) s = .next (icnSettle (fireDue o (endPulses (s.at t)))) ∧
    (s.pte.cfgLock = false → (output s o).pend = [] → bit v 9 = true →
      exec (.outCfgWrite o v) s = .next (icnSettle (updOut o (fun y => { y with cfg := v &&& 0x3FF, written := true }) s))) ∧
    (s.pte.cfgLock = true → (output s o).pend = [] → v &&& 0x3FF = v → fld v 2 0 = fld (output s o).cfg 2 0 → bit v 9 = true →
      exec (.outCfgWrite o v) s = .next (icnSettle (updOut o (fun y => { y with cfg := v, written := true }) s))) ∧
    (s.pte.cfgLock = true → (output s o).pend = [] → v &&& 0x3FF = v → fld v 2 0 ≠ fld (output s o).cfg 2 0 →
      ∃ t, exec (.outCfgWrite o v) s = .next t ∧ fld (output t o).cfg 2 0 = fld (output s o).cfg 2 0 ∧ bit t.pte.alarm 3 = true ∧
        (∀ i, 3 ≤ i → bit (output t o).cfg i = bit v i))

/-- Trigger generators (R73-R76, R655): a generator whose axis has reached its next targets fires one pulse for them, latches position and time, and advances SEQ and SKIP; at TG_COUNT
it stops; a write that enables one on a disabled axis is ignored in EN; an enabled one starts at its first target. -/
def Obligations.GeneratorCommandsComplete : Prop :=
  ∀ (s : State) (g : Fin 4) (v : W32) (t : W64) (x : TrigGen), x = tabD s.pte.tgs g {} →
    exec (.tgFire g t) s = .next (icnSettle (tgRun g (endPulses (s.at t)))) ∧
    (∀ n, tgEn x = true → n = tgReached x (axPos (axis s (tgAxis x)) s.now) → n ≠ 0 →
      (tabD (tgRun g s).pte.tgs g {}).k = x.k + n ∧ (tabD (tgRun g s).pte.tgs g {}).seq = x.seq + BitVec.ofNat 32 n ∧
      (tabD (tgRun g s).pte.tgs g {}).skip = satAdd x.skip (n - 1) ∧ (tabD (tgRun g s).pte.tgs g {}).lasttime = s.time ∧
      (tabD (tgRun g s).pte.tgs g {}).lastpos = axPos (axis s (tgAxis x)) s.now ∧
      (phaseBarred s (output s (32 + g)) = false → output (tgRun g s) (32 + g) =
        { actPulse s.time (max x.width.toNat 4) (output s (32 + g)) with fired := (output s (32 + g)).fired + 1 })) ∧
    (tgEn x = true → x.count ≠ 0 → x.count.toNat ≤ x.k →
      exec (.tgCountReached g) s = .next (icnSettle (updTg g (fun x => { x with cfg := setBit x.cfg 0 false }) s))) ∧
    (tgEn x = false → bit v 0 = false → exec (.tgCfgWrite g v) s = .next (icnSettle (updTg g (fun y => { y with cfg := v &&& 0xFF }) s))) ∧
    (tgEn x = false → bit v 0 = true → axEn (axis s (fld (v &&& 0xFF) 3 1)) = true →
      exec (.tgCfgWrite g v) s = .next (icnSettle (tgRun g (updTg g (fun y => { y with cfg := v &&& 0xFF, k := 0 }) s)))) ∧
    (tgEn x = false → bit v 0 = true → axEn (axis s (fld (v &&& 0xFF) 3 1)) = false →
      exec (.tgCfgWrite g v) s = .next (icnSettle (pteAlarm 3 0xFFFF (updTg g (fun y => { y with cfg := setBit (v &&& 0xFF) 0 false }) s))))

/-- Axis events (R45-R52, R57-R59): a counted edge moves an encoder axis by one count; A and B together are an input fault; Z latches and with ZEN loads the position,
while a disabled axis only latches; a stall returns to coarse mode; the edge of MPH that EDGE selects moves a mains axis to the next cycle boundary,
the other edge moves nothing; a missing pulse unlocks it. A transition
that the filter of R45 cannot have passed yet changes nothing. -/
def Obligations.AxisEventsComplete : Prop :=
  ∀ (s : State) (ax : Fin 8) (a b rev : Bool) (t now : W64) (x : Axis), x = axis s ax → now = timeMax s.time t →
    (x.mode ≠ .disabled → axSrc x = 0 → edgeFiltered x a b now = true → (x.lvA = a ∨ x.lvB = b) →
      decodeEdge (axDecode x) x.lvA x.lvB a b (axInvert x) = some rev →
      exec (.qualifiedEdge ax a b t) s = .next (icnSettle (settleAxis ax (updAxis ax (countEdge rev now)
        (updAxis ax (noteEdge a b now) (s.at t))))) ∧
      (countEdge rev now x).c = (if rev then x.c - 0x10000 else x.c + 0x10000)) ∧
    (x.mode ≠ .disabled → axSrc x = 0 → edgeFiltered x a b now = true → x.lvA ≠ a → x.lvB ≠ b →
      exec (.qualifiedEdge ax a b t) s = .next (icnSettle (settleAxis ax (pteAlarm 1 ax
        (updAxis ax (fun y => { breakRun now.toNat y with inputErr := satInc y.inputErr })
        (updAxis ax (noteEdge a b now) (s.at t))))))) ∧
    (edgeFiltered x a b now = false → exec (.qualifiedEdge ax a b t) s = .next (icnSettle (s.at t))) ∧
    (axSrc x = 0 → filtered x 2 x.qZ now = true → (axZen x = false ∨ x.mode = .disabled) →
      exec (.zEdge ax t) s = .next (icnSettle (updAxis ax (fun y => { y with zlatch := axPos y now.toNat, qZ := some now }) (s.at t)))) ∧
    (x.mode ≠ .disabled → axSrc x = 0 → filtered x 2 x.qZ now = true → axZen x = true →
      exec (.zEdge ax t) s = .next (icnSettle (settleAxis ax (updAxis ax (fun y => { y with c := y.zload, pos := y.zload, base := y.zload, te := now })
        (updAxis ax (fun y => { y with zlatch := axPos y now.toNat, qZ := some now }) (s.at t)))))) ∧
    (∀ l, axSrc x = 0 → x.mode = .fine → x.lastT = some l → l.toNat + x.stall.toNat ≤ now.toNat →
      exec (.axStallExpiry ax t) s = .next (icnSettle (settleAxis ax (updAxis ax (fun y => toCoarse now.toNat y) (s.at t))))) ∧
    (axSrc x = 1 → filtered x 1 x.qA now = true → mphSelects x rev = true → x.mode = .coarse → x.lastT = none → mainsConsist x.ivals ≠ 4 →
      ∃ k, k = nextCycle x ∧ k = x.k + 1 ∧
      exec (.mainsPulse ax { t := t, rise := rev }) s = .next (icnSettle (updAxis ax (fun y => if y.mode == .coarse && mainsConsist y.ivals == 4 then { y with mode := .locked } else y)
        (settleAxis ax (updAxis ax (fun y => { y with lastT := some now, k := k, pos := y.base + BitVec.ofNat 64 (k * axCpc y)
                                                      te := now - BitVec.ofNat 64 (fld y.moffs 19 0) })
          (updAxis ax (fun y => { y with qA := some now }) (s.at t))))))) ∧
    (axSrc x = 1 → filtered x 1 x.qA now = true → mphSelects x rev = false → x.mode ≠ .disabled →
      exec (.mainsPulse ax { t := t, rise := rev }) s = .next (icnSettle (updAxis ax (fun y => { y with qA := some now }) (s.at t)))) ∧
    (∀ l, axSrc x = 1 → x.mode = .locked → x.lastT = some l → 3 * sumN x.ivals ≤ 8 * (now.toNat - l.toNat) →
      exec (.mainsPulseMissing ax t) s = .next (icnSettle (settleAxis ax (unlockAxis ax (s.at t)))))

/-- Axis registers (R40, R43, R44, R77, R79): AX_CFG of a disabled axis takes every field, and EN loads AX_ZLOAD as the position; of an enabled one it takes EN alone;
AX_HOSTPOS moves a host-driven axis; a read of a lower word latches the upper word. -/
def Obligations.AxisWritesComplete : Prop :=
  ∀ (s : State) (a : Fin 8) (v : W32) (p : W64) (x : Axis), x = axis s a →
    (axEn x = false → bit v 0 = false → exec (.axCfgWrite a v) s = .next (icnSettle (updAxis a (fun y => { y with cfg := setBit (v &&& 0x3FF) 0 false }) s))) ∧
    (axEn x = true → bit v 0 = true → v &&& 0x3FF = x.cfg → exec (.axCfgWrite a v) s = .next (icnSettle s)) ∧
    (axEn x = true → bit v 0 = true → v &&& 0x3FF ≠ x.cfg → exec (.axCfgWrite a v) s = .next (icnSettle (pteAlarm 3 0xFFFF s))) ∧
    (axEn x = true → bit v 0 = false → (v &&& 0x3FF) ||| 1 = x.cfg → exec (.axCfgWrite a v) s = .next (icnSettle (disableAxis a false s))) ∧
    (axEn x = false → bit v 0 = true → fld v 2 1 = 3 → exec (.axCfgWrite a v) s = .next (icnSettle (settleAxis a (updAxis a (fun y =>
      { y with cfg := v &&& 0x3FF, mode := .fine, pos := y.zload, c := y.zload, base := y.zload, te := s.time, tEn := s.time, k := 0, lastT := none, ivals := [] }) s)))) ∧
    (axEn x = true → axSrc x = 3 → exec (.axHostposWrite a .whole p) s = .next (icnSettle (settleAxis a (updAxis a (fun y =>
      { y with pos := p, rev := if sdiff p y.pos = 0 then y.rev else decide (sdiff p y.pos < 0) }) s)))) ∧
    exec (.axHostposWrite a .lower p) s = .next (icnSettle (updAxis a (fun y => { y with hostLo := BitVec.ofNat 32 p.toNat }) s)) ∧
    (s.pte.latch = [] → exec (.lowerWordRead 8) s =
      .next (icnSettle { s with readData := BitVec.ofNat 64 (s.time.toNat % 2 ^ 32), pte := { s.pte with latch := [(12, BitVec.ofNat 32 (s.time.toNat / 2 ^ 32))] } }))

/-! ### The safety island (19) -/

/-- A trip from ARMING or ARMED (R613, R69, R602): HOLD, both SAFE balls asserted, SAFE_STATE set, every pending hit discarded, every output inactive, every generator
stopped; the cause is logged and recorded, TRIPS and CAUSESEQ count, alarm 0x1E is posted; the axes keep their positions (R70). -/
def Obligations.TripForcesSafeState : Prop :=
  ∀ (s t : State) (code unit detail : Nat) (classA : Bool), (s.sfi.state = .armed ∨ s.sfi.state = .arming) → t = trip code unit detail classA s →
    t.sfi.state = .hold ∧ t.sfi.cmdA = true ∧ t.sfi.cmdB = true ∧ t.pte.safeState = true ∧ OutputsIdle t ∧ hitsUsed t = 0 ∧
    (∀ o, o < 36 → (output t o).until' = some s.time) ∧ (∀ g, g < 4 → tgEn (tabD t.pte.tgs g {}) = false) ∧
    t.sfi.trips = satInc s.sfi.trips ∧ t.sfi.causeSeq = satInc s.sfi.causeSeq ∧ t.sfi.latchA = (s.sfi.latchA || classA) ∧
    t.sfi.cause = BitVec.ofNat 8 code ∧
    tabD t.sfi.log (s.sfi.causeSeq.toNat % 16) {} = { code := BitVec.ofNat 8 code, unit := BitVec.ofNat 8 unit, detail := BitVec.ofNat 32 detail, time := s.time } ∧
    t.hi.alarmCnt = s.hi.alarmCnt + 1 ∧ (∀ a, (axis t a).pos = (axis s a).pos ∧ (axis t a).mode = (axis s a).mode) ∧ t.mm = s.mm ∧ t.ex = s.ex

/-- A further trip in HOLD is logged and counted in CAUSESEQ alone (R614): neither the state, the first cause nor TRIPS change, and the outputs stay as they are. -/
def Obligations.TripInHoldIsLogged : Prop :=
  ∀ (s t : State) (code unit detail : Nat) (classA : Bool), s.sfi.state = .hold → s.sfi.cause ≠ 0 → t = trip code unit detail classA s →
    t.sfi.state = .hold ∧ t.sfi.cause = s.sfi.cause ∧ t.sfi.trips = s.sfi.trips ∧ t.sfi.causeSeq = satInc s.sfi.causeSeq ∧ t.pte = s.pte ∧ t.hi = s.hi ∧
    t.sfi.latchA = (s.sfi.latchA || classA)

/-- Every monitor's detection is a trip with its cause, unit and class while PD1 is on (R610, R611, R609, Table 19.5). -/
def Obligations.MonitorEventsTrip : Prop :=
  ∀ (s : State) (t : W64), sfiOn s = true →
    exec (.lockstepSfi t) s = .next (icnSettle (trip 0x01 0 0 true (updSfi (fun x => { x with halted := true }) (s.at t)))) ∧
    (∀ o, exec (.lockstepPte o t) s = .next (icnSettle (trip 0x02 o 0 true (s.at t)))) ∧
    (∀ o e, exec (.hitFire o (some e) t) s = .next (icnSettle (trip 0x03 0 e.toNat true (s.at t)))) ∧
    (∀ o d, outDrive (s.at t) (output s o.val) = some d →
      exec (.readbackMismatch o t) s = .next (icnSettle (trip 0x04 o 0 false (pteAlarm 4 o (updOut o (fun x => { x with force := some (!d) }) (s.at t)))))) ∧
    (∀ c, exec (.clock c t) s = .next (icnSettle (trip 0x05 c 0 false (updSfi (fun x => { x with badClock := setBit x.badClock c true }) (s.at t))))) ∧
    (∀ r, exec (.voltage r t) s = .next (icnSettle (trip 0x06 r 0 false (updSfi (fun x => { x with badRail := setBit x.badRail r true }) (s.at t))))) ∧
    exec (.safeBall false t) s = .next (icnSettle (trip 0x0F 0 0 false (updSfi (fun x => { x with forceA := some (!x.cmdA) }) (s.at t)))) ∧
    exec (.safeBall true t) s = .next (icnSettle (trip 0x0F 0 0 false (updSfi (fun x => { x with forceB := some (!x.cmdB) }) (s.at t)))) ∧
    ((s.sfi.state = .armed ∨ s.sfi.state = .arming) →
      exec (.disarm t) s = .next (icnSettle (trip 0x0D 0 0 false (updSfi (fun x => { x with armIn := false }) (s.at t))))) ∧
    (∀ w, s.sfi.halted = false → s.sfi.state = .hold → s.sfi.scb = none →
      exec (.softwareAssistedDiagnostics (some w) none t) s = .next (icnSettle (trip 0x0B 0 w.toNat true (updSfi (fun x => { x with diag := [] }) (s.at t)))) ∧
      exec (.softwareAssistedDiagnostics none (some w) t) s = .next (icnSettle (trip 0x03 0 w.toNat true (updSfi (fun x => { x with diag := [] }) (s.at t)))) ∧
      exec (.softwareAssistedDiagnostics none none t) s = .next (icnSettle (updSfi (fun x => { x with diag := [] }) (s.at t))))

/-- Arming (R606, R608): a falling edge of SFI_ARM_N in HOLD with no latched class A cause, every SFI_MON bit 0 and every REQUIRED braid RUNNING begins ARMING when both balls read
asserted; otherwise it counts ARM_REFUSED. ARMING ends in ARMED with SAFE_STATE clear, counts empty and ARMS counted, or, a ball not following, back in HOLD with SAFE_STATE never clear. (That ARMING lasts until the block next idles is the model's choice, log 58.) -/
def Obligations.ArmingSequence : Prop :=
  ∀ (s : State) (t : W64) (okA okB : Bool),
    (sfiOn s = true → s.sfi.state = .hold → s.sfi.latchA = false → s.sfi.halted = false → sfiMon s = 0 → requiredRunning s = true →
      safeAAsserted s = true → safeBAsserted s = true → exec (.sfiArmNFallingEdge okA okB t) s =
        .next (icnSettle (updSfi (fun x => { x with armIn := true, state := .arming, armOk := (okA, okB) }) (s.at t)))) ∧
    (sfiOn s = true → (s.sfi.state ≠ .hold ∨ s.sfi.latchA = true ∨ sfiMon s ≠ 0 ∨ requiredRunning s = false) → exec (.sfiArmNFallingEdge okA okB t) s =
        .next (icnSettle (updSfi (fun x => { x with armIn := true, refused := satInc x.refused }) (s.at t)))) ∧
    (sfiOn s = true → s.sfi.state = .arming → s.sfi.halted = false → s.sfi.armOk = (true, true) →
      (armFinish s).sfi.state = .armed ∧ (armFinish s).pte = { s.pte with safeState := false } ∧ (armFinish s).sfi.cmdA = false ∧ (armFinish s).sfi.cmdB = false ∧
      (armFinish s).sfi.arms = satInc s.sfi.arms ∧ (∀ b, tabD (armFinish s).sfi.misses b [] = [] ∧ tabD (armFinish s).sfi.lates b [] = [] ∧ tabD (armFinish s).sfi.axLates b [] = [])) ∧
    (sfiOn s = true → s.sfi.state = .arming → s.sfi.halted = false → s.sfi.armOk ≠ (true, true) →
      (armFinish s).sfi.state = .hold ∧ (armFinish s).pte = s.pte ∧ (armFinish s).sfi.cmdA = true ∧ (armFinish s).sfi.cmdB = true ∧ (armFinish s).sfi.cause = 0x0F ∧
      (armFinish s).sfi.refused = satInc s.sfi.refused ∧ (armFinish s).sfi.trips = s.sfi.trips ∧ (armFinish s).hi = s.hi)

/-- Conditions that end (R614) clear their SFI_MON bits; a missed deadline, of a unit that the result knot has not passed, counts for its unit once, posts alarm 0x1A and
pulses ICN source 32 + b (R225, R226). What the read of the result knot finds is counted first (16 R543-R545, `noteKnot`). -/
def Obligations.MonitorsAndDeadlines : Prop :=
  ∀ (s : State) (n t : W64) (b : Fin 16),
    (∀ c, exec (.clockInRange c) s = .next (icnSettle (updSfi (fun x => { x with badClock := setBit x.badClock c false }) s))) ∧
    (∀ r, exec (.voltageInRange r) s = .next (icnSettle (updSfi (fun x => { x with badRail := setBit x.badRail r false }) s))) ∧
    (∀ o, exec (.ballLevelRestored (.out o)) s = .next (icnSettle (updOut o (fun x => { x with force := none }) s))) ∧
    exec (.ballLevelRestored .safeA) s = .next (icnSettle (updSfi (fun x => { x with forceA := none }) s)) ∧
    exec (.ballLevelRestored .safeB) s = .next (icnSettle (updSfi (fun x => { x with forceB := none }) s)) ∧
    (∀ tn u, u = noteKnot b 0x400 (s.at t) → (braidOf s b).state = .running → (braidOf s b).deadline ≠ 0 → (n, tn, false) ∈ (braidOf s b).units ++ (braidOf s b).early → tn.toNat + (braidOf s b).deadline.toNat ≤ (timeMax s.time t).toNat →
      resolved b u ≤ n.toNat → s.sfi.state ≠ .armed → exec (.deadlineMiss b n t) s = .next (after (postAlarm 0x1A b 0 (icnPulse (32 + b) (updBraid b (fun x =>
        { x with units := x.units.map (fun u => if u.1 == n then (u.1, u.2.1, true) else u), early := x.early.filter (·.1 != n), deadlineMiss := satInc x.deadlineMiss }) u))))) ∧
    (∀ u, u = noteKnot b 0x400 (s.at t) → n.toNat < resolved b u → exec (.deadlineMiss b n t) s = .next (after u))

/-! ### Cameras and displays (06, 09) -/

/-- Camera events of an enabled port (R319-R322): an accepted packet with a good CRC makes a unit (line mode) or goes to the open unit (frame mode); a bad CRC counts and the payload is kept;
a packet of another channel or type counts for nothing; a bad header counts; start and end of frame open and close a unit; a packet outside a frame is a frame error. -/
def Obligations.CameraCommandsComplete : Prop :=
  ∀ (s u : State) (p : Fin 4) (vc : BitVec 5) (dt : BitVec 6) (bs : List Byte) (t : W64) (c : Cam), c = camOf s p → c.en = true →
    u = updCam p (fun c => { c with rx := true, lastHdr := timeMax s.time t }) (s.at t) →
    (vc = c.vc → dt = c.dt → c.dt ≠ 0 → c.frame = false → exec (.longPacket p vc dt bs true true t) s = .next (after (unitEnd p (unitBytes p bs (unitStart p u))))) ∧
    (vc = c.vc → 0x18 ≤ dt.toNat → c.dt = 0 → c.frame = true → c.open'.isSome = true → exec (.longPacket p vc dt bs true true t) s = .next (after (unitBytes p bs u))) ∧
    (vc = c.vc → dt = c.dt → c.dt ≠ 0 → c.frame = true → c.open' = none → exec (.longPacket p vc dt bs true true t) s =
      .next (after (camAlarm 4 p (updCam p (fun c => { c with cFrame := satInc c.cFrame }) u)))) ∧
    (vc = c.vc → dt = c.dt → c.dt ≠ 0 → c.frame = true → c.open'.isSome = true → exec (.longPacket p vc dt bs true false t) s =
      .next (after (unitBytes p bs (camAlarm 1 p (updCam p (fun c => { c with cCrc := satInc c.cCrc }) u))))) ∧
    (vc ≠ c.vc → exec (.longPacket p vc dt bs true true t) s = .next (after u)) ∧
    exec (.longPacket p vc dt bs false true t) s = .next (after (camAlarm 2 p (updCam p (fun c => { c with cEcc := satInc c.cEcc }) (s.at t)))) ∧
    (vc = c.vc → c.frame = true → c.open' = none → exec (.frameStart p vc t) s = .next (after (unitStart p u))) ∧
    (vc = c.vc → c.frame = true → c.open'.isSome = true → exec (.frameEnd p vc t) s = .next (after (unitEnd p u))) ∧
    (c.lastHdr.toNat + 100000000 ≤ (timeMax s.time t).toNat → exec (.camRxLoss p t) s = .next (after (updCam p (fun c => { c with rx := false }) (s.at t))))

/-- Admission of a unit to a capture ring (R218, R329): with every slot filled and not freed the unit is refused and counts in OVERRUN and in the next unit's DROPS;
otherwise it is admitted with the next number, the DROPS that stand and the stamp fields of the moment (R217). -/
def Obligations.CaptureRingAdmission : Prop :=
  ∀ (s u : State) (p : Fin 4) (f : Nat) (c : Cam), c = camOf s p → c.dest = 2 → c.fifo = [] → knotValRq (camRq p) c.ctx c.freed.toNat s = (some f, u) → camOf u p = c → u.pte = s.pte → u.time = s.time →
    (f + c.ring.slots < c.units.toNat + 1 → ∃ t, unitStart p s = t ∧ (camOf t p).cOverrun = satInc c.cOverrun ∧ (camOf t p).drops = satInc c.drops ∧ (camOf t p).units = c.units ∧
      (camOf t p).open'.map (·.admitted) = some false ∧ bit (camOf t p).alarm 0 = true) ∧
    (c.units.toNat + 1 ≤ f + c.ring.slots → ∃ t o, unitStart p s = t ∧ (camOf t p).open' = some o ∧ o.admitted = true ∧ o.n = c.units ∧ o.drops = c.drops ∧ o.time = s.time ∧
      o.pos = axPos (axis s c.axis.toNat) s.now ∧ o.axis = c.axis ∧ bit o.flags 2 = true ∧ (camOf t p).units = c.units + 1 ∧ (camOf t p).cUnits = c.cUnits + 1 ∧ (camOf t p).drops = 0)

/-- Displays (R333-R345): a latch point scans the frame, takes shadow sets, completes what waits on it and latches the output's layers; DPO_CTRL takes its fields while EN = 0, and EN only if
the mode fits (R342, R343); training, messages (a DSI message of an enabled output waits for the next latch point and cannot end before it, R345) and hot-plug levels. -/
def Obligations.DisplayCommandsComplete : Prop :=
  ∀ (s : State) (d : Fin 2) (v : W32) (t : W64) (ok : Bool) (o : MsgOutcome) (bs : List Byte) (x : Dpo), x = dpoOf s d →
    (∀ a b, bit x.ctrl 0 = true → (scanFrame d (s.at t)).time = timeMax s.time t → a = latchDone d (activate d (dropOld (updDpo d (fun x => { x with frames := x.frames + 1, latches := x.latches + 1, line := BitVec.ofNat 16 (vActive x), lineT := timeMax s.time t, msgHeld := false }) (scanFrame d (s.at t))))) →
      b = (List.range 16).foldl (fun s n => if (layerOf s n).active.en ∧ (layerOf s n).active.output = d then latchLayer n s else s) a →
      exec (.latchPoint d t) s = .next (after (latchWb d b))) ∧
    (bit x.ctrl 0 = false → bit v 0 = false → exec (.dpoCtrlWrite d v) s = .next (after (updDpo d (fun x => { x with ctrl := v &&& 0xFFE }) s))) ∧
    (bit x.ctrl 0 = false → bit v 0 = true → modeOk d (v &&& 0xFFE) x = true → exec (.dpoCtrlWrite d v) s =
      .next (after (settlePd (updDpo d (fun x => { x with ctrl := v &&& 0xFFE ||| 1, modeErr := false, line := 0, lineT := s.time }) s)))) ∧
    (bit x.ctrl 0 = false → bit v 0 = true → modeOk d (v &&& 0xFFE) x = false → exec (.dpoCtrlWrite d v) s = .next (after (updDpo d (fun x => { x with ctrl := v &&& 0xFFE, modeErr := true }) s))) ∧
    (bit x.ctrl 0 = true → bit v 0 = true → exec (.dpoCtrlWrite d v) s = .next (after s)) ∧
    ((fld x.ctrl 7 5 = 0 ∨ fld x.ctrl 7 5 = 3 ∨ 5 < fld x.ctrl 7 5 ∨ bit x.ctrl 8 = true) → d = 0 →
      exec (.train d) s = .next (after (updDpo d (fun x => { x with training := true, link := false, trainErr := false }) s))) ∧
    (fld x.ctrl 7 5 = 1 → bit x.ctrl 8 = false → d = 0 → exec (.train d) s = .next (after (updDpo d (fun x => { x with link := false, trainErr := true }) s))) ∧
    (x.training = true → exec (.trainComplete d ok) s = .next (after (updDpo d (fun x => { x with training := false, link := ok, trainErr := !ok }) s))) ∧
    (x.busy = false → exec (.dpoMsggo d) s = .next (after (updDpo d (fun x => { x with busy := true, done' := false, nack := false, timeout := false, rlen := 0, msgOf := x.msgCtl, msgBytes := (leBytes 16 x.data.toNat).take (fld x.msgCtl 31 28 + 1), msgHeld := (d : Nat) == 1 && dpoOn x }) s))) ∧
    (x.busy = true → exec (.dpoMsggo d) s = .next (after s)) ∧
    (x.busy = true → x.msgHeld = true → exec (.messageDone d o bs) s = .next (after s)) ∧
    (x.busy = true → x.msgHeld = false → exec (.messageDone d o bs) s = .next (after (updDpo d (fun x =>
      { x with busy := false, done' := o == .done, nack := o == .nack, timeout := o == .timeout, rlen := BitVec.ofNat 5 (bs.take 16).length,
               data := BitVec.ofNat 128 (leVal (putB (leBytes 16 x.data.toNat) 0 (bs.take 16))) }) s))) ∧
    exec (.hpd d ok) s = .next (after (updDpo d (fun x => { x with hpd := ok }) s))

/-! ### Braids and models (06, 07) -/

/-- A draining braid's events (R229-R231, R233): at the result knot's last unit its channel knots are abandoned; when its blocks have ended it is STOPPED and its drains complete with success; at
the drain timeout it halts and they complete with 0x0302. Model events (R258-R261): the last reference of an EVICTING model empties it. MIXED_STEP stages follow each other; past the last, once no remote store of its
blocks is unacknowledged, the step writes the lengths and ends, with 0x0001 where a sequence was excluded (R268-R272). -/
def Obligations.BraidModelEventsComplete : Prop :=
  ∀ (s u : State) (b : Fin 16) (m : Fin 1024) (t : W64) (x : Braid), x = braidOf s b → u = noteKnot b 0x400 s →
    (x.state = .draining → x.drained = false → x.admitted.toNat ≤ resolved b u →
      exec (.drainResultReached b) s = .next (after (abandonKnots b (chanKnots x) (updBraid b (fun x => { x with drained := true }) u)))) ∧
    (x.state = .draining → x.admitted.toNat ≤ resolved b u → strandBlocks s b = [] → x.drained = true → x.flush = false →
      exec (.drainBlocksEnded b) s = .next (after (endDrains b 0x0000 (icnPulse (32 + b) (updBraid b (fun x => { x with state := .stopped })
        (updBraid b (fun x => { x with status := 0, units := [], early := [] }) u)))))) ∧
    (x.state = .draining → x.flush = false → x.drainEnd.toNat ≤ (timeMax s.time t).toNat →
      exec (.braidDrainTimeout b t) s = .next (after (endDrains b 0x0302 (updBraid b (fun x => { x with status := 0x0302 }) (haltBraid b .stopped (s.at t)))))) ∧
    exec (.selectionRecordRetired b) s = .next (after (kick (settleOrphans s))) ∧
    ((modelOf s m).state = .evicting → modelUses m s = 0 →
      exec (.usesZero m) s = .next (after ((s.ex.cmds.filter (evicting m)).foldl (fun s c => finish c.id 0x0000 s) (emptyModel m s)))) ∧
    (∀ y c k es sc d, findCmd s c = some y → y.work = .step m k es sc d → y.phase = .running → stageEnded s c d = true → (k = 0 → stepsPast s m < 4) →
      exec (.mixedStepStageEnd c) s = .next (after (advanceSteps (updCmd c (fun y => { y with work := .step m (k + 1) es sc noDispatch }) s)))) ∧
    (∀ y es v w, acksDue s y.id = false → writablePieces (cmdCtx y) y.who.rq ((es.filter fun e => !e.excluded).map fun e => (e.seq.toNat, 64)) s = (.ok, v) →
      putLengths y (es.filter fun e => !e.excluded) v = (.ok, w) → endStep y es s = finish y.id (if es.any (·.excluded) then 0x0001 else 0x0000) w)

/-! ### The host interface (11) -/

/-- Doorbells (R399, R400): in RUN, a TAIL that would cover more than the ring, or a CHEAD past what was written, is ignored: DOORBELL_ERR counts and HIF_ALARM bit 0 is set; any other takes effect: a TAIL lets the front end
take the packets below it, a CHEAD makes room in which records that wait are written (R405). -/
def Obligations.DoorbellsComplete : Prop :=
  ∀ (s : State) (fn : Fin 9) (q : Fin 256) (v : W32) (x : Queue), x = queueOf s q → barOn s fn = true → s.pwr.state = .run → queueActive s q = true → queueMine s fn q = true →
    ((x.tail - BitVec.ofNat 32 x.fetch.toNat).toNat + (v - x.tail).toNat ≤ 2 ^ x.size →
      exec (.tail fn q v) s = .next (after (kick (updQueue q (fun x => { x with tail := v }) s)))) ∧
    (2 ^ x.size < (x.tail - BitVec.ofNat 32 x.fetch.toNat).toNat + (v - x.tail).toNat → ∃ u, exec (.tail fn q v) s = .next (after u) ∧
      u.ex = s.ex ∧ u.mm = s.mm ∧ (funcOf u fn).doorbellErr = satInc (funcOf s fn).doorbellErr ∧ bit (funcOf u fn).alarm 0 = true) ∧
    ((x.written - v).toNat ≤ 2 ^ x.csize → exec (.chead fn q v) s = .next (after (kick (flushRec q (updQueue q (fun x => { x with chead := v }) s))))) ∧
    (2 ^ x.csize < (x.written - v).toNat → ∃ u, exec (.chead fn q v) s = .next (after u) ∧
      u.ex = s.ex ∧ u.mm = s.mm ∧ (funcOf u fn).doorbellErr = satInc (funcOf s fn).doorbellErr ∧ bit (funcOf u fn).alarm 0 = true)

/-- ROOTQ_CTRL.EN and MIRROR_BASE (R394, R409): with READY and ring sizes of 2^4 to 2^16 slots, enabling makes the function's root queue afresh with every count zero; otherwise HIF_ALARM
bit 2 is set and nothing else changes; disabling one without packets or waiting records frees it. A new BASE makes the next publication whole. -/
def Obligations.RootQueueAndMirrorComplete : Prop :=
  ∀ (s : State) (fn : Fin 9) (v : W32) (w : W64) (f : Func), f = funcOf s fn → barOn s fn = true →
    (bit v 0 = true → f.rootqOn = false → hifReady s fn = true → 4 ≤ fld f.rootqCfg 4 0 → fld f.rootqCfg 4 0 ≤ 16 → 4 ≤ fld f.rootqCfg 12 8 → fld f.rootqCfg 12 8 ≤ 16 →
      ∃ q u, exec (.rootqCtrl fn v) s = .next (after u) ∧ u = updQueue (rootQ fn) (fun _ => q) (updFunc fn (fun f => { f with rootqOn := true }) s) ∧
        q.life = .live ∧ q.root = true ∧ q.fn = fn ∧ q.tail = 0 ∧ q.fetch = 0 ∧ q.written = 0 ∧ q.chead = 0 ∧ q.accepted = 0 ∧ q.completed = 0 ∧
        q.size = fld f.rootqCfg 4 0 ∧ q.csize = fld f.rootqCfg 12 8 ∧ q.ring = f.rootqBase ∧ q.cring = f.rootqCbase) ∧
    (bit v 0 = true → f.rootqOn = false → hifReady s fn = false → exec (.rootqCtrl fn v) s =
      .next (after (postAlarm 0x12 fn 0 (updFunc fn (fun f => { f with alarm := setBit f.alarm 2 true }) s)))) ∧
    (bit v 0 = false → (queueOf s (rootQ fn)).root = true → (∀ c ∈ s.ex.cmds, c.q.val ≠ rootQ fn) → (queueOf s (rootQ fn)).waitRecs = [] → exec (.rootqCtrl fn v) s =
      .next (after (updQueue (rootQ fn) (fun _ => {}) (updFunc fn (fun f => { f with rootqOn := false }) s)))) ∧
    exec (.mirrorBaseWrite fn w) s = .next (icnSettle (updFunc fn (fun f =>
      { f with mirror := setFld w 15 1 0, mirrorWhole := f.mirrorWhole || setFld w 15 1 0 != f.mirror }) s))

/-- Register accesses and BAR2 (R79, R350, R386-R389, R587): an aligned access of 4 or 8 bytes inside the function's window to a powered block reads or writes the register, or the 64-bit field as
one; any other reads 0 or is ignored; one to a block that is off reads 0 or is ignored, and counts; a BAR2 access is split at pages, and a piece that may not pass reads as ones or is dropped, and counts;
poison of what a BAR2 read finds shows in its completion, and a poisoned TLP received shows in the function's AER status (Table 11.1). -/
def Obligations.HostAccessesComplete : Prop :=
  ∀ (s u : State) (fn : Fin 9) (off : W32) (o : W64) (v : W64) (r : W32) (bs : PB) (w : State), barOn s fn = true →
    w = (if anyPoison bs then updFunc fn (fun f => { f with aer := setBit f.aer 12 true }) s else s) →
    (accessOk fn off.toNat 4 = true → blockOff s off.toNat = false → regRead fn off.toNat s = (r, u) → exec (.hostaccRead fn ⟨off, 4⟩) s = .next (after { u with readData := BitVec.ofNat 64 r.toNat })) ∧
    (∀ d, accessOk fn off.toNat 8 = true → blockOff s off.toNat = false → regReadWide fn off.toNat s = (d, u) → exec (.hostaccRead fn ⟨off, 8⟩) s = .next (after { u with readData := d })) ∧
    (∀ len, (len = 4 ∨ len = 8 → accessOk fn off.toNat len = false) → exec (.hostaccRead fn ⟨off, len⟩) s = .next (after { s with readData := 0 }) ∧
      exec (.registerWrite fn off len v) s = .next (after s)) ∧
    (∀ len, len = 4 ∨ len = 8 → accessOk fn off.toNat len = true → blockOff s off.toNat = true → s.pwr.state = .run →
      exec (.hostaccRead fn ⟨off, len⟩) s = .next (after { s with readData := 0, pwr := { s.pwr with offacc := satInc s.pwr.offacc } }) ∧
      exec (.registerWrite fn off len v) s = .next (after { s with pwr := { s.pwr with offacc := satInc s.pwr.offacc } })) ∧
    (accessOk fn off.toNat 4 = true → blockOff s off.toNat = false → exec (.registerWrite fn off 4 v) s = .next (after (regWrite fn off.toNat (BitVec.ofNat 32 v.toNat) s))) ∧
    (accessOk fn off.toNat 8 = true → blockOff s off.toNat = false → off.toNat < 0x50000 → exec (.registerWrite fn off 8 v) s =
      .next (after (regWrite fn (off.toNat + 4) (BitVec.ofNat 32 (v.toNat / 2 ^ 32)) (regWrite fn off.toNat (BitVec.ofNat 32 v.toNat) s)))) ∧
    (∀ a : Fin 8, accessOk fn off.toNat 8 = true → blockOff s off.toNat = false → off.toNat = 0x101028 + 0x100 * a → exec (.registerWrite fn off 8 v) s = .next (after (writeZload a v s))) ∧
    (∀ d p, 0 < bs.length → s.pwr.state = .run → bar2In s fn (o.toNat + bs.length - 1) = true → bar2Get fn (pagePieces (bar2Va (funcOf s fn) o.toNat) bs.length) s = (d, false, p, u) →
      exec (.bar2Read fn o bs.length) s = .next (after { u with readData := BitVec.ofNat 64 (leAt d 0 8), readBytes := d, readPoison := p })) ∧
    (bs ≠ [] → s.pwr.state = .run → bar2In s fn (o.toNat + bs.length - 1) = true → bar2Put fn (pagePieces (bar2Va (funcOf w fn) o.toNat) bs.length) bs w = (false, u) →
      exec (.bar2Write fn o bs) s = .next (after u)) ∧
    (bs ≠ [] → s.pwr.state = .run → bar2In s fn (o.toNat + bs.length - 1) = true → bar2Put fn (pagePieces (bar2Va (funcOf w fn) o.toNat) bs.length) bs w = (true, u) →
      exec (.bar2Write fn o bs) s = .next (after (postAlarm 0x11 fn 0 (updFunc fn (fun f => { f with alarm := setBit f.alarm 1 true })
        (updFunc fn (fun f => { f with bar2Fault := satInc f.bar2Fault }) u)))))

/-- R414, R416 and R417, whole: a source is eligible for its target when it is enabled, PENDING, not ACTIVE and of a PRIO above THRESHOLD; the winner is the eligible source of highest PRIO and of
lowest number among equals. A read of CLAIM answers the winner, making it ACTIVE and clearing its latched PENDING; 1023 where a message was outstanding and no source is eligible; else 1022. A write to
COMPLETE of a source that is ACTIVE for the target clears ACTIVE, any other value changes nothing, and a source still PENDING is then eligible again. -/
def Obligations.ConcentratorCommandsComplete : Prop :=
  ∀ (s : State) (t : Fin 9) (v : W32) (thr : Nat), barOn s t = true → thr = fld (tabD s.hi.icn.tgts t {}).cfg 3 0 →
    (∀ n c, icnEligible t thr n c = true ↔ (c.en = true ∧ icnPending n c = true ∧ c.active = false ∧ thr < c.prio.toNat ∧ icnTargetOf c = t)) ∧
    (∀ n, icnWinner s.hi.icn t = some n ↔ n < 256 ∧ icnEligible t thr n (tabD s.hi.icn.srcs n {}) = true ∧
      ∀ m, m < 256 → icnEligible t thr m (tabD s.hi.icn.srcs m {}) = true →
        (tabD s.hi.icn.srcs m {}).prio.toNat < (tabD s.hi.icn.srcs n {}).prio.toNat ∨ ((tabD s.hi.icn.srcs m {}).prio = (tabD s.hi.icn.srcs n {}).prio ∧ n ≤ m)) ∧
    (icnWinner s.hi.icn t = none ↔ ∀ m, m < 256 → icnEligible t thr m (tabD s.hi.icn.srcs m {}) = false) ∧
    (∀ n, icnWinner s.hi.icn t = some n → exec (.icnClaim t) s = .next (icnSettle { s with readData := BitVec.ofNat 64 n, hi := { s.hi with icn :=
      { s.hi.icn with tgts := tabUpd s.hi.icn.tgts t (fun x => { x with outstanding := false }), srcs := tabUpd s.hi.icn.srcs n (fun c => { c with active := true, pending := false }) } } })) ∧
    (∀ d : W64, icnWinner s.hi.icn t = none → d = (if (tabD s.hi.icn.tgts t {}).outstanding then 1023 else 1022) → exec (.icnClaim t) s = .next (icnSettle { s with readData := d, hi :=
       { s.hi with icn := { s.hi.icn with tgts := tabUpd s.hi.icn.tgts t (fun x => { x with outstanding := false }) } } })) ∧
    (∀ n c, n = fld v 9 0 → c = tabD s.hi.icn.srcs n {} → c.active = true → icnTargetOf c = t → exec (.icnComplete t v) s = .next (icnSettle { s with hi := { s.hi with icn := { s.hi.icn with
      srcs := tabUpd s.hi.icn.srcs n (fun c => { c with active := false }) } } }) ∧
      (c.en = true → icnPending n c = true → thr < c.prio.toNat → icnEligible t thr n { c with active := false } = true)) ∧
    (∀ c, c = tabD s.hi.icn.srcs (fld v 9 0) {} → (c.active = false ∨ icnTargetOf c ≠ t) → exec (.icnComplete t v) s = .next (icnSettle s))

/-- The link, the configuration space and the resets of the functions (R379-R383, R389, R631): link loss and a PF reset return every configuration space and drop what belongs to the
functions; a VF reset drops its contexts, root queue and registers. -/
def Obligations.LinkAndResetsComplete : Prop :=
  ∀ (s : State) (fn : Fin 9) (v : W32) (vf : Fin 8) (rate : Fin 5) (width : Fin 4),
    (2 ≤ s.boot.stage.toNat → s.pwr.state ≠ .dormant → exec (.pcieLinkUp rate width) s =
      .next (icnSettle { s with wakeN := false, hi := { s.hi with pcie := { up := true, rate := rate, width := width } } })) ∧
    (∃ t, exec .pcieLinkDown s = .next (icnSettle t) ∧ t.hi.pcie.up = false ∧ t.ex = s.ex ∧ t.mm = s.mm ∧ ∀ i, i < 9 → (funcOf t i).busMaster = false ∧ (funcOf t i).memDecode = false ∧
      (funcOf t i).bar2Size = 8 ∧ (funcOf t i).rootqOn = (funcOf s i).rootqOn) ∧
    (s.hi.pcie.up = true → (funcOf s fn).enabled = true →
      exec (.configurationSpaceWrite fn .busMaster v) s = .next (icnSettle (updFunc fn (fun x => { x with busMaster := bit v 0 }) s)) ∧
      exec (.configurationSpaceWrite fn .memDecode v) s = .next (icnSettle (updFunc fn (fun x => { x with memDecode := bit v 0 }) s)) ∧
      ((funcOf s fn).memDecode = false → 8 ≤ v.toNat → v.toNat ≤ 12 → exec (.configurationSpaceWrite fn .bar2Size v) s = .next (icnSettle (updFunc fn (fun x => { x with bar2Size := v }) s)))) ∧
    exec (.pfReset .flr) s = .next (after (publish (updHi (fun h => { h with
      funcs := Vector.ofFn (fun i => { Func.reset (i.val == 0) with enabled := i.val == 0 }), icn := { srcs := h.icn.srcs.map (fun c => { input := c.input }) } })
        ((List.range 9).foldl (fun s fn => dropRoot fn s) ((List.range 64).foldl (fun s c => destroyNow c s) s))))) ∧
    (vfPart s vf = none → exec (.vfFunctionLevelReset vf) s = .next (after (publish (updHi (fun h => { h with icn := { h.icn with tgts := tabUpd h.icn.tgts (vf.val + 1) (fun _ => {}) } })
      (updFunc (vf.val + 1) (fun f => { Func.reset false with enabled := f.enabled }) (dropRoot (vf.val + 1) s))))))

/-! ### Packets: acceptance, start and completion (10, 11, 12) -/

/-- A packet of every packet row that its queue's front end can take, on a block with no other packet in its rings and no other command, is accepted and starts at once (R374, R397-R399, R422,
R424, R510): its timeout runs from now, and it is refused with the status of its body, or does what its opcode does at its start; then loads, steps, draws, launches and turns go on. While its
slots do not lie below TAIL the packet stands in its ring (R399). -/
def Obligations.PacketsStart : Prop :=
  ∀ (i : Instr) (q : Fin 256) (p : Pkt) (s z : State), packetOf i = some (q, p, true) → (queueOf s q).life = .live → holding s = false → z = goOn (placePkt q { pkt := p } s) →
    (∀ (a b : State) (c d : Cmd), slotsHeld z = 1 → feNext z = some q.val → headPkt z q = some { pkt := p } →
      a = feTook q { pkt := p } z → a.ex.cmds = [c] → c.phase = .waiting → holding a = false → fwOn a = true → ringFullQ (queueOf a c.q) = false → faultWaits a c.id = false → a.mm.xl.missq = [] →
      d = { c with startT := some (c.startT.getD a.time) } → b = startAcquire d (updCmd c.id (fun _ => d) a) →
      (∀ st, contextGone b d = false → bodyBad b d.q d.pkt = some st →
        exec i s = .next (after (schedSettle (graphsGo (advanceDraws (advanceSteps (advanceLoads (finish c.id st b)))))))) ∧
      (contextGone b d = false → bodyBad b d.q d.pkt = none → statusOk d.status = true → pktSignal d.pkt = false →
        exec i s = .next (after (schedSettle (graphsGo (advanceDraws (advanceSteps (advanceLoads (applyStart c.id (startOp d b)))))))))  ∧
      (contextGone b d = false → bodyBad b d.q d.pkt = none → statusOk d.status = true → pktSignal d.pkt = true →
        exec i s = .next (after (schedSettle (graphsGo (advanceDraws (advanceSteps (advanceLoads (applyStart c.id (match checkCknot d b with | (.running, u) => startOp d u | r => r)))))))))) ∧
    (feNext z = none → exec i s = .next (after z))

/-- Acceptance and framing of a packet whose slots were fetched without fault or poison (R395, R397-R399, R402): a packet that fails a check of Table 11.5 executes nothing and its command is
done with the status; a good one is the newest command of its queue and waits; either way FETCH passes its slots and ACCEPTED counts one. The fetch of a root queue's slots changes no command, queue or
memory. A packet that the front end takes is the first of its ring, lies whole below TAIL (R399), and is of a queue of the lowest tier with a pending doorbell (R510). -/
def Obligations.AcceptanceAndFraming : Prop :=
  ∀ (q : Fin 256) (p : Pkt) (s v : State) (x y : Queue) (n : Nat) (k : Cmd), x = queueOf s q → y = queueOf v q →
    n = (if pktLength p = 0 ∨ 2 ^ x.size < pktLength p then 1 else pktLength p) →
    (∀ st, fetchSlots q n s = (.ok, v) → framingBad (2 ^ x.size) (contextOk v q (pktContext p)) p = some st → ∃ u, acceptPkt q p false false s = u ∧
      u.ex.cmds = v.ex.cmds ++ [{ id := v.ex.nextCmd, q := fin' 255 q, pkt := failedPkt false p, phase := .done, status := st }] ∧
      (queueOf u q).fetch = y.fetch + BitVec.ofNat 64 n ∧ (queueOf u q).accepted = y.accepted + 1 ∧ u.mm = v.mm ∧ u.pte = v.pte) ∧
    (fetchSlots q n s = (.ok, v) → framingBad (2 ^ x.size) (contextOk v q (pktContext p)) p = none → pktOpcode p ≠ 0x41 → pktOpcode p ≠ 0x51 → pktOpcode p ≠ 0xA1 → pktOpcode p ≠ 0xA3 →
      pktContext p = 0xFF ∨ (namedKnots p = [] ∧ sigCount v ≤ 65536) → k = { id := v.ex.nextCmd, q := fin' 255 q, pkt := p, phase := .waiting, status := 0 } → (∀ z ∈ v.ex.cmds, z.id ≠ k.id) → ∃ u, acceptPkt q p false false s = u ∧
      u.ex.cmds = v.ex.cmds ++ [k] ∧ (queueOf u q).fetch = y.fetch + BitVec.ofNat 64 n ∧ (queueOf u q).accepted = y.accepted + 1 ∧ u.mm = v.mm ∧ u.pte = v.pte) ∧
    (∀ f, x.root = true → x.abortFetch = none → fetchSlots q n s = (f, v) → v.ex = s.ex ∧ v.mm = s.mm ∧ v.pte = s.pte ∧ y = x) ∧
    (∀ hp ap, (framingBad (2 ^ x.size) (contextOk s q (pktContext p)) p).isSome = true → x.life = .live → holding s = false →
      exec (.framingFailure q p hp ap) s = .next (after (kick (placePkt q { pkt := p, hdrPoison := hp, anyPoison := ap } s)))) ∧
    (∀ k r, feNext s = some k → headPkt s k = some r → feStep s = some (goOn (feTook k r s)) ∧ (queueOf s k).slots.head? = some r ∧
      pktSlots (2 ^ (queueOf s k).size) r.pkt ≤ ((queueOf s k).tail - BitVec.ofNat 32 (queueOf s k).fetch.toNat).toNat ∧ takesPkt s k = true ∧
      ∀ j, j < 256 → doorbellPending s j = true → queueTier (queueOf s k) ≤ queueTier (queueOf s j))

/-- COMMAND_COMPLETION and EPOCH_PUBLICATION (R347, R352, R404, R405): the count of COMPLETED and a publication come first, then the record (Table 11.6) with its PHASE in the completion
ring of a root queue, or, where the ring is full, a record that waits behind those that do. A command with posted remote stores that are not acknowledged does not complete (R130, R569). -/
def Obligations.CompletionComplete : Prop :=
  ∀ (q : Fin 256) (s w u : State) (c : Cmd) (x y : Queue), s.ex.cmds = [c] → c.q = q → c.phase = .done → c.startT.isSome = true → c.parent = none → pktSignal c.pkt = false → pktIrq c.pkt = false →
    pktOpcode c.pkt ≠ 0xF0 → x = queueOf s q → fwOn s = true → holding s = false → acksDue s c.id = false →
    w = publishNow (updQueue q (fun z => { z with completed := z.completed + 1, lastStatus := c.status, lastTag := pktTag c.pkt }) (updEx (fun e => { e with cmds := [] }) s)) → y = queueOf w q →
    (ringFullQ y = false → u = writeRec q (recordWords q c (x.completed + 1)) w → exec (.commandCompletion q) s = .next (after (kick (settleRoot y.fn u)))) ∧
    (ringFullQ y = true → u = updQueue q (fun z => { z with waitRecs := z.waitRecs ++ [{ dws := recordWords q c (x.completed + 1), irq := false }] }) w →
      exec (.commandCompletion q) s = .next (after (kick (settleRoot y.fn u)))) ∧
    (y.completed = x.completed + 1 ∧ y.lastStatus = c.status ∧ y.written = x.written ∧ w.ex.cmds = [] ∧ w.pte = s.pte ∧ w.hi.page.epoch = s.hi.page.epoch + 2 ∧ w.hi.page.pubtime = s.time) ∧
    (y.root = true → busOn w y.fn = true → u = writeRec q (recordWords q c (x.completed + 1)) w → (queueOf u q).written = x.written + 1 ∧
      u.mm.host.cells = (w.mm.host.putBytes (y.cring.toNat + 32 * (y.written.toNat % 2 ^ y.csize))
        (wordsBytes (setBit ((recordWords q c (x.completed + 1)).getD 0 0) 31 ((y.written.toNat / 2 ^ y.csize) % 2 = 0) :: (recordWords q c (x.completed + 1)).drop 1))).cells) ∧
    exec .epochPublication s = .next (after (publishNow s))

/-- Timeouts (R424-R426): before its end a timeout changes nothing but the time; after it a waiting command of the "waits" class is done with 0x0303, one that has begun goes on, and a drain-or-kill
command is killed with 0x0302, or done with 0x0301 where no group runs for it. -/
def Obligations.TimeoutsComplete : Prop :=
  ∀ (c : Nat) (t : W64) (s u : State) (y : Cmd) (e : W64), u = s.at t → findCmd u c = some y → y.id = c → fwOn u = true →
    (timedOut u y = false → exec (.commandTimeout c t) s = .next (after u)) ∧
    (timedOut u y = true → pktOpcode y.pkt ∈ [0x10, 0x11, 0x12, 0x3B, 0x61] → y.phase = .waiting → exec (.commandTimeout c t) s = .next (after (kick (finish c 0x0303 u)))) ∧
    (timedOut u y = true → pktOpcode y.pkt ∈ [0x10, 0x11, 0x12, 0x3B, 0x61] → y.phase ≠ .waiting → exec (.commandTimeout c t) s = .next (after (kick u))) ∧
    (timedOut u y = true → pktOpcode y.pkt ∈ [0x20, 0x3A, 0x41, 0x60, 0x62] → pktKill y.pkt = true → exec (.commandTimeout c t) s = .next (after (kick (killCmd y 0x0302 u)))) ∧
    (timedOut u y = true → pktOpcode y.pkt ∈ [0x20, 0x3A, 0x41, 0x60, 0x62] → pktKill y.pkt = false → y.phase = .waiting →
      exec (.commandTimeout c t) s = .next (after (kick (finish c 0x0301 u)))) ∧
    (y.drainEnd = some e → y.phase ≠ .done → e.toNat ≤ u.now → (∀ z ∈ u.ex.cmds, z.parent ≠ some c) → (∀ p, y.work ≠ .render p) → ownedBy u c = true →
      exec (.timeoutDrainAllowance c t) s = .next (after (kick (killCmd y 0x0302 u)))) ∧
    (y.drainEnd = some e → y.phase ≠ .done → e.toNat ≤ u.now → (∀ z ∈ u.ex.cmds, z.parent ≠ some c) → (∀ p, y.work ≠ .render p) → ownedBy u c = false →
      exec (.timeoutDrainAllowance c t) s = .next (after (kick (killCmd y 0x0301 u)))) ∧
    (y.drainEnd = some e → u.now < e.toNat → exec (.timeoutDrainAllowance c t) s = .next (after u))

/-- The scheduler's events (R508, R509, R512, R515-R520): the first candidate that a core can take gets its next blocks on cores that can take them; a command that found no core for 1 ms claims the
first core that would fit; the turn of a share class that is over passes on. -/
def Obligations.SchedulerComplete : Prop :=
  ∀ (s : State) (part : Fin 8) (n : Nat) (t : W64),
    (∀ (u : State) (c : Cmd) (r : List Cand) (d : Dispatching) (ks : List Nat), u = reserveTiles (schedPart part s) → (partOf u part).en = true → candidates u part = .cmd c :: r → nextNeeds c = some d →
      chooseCores u c (candSource u part (.cmd c)) d = ks → ks ≠ [] →
      exec (.blockDispatch part) s = .next (after (schedPart part (dispatched c.id ks.length (placeDispatch c d 0 ks u)))) ∧
      ∀ k ∈ ks, coreTakes u c.id (candSource u part (.cmd c)) d.groups (codeRegs u d.code) d.lmSize k = true) ∧
    ((partOf (reserveTiles (schedPart part s)) part).en = false → exec (.blockDispatch part) s = .next (after (reserveTiles (schedPart part s)))) ∧
    (∀ (u : State) (y : Cmd) (d : Dispatching) (f : W64) (k : Nat), u = s.at t → findCmd u n = some y → nextNeeds y = some d → y.phase = .running → d.bound = [] → d.noCoreSince = some f →
      f.toNat + 1000000 ≤ u.now → (∀ i, i < 32 → (coreOf u i).claim ≠ some (.cmd n)) →
      (partCores u (cmdPart u y)).find? (claimable u (cmdPart u y) d) = some k →
      exec (.coreClaim n t) s = .next (after (updCore k (fun x => { x with claim := some (.cmd n) }) u))) ∧
    (∀ (u : State) (c : Fin 16), u = schedPart part (s.at t) → (partOf u part).turn = some c →
      (turnOver u part c = true → exec (.turnEnd part t) s = .next (after (endTurn part c u))) ∧ (turnOver u part c = false → exec (.turnEnd part t) s = .next (after u)))

/-- R616, while the SFI is ARMED or ARMING: an AXIS_CONFIG of a safety axis, an OUT_CONFIG of a safety output, and a BRAID_DEFINE or BRAID_STOP of a REQUIRED braid, each past steps 1 and 2 of R422, end
with 0x0702 and change nothing. (A generator that would run on a disabled axis is a range of step 2, log 60.) -/
def Obligations.ArmedConfigurationRefused : Prop :=
  ∀ (s : State) (c : Cmd), s.sfi.state = .armed ∨ s.sfi.state = .arming →
    (pktOpcode c.pkt = 0x70 → safetyAxis s (fld (dw c.pkt 8) 2 0) = true →
      (bit (dw c.pkt 8) 5 = false ∨ bit (dw c.pkt 8) 8 = false ∨ (fld (dw c.pkt 18) 3 1 = fld (dw c.pkt 8) 2 0 ∧ bit (dw c.pkt 8) 3 = true) ∨
        (fld (dw c.pkt 18) 3 1 ≠ fld (dw c.pkt 8) 2 0 ∧ axEn (axis s (fld (dw c.pkt 18) 3 1)) = true)) → startOp c s = (.ended 0x0702, s)) ∧
    (pktOpcode c.pkt = 0x72 → (∃ o, o < 36 ∧ (dq c.pkt 8).testBit o = true ∧ safetyOut s o = true) → startOp c s = (.ended 0x0702, s)) ∧
    (pktOpcode c.pkt = 0x30 → requiredBraid s (fld (dw c.pkt 8) 3 0) = true → startOp c s = (.ended 0x0702, s)) ∧
    (pktOpcode c.pkt = 0x32 → requiredBraid s (fld (dw c.pkt 8) 3 0) = true → startOp c s = (.ended 0x0702, s))

/-- What the packets that manage the device do at their start (Table 12.3): NOP, contexts and queues (R448-R453), POWER_HINT (R584), the log and trace rings (R445, R447), a partition (R467, R471),
AXIS_CONFIG and OUT_CONFIG (R439), GRAPH_FREE (R365). -/
def Obligations.ManagementPackets : Prop :=
  ∀ (s : State) (c : Cmd) (d : W32), d = dw c.pkt 8 →
    (pktOpcode c.pkt = 0x00 → startOp c s = (.ended 0, s)) ∧
    (∀ i, pktOpcode c.pkt = 0xA0 → rootFn s c = 0 → (partOf s (fld d 2 0)).en = true → dq c.pkt 10 % 4096 = 0 → dq c.pkt 10 < 2 ^ 36 → i < 64 → (ctxOf s i).life = .free →
      (∀ j, j < i → (ctxOf s j).life ≠ .free) → ∃ u, startOp c s = (.ended 0, setRes0 c.id i u) ∧ u.mm = s.mm ∧ (ctxOf u i).life = .live ∧ (ctxOf u i).part.val = fld d 2 0 ∧
        (ctxOf u i).generation = (ctxOf s i).generation + 1 ∧ (ctxOf u i).root.toNat = dq c.pkt 10 ∧ ∀ j, j ≠ i → ctxOf u j = ctxOf s j) ∧
    (pktOpcode c.pkt = 0xA0 → rootFn s c = 0 → (partOf s (fld d 2 0)).en = true → dq c.pkt 10 % 4096 = 0 → dq c.pkt 10 < 2 ^ 36 → (∀ j, j < 64 → (ctxOf s j).life ≠ .free) → startOp c s = (.ended 0x0201, s)) ∧
    (pktOpcode c.pkt = 0xA0 → rootFn s c = 0 → ((partOf s (fld d 2 0)).en = false ∨ dq c.pkt 10 % 4096 ≠ 0 ∨ 2 ^ 36 ≤ dq c.pkt 10) → startOp c s = (.ended 0x0106, s)) ∧
    (pktOpcode c.pkt = 0xA2 → (fld d 1 0 = 3 ∨ fld d 12 8 < 4 ∨ 16 < fld d 12 8 ∨ fld d 20 16 < 4 ∨ 16 < fld d 20 16 ∨ vectors (rootFn s c) ≤ fld d 29 24 ∨ dq c.pkt 10 % 4096 ≠ 0 ∨ dq c.pkt 12 % 4096 ≠ 0) →
      startOp c s = (.ended 0x0106, s)) ∧
    (∀ i, pktOpcode c.pkt = 0xA2 → namedLive s c = true → fld d 1 0 ≠ 3 → 4 ≤ fld d 12 8 → fld d 12 8 ≤ 16 → 4 ≤ fld d 20 16 → fld d 20 16 ≤ 16 → fld d 29 24 < vectors (rootFn s c) →
      dq c.pkt 10 % 4096 = 0 → dq c.pkt 12 % 4096 = 0 → 1 ≤ i → i < 248 → (queueOf s i).life = .free → (∀ j, 1 ≤ j → j < i → (queueOf s j).life ≠ .free) →
      ∃ x, startOp c s = (.ended 0, setRes0 c.id i (updQueue i (fun _ => x) s)) ∧ x.life = .live ∧ x.root = false ∧ x.ctx = fin' 63 (cmdCtx c) ∧ x.size = fld d 12 8 ∧ x.csize = fld d 20 16 ∧
        x.vector = fld d 29 24 ∧ x.accepted = 0 ∧ x.completed = 0 ∧ x.fetch = 0 ∧ x.tail = 0 ∧ x.written = 0 ∧ x.chead = 0) ∧
    (pktOpcode c.pkt = 0xA1 → cmdCtx c < 64 → (ctxOf s (cmdCtx c)).life = .free → ∃ u, startOp c s = (.ended 0, u) ∧ u.mm = s.mm ∧ u.ob = s.ob ∧ u.ex.ctxs = s.ex.ctxs) ∧
    (pktOpcode c.pkt = 0xA3 → rootFn s c = 0 → (queueOf s (fld d 7 0)).life = .live → (queueOf s (fld d 7 0)).root = false → (queueOf s (fld d 7 0)).ctx.val = cmdCtx c →
      startOp c s = (.ended 0, updQueue (fld d 7 0) (fun _ => {}) (endQueue (fld d 7 0) 0x0603 s))) ∧
    (pktOpcode c.pkt = 0x80 → startOp c s = (.ended 0, updPwr (fun x => { x with budget := d }) s)) ∧
    (pktOpcode c.pkt = 0x91 → ∃ r, startOp c s = (.ended 0, updHi (fun h => { h with logr := r }) s) ∧ r.en = bit d 0 ∧ r.level = BitVec.ofNat 3 (fld d 3 1) ∧ r.written = 0 ∧ r.drops = 0) ∧
    (pktOpcode c.pkt = 0x92 → ∃ r, startOp c s = (.ended 0, updHi (fun h => { h with trcr := r }) s) ∧ r.en = bit d 0 ∧ r.shift = BitVec.ofNat 5 (fld d 5 1) ∧ r.written = 0 ∧ r.drops = 0) ∧
    (pktOpcode c.pkt = 0xA8 → 8 ≤ fld d 11 8 → fld d 11 8 ≠ 15 → startOp c s = (.ended 0x0106, s)) ∧
    (pktOpcode c.pkt = 0x72 → sfiArmed s = false → startOp c s = (.ended 0, ((List.range 36).filter fun o => (dq c.pkt 8).testBit o).foldl (fun s o =>
      updOut o (fun x => { x with defw := dw c.pkt 11 }) (writeOutCfg o (dw c.pkt 10) s)) s)) ∧
    (pktOpcode c.pkt = 0x43 → graphMine s (fld d 7 0) (cmdCtx c) = false → startOp c s = (.ended 0x0171, s)) ∧
    (pktOpcode c.pkt = 0x43 → graphMine s (fld d 7 0) (cmdCtx c) = true → startOp c s = (.ended 0, settleGraph (fld d 7 0) (updGraph (fld d 7 0) (fun x => { x with live := false }) s)))

/-- What the packets that do work meet at their start: knots (R354-R361), copies (R430, R431), queries (R423), translation (R484, R501), fault replies (R499), braids (R203, R227-R231), models (R245, R260),
graphs (R433), passes (R273), snapshots (R371), slices (R622), the domain (R565), SHUTDOWN (R617). -/
def Obligations.WorkPackets : Prop :=
  ∀ (s u : State) (c : Cmd) (d : W32) (pl : Place), d = dw c.pkt 8 →
    (∀ v, pktOpcode c.pkt = 0x50 → knotAddr (cmdCtx c) (dq c.pkt 8) .store c.who.rq s = (.ok pl, u) → addSigs (cmdCtx c) [dq c.pkt 8] u = some v → routeDown v pl = false →
      startOp c s = (.ended 0, signal (ctxFn v (cmdCtx c)) pl (BitVec.ofNat 64 (dq c.pkt 10)) v)) ∧
    (pktOpcode c.pkt = 0x50 → dq c.pkt 8 % 8 ≠ 0 → startOp c s = (.ended 0x0170, s)) ∧
    (pktOpcode c.pkt = 0x51 → dq c.pkt 8 % 8 ≠ 0 → startOp c s = (.ended 0x0170, s)) ∧
    (pktOpcode c.pkt = 0x52 → dq c.pkt 8 % 8 ≠ 0 → startOp c s = (.ended 0x0170, s)) ∧
    (pktOpcode c.pkt = 0x52 → knotAddr (cmdCtx c) (dq c.pkt 8) .store c.who.rq s = (.ok pl, u) → (∀ dv f o, pl ≠ .remote dv f o) → hasWaiters pl u = true →
      startOp c s = (.ended 0x0205, knotWake pl (knotRead (ctxFn u (cmdCtx c)) pl u).1 (knotRead (ctxFn u (cmdCtx c)) pl u).2.1 (knotRead (ctxFn u (cmdCtx c)) pl u).2.2)) ∧
    (pktOpcode c.pkt = 0x52 → knotAddr (cmdCtx c) (dq c.pkt 8) .store c.who.rq s = (.ok pl, u) → (∀ dv f o, pl ≠ .remote dv f o) → hasWaiters pl u = false →
      (∀ b, braidKnot u pl ≠ some (b, 0x400)) → startOp c s = (.ended 0, knotStore (ctxFn u (cmdCtx c)) pl (setBit (BitVec.ofNat 64 (dq c.pkt 10)) 63 false) u)) ∧
    (pktOpcode c.pkt = 0x18 → copyOverlap c.pkt = true → startOp c s = (.ended 0x010A, s)) ∧
    (pktOpcode c.pkt = 0x18 → copyOverlap c.pkt = false → startOp c s = runXfer c (copyXfer c.pkt) (copyEngine c s) s) ∧
    (∀ bs, pktOpcode c.pkt = 0x01 → queryReply c s = .ok bs → writablePieces c.who.ctx c.who.rq (pagePieces (dq c.pkt 10) (bs.take (dw c.pkt 12).toNat).length) s = (.ok, u) →
      startOp c s = (.ended 0, setRes0 c.id (bs.take (dw c.pkt 12).toNat).length (writeVa c.who.ctx (dq c.pkt 10) (clean (bs.take (dw c.pkt 12).toNat)) c.who.rq u).2.2)) ∧
    (pktOpcode c.pkt = 0x10 → (fld (dw c.pkt 11) 10 9 = 3 ∨ fld (dw c.pkt 11) 12 11 = 3) → startOp c s = (.ended 0x0106, s)) ∧
    (∀ i v, pktOpcode c.pkt = 0x12 → invalStart (cmdCtx c) (dq c.pkt 8 / 65536) (dw c.pkt 10).toNat [] [] (some c.id) s = (i, v) → startOp c s = invalWait c [i] [] false v) ∧
    (pktOpcode c.pkt = 0x13 → (∀ e ∈ s.mm.xl.pmt, (e.posted && e.recId.toNat == fld d 15 0) = false) → startOp c s = (.ended 0, s)) ∧
    (pktOpcode c.pkt = 0x31 → (braidOf s (fld d 3 0)).state ≠ .free → (braidOf s (fld d 3 0)).ctx.val ≠ cmdCtx c → startOp c s = (.ended 0x0123, s)) ∧
    (pktOpcode c.pkt = 0x31 → (braidOf s (fld d 3 0)).state = .running → (braidOf s (fld d 3 0)).ctx.val = cmdCtx c → startOp c s = (.ended 0x0120, s)) ∧
    (pktOpcode c.pkt = 0x32 → fld d 5 4 = 2 → stopChecks c s = none → bActive (braidOf s (fld d 3 0)) = true → startOp c s = (.ended 0x0120, s)) ∧
    (pktOpcode c.pkt = 0x32 → fld d 5 4 = 2 → stopChecks c s = none → bActive (braidOf s (fld d 3 0)) = false → startOp c s = (.ended 0, settleOrphans (freeBraid (fld d 3 0) s))) ∧
    (pktOpcode c.pkt = 0x39 → modelRef s (cmdCtx c) (fld d 9 0) = none → 0 < selUses (fld d 9 0) s → startOp c s = (.ended 0x0230, s)) ∧
    (pktOpcode c.pkt = 0x40 → (graphOf s (fld d 7 0)).live = true → startOp c s = (.ended 0x0171, s)) ∧
    (pktOpcode c.pkt = 0x61 → openPass s c.q = none → startOp c s = (.ended 0x0140, s)) ∧
    (pktOpcode c.pkt = 0x62 → (openPass s c.q).isSome = true → startOp c s = (.ended 0x0140, s)) ∧
    (pktOpcode c.pkt = 0x90 → s.snap.cur = none → 256 < fld d 15 7 → startOp c s = (.ended 0x0172, s)) ∧
    (pktOpcode c.pkt = 0xC0 → presentCores s.part ≤ fld d 4 0 → startOp c s = (.ended 0x0108, s)) ∧
    (pktOpcode c.pkt = 0xF0 → bit d 0 = false → startOp c s = (.ended 0, s))

/-! ### Translation and memory (13, 14, 16) -/

/-- Walks, invalidations, the fault queue's registers, frame-count scans and release walks complete (R461-R463, R479-R483, R487, R490, R492-R497, R501-R504). -/
def Obligations.TranslationEventsComplete : Prop :=
  ∀ (s : State) (e : Fin 46) (c : Fin 64) (va : W64) (k : Access) (v : W64) (w : W32) (x : Xlu) (q : PmtReq), x = s.mm.xl → q = { who := .engine e, ctx := c, eng := some e, va := va.toNat, kind := k } →
    (∀ en pl u, engPresent s.part e = true → (ctxOf s c).life ≠ .free → va.toNat < 2 ^ 40 → va.toNat / 65536 ≠ knotPage → tlbFind x.tlb c (va.toNat / 65536) = none → (neverWaits e = false → missAhead q s = none) → walk c va.toNat k s = (.ok en pl, u) →
      exec (.walkComplete e c va k) s = .next (icnSettle u) ∧ tlbFind u.mm.xl.tlb c (va.toNat / 65536) = some en ∧ leafAllows en k = true ∧ pl = leafPlace en (va.toNat % 65536)) ∧
    (∀ kind cls dir en u, engPresent s.part e = true → (ctxOf s c).life ≠ .free → va.toNat < 2 ^ 40 → va.toNat / 65536 ≠ knotPage → tlbFind x.tlb c (va.toNat / 65536) = none → (neverWaits e = false → missAhead q s = none) → walk c va.toNat k s = (.fault kind cls dir en, u) → (cls = 1 ∨ neverWaits e = true) →
      exec (.walkComplete e c va k) s = .next (icnSettle (walkOutcome e c va.toNat (fqInfo (faultWords 0xFFFF kind 1 c va.toNat true dir k (engRq e) en u.time) u)))) ∧
    (∀ kind dir en u, engPresent s.part e = true → (ctxOf s c).life ≠ .free → va.toNat < 2 ^ 40 → va.toNat / 65536 ≠ knotPage → tlbFind x.tlb c (va.toNat / 65536) = none → missAhead q s = none → walk c va.toNat k s = (.fault kind 0 dir en, u) →
      neverWaits e = false → exec (.walkComplete e c va k) s = .next (icnSettle (stallFault kind dir en none q u))) ∧
    (∀ kind dir en u, engPresent s.part e = true → (ctxOf s c).life ≠ .free → va.toNat < 2 ^ 40 → va.toNat / 65536 ≠ knotPage → tlbFind x.tlb c (va.toNat / 65536) = none → missAhead q s = none → walk c va.toNat k s = (.fault kind 2 dir en, u) →
      neverWaits e = false → exec (.walkComplete e c va k) s = .next (icnSettle (xlUpd (fun y => { y with zeroed := satInc y.zeroed }) u))) ∧
    (∀ u, engPresent s.part e = true → (ctxOf s c).life ≠ .free → neverWaits e = false → missAhead q s = some u → exec (.walkComplete e c va k) s = .next (icnSettle u)) ∧
    (∀ i n, x.invals.find? (·.id == n) = some i → holding s = false → exec (.invalidationComplete n) s = .next (icnSettle (invalAfter i (invalEffect i s)))) ∧
    (bit x.fqbase 0 = false → bit v 0 = true → ∃ b : W64, b = BitVec.ofNat 64 (4096 * fld v 63 12 + 1) ∧
      exec (.xlFqbaseWrite v) s = .next (icnSettle (fqDrain 256 (xlUpd (fun y => { y with fqbase := b, tail := 0, head := 0 }) s)))) ∧
    (bit x.fqbase 0 = true → bit v 0 = true → ∃ b : W64, b = BitVec.ofNat 64 (4096 * fld x.fqbase 63 12 + 1) ∧
      exec (.xlFqbaseWrite v) s = .next (icnSettle (fqDrain 256 (xlUpd (fun y => { y with fqbase := b }) s)))) ∧
    ((x.tail - w).toNat ≤ 2 ^ fqSize x → exec (.xlFqhead w) s = .next (icnSettle (fqDrain 256 (xlUpd (fun y => { y with head := w }) s)))) ∧
    (2 ^ fqSize x < (x.tail - w).toNat → exec (.xlFqhead w) s = .next (icnSettle (xlUpd (fun y => { y with headErr := true }) s))) ∧
    (engPresent s.part e = false ∨ (ctxOf s c).life = .free → exec (.walkComplete e c va k) s = .next (icnSettle s)) ∧
    (∃ r, r = v &&& 0x0000FFFF1FFFFFFF ∧
      (x.scanning = true ∨ bit v 63 = false → exec (.xlRefq v) s = .next (icnSettle (xlUpd (fun y => { y with refq := r }) s))) ∧
      (x.scanning = false → bit v 63 = true → x.walksPend = [] →
        exec (.xlRefq v) s = .next (icnSettle (xlUpd (fun y => { y with refq := r, scanQ := r, scanning := true, scanPending := false }) s)))) ∧
    (x.scanning = true → x.heldCnt = [] → s.ex.cmds = [] → exec .scanComplete s = .next (icnSettle (xlUpd (fun y => { y with
      scanning := false, scanErr := (scanResult s).1, nonzero := (scanResult s).2.1, maxcount := BitVec.ofNat 32 (scanResult s).2.2, heldCnt := [] }) s))) ∧
    (∀ root part l u, x.walksPend = [(root, part)] → x.scanning = false → x.scanPending = false → treeEntries root part 4096 s = (l, u) → ∃ t, exec .releaseWalk s = .next (icnSettle t) ∧
      t = xlUpd (fun y => { y with walksPend := [] }) ((l.filterMap countedFrame).foldl (fun s x => frameCount x.1 x.2 false s) (countFar l u))) ∧
    (x.walksPend = [] → exec .releaseWalk s = .next (icnSettle s))

/-- Scrubbers, their laps, check-bit test mode and a bank group that has been zeroed (R537, R548-R550): a good word stays, a corrected one is written back whole and counted, an uncorrectable one becomes stored poison, and the test registers store and show
a word's raw bits. -/
def Obligations.MemoryMaintenanceComplete : Prop :=
  ∀ (s : State) (u : Fin 36) (t : W64) (k : Fin 8) (lp : Bool) (m : MemCtl), m = s.mm.ctl →
    (∀ v g d, lp = decide (32 ≤ u.val) → bit m.ctrl (b2n lp) = true → unitOn s u = true → 0 < unitWords s u →
      v = ctlUpd (fun c => { c with scrubPos := tabUpd c.scrubPos u fun _ => (tabD m.scrubPos u 0 + 1) % unitWords s u, scrubCnt := tabUpd c.scrubCnt u (· + 1) }) s →
      g = unitAddr s u (tabD m.scrubPos u 0) / 8 →
      (wordFound (storedData lp g v) (pairGet (devMem lp v).marks g) = (d, .good) → exec (.scrub u) s = .next (icnSettle v)) ∧
      (wordFound (storedData lp g v) (pairGet (devMem lp v).marks g) = (d, .corrected) →
        exec (.scrub u) s = .next (icnSettle (eccCount lp (8 * g) (fun u => { u with scrubFix := satInc u.scrubFix }) (eccCe lp (8 * g) (storeData lp g d none v))))) ∧
      (wordFound (storedData lp g v) (pairGet (devMem lp v).marks g) = (d, .stored) → exec (.scrub u) s = .next (icnSettle v)) ∧
      (wordFound (storedData lp g v) (pairGet (devMem lp v).marks g) = (d, .uncorrectable) →
        exec (.scrub u) s = .next (icnSettle (eccUe lp (8 * g) (storeData lp g d (some .poison) v))))) ∧
    (unitOn s u = false → exec (.scrub u) s = .next (icnSettle s)) ∧
    (∀ v, v = s.at t → lapUnits lp v ≠ [] → (∀ i ∈ lapUnits lp v, unitWords v i ≤ tabD m.scrubCnt i 0) → ∃ w, exec (.scrubLapEnd lp t) s = .next (icnSettle w) ∧
      w.mm.peat = s.mm.peat ∧ w.mm.lpddr = s.mm.lpddr ∧ (tabD w.mm.ctl.scrub (b2n lp) {}).laps = (tabD m.scrub (b2n lp) {}).laps + 1 ∧ (tabD w.mm.ctl.scrub (b2n lp) {}).lapStart = v.time) ∧
    (∀ g, testWord s = some (lp, g) → exec .eccTestWrite s = .next (icnSettle (ctlUpd (fun c => { c with testErr := false })
      (storeData lp g m.testData (if secdedCheck m.testData = m.testCheck then none else some (.raw m.testCheck)) s)))) ∧
    (testWord s = none → exec .eccTestWrite s = .next (icnSettle (ctlUpd (fun c => { c with testErr := true }) s)) ∧
      exec .eccTestRead s = .next (icnSettle (ctlUpd (fun c => { c with testErr := true }) s))) ∧
    (∀ g, testWord s = some (lp, g) → exec .eccTestRead s = .next (icnSettle (ctlUpd (fun c =>
      { c with testErr := false, testData := storedData lp g s, testCheck := rawCheck (storedData lp g s) (pairGet (devMem lp s).marks g) }) s))) ∧
    (∃ w, exec (.bankGroupZeroed k) s = .next (after w) ∧ w.mm.peat = s.mm.peat ∧ w.ex = s.ex ∧ w.mm.ctl.zeroing = setBit m.zeroing k false)

/-! ### Hawser links and the domain (17) -/

/-- Link events (R559-R562): a valid flit is noted, and frees what its sender took of this side's replay buffer, which is replayed where the sender asks; a broken one is replayed by its sender; the sixteenth
failed replay of one flit, in either direction, 10 us with no valid flit, RETRAIN and EN = 0 take a link down, which counts and is told of; a trained link
with its power domain on whose peer is the neighbour comes up, another raises PEER_ERR and stays down. A GLOBAL flit goes ahead of every DATA flit that waits (R560). -/
def Obligations.LinkEventsComplete : Prop :=
  ∀ (s u : State) (k : Fin 4) (t : W64) (f : FlitInfo) (width : BitVec 3) (peer : Fin 16) (v : W32) (l : Link), u = s.at t → l = linkOf s k →
    (l.up = true → ∃ w, exec (.flitReceipt k true f t) s = .next (after w) ∧ w.ex = s.ex ∧ w.mm = s.mm ∧ (linkOf w k).lastFlit = u.time ∧ (linkOf w k).failRun = 0 ∧
      (linkOf w k).rxflits = (if f.idle then l.rxflits else l.rxflits + 1) ∧
      (linkOf w k).againRun = (if f.again = true ∧ (linkNow u.time l).replayBuf - f.taken ≠ 0 then (if f.taken = 0 then l.againRun else 0) + 1 else if f.taken = 0 then l.againRun else 0) ∧
      (linkOf w k).replayBuf = (linkNow u.time l).replayBuf - f.taken) ∧
    (l.up = true → ∃ w, exec (.flitReceipt k false f t) s = .next (after w) ∧ w.ex = s.ex ∧ w.mm = s.mm ∧ (linkOf w k).replays = satInc l.replays ∧ (linkOf w k).failRun = l.failRun + 1 ∧
      (linkOf w k).rxflits = l.rxflits) ∧
    (17 ≤ l.failRun ∨ 17 ≤ l.againRun → exec (.replayLimit k t) s = .next (after (linkGoesDown k u))) ∧
    (l.failRun < 17 → l.againRun < 17 → exec (.replayLimit k t) s = .next (after u)) ∧
    (l.lastFlit.toNat + 10000 ≤ u.now → exec (.linkFlitTimeout k t) s = .next (after (linkGoesDown k u))) ∧
    (u.now < l.lastFlit.toNat + 10000 → exec (.linkFlitTimeout k t) s = .next (after u)) ∧
    (linksPresent s.part = true → exec (.retrain k) s = .next (after (linkGoesDown k s))) ∧
    (linksPresent s.part = true → bit v 0 = true → bit v 1 = false → exec (.hlCtrl k v) s = .next (after (settlePd (updLink k (fun l => { l with en := true }) s)))) ∧
    (linksPresent s.part = true → (bit v 0 = false ∨ bit v 1 = true) → exec (.hlCtrl k v) s = .next (after (linkGoesDown k (settlePd (updLink k (fun l => { l with en := bit v 0 }) s))))) ∧
    (linksPresent s.part = true → l.en = true → pdOf s (58 + k) = .on → l.up = false → (width = 1 ∨ width = 2 ∨ width = 4) → peerOk s k peer = false → ∃ w, exec (.linkUp k width peer) s = .next (after w) ∧
      (linkOf w k).up = false ∧ (linkOf w k).peerErr = true ∧ (linkOf w k).peer = BitVec.ofNat 4 peer ∧ bit (linkOf w k).alarm 3 = true ∧ ∀ i, i ≠ k.val → linkOf w i = linkOf s i) ∧
    (linksPresent s.part = true → l.en = true → pdOf s (58 + k) = .on → l.up = false → (width = 1 ∨ width = 2 ∨ width = 4) → peerOk s k peer = true → ∃ w, w = updLink k (fun l => { l with
        up := true, width := width, peer := BitVec.ofNat 4 peer, peerErr := false, lastFlit := s.time, failRun := 0, againRun := 0, alarm := if width = 4 then l.alarm else setBit l.alarm 2 true }) s ∧
      exec (.linkUp k width peer) s = .next (after (settleJoin (recomputeDegraded (linkEvent k 1 w))))) ∧
    (l.up = false → linkGoesDown k s = s) ∧
    (2 * s.now < l.busy → l.txq ≠ [] → ∃ a b, (linkOf (linkGlobal k s) k).txq = a ++ .global :: b ∧ (∀ x ∈ a, x = .global) ∧ (∀ x ∈ b, x = .data) ∧ (linkOf (linkTx k s) k).txq = l.txq ++ [.data])

/-- Remote operations and barriers (R568-R571, R574, R575, R577): an access of another device is performed, and its bytes are counted, only inside the enabled partition of its
number or on a knot kept for that device; a change of a target-3 entry there is counted here; an answer goes to the group that asked; 50 us without
one deliver poison, or drop a store; a barrier's release or removal ends the commands that wait at it. -/
def Obligations.RemoteAndBarrierEventsComplete : Prop :=
  ∀ (s u : State) (k : Fin 4) (part : Fin 8) (lp : Bool) (frame : BitVec 27) (off : BitVec 16) (op : RemoteOp) (i : Nat) (r : RemoteReq) (d t : W64) (p : Bool) (b : BitVec 8) (a : Nat), u = s.at t → a = frame.toNat * 65536 + off.toNat →
    ((∀ x, op ≠ .frameCount x) → (linkOf s k).up = true → (partOf s part).en = true →
        inPartition s part lp a (opBytes op) = true ∨ (lp = false ∧ (guestKnots s a = true ∨ spanKnots s part a = true)) →
      exec (.remoteAccessArrival k part lp frame off op) s = .next (after (linkTx k (remotePerform lp a op (bulkDebt part (bulkNeeds none (if lp then .lpddr a else .peat a) (opBytes op)) s))))) ∧
    ((∀ x, op ≠ .frameCount x) → (linkOf s k).up = true → ((partOf s part).en = false ∨ (inPartition s part lp a (opBytes op) = false ∧ (lp = true ∨ (guestKnots s a = false ∧ spanKnots s part a = false)))) → ∃ w,
      exec (.remoteAccessArrival k part lp frame off op) s = .next (after w) ∧ w.mm = s.mm ∧ w.ex = s.ex ∧ w.readData = s.readData) ∧
    (∀ x, op = .frameCount x → (linkOf s k).up = true → exec (.remoteAccessArrival k part lp frame off op) s = .next (after (linkTx k (remoteCount lp (a / 65536) x (bulkDebt part [0, 0, 0] s))))) ∧
    (findReq s i = some r → r.isStore = false → exec (.remoteResponse i d p false) s = .next (after (endReq r d p s))) ∧
    (findReq s i = some r → r.isStore = false → exec (.remoteResponse i d p true) s = .next (after (refusedReq r s))) ∧
    (findReq s i = none → exec (.remoteResponse i d p false) s = .next (after s)) ∧
    (findReq s i = some r → r.isStore = true → exec (.remoteStoreAck i false) s = .next (after (endReq r 0 false s))) ∧
    (findReq s i = some r → r.isStore = true → exec (.remoteStoreAck i true) s = .next (after (refusedReq r s))) ∧
    (findReq u i = some r → r.isStore = false → r.issued.toNat + 50000 ≤ u.now → exec (.remoteLoadTimeout i t) s = .next (after (remoteFailed r 0x0802 false (linkTimeout r.link (endReq r 0 true u))))) ∧
    (findReq u i = some r → r.isStore = true → r.issued.toNat + 50000 ≤ u.now → exec (.remoteStoreTimeout i t) s = .next (after (remoteFailed r 0x0802 true (linkDrop r.link (endReq r 0 false u))))) ∧
    (findReq u i = some r → u.now < r.issued.toNat + 50000 → exec (.remoteLoadTimeout i t) s = .next (after u) ∧ exec (.remoteStoreTimeout i t) s = .next (after u)) ∧
    (b ∈ s.dom.arrived → exec (.barrierRelease b) s = .next (after (endBarrier (· == b) 0 (updDom (fun x => { x with
      arrived := x.arrived.erase b, withdrawn := x.withdrawn.filter (· != b), barriers := x.barriers + 1 }) s)))) ∧
    (b ∈ s.dom.withdrawn → exec (.barrierWithdrawalAnswer b true) s = .next (after (endBarrier (· == b) 0x0303 (updDom (fun x => { x with
      arrived := x.arrived.erase b, withdrawn := x.withdrawn.filter (· != b) }) s)))) ∧
    (b ∈ s.dom.withdrawn → exec (.barrierWithdrawalAnswer b false) s = .next (after (updDom (fun x => { x with withdrawn := x.withdrawn.filter (· != b) }) s))) ∧
    (s.dom.member = true → exec .domainResetArrival s = .next (after (domainReset s))) ∧
    (s.dom.member = false → exec .domainResetArrival s = .next (after s)) ∧
    ((domainReset s).dom.arrived = [] ∧ (domainReset s).dom.withdrawn = [])

/-! ### Power, the Wisp, rails and heat (18, 21) -/

/-- Device states and what wakes them (R581-R588, R591, R594-R598): entry only into the state that R584 gives, from one in which the steward executes; a wake event ends a state in which it can occur, in RUN it does
nothing; WISP_CTRL keeps its selection while EN = 1; a disabled Wisp makes nothing of a level, a frame or a millisecond. Each millisecond an enabled
one lets its pin filters produce, counts every enabled rule's run of true evaluations, sets FIRED of a rule whose run is long enough, and wakes the device with code 3 if one fires (R595-R597). -/
def Obligations.PowerAndWakeComplete : Prop :=
  ∀ (s u : State) (p : PState) (codes : BitVec 7) (okA okB : Bool) (t : W64) (i : Fin 8) (px : List Byte) (v : W32), u = s.at t →
    (p = pwrTarget s → pwrCode s.pwr.state < pwrCode p → pwrCode s.pwr.state ≤ 2 → exec (.powerStateEntry p) s = .next (icnSettle (powerDown p s)) ∧
      (powerDown p s).pwr.state = p) ∧
    (p ≠ pwrTarget s → exec (.powerStateEntry p) s = .next (icnSettle s)) ∧
    (∀ cs c r, cs = ((setBits codes).map (· + 1)).filter (wakeIn s.pwr.state) → cs = c :: r → exec (.powerStateExit codes okA okB t) s = .next (after (powerUp okA okB (updPwr (fun x =>
      { x with wakeLast := BitVec.ofNat 4 (r.foldl min c), wakeMask := maskOf 7 (cs.map (· - 1)) }) u)))) ∧
    (s.pwr.state = .run → exec (.powerStateExit codes okA okB t) s = .next (after u) ∧ exec (.hwakeN t) s = .next (after u)) ∧
    (s.pwr.state ≠ .run → s.pwr.state ≠ .idle → exec (.hwakeN t) s = .next (after (powerUp (ballFree s.sfi.forceA) (ballFree s.sfi.forceB)
      (updPwr (fun x => { x with wakeLast := 4, wakeMask := 8 }) u)))) ∧
    (s.pwr.state = .doze ∨ s.pwr.state = .sleep → s.pwr.wakeTimer.toNat ≤ u.now → exec (.wakeTimer t) s = .next (after (powerUp (ballFree s.sfi.forceA) (ballFree s.sfi.forceB)
      (updPwr (fun x => { x with wakeLast := 5, wakeMask := 16 }) u)))) ∧
    (u.now < s.pwr.wakeTimer.toNat → exec (.wakeTimer t) s = .next (after u)) ∧
    (bit s.wisp.ctrl 0 = false → exec (.debouncedLevel i okA t) s = .next (icnSettle u) ∧ exec (.wcamFrame px t) s = .next (icnSettle u) ∧ exec (.ruleEvaluation t) s = .next (icnSettle u)) ∧
    (bit s.wisp.ctrl 0 = true → bit (tabD s.wisp.pins i 0) 0 = true → ∃ w, exec (.debouncedLevel i okA t) s = .next (icnSettle w) ∧ w.pwr = s.pwr ∧ w.ex = s.ex ∧ tabD w.wisp.levels i true = okA ∧
      ∀ f, f < 8 → filtInput (tabD s.wisp.filts f {}) = i.val → filtKind (tabD s.wisp.filts f {}) = 1 →
        (tabD w.wisp.filts f {}).value = BitVec.ofNat 32 (b2n okA) ∧ (tabD w.wisp.filts f {}).produced = (tabD s.wisp.filts f {}).produced + 1) ∧
    (bit s.wisp.ctrl 0 = true → bit s.wisp.ctrl 1 = true → ∃ w, exec (.wcamFrame px t) s = .next (icnSettle w) ∧ w.pwr = s.pwr ∧ w.ex = s.ex ∧ w.wisp.frame = sliceB px 0 19200 ∧ w.wisp.ctrl = s.wisp.ctrl) ∧
    (bit s.wisp.ctrl 0 = true → (∀ k, k < 4 → bit (tabD s.wisp.rules k 0) 31 = false) → ∃ w, exec (.ruleEvaluation t) s = .next (icnSettle w) ∧ w.pwr = s.pwr ∧ w.wisp.fired = s.wisp.fired) ∧
    (bit s.wisp.ctrl 0 = true → ∃ (w : Wisp) (fires : Nat → Bool), (∀ k, fires k = (bit (tabD s.wisp.rules k 0) 31 && ruleTrue w (tabD s.wisp.rules k 0) &&
        decide (orOne (fld (tabD s.wisp.rules k 0) 23 16) ≤ tabD s.wisp.runs k 0 + 1))) ∧
      w = { s.wisp with filts := w.filts, runs := w.runs, fired := w.fired } ∧ (∀ i, i < 8 → tabD w.filts i {} = pinFilter s.wisp.levels u.now (tabD s.wisp.filts i {})) ∧
      (∀ k, k < 4 → tabD w.runs k 0 = if bit (tabD s.wisp.rules k 0) 31 && ruleTrue w (tabD s.wisp.rules k 0) then tabD s.wisp.runs k 0 + 1 else 0) ∧
      (∀ k, k < 4 → bit w.fired k = (bit s.wisp.fired k || fires k)) ∧
      exec (.ruleEvaluation t) s = .next (if (List.range 4).any fires then after (wakeBy 3 { u with wisp := w }) else icnSettle { u with wisp := w })) ∧
    (barOn s 0 = true → bit s.wisp.ctrl 0 = true → exec (.wispCtrlWrite v) s = .next (icnSettle (updWisp (fun w => { w with ctrl := setBit w.ctrl 0 (bit v 0) }) s))) ∧
    (barOn s 0 = true → bit s.wisp.ctrl 0 = false → bit v 0 = false → exec (.wispCtrlWrite v) s = .next (icnSettle (updWisp (fun w => { w with ctrl := v &&& 0x3F }) s)))

/-- Voltage requests and heat (R592, R593, R650-R653): an acknowledgement of the requested voltage settles, and bounds the clock at once; a request unanswered four times ends with NOACK; Tj is the highest reading and
holds THERM_N from 110 to 100 degrees; the step moves by one at 100 and at 95 degrees. -/
def Obligations.RailsAndThermalComplete : Prop :=
  ∀ (s u : State) (rail : Fin 2) (mv : BitVec 16) (n : Nat) (x : Int) (r : List Int) (t : W64), u = s.at t →
    (tabD s.avs.req rail .idle = .sent mv n → ∃ w, exec (.avsAcknowledge rail mv) s = .next (icnSettle w) ∧ w.ex = s.ex ∧ w.mm = s.mm ∧ tabD w.avs.req rail .idle = .settling mv ∧ tabD w.avs.vout rail 0 = mv ∧
      w.therm.clk.val = (if rail = 0 then max s.therm.step.val (max s.therm.vstep.val (allowStep mv.toNat)) else s.therm.clk.val)) ∧
    (tabD s.avs.req rail .idle = .settling mv → ∃ w, exec (.settleExpiry rail) s = .next (icnSettle w) ∧ w.ex = s.ex ∧ w.mm = s.mm ∧ tabD w.avs.req rail .idle = .idle ∧
      w.therm.clk.val = (if rail = 0 then max s.therm.step.val (allowStep mv.toNat) else s.therm.clk.val)) ∧
    (tabD s.avs.req rail .idle = .sent mv n → n < 4 → exec (.avsNoackTimeout rail) s = .next (icnSettle (updAvs (fun a => { a with req := tabUpd a.req rail fun _ => .sent mv (n + 1) }) s))) ∧
    (tabD s.avs.req rail .idle = .sent mv n → 4 ≤ n → exec (.avsNoackTimeout rail) s =
      .next (icnSettle (updAvs (fun a => { a with req := tabUpd a.req rail (fun _ => .idle), alarm := setBit a.alarm rail.val true }) s))) ∧
    (tabD s.avs.req rail .idle = .idle → exec (.avsAcknowledge rail mv) s = .next (icnSettle s) ∧ exec (.settleExpiry rail) s = .next (icnSettle s) ∧ exec (.avsNoackTimeout rail) s = .next (icnSettle s)) ∧
    (∃ w, exec (.tjSample (x :: r) t) s = .next (icnSettle w) ∧ w.ex = s.ex ∧ w.mm = s.mm ∧ (∀ y ∈ x :: r, y ≤ w.therm.tj) ∧ w.therm.tj ∈ x :: r ∧
      (w.therm.thermN = true ↔ 110 ≤ w.therm.tj ∨ (s.therm.thermN = true ∧ 100 < w.therm.tj))) ∧
    (100 ≤ s.therm.tj → s.therm.step.val < 4 → exec (.thermalStep t) s = .next (icnSettle (setThermStep (s.therm.step.val + 1) u))) ∧
    (s.therm.tj ≤ 95 → 0 < s.therm.step.val → exec (.thermalStep t) s = .next (icnSettle (setThermStep (s.therm.step.val - 1) u))) ∧
    (95 < s.therm.tj → s.therm.tj < 100 → exec (.thermalStep t) s = .next (icnSettle u)) ∧
    (∀ k, k < 5 → (setThermStep k u).therm.step.val = k ∧ tabD (setThermStep k u).avs.req 0 .idle = .sent (BitVec.ofNat 16 (stepMv k)) 1)

/-! ### Boot, self-test, snapshots and the test port (10, 19, 20, 21) -/

/-- Device reset, the start-up test, BOOT_CTRL and the self-tests (R617-R623, R628-R631, R642, R643, R648): a reset leaves the reset state but for fuses, host memory and what outside sources hold; a passing record or
test reaches STAGE 2 and a failing one keeps STAGE 1 with the SFI in HOLD; GO takes effect in STAGE 2 only. -/
def Obligations.BootAndSelfTestComplete : Prop :=
  ∀ (s u : State) (n : Nat) (pass : Bool) (pd : W64) (fs : List MemFail) (v : W32) (t : W64) (core : Fin 32) (r : TestRec) (ex0 : Exec), u = s.at t →
    ex0 = (updPart 0 (fun p => { p with cores := p.cores &&& coreMask s.part, peat := p.peat &&& coreMask s.part }) State.reset).ex →
    (∃ w, exec .powerOnReset s = .next (icnSettle w) ∧ w.fuses = s.fuses ∧ w.part = s.part ∧ w.mm.host = s.mm.host ∧ w.mm.peat = {} ∧ w.mm.lpddr = {} ∧ w.ex = ex0 ∧ w.sfi.state = .boot ∧ w.pte.safeState = true ∧
      w.boot.stage = 0 ∧ w.boot.rstsrc = 1 ∧ w.st.shutRec = none) ∧
    (n < 10000 → exec (.rstN n) s = .next (icnSettle s)) ∧
    (10000 ≤ n → ∃ w, exec (.rstN n) s = .next (icnSettle w) ∧ w.fuses = s.fuses ∧ w.ex = ex0 ∧ w.sfi.state = .boot ∧ w.boot.stage = 0 ∧ w.boot.rstsrc = 2 ∧ w.st.shutRec = s.st.shutRec) ∧
    (∃ w, exec .vddSafeLoss s = .next (icnSettle w) ∧ w.sfi.keeper = true ∧ w.sfi.state = .boot ∧ w.pte.safeState = true ∧ w.ex = ex0 ∧ w.st.shutRec = none) ∧
    (∃ w, exec .vddioMachCollapse s = .next (icnSettle w) ∧ w.sfi.keeper = false ∧ w.pte = s.pte ∧ w.ex = s.ex ∧ w.mm = s.mm) ∧
    (s.boot.stage = 0 → s.sfi.keeper = false → s.st.shutRec = some r → r.pass = true → ∃ w, exec (.railMonitorsInRange pass pd fs) s = .next (icnSettle w) ∧
      w.boot.stage = 2 ∧ w.st.source = 1 ∧ w.st.pass = true ∧ w.st.shutRec = none ∧ w.sfi = s.sfi) ∧
    (s.boot.stage = 0 → s.sfi.keeper = false → s.st.shutRec = none → (testRec pass pd fs).pass = true → ∃ w, exec (.railMonitorsInRange pass pd fs) s = .next (icnSettle w) ∧
      w.boot.stage = 2 ∧ w.st.source = 2 ∧ w.st.pass = true ∧ w.sfi = s.sfi) ∧
    (s.boot.stage = 0 → s.sfi.keeper = false → s.st.shutRec = none → (testRec pass pd fs).pass = false → ∃ w, exec (.railMonitorsInRange pass pd fs) s = .next (icnSettle w) ∧
      w.boot.stage = 1 ∧ w.sfi.state = .hold ∧ w.st.shutRec = some (testRec pass pd fs)) ∧
    (s.boot.stage ≠ 0 → exec (.railMonitorsInRange pass pd fs) s = .next (icnSettle s)) ∧
    (barOn s 0 = true → bit v 0 = true → s.boot.stage = 2 → exec (.bootCtrl v) s = .next (icnSettle (bootGo s))) ∧
    (s.boot.stage ≠ 2 → exec (.bootCtrl v) s = .next (icnSettle s)) ∧
    (∀ size raw w, size = s.boot.size.toNat → hostReadP 0 s.boot.img.toNat (min size imageMax) s = (raw, w) → imageErr s.fuses size (dataOf raw) (anyPoison raw) ≠ 0 →
      (bootGo s).boot.stage = 2 ∧ (bootGo s).boot.fails = satInc s.boot.fails ∧ (bootGo s).boot.err = BitVec.ofNat 4 (imageErr s.fuses size (dataOf raw) (anyPoison raw)) ∧
      (bootGo s).fuses = s.fuses ∧ (bootGo s).sfi = s.sfi) ∧
    (s.st.testing = true → exec (.shutdownTestComplete pd fs t) s = .next (icnSettle (updSt (fun x => { x with testing := false, shutRec := some (testRec true pd fs) }) u))) ∧
    (s.st.testing = false → exec (.shutdownTestComplete pd fs t) s = .next (icnSettle u)) ∧
    (∀ c k, sliceOf u core = some (c, k) → blocksOn u core = [] → u.gx.passes.any (keptBy · core.val) = false → exec (.sliceComplete core true t) s = .next (after (finish c 0 (updSt (fun x => { x with slices := tabUpd x.slices core fun w => setBit w k true })
      (updCore core (fun x => { ageCtr := x.ageCtr, cycles := x.cycles }) u))))) ∧
    (∀ c k, sliceOf u core = some (c, k) → blocksOn u core = [] → u.gx.passes.any (keptBy · core.val) = false → ∃ w, exec (.sliceComplete core false t) s = .next (after (finish c 0x0701 (trip 0x0C 0 0 true w))) ∧
      w.st.sliceFail = BitVec.ofNat 32 (core.val + 32 * k + 2048) ∧ (coreOf w core).claim = none ∧ (coreOf w core).lm = {}) ∧
    (sliceOf u core = none → exec (.sliceComplete core pass t) s = .next (after u))

/-- Snapshots (R367-R370, R372, R373, R573): the trigger cycle latches the PTE section and begins a hold in which a publication waits; the end of the hold writes the capture and the held operations proceed in order. -/
def Obligations.SnapshotEventsComplete : Prop :=
  ∀ (s u : State) (t seq buf kn : W64) (c : Snap) (ctx : Fin 64), u = s.at t →
    (s.snap.cur = some c → c.triggered = false → snapDue u c = true → exec (.snapshotTrigger t) s = .next (after (snapTrigger false u)) ∧ holding (snapTrigger false u) = true ∧
      (snapTrigger false u).ex = s.ex ∧ (snapTrigger false u).mm = s.mm ∧ (snapTrigger false u).snap.cur = some { c with triggered := true, lateCut := false, trigTime := u.time, latched := (snapSection u).1 }) ∧
    (s.snap.cur = some c → c.triggered = false → snapDue u c = false → exec (.snapshotTrigger t) s = .next (after u)) ∧
    (s.snap.cur = none → exec (.snapshotTrigger t) s = .next (after u) ∧ exec (.holdEnd t) s = .next (after u)) ∧
    (s.snap.cur = some c → c.triggered = true → exec (.holdEnd t) s = .next (after (kick (s.snap.held.foldl (fun s h => release h s) (updSnap (fun x => { x with held := [] }) (snapCapture c u)))))) ∧
    (s.snap.cur = some c → c.triggered = false → exec (.holdEnd t) s = .next (after u)) ∧
    (s.dom.member = true → s.snap.cur = none → (ctxOf s ctx).life = .live → ∃ x v, exec (.domainSnapshotStart ctx buf kn 0 seq t) s = .next (after (snapTrigger false v)) ∧
      v = updSnap (fun y => { y with cur := some x, seq := seq - 1 }) u ∧ x.ctx = ctx ∧ x.buf = buf ∧ x.domain = true ∧ x.knots = [] ∧ x.cmd = none) ∧
    (s.dom.member = false → exec (.domainSnapshotStart ctx buf kn 0 seq t) s = .next (after u)) ∧
    (holding s = true → fwOn s = true → exec .epochPublication s = .next (after { s with snap := { s.snap with held := s.snap.held ++ [.publish] } }))

/-- The test port (R638, R649, Table 21.9): each instruction loads its code and nothing else of the device changes; IDCODE shows 0x10B32A97 and STREC the self-test record; while the SFI is ARMED or ARMING the instructions
that could change a ball act as BYPASS. -/
def Obligations.TestPortComplete : Prop :=
  ∀ (s : State) (code : Byte),
    exec .idcode s = .next (icnSettle { s with jtagIr := 0x01, tdo := [0x97, 0x2A, 0xB3, 0x10] }) ∧
    exec .strec s = .next (icnSettle { s with jtagIr := 0x10, tdo := selfTestRecord s.st }) ∧
    exec .samplePreload s = .next (icnSettle { s with jtagIr := 0x02, tdo := [] }) ∧
    exec .extest s = .next (icnSettle { s with jtagIr := 0x00, tdo := [] }) ∧
    exec .clamp s = .next (icnSettle { s with jtagIr := 0x03, tdo := [] }) ∧
    exec .highz s = .next (icnSettle { s with jtagIr := 0x04, tdo := [] }) ∧
    exec .extestPulse s = .next (icnSettle { s with jtagIr := 0x05, tdo := [] }) ∧
    exec .extestTrain s = .next (icnSettle { s with jtagIr := 0x06, tdo := [] }) ∧
    (testAssigned code = false → exec (.bypass code) s = .next (icnSettle { s with jtagIr := code, tdo := [] })) ∧
    (testAssigned code = true → exec (.bypass code) s = .next (icnSettle { s with jtagIr := 0xFF, tdo := [] })) ∧
    (∀ k, (s.sfi.state = .armed ∨ s.sfi.state = .arming) → k ∈ [0x00, 0x03, 0x04, 0x05, 0x06] → testActs s k = 0xFF) ∧
    (∀ k, s.sfi.state ≠ .armed → s.sfi.state ≠ .arming → k ∈ [0x00, 0x03, 0x04, 0x05, 0x06] → testActs s k = k)

/-- Integer ADD, SUB and MUL wrap modulo 2^32 (R144): every lane that executes takes the result with the operands' poison; every other lane, register, uniform register and predicate stays, and the pc passes the word. -/
def Obligations.IntegerArithmeticWraps : Prop :=
  ∀ (s : State) (g : Nat) (w ext : W64) (x : Group) (b : Block), Issues s g w ext 1 (fun _ => true) x b → iOp w ≤ 2 → (iType w = 3 ∨ iType w = 4) →
    ∃ y, exec (.valu g w ext) s = .next (after (putG y (issued w g x s))) ∧ y.pc = x.pc + iLen w ∧ y.u = x.u ∧ y.uPoison = x.uPoison ∧ y.p = x.p ∧ y.pPoison = x.pPoison ∧ y.active = x.active ∧ y.stack = x.stack ∧
      ∀ r l, r < x.v.length → l < 32 →
        (∀ a c, a = rdSrc x (iKa w) (iSa w) 0 l ext → c = rdSrc x (iKb w) (iSb w) 0 l ext → r = iDst w → r ≠ 0xFF → bit (execMask x w) l = true →
          (rdV y r l).2 = (a.2 || c.2) ∧ (iOp w = 0 → (rdV y r l).1.toNat = (a.1.toNat + c.1.toNat) % 2 ^ 32) ∧
          (iOp w = 1 → (rdV y r l).1.toNat = (a.1.toNat + (2 ^ 32 - c.1.toNat)) % 2 ^ 32) ∧ (iOp w = 2 → (rdV y r l).1.toNat = a.1.toNat * c.1.toNat % 2 ^ 32)) ∧
        ((r ≠ iDst w ∨ bit (execMask x w) l = false) → rdV y r l = rdV x r l)

/-! ### Knots (10) -/

/-- A signal of value v at the port of a device knot that holds a clean word and has no registered waiter (R355, R354): VALUE becomes the larger of VALUE and v and ABANDON stays; a v below VALUE changes
nothing but adds one to KNOT_STALE, an equal one changes nothing, and a v of 2^63 or more has no effect. A signal to a braid's own knots besides admits or resolves units (R203, R220). -/
def Obligations.KnotSignalTakesMaximum : Prop :=
  ∀ (s : State) (fn a : Nat) (v w : W64), knotRead fn (.peat a) s = (w, false, s) → hasWaiters (.peat a) s = false →
    (bit v 63 = true → signalNow fn (.peat a) v s = s) ∧
    (v.toNat < knotVal w → signalNow fn (.peat a) v s = updHi (fun h => { h with knotStale := h.knotStale + 1 }) s) ∧
    (v.toNat = knotVal w → signalNow fn (.peat a) v s = s) ∧
    (bit v 63 = false → knotVal w < v.toNat → ∃ z : W64, knotVal z = v.toNat ∧ knotAband z = knotAband w ∧
      (braidKnot s (.peat a) = none → signalNow fn (.peat a) v s = knotStore fn (.peat a) z s))
end

