-- ==== Sys2Proof/Laws/Bits.lean ====
section
/-! SUPPORT. Laws/Bits.lean: bits and fields of words after a field is set, and bytes of numbers. -/
namespace Sys2Proof.Machine

theorem testBit_ones (k lo i : Nat) : ((2 ^ k - 1) <<< lo).testBit i = (decide (lo ≤ i) && decide (i < lo + k)) := by
  rw [Nat.testBit_shiftLeft, Nat.testBit_two_pow_sub_one]
  by_cases h : lo ≤ i
  · simp only [h, decide_true, Bool.true_and]
    exact decide_eq_decide.mpr (by omega)
  · simp [h]

theorem bit_ge {n i : Nat} (x : BitVec n) (h : n ≤ i) : bit x i = false :=
  Nat.testBit_lt_two_pow (Nat.lt_of_lt_of_le x.isLt (Nat.pow_le_pow_right (by decide) h))

/-- Every bit of a word with a field set. -/
theorem bit_setFld {n : Nat} (x : BitVec n) (hi lo v i : Nat) :
    bit (setFld x hi lo v) i = if lo ≤ i ∧ i < lo + (hi + 1 - lo) then decide (i < n) && v.testBit (i - lo) else bit x i := by
  unfold bit setFld
  simp only [BitVec.toNat_ofNat, Nat.testBit_mod_two_pow, Nat.testBit_or, Nat.testBit_xor, Nat.testBit_and]
  rw [testBit_ones, Nat.testBit_shiftLeft]
  by_cases h1 : lo ≤ i <;> by_cases h2 : i < lo + (hi + 1 - lo) <;> by_cases h3 : i < n <;> simp [h1, h2, h3]
  all_goals exact bit_ge x (by omega)

theorem ext_bit {n : Nat} {x y : BitVec n} (h : ∀ i, i < n → bit x i = bit y i) : x = y := by
  apply BitVec.eq_of_toNat_eq
  apply Nat.eq_of_testBit_eq
  intro i
  by_cases hi : i < n
  · exact h i hi
  · exact (bit_ge x (Nat.le_of_not_lt hi)).trans (bit_ge y (Nat.le_of_not_lt hi)).symm

/-- The bits of a field. -/
theorem testBit_fld {n : Nat} (x : BitVec n) (hi lo i : Nat) : (fld x hi lo).testBit i = (decide (i < hi + 1 - lo) && bit x (lo + i)) := by
  unfold fld bit
  rw [Nat.testBit_mod_two_pow, Nat.testBit_shiftRight]

/-- Setting a field to what it is changes nothing. -/
theorem setFld_self {n : Nat} (x : BitVec n) (hi lo : Nat) : setFld x hi lo (fld x hi lo) = x := by
  refine ext_bit fun i hi' => ?_
  rw [bit_setFld]
  split
  · rename_i h
    rw [testBit_fld]
    simp only [hi', decide_true, Bool.true_and, show i - lo < hi + 1 - lo by omega, show lo + (i - lo) = i by omega]
  · rfl

/-- A field that was set reads back. -/
theorem fld_setFld {n : Nat} (x : BitVec n) (hi lo v : Nat) (hn : hi < n) : fld (setFld x hi lo v) hi lo = v % 2 ^ (hi + 1 - lo) := by
  apply Nat.eq_of_testBit_eq
  intro i
  rw [testBit_fld, bit_setFld, Nat.testBit_mod_two_pow]
  by_cases h : i < hi + 1 - lo
  · simp [h, show lo + i < lo + (hi + 1 - lo) by omega, show lo + i < n by omega]
  · simp [h]

/-- Bits outside a field that was set. -/
theorem bit_setFld_out {n : Nat} (x : BitVec n) (hi lo v i : Nat) (h : i < lo ∨ lo + (hi + 1 - lo) ≤ i) : bit (setFld x hi lo v) i = bit x i := by
  rw [bit_setFld, if_neg (by omega)]

theorem bit_setBit {n : Nat} (x : BitVec n) (k : Nat) (b : Bool) (i : Nat) : bit (setBit x k b) i = if i = k then decide (i < n) && b else bit x i := by
  unfold setBit
  rw [bit_setFld]
  by_cases h : i = k
  · subst h
    cases b <;> simp
  · rw [if_neg (by omega), if_neg h]

theorem bit_and {n : Nat} (x y : BitVec n) (i : Nat) : bit (x &&& y) i = (bit x i && bit y i) := by
  simp [bit, Nat.testBit_and]

theorem bit_or {n : Nat} (x y : BitVec n) (i : Nat) : bit (x ||| y) i = (bit x i || bit y i) := by
  simp [bit, Nat.testBit_or]

theorem setBit_same {n : Nat} (x : BitVec n) (i : Nat) (b : Bool) (h : bit x i = b) : setBit x i b = x := by
  refine ext_bit fun j hj => ?_
  rw [bit_setBit]; split
  · rename_i e; subst e; simp [h, hj]
  · rfl
theorem setBit_setBit {n : Nat} (x : BitVec n) (i : Nat) (b c : Bool) : setBit (setBit x i b) i c = setBit x i c := by
  refine ext_bit fun j hj => ?_
  rw [bit_setBit, bit_setBit, bit_setBit]; split <;> simp_all
theorem or_one (v : W32) (h : bit v 0 = true) : v ||| 1#32 = v := by
  refine ext_bit fun j hj => ?_
  rw [bit_or]
  by_cases e : j = 0
  · subst e; simp [h]
  · have : bit (1#32) j = false := by
      show Nat.testBit 1 j = false
      rw [show (1:Nat) = 2^0 from rfl, Nat.testBit_two_pow]; simp; omega
    simp [this]

/-- The low ten bits of a word. -/
theorem mask3FF (v : W32) (i : Nat) : bit (v &&& 0x3FF) i = (decide (i < 10) && bit v i) := by
  rw [bit_and]
  by_cases h : i < 10
  · have : bit (0x3FF : W32) i = true := (by decide : ∀ i, i < 10 → bit (0x3FF : W32) i = true) i h
    rw [this]; simp [h]
  · have : bit (0x3FF : W32) i = false := by
      show Nat.testBit 1023 i = false
      exact Nat.testBit_lt_two_pow (Nat.lt_of_lt_of_le (by decide : 1023 < 2 ^ 10) (Nat.pow_le_pow_right (by decide) (by omega)))
    rw [this]; simp [h]

theorem leBytes_length (n v : Nat) : (leBytes n v).length = n := by
  induction n generalizing v with
  | zero => rfl
  | succ n ih => simp [leBytes, ih]

/-- A number below 256^n is the value of its n low bytes. -/
theorem leVal_leBytes (n v : Nat) : leVal (leBytes n v) = v % 256 ^ n := by
  induction n generalizing v with
  | zero => simp [leBytes, leVal, Nat.mod_one]
  | succ n ih =>
    simp only [leBytes, leVal, ih, BitVec.toNat_ofNat]
    rw [show (2 : Nat) ^ 8 = 256 from rfl, Nat.pow_succ, Nat.mul_comm (256 ^ n) 256, Nat.mod_mul]

end Sys2Proof.Machine
end

