-- ==== Sys2Proof/Laws/Dispatch.lean ====
section
/-! SUPPORT. Laws/Dispatch.lean: the meaning that each command has, and the form of what follows it. -/
namespace Sys2Proof.Machine

theorem fin_eq (s : State) : fin s = .next (after s) := rfl
theorem done_eq (s : State) : done s = .next (icnSettle s) := rfl

section
variable (s : State)

theorem exec_nop (q : Fin 256) (p : Pkt) : exec (.nop q p) s = execNop q p s := rfl
theorem exec_query (q : Fin 256) (p : Pkt) : exec (.query q p) s = execQuery q p s := rfl
theorem exec_memMap (q : Fin 256) (p : Pkt) : exec (.memMap q p) s = execMemMap q p s := rfl
theorem exec_memUnmap (q : Fin 256) (p : Pkt) : exec (.memUnmap q p) s = execMemUnmap q p s := rfl
theorem exec_xlInvalidate (q : Fin 256) (p : Pkt) : exec (.xlInvalidate q p) s = execXlInvalidate q p s := rfl
theorem exec_faultResume (q : Fin 256) (p : Pkt) : exec (.faultResume q p) s = execFaultResume q p s := rfl
theorem exec_copy (q : Fin 256) (p : Pkt) : exec (.copy q p) s = execCopy q p s := rfl
theorem exec_launch (q : Fin 256) (p : Pkt) : exec (.launch q p) s = execLaunch q p s := rfl
theorem exec_braidDefine (q : Fin 256) (p : Pkt) : exec (.braidDefine q p) s = execBraidDefine q p s := rfl
theorem exec_braidStart (q : Fin 256) (p : Pkt) : exec (.braidStart q p) s = execBraidStart q p s := rfl
theorem exec_braidStopDrain (q : Fin 256) (p : Pkt) : exec (.braidStopDrain q p) s = execBraidStopDrain q p s := rfl
theorem exec_braidStopHalt (q : Fin 256) (p : Pkt) : exec (.braidStopHalt q p) s = execBraidStopHalt q p s := rfl
theorem exec_braidStopRelease (q : Fin 256) (p : Pkt) : exec (.braidStopRelease q p) s = execBraidStopRelease q p s := rfl
theorem exec_modelLoad (q : Fin 256) (p : Pkt) : exec (.modelLoad q p) s = execModelLoad q p s := rfl
theorem exec_modelEvict (q : Fin 256) (p : Pkt) : exec (.modelEvict q p) s = execModelEvict q p s := rfl
theorem exec_mixedStep (q : Fin 256) (p : Pkt) : exec (.mixedStep q p) s = execMixedStep q p s := rfl
theorem exec_modelSelect (q : Fin 256) (p : Pkt) : exec (.modelSelect q p) s = execModelSelect q p s := rfl
theorem exec_graphRecord (q : Fin 256) (p : Pkt) : exec (.graphRecord q p) s = execGraphRecord q p s := rfl
theorem exec_graphLaunch (q : Fin 256) (p : Pkt) : exec (.graphLaunch q p) s = execGraphLaunch q p s := rfl
theorem exec_graphSplice (q : Fin 256) (p : Pkt) : exec (.graphSplice q p) s = execGraphSplice q p s := rfl
theorem exec_graphFree (q : Fin 256) (p : Pkt) : exec (.graphFree q p) s = execGraphFree q p s := rfl
theorem exec_knotSignal (q : Fin 256) (p : Pkt) : exec (.knotSignal q p) s = execKnotSignal q p s := rfl
theorem exec_knotWait (q : Fin 256) (p : Pkt) : exec (.knotWait q p) s = execKnotWait q p s := rfl
theorem exec_knotReset (q : Fin 256) (p : Pkt) : exec (.knotReset q p) s = execKnotReset q p s := rfl
theorem exec_renderPassBegin (q : Fin 256) (p : Pkt) : exec (.renderPassBegin q p) s = execRenderPassBegin q p s := rfl
theorem exec_renderPassEnd (q : Fin 256) (p : Pkt) : exec (.renderPassEnd q p) s = execRenderPassEnd q p s := rfl
theorem exec_draw (q : Fin 256) (p : Pkt) : exec (.draw q p) s = execDraw q p s := rfl
theorem exec_directDraw (q : Fin 256) (p : Pkt) : exec (.directDraw q p) s = execDirectDraw q p s := rfl
theorem exec_layerSet (q : Fin 256) (p : Pkt) : exec (.layerSet q p) s = execLayerSet q p s := rfl
theorem exec_camConfig (q : Fin 256) (p : Pkt) : exec (.camConfig q p) s = execCamConfig q p s := rfl
theorem exec_axisConfig (q : Fin 256) (p : Pkt) : exec (.axisConfig q p) s = execAxisConfig q p s := rfl
theorem exec_hitPost (q : Fin 256) (p : Pkt) : exec (.hitPost q p) s = execHitPost q p s := rfl
theorem exec_outConfig (q : Fin 256) (p : Pkt) : exec (.outConfig q p) s = execOutConfig q p s := rfl
theorem exec_dzRunCompress (q : Fin 256) (p : Pkt) : exec (.dzRunCompress q p) s = execDzRunCompress q p s := rfl
theorem exec_dzRunDecompress (q : Fin 256) (p : Pkt) : exec (.dzRunDecompress q p) s = execDzRunDecompress q p s := rfl
theorem exec_powerHint (q : Fin 256) (p : Pkt) : exec (.powerHint q p) s = execPowerHint q p s := rfl
theorem exec_snapshot (q : Fin 256) (p : Pkt) : exec (.snapshot q p) s = execSnapshot q p s := rfl
theorem exec_logConfig (q : Fin 256) (p : Pkt) : exec (.logConfig q p) s = execLogConfig q p s := rfl
theorem exec_traceConfig (q : Fin 256) (p : Pkt) : exec (.traceConfig q p) s = execTraceConfig q p s := rfl
theorem exec_alarmRead (q : Fin 256) (p : Pkt) : exec (.alarmRead q p) s = execAlarmRead q p s := rfl
theorem exec_contextCreate (q : Fin 256) (p : Pkt) : exec (.contextCreate q p) s = execContextCreate q p s := rfl
theorem exec_contextDestroy (q : Fin 256) (p : Pkt) : exec (.contextDestroy q p) s = execContextDestroy q p s := rfl
theorem exec_queueCreate (q : Fin 256) (p : Pkt) : exec (.queueCreate q p) s = execQueueCreate q p s := rfl
theorem exec_queueDestroy (q : Fin 256) (p : Pkt) : exec (.queueDestroy q p) s = execQueueDestroy q p s := rfl
theorem exec_partitionConfig (q : Fin 256) (p : Pkt) : exec (.partitionConfig q p) s = execPartitionConfig q p s := rfl
theorem exec_domainConfigJoin (q : Fin 256) (p : Pkt) : exec (.domainConfigJoin q p) s = execDomainConfigJoin q p s := rfl
theorem exec_domainConfigLeave (q : Fin 256) (p : Pkt) : exec (.domainConfigLeave q p) s = execDomainConfigLeave q p s := rfl
theorem exec_domainBarrier (q : Fin 256) (p : Pkt) : exec (.domainBarrier q p) s = execDomainBarrier q p s := rfl
theorem exec_domainBroadcast (q : Fin 256) (p : Pkt) : exec (.domainBroadcast q p) s = execDomainBroadcast q p s := rfl
theorem exec_domainReset (q : Fin 256) (p : Pkt) : exec (.domainReset q p) s = execDomainReset q p s := rfl
theorem exec_testSlice (q : Fin 256) (p : Pkt) : exec (.testSlice q p) s = execTestSlice q p s := rfl
theorem exec_shutdown (q : Fin 256) (p : Pkt) : exec (.shutdown q p) s = execShutdown q p s := rfl
theorem exec_attest (q : Fin 256) (p : Pkt) : exec (.attest q p) s = execAttest q p s := rfl
theorem exec_framingFailure (q : Fin 256) (p : Pkt) (hdrPoison anyPoison : Bool) : exec (.framingFailure q p hdrPoison anyPoison) s = execFramingFailure q p hdrPoison anyPoison s := rfl
theorem exec_commandTimeout (c : Nat) (t : W64) : exec (.commandTimeout c t) s = execCommandTimeout c t s := rfl
theorem exec_timeoutDrainAllowance (c : Nat) (t : W64) : exec (.timeoutDrainAllowance c t) s = execTimeoutDrainAllowance c t s := rfl
theorem exec_commandCompletion (q : Fin 256) : exec (.commandCompletion q) s = execCommandCompletion q s := rfl
theorem exec_epochPublication : exec (.epochPublication) s = execEpochPublication s := rfl
theorem exec_blockDispatch (part : Fin 8) : exec (.blockDispatch part) s = execBlockDispatch part s := rfl
theorem exec_coreClaim (c : Nat) (t : W64) : exec (.coreClaim c t) s = execCoreClaim c t s := rfl
theorem exec_turnEnd (part : Fin 8) (t : W64) : exec (.turnEnd part t) s = execTurnEnd part t s := rfl
theorem exec_bra (g : Nat) (w ext : W64) : exec (.bra g w ext) s = execBra g w ext s := rfl
theorem exec_split (g : Nat) (w ext : W64) : exec (.split g w ext) s = execSplit g w ext s := rfl
theorem exec_join (g : Nat) (w ext : W64) : exec (.join g w ext) s = execJoin g w ext s := rfl
theorem exec_exit (g : Nat) (w ext : W64) : exec (.exit g w ext) s = execExit g w ext s := rfl
theorem exec_call (g : Nat) (w ext : W64) : exec (.call g w ext) s = execCall g w ext s := rfl
theorem exec_ret (g : Nat) (w ext : W64) : exec (.ret g w ext) s = execRet g w ext s := rfl
theorem exec_valu (g : Nat) (w ext : W64) : exec (.valu g w ext) s = execValu g w ext s := rfl
theorem exec_vsfu (g : Nat) (w ext : W64) : exec (.vsfu g w ext) s = execVsfu g w ext s := rfl
theorem exec_ualu (g : Nat) (w ext : W64) : exec (.ualu g w ext) s = execUalu g w ext s := rfl
theorem exec_mov (g : Nat) (w ext : W64) : exec (.mov g w ext) s = execMov g w ext s := rfl
theorem exec_umov (g : Nat) (w ext : W64) : exec (.umov g w ext) s = execUmov g w ext s := rfl
theorem exec_cvt (g : Nat) (w ext : W64) : exec (.cvt g w ext) s = execCvt g w ext s := rfl
theorem exec_s2r (g : Nat) (w ext : W64) : exec (.s2r g w ext) s = execS2r g w ext s := rfl
theorem exec_s2u (g : Nat) (w ext : W64) : exec (.s2u g w ext) s = execS2u g w ext s := rfl
theorem exec_ldl (g : Nat) (w ext : W64) : exec (.ldl g w ext) s = execLdl g w ext s := rfl
theorem exec_stl (g : Nat) (w ext : W64) : exec (.stl g w ext) s = execStl g w ext s := rfl
theorem exec_ldg (g : Nat) (w ext : W64) : exec (.ldg g w ext) s = execLdg g w ext s := rfl
theorem exec_stg (g : Nat) (w ext : W64) : exec (.stg g w ext) s = execStg g w ext s := rfl
theorem exec_ldc (g : Nat) (w ext : W64) : exec (.ldc g w ext) s = execLdc g w ext s := rfl
theorem exec_tex (g : Nat) (w ext : W64) : exec (.tex g w ext) s = execTex g w ext s := rfl
theorem exec_tld (g : Nat) (w ext : W64) : exec (.tld g w ext) s = execTld g w ext s := rfl
theorem exec_tres (g : Nat) (w ext : W64) : exec (.tres g w ext) s = execTres g w ext s := rfl
theorem exec_mld (g : Nat) (w ext : W64) : exec (.mld g w ext) s = execMld g w ext s := rfl
theorem exec_mma (g : Nat) (w ext : W64) : exec (.mma g w ext) s = execMma g w ext s := rfl
theorem exec_mst (g : Nat) (w ext : W64) : exec (.mst g w ext) s = execMst g w ext s := rfl
theorem exec_shfl (g : Nat) (w ext : W64) : exec (.shfl g w ext) s = execShfl g w ext s := rfl
theorem exec_vote (g : Nat) (w ext : W64) : exec (.vote g w ext) s = execVote g w ext s := rfl
theorem exec_matchLanes (g : Nat) (w ext : W64) : exec (.matchLanes g w ext) s = execMatchLanes g w ext s := rfl
theorem exec_red (g : Nat) (w ext : W64) : exec (.red g w ext) s = execRed g w ext s := rfl
theorem exec_bar (g : Nat) (w ext : W64) : exec (.bar g w ext) s = execBar g w ext s := rfl
theorem exec_cbar (g : Nat) (w ext : W64) : exec (.cbar g w ext) s = execCbar g w ext s := rfl
theorem exec_fence (g : Nat) (w ext : W64) : exec (.fence g w ext) s = execFence g w ext s := rfl
theorem exec_atom (g : Nat) (w ext : W64) : exec (.atom g w ext) s = execAtom g w ext s := rfl
theorem exec_ksig (g : Nat) (w ext : W64) : exec (.ksig g w ext) s = execKsig g w ext s := rfl
theorem exec_kwait (g : Nat) (w ext : W64) : exec (.kwait g w ext) s = execKwait g w ext s := rfl
theorem exec_kwaitTimeout (g : Nat) (t : W64) : exec (.kwaitTimeout g t) s = execKwaitTimeout g t s := rfl
theorem exec_hit (g : Nat) (w ext : W64) : exec (.hit g w ext) s = execHit g w ext s := rfl
theorem exec_knotSignalAtPort (k : Place) (v : W64) : exec (.knotSignalAtPort k v) s = execKnotSignalAtPort k v s := rfl
theorem exec_qualifiedEdge (ax : Fin 8) (a b : Bool) (t : W64) : exec (.qualifiedEdge ax a b t) s = execQualifiedEdge ax a b t s := rfl
theorem exec_zEdge (ax : Fin 8) (t : W64) : exec (.zEdge ax t) s = execZEdge ax t s := rfl
theorem exec_axStallExpiry (a : Fin 8) (t : W64) : exec (.axStallExpiry a t) s = execAxStallExpiry a t s := rfl
theorem exec_mainsPulse (ax : Fin 8) (e : MphEdge) : exec (.mainsPulse ax e) s = execMainsPulse ax e s := rfl
theorem exec_mainsPulseMissing (a : Fin 8) (t : W64) : exec (.mainsPulseMissing a t) s = execMainsPulseMissing a t s := rfl
theorem exec_hitPortArrival (r : HitRec) (src : HitSrc) (t : W64) : exec (.hitPortArrival r src t) s = execHitPortArrival r src t s := rfl
theorem exec_hitFire (o : Fin 36) (bad : Option W32) (t : W64) : exec (.hitFire o bad t) s = execHitFire o bad t s := rfl
theorem exec_pulseEnd (o : Fin 36) (t : W64) : exec (.pulseEnd o t) s = execPulseEnd o t s := rfl
theorem exec_tgFire (g : Fin 4) (t : W64) : exec (.tgFire g t) s = execTgFire g t s := rfl
theorem exec_tgCountReached (g : Fin 4) : exec (.tgCountReached g) s = execTgCountReached g s := rfl
theorem exec_axCfgWrite (a : Fin 8) (v : W32) : exec (.axCfgWrite a v) s = execAxCfgWrite a v s := rfl
theorem exec_outCfgWrite (o : Fin 36) (v : W32) : exec (.outCfgWrite o v) s = execOutCfgWrite o v s := rfl
theorem exec_tgCfgWrite (g : Fin 4) (v : W32) : exec (.tgCfgWrite g v) s = execTgCfgWrite g v s := rfl
theorem exec_axHostposWrite (a : Fin 8) (half : HalfSel) (v : W64) : exec (.axHostposWrite a half v) s = execAxHostposWrite a half v s := rfl
theorem exec_flush (o : Fin 36) : exec (.flush o) s = execFlush o s := rfl
theorem exec_clear (o : Fin 36) : exec (.clear o) s = execClear o s := rfl
theorem exec_lowerWordRead (off : W32) : exec (.lowerWordRead off) s = execLowerWordRead off s := rfl
theorem exec_readbackMismatch (o : Fin 36) (t : W64) : exec (.readbackMismatch o t) s = execReadbackMismatch o t s := rfl
theorem exec_safeBall (chB : Bool) (t : W64) : exec (.safeBall chB t) s = execSafeBall chB t s := rfl
theorem exec_lockstepSfi (t : W64) : exec (.lockstepSfi t) s = execLockstepSfi t s := rfl
theorem exec_lockstepPte (o : Fin 36) (t : W64) : exec (.lockstepPte o t) s = execLockstepPte o t s := rfl
theorem exec_clock (c : Fin 4) (t : W64) : exec (.clock c t) s = execClock c t s := rfl
theorem exec_voltage (rail : Fin 2) (t : W64) : exec (.voltage rail t) s = execVoltage rail t s := rfl
theorem exec_deadlineMiss (b : Fin 16) (n : W64) (t : W64) : exec (.deadlineMiss b n t) s = execDeadlineMiss b n t s := rfl
theorem exec_softwareAssistedDiagnostics (ramFault hitFault : Option W32) (t : W64) : exec (.softwareAssistedDiagnostics ramFault hitFault t) s = execSoftwareAssistedDiagnostics ramFault hitFault t s := rfl
theorem exec_sfiArmNFallingEdge (okA okB : Bool) (t : W64) : exec (.sfiArmNFallingEdge okA okB t) s = execSfiArmNFallingEdge okA okB t s := rfl
theorem exec_disarm (t : W64) : exec (.disarm t) s = execDisarm t s := rfl
theorem exec_longPacket (p : Fin 4) (vc : BitVec 5) (dt : BitVec 6) (payload : List Byte) (hdrOk crcOk : Bool) (t : W64) : exec (.longPacket p vc dt payload hdrOk crcOk t) s = execLongPacket p vc dt payload hdrOk crcOk t s := rfl
theorem exec_frameStart (p : Fin 4) (vc : BitVec 5) (t : W64) : exec (.frameStart p vc t) s = execFrameStart p vc t s := rfl
theorem exec_frameEnd (p : Fin 4) (vc : BitVec 5) (t : W64) : exec (.frameEnd p vc t) s = execFrameEnd p vc t s := rfl
theorem exec_latchPoint (d : Fin 2) (t : W64) : exec (.latchPoint d t) s = execLatchPoint d t s := rfl
theorem exec_dpoCtrlWrite (d : Fin 2) (v : W32) : exec (.dpoCtrlWrite d v) s = execDpoCtrlWrite d v s := rfl
theorem exec_train (d : Fin 2) : exec (.train d) s = execTrain d s := rfl
theorem exec_trainComplete (d : Fin 2) (ok : Bool) : exec (.trainComplete d ok) s = execTrainComplete d ok s := rfl
theorem exec_dpoMsggo (d : Fin 2) : exec (.dpoMsggo d) s = execDpoMsggo d s := rfl
theorem exec_messageDone (d : Fin 2) (o : MsgOutcome) (data : List Byte) : exec (.messageDone d o data) s = execMessageDone d o data s := rfl
theorem exec_hpd (d : Fin 2) (level : Bool) : exec (.hpd d level) s = execHpd d level s := rfl
theorem exec_drainResultReached (b : Fin 16) : exec (.drainResultReached b) s = execDrainResultReached b s := rfl
theorem exec_drainBlocksEnded (b : Fin 16) : exec (.drainBlocksEnded b) s = execDrainBlocksEnded b s := rfl
theorem exec_braidDrainTimeout (b : Fin 16) (t : W64) : exec (.braidDrainTimeout b t) s = execBraidDrainTimeout b t s := rfl
theorem exec_selectionRecordRetired (b : Fin 16) : exec (.selectionRecordRetired b) s = execSelectionRecordRetired b s := rfl
theorem exec_usesZero (m : Fin 1024) : exec (.usesZero m) s = execUsesZero m s := rfl
theorem exec_mixedStepStageEnd (c : Nat) : exec (.mixedStepStageEnd c) s = execMixedStepStageEnd c s := rfl
theorem exec_tail (fn : Fin 9) (q : Fin 256) (v : W32) : exec (.tail fn q v) s = execTail fn q v s := rfl
theorem exec_chead (fn : Fin 9) (q : Fin 256) (v : W32) : exec (.chead fn q v) s = execChead fn q v s := rfl
theorem exec_bar2Read (fn : Fin 9) (off : W64) (len : Nat) : exec (.bar2Read fn off len) s = execBar2Read fn off len s := rfl
theorem exec_bar2Write (fn : Fin 9) (off : W64) (data : List (Byte × Bool)) : exec (.bar2Write fn off data) s = execBar2Write fn off data s := rfl
theorem exec_rootqCtrl (fn : Fin 9) (v : W32) : exec (.rootqCtrl fn v) s = execRootqCtrl fn v s := rfl
theorem exec_mirrorBaseWrite (fn : Fin 9) (v : W64) : exec (.mirrorBaseWrite fn v) s = execMirrorBaseWrite fn v s := rfl
theorem exec_icnClaim (tgt : Fin 9) : exec (.icnClaim tgt) s = execIcnClaim tgt s := rfl
theorem exec_icnComplete (tgt : Fin 9) (v : W32) : exec (.icnComplete tgt v) s = execIcnComplete tgt v s := rfl
theorem exec_pfReset (k : PfResetKind) : exec (.pfReset k) s = execPfReset k s := rfl
theorem exec_vfFunctionLevelReset (v : Fin 8) : exec (.vfFunctionLevelReset v) s = execVfFunctionLevelReset v s := rfl
theorem exec_pcieLinkDown : exec (.pcieLinkDown) s = execPcieLinkDown s := rfl
theorem exec_registerWrite (fn : Fin 9) (off : W32) (len : Nat) (v : W64) : exec (.registerWrite fn off len v) s = execRegisterWrite fn off len v s := rfl
theorem exec_walkComplete (eng : Fin 46) (ctx : Fin 64) (va : W64) (kind : Access) : exec (.walkComplete eng ctx va kind) s = execWalkComplete eng ctx va kind s := rfl
theorem exec_xlFqbaseWrite (v : W64) : exec (.xlFqbaseWrite v) s = execXlFqbaseWrite v s := rfl
theorem exec_xlFqhead (v : W32) : exec (.xlFqhead v) s = execXlFqhead v s := rfl
theorem exec_invalidationComplete (i : Nat) : exec (.invalidationComplete i) s = execInvalidationComplete i s := rfl
theorem exec_xlRefq (v : W64) : exec (.xlRefq v) s = execXlRefq v s := rfl
theorem exec_scanComplete : exec (.scanComplete) s = execScanComplete s := rfl
theorem exec_releaseWalk : exec (.releaseWalk) s = execReleaseWalk s := rfl
theorem exec_scrub (unit : Fin 36) : exec (.scrub unit) s = execScrub unit s := rfl
theorem exec_scrubLapEnd (lpddr : Bool) (t : W64) : exec (.scrubLapEnd lpddr t) s = execScrubLapEnd lpddr t s := rfl
theorem exec_eccTestWrite : exec (.eccTestWrite) s = execEccTestWrite s := rfl
theorem exec_eccTestRead : exec (.eccTestRead) s = execEccTestRead s := rfl
theorem exec_flitReceipt (k : Fin 4) (crcOk : Bool) (f : FlitInfo) (t : W64) : exec (.flitReceipt k crcOk f t) s = execFlitReceipt k crcOk f t s := rfl
theorem exec_replayLimit (k : Fin 4) (t : W64) : exec (.replayLimit k t) s = execReplayLimit k t s := rfl
theorem exec_linkFlitTimeout (k : Fin 4) (t : W64) : exec (.linkFlitTimeout k t) s = execLinkFlitTimeout k t s := rfl
theorem exec_linkUp (k : Fin 4) (width : BitVec 3) (peer : Fin 16) : exec (.linkUp k width peer) s = execLinkUp k width peer s := rfl
theorem exec_hlCtrl (k : Fin 4) (v : W32) : exec (.hlCtrl k v) s = execHlCtrl k v s := rfl
theorem exec_retrain (k : Fin 4) : exec (.retrain k) s = execRetrain k s := rfl
theorem exec_remoteAccessArrival (k : Fin 4) (part : Fin 8) (lp : Bool) (frame : BitVec 27) (off : BitVec 16) (op : RemoteOp) : exec (.remoteAccessArrival k part lp frame off op) s = execRemoteAccessArrival k part lp frame off op s := rfl
theorem exec_remoteResponse (i : Nat) (data : W64) (poison refused : Bool) : exec (.remoteResponse i data poison refused) s = execRemoteResponse i data poison refused s := rfl
theorem exec_remoteStoreAck (i : Nat) (refused : Bool) : exec (.remoteStoreAck i refused) s = execRemoteStoreAck i refused s := rfl
theorem exec_remoteLoadTimeout (i : Nat) (t : W64) : exec (.remoteLoadTimeout i t) s = execRemoteLoadTimeout i t s := rfl
theorem exec_remoteStoreTimeout (i : Nat) (t : W64) : exec (.remoteStoreTimeout i t) s = execRemoteStoreTimeout i t s := rfl
theorem exec_barrierRelease (b : BitVec 8) : exec (.barrierRelease b) s = execBarrierRelease b s := rfl
theorem exec_powerStateEntry (st : PState) : exec (.powerStateEntry st) s = execPowerStateEntry st s := rfl
theorem exec_powerStateExit (codes : BitVec 7) (okA okB : Bool) (t : W64) : exec (.powerStateExit codes okA okB t) s = execPowerStateExit codes okA okB t s := rfl
theorem exec_hwakeN (t : W64) : exec (.hwakeN t) s = execHwakeN t s := rfl
theorem exec_wakeTimer (t : W64) : exec (.wakeTimer t) s = execWakeTimer t s := rfl
theorem exec_debouncedLevel (i : Fin 8) (level : Bool) (t : W64) : exec (.debouncedLevel i level t) s = execDebouncedLevel i level t s := rfl
theorem exec_wcamFrame (pixels : List Byte) (t : W64) : exec (.wcamFrame pixels t) s = execWcamFrame pixels t s := rfl
theorem exec_ruleEvaluation (t : W64) : exec (.ruleEvaluation t) s = execRuleEvaluation t s := rfl
theorem exec_wispCtrlWrite (v : W32) : exec (.wispCtrlWrite v) s = execWispCtrlWrite v s := rfl
theorem exec_avsAcknowledge (rail : Fin 2) (mv : BitVec 16) : exec (.avsAcknowledge rail mv) s = execAvsAcknowledge rail mv s := rfl
theorem exec_settleExpiry (rail : Fin 2) : exec (.settleExpiry rail) s = execSettleExpiry rail s := rfl
theorem exec_avsNoackTimeout (rail : Fin 2) : exec (.avsNoackTimeout rail) s = execAvsNoackTimeout rail s := rfl
theorem exec_tjSample (readings : List Int) (t : W64) : exec (.tjSample readings t) s = execTjSample readings t s := rfl
theorem exec_thermalStep (t : W64) : exec (.thermalStep t) s = execThermalStep t s := rfl
theorem exec_powerOnReset : exec (.powerOnReset) s = execPowerOnReset s := rfl
theorem exec_rstN (lowNs : Nat) : exec (.rstN lowNs) s = execRstN lowNs s := rfl
theorem exec_vddSafeLoss : exec (.vddSafeLoss) s = execVddSafeLoss s := rfl
theorem exec_bootCtrl (v : W32) : exec (.bootCtrl v) s = execBootCtrl v s := rfl
theorem exec_shutdownTestComplete (failPd : W64) (fails : List MemFail) (t : W64) : exec (.shutdownTestComplete failPd fails t) s = execShutdownTestComplete failPd fails t s := rfl
theorem exec_sliceComplete (core : Fin 32) (ok : Bool) (t : W64) : exec (.sliceComplete core ok t) s = execSliceComplete core ok t s := rfl
theorem exec_snapshotTrigger (t : W64) : exec (.snapshotTrigger t) s = execSnapshotTrigger t s := rfl
theorem exec_holdEnd (t : W64) : exec (.holdEnd t) s = execHoldEnd t s := rfl
theorem exec_extest : exec (.extest) s = execExtest s := rfl
theorem exec_idcode : exec (.idcode) s = execIdcode s := rfl
theorem exec_samplePreload : exec (.samplePreload) s = execSamplePreload s := rfl
theorem exec_clamp : exec (.clamp) s = execClamp s := rfl
theorem exec_highz : exec (.highz) s = execHighz s := rfl
theorem exec_extestPulse : exec (.extestPulse) s = execExtestPulse s := rfl
theorem exec_extestTrain : exec (.extestTrain) s = execExtestTrain s := rfl
theorem exec_strec : exec (.strec) s = execStrec s := rfl
theorem exec_bypass (code : Byte) : exec (.bypass code) s = execBypass code s := rfl
theorem exec_pcieLinkUp (rate : Fin 5) (width : Fin 4) : exec (.pcieLinkUp rate width) s = execPcieLinkUp rate width s := rfl
theorem exec_configurationSpaceWrite (fn : Fin 9) (f : CfgField) (v : W32) : exec (.configurationSpaceWrite fn f v) s = execConfigurationSpaceWrite fn f v s := rfl
theorem exec_camRxLoss (p : Fin 4) (t : W64) : exec (.camRxLoss p t) s = execCamRxLoss p t s := rfl
theorem exec_clockInRange (c : Fin 4) : exec (.clockInRange c) s = execClockInRange c s := rfl
theorem exec_voltageInRange (rail : Fin 2) : exec (.voltageInRange rail) s = execVoltageInRange rail s := rfl
theorem exec_ballLevelRestored (b : MonBall) : exec (.ballLevelRestored b) s = execBallLevelRestored b s := rfl
theorem exec_railMonitorsInRange (pass : Bool) (failPd : W64) (fails : List MemFail) : exec (.railMonitorsInRange pass failPd fails) s = execRailMonitorsInRange pass failPd fails s := rfl
theorem exec_vddioMachCollapse : exec (.vddioMachCollapse) s = execVddioMachCollapse s := rfl
theorem exec_bankGroupZeroed (k : Fin 8) : exec (.bankGroupZeroed k) s = execBankGroupZeroed k s := rfl
theorem exec_domainResetArrival : exec (.domainResetArrival) s = execDomainResetArrival s := rfl
theorem exec_domainSnapshotStart (ctx : Fin 64) (buf : W64) (knots : W64) (nknot : Nat) (seq : W64) (t : W64) : exec (.domainSnapshotStart ctx buf knots nknot seq t) s = execDomainSnapshotStart ctx buf knots nknot seq t s := rfl
theorem exec_barrierWithdrawalAnswer (b : BitVec 8) (removed : Bool) : exec (.barrierWithdrawalAnswer b removed) s = execBarrierWithdrawalAnswer b removed s := rfl
theorem exec_hostaccRead (fn : Fin 9) (a : RegAcc) : exec (.hostaccRead fn a) s = execHostaccRead fn a s := rfl

end

end Sys2Proof.Machine
end

