-- ==== Sys2Proof/Laws/State.lean ====
section
/-! SUPPORT. Laws/State.lean: every field of the state after every named update, so that no proof unfolds a record update. -/
namespace Sys2Proof.Machine

/-! ### updPte -/

section updPte
variable (f : Pte → Pte) (s : State)
@[simp] theorem updPte_pending : (updPte f s).pending = s.pending := rfl
@[simp] theorem updPte_freeCtr : (updPte f s).freeCtr = s.freeCtr := rfl
@[simp] theorem updPte_readData : (updPte f s).readData = s.readData := rfl
@[simp] theorem updPte_part : (updPte f s).part = s.part := rfl
@[simp] theorem updPte_time : (updPte f s).time = s.time := rfl
@[simp] theorem updPte_pte : (updPte f s).pte = f s.pte := rfl
@[simp] theorem updPte_sfi : (updPte f s).sfi = s.sfi := rfl
@[simp] theorem updPte_st : (updPte f s).st = s.st := rfl
@[simp] theorem updPte_fuses : (updPte f s).fuses = s.fuses := rfl
@[simp] theorem updPte_boot : (updPte f s).boot = s.boot := rfl
@[simp] theorem updPte_pwr : (updPte f s).pwr = s.pwr := rfl
@[simp] theorem updPte_wisp : (updPte f s).wisp = s.wisp := rfl
@[simp] theorem updPte_avs : (updPte f s).avs = s.avs := rfl
@[simp] theorem updPte_therm : (updPte f s).therm = s.therm := rfl
@[simp] theorem updPte_hi : (updPte f s).hi = s.hi := rfl
@[simp] theorem updPte_ex : (updPte f s).ex = s.ex := rfl
@[simp] theorem updPte_ob : (updPte f s).ob = s.ob := rfl
@[simp] theorem updPte_gx : (updPte f s).gx = s.gx := rfl
@[simp] theorem updPte_mm : (updPte f s).mm = s.mm := rfl
@[simp] theorem updPte_links : (updPte f s).links = s.links := rfl
@[simp] theorem updPte_dom : (updPte f s).dom = s.dom := rfl
@[simp] theorem updPte_snap : (updPte f s).snap = s.snap := rfl
@[simp] theorem updPte_jtagIr : (updPte f s).jtagIr = s.jtagIr := rfl
@[simp] theorem updPte_tdo : (updPte f s).tdo = s.tdo := rfl
@[simp] theorem updPte_wakeN : (updPte f s).wakeN = s.wakeN := rfl
end updPte

/-! ### updSfi -/

section updSfi
variable (f : Sfi → Sfi) (s : State)
@[simp] theorem updSfi_pending : (updSfi f s).pending = s.pending := rfl
@[simp] theorem updSfi_freeCtr : (updSfi f s).freeCtr = s.freeCtr := rfl
@[simp] theorem updSfi_readData : (updSfi f s).readData = s.readData := rfl
@[simp] theorem updSfi_part : (updSfi f s).part = s.part := rfl
@[simp] theorem updSfi_time : (updSfi f s).time = s.time := rfl
@[simp] theorem updSfi_pte : (updSfi f s).pte = s.pte := rfl
@[simp] theorem updSfi_sfi : (updSfi f s).sfi = f s.sfi := rfl
@[simp] theorem updSfi_st : (updSfi f s).st = s.st := rfl
@[simp] theorem updSfi_fuses : (updSfi f s).fuses = s.fuses := rfl
@[simp] theorem updSfi_boot : (updSfi f s).boot = s.boot := rfl
@[simp] theorem updSfi_pwr : (updSfi f s).pwr = s.pwr := rfl
@[simp] theorem updSfi_wisp : (updSfi f s).wisp = s.wisp := rfl
@[simp] theorem updSfi_avs : (updSfi f s).avs = s.avs := rfl
@[simp] theorem updSfi_therm : (updSfi f s).therm = s.therm := rfl
@[simp] theorem updSfi_hi : (updSfi f s).hi = s.hi := rfl
@[simp] theorem updSfi_ex : (updSfi f s).ex = s.ex := rfl
@[simp] theorem updSfi_ob : (updSfi f s).ob = s.ob := rfl
@[simp] theorem updSfi_gx : (updSfi f s).gx = s.gx := rfl
@[simp] theorem updSfi_mm : (updSfi f s).mm = s.mm := rfl
@[simp] theorem updSfi_links : (updSfi f s).links = s.links := rfl
@[simp] theorem updSfi_dom : (updSfi f s).dom = s.dom := rfl
@[simp] theorem updSfi_snap : (updSfi f s).snap = s.snap := rfl
@[simp] theorem updSfi_jtagIr : (updSfi f s).jtagIr = s.jtagIr := rfl
@[simp] theorem updSfi_tdo : (updSfi f s).tdo = s.tdo := rfl
@[simp] theorem updSfi_wakeN : (updSfi f s).wakeN = s.wakeN := rfl
end updSfi

/-! ### updSt -/

section updSt
variable (f : SelfTest → SelfTest) (s : State)
@[simp] theorem updSt_pending : (updSt f s).pending = s.pending := rfl
@[simp] theorem updSt_freeCtr : (updSt f s).freeCtr = s.freeCtr := rfl
@[simp] theorem updSt_readData : (updSt f s).readData = s.readData := rfl
@[simp] theorem updSt_part : (updSt f s).part = s.part := rfl
@[simp] theorem updSt_time : (updSt f s).time = s.time := rfl
@[simp] theorem updSt_pte : (updSt f s).pte = s.pte := rfl
@[simp] theorem updSt_sfi : (updSt f s).sfi = s.sfi := rfl
@[simp] theorem updSt_st : (updSt f s).st = f s.st := rfl
@[simp] theorem updSt_fuses : (updSt f s).fuses = s.fuses := rfl
@[simp] theorem updSt_boot : (updSt f s).boot = s.boot := rfl
@[simp] theorem updSt_pwr : (updSt f s).pwr = s.pwr := rfl
@[simp] theorem updSt_wisp : (updSt f s).wisp = s.wisp := rfl
@[simp] theorem updSt_avs : (updSt f s).avs = s.avs := rfl
@[simp] theorem updSt_therm : (updSt f s).therm = s.therm := rfl
@[simp] theorem updSt_hi : (updSt f s).hi = s.hi := rfl
@[simp] theorem updSt_ex : (updSt f s).ex = s.ex := rfl
@[simp] theorem updSt_ob : (updSt f s).ob = s.ob := rfl
@[simp] theorem updSt_gx : (updSt f s).gx = s.gx := rfl
@[simp] theorem updSt_mm : (updSt f s).mm = s.mm := rfl
@[simp] theorem updSt_links : (updSt f s).links = s.links := rfl
@[simp] theorem updSt_dom : (updSt f s).dom = s.dom := rfl
@[simp] theorem updSt_snap : (updSt f s).snap = s.snap := rfl
@[simp] theorem updSt_jtagIr : (updSt f s).jtagIr = s.jtagIr := rfl
@[simp] theorem updSt_tdo : (updSt f s).tdo = s.tdo := rfl
@[simp] theorem updSt_wakeN : (updSt f s).wakeN = s.wakeN := rfl
end updSt

/-! ### updBoot -/

section updBoot
variable (f : Boot → Boot) (s : State)
@[simp] theorem updBoot_pending : (updBoot f s).pending = s.pending := rfl
@[simp] theorem updBoot_freeCtr : (updBoot f s).freeCtr = s.freeCtr := rfl
@[simp] theorem updBoot_readData : (updBoot f s).readData = s.readData := rfl
@[simp] theorem updBoot_part : (updBoot f s).part = s.part := rfl
@[simp] theorem updBoot_time : (updBoot f s).time = s.time := rfl
@[simp] theorem updBoot_pte : (updBoot f s).pte = s.pte := rfl
@[simp] theorem updBoot_sfi : (updBoot f s).sfi = s.sfi := rfl
@[simp] theorem updBoot_st : (updBoot f s).st = s.st := rfl
@[simp] theorem updBoot_fuses : (updBoot f s).fuses = s.fuses := rfl
@[simp] theorem updBoot_boot : (updBoot f s).boot = f s.boot := rfl
@[simp] theorem updBoot_pwr : (updBoot f s).pwr = s.pwr := rfl
@[simp] theorem updBoot_wisp : (updBoot f s).wisp = s.wisp := rfl
@[simp] theorem updBoot_avs : (updBoot f s).avs = s.avs := rfl
@[simp] theorem updBoot_therm : (updBoot f s).therm = s.therm := rfl
@[simp] theorem updBoot_hi : (updBoot f s).hi = s.hi := rfl
@[simp] theorem updBoot_ex : (updBoot f s).ex = s.ex := rfl
@[simp] theorem updBoot_ob : (updBoot f s).ob = s.ob := rfl
@[simp] theorem updBoot_gx : (updBoot f s).gx = s.gx := rfl
@[simp] theorem updBoot_mm : (updBoot f s).mm = s.mm := rfl
@[simp] theorem updBoot_links : (updBoot f s).links = s.links := rfl
@[simp] theorem updBoot_dom : (updBoot f s).dom = s.dom := rfl
@[simp] theorem updBoot_snap : (updBoot f s).snap = s.snap := rfl
@[simp] theorem updBoot_jtagIr : (updBoot f s).jtagIr = s.jtagIr := rfl
@[simp] theorem updBoot_tdo : (updBoot f s).tdo = s.tdo := rfl
@[simp] theorem updBoot_wakeN : (updBoot f s).wakeN = s.wakeN := rfl
end updBoot

/-! ### updPwr -/

section updPwr
variable (f : Pwr → Pwr) (s : State)
@[simp] theorem updPwr_pending : (updPwr f s).pending = s.pending := rfl
@[simp] theorem updPwr_freeCtr : (updPwr f s).freeCtr = s.freeCtr := rfl
@[simp] theorem updPwr_readData : (updPwr f s).readData = s.readData := rfl
@[simp] theorem updPwr_part : (updPwr f s).part = s.part := rfl
@[simp] theorem updPwr_time : (updPwr f s).time = s.time := rfl
@[simp] theorem updPwr_pte : (updPwr f s).pte = s.pte := rfl
@[simp] theorem updPwr_sfi : (updPwr f s).sfi = s.sfi := rfl
@[simp] theorem updPwr_st : (updPwr f s).st = s.st := rfl
@[simp] theorem updPwr_fuses : (updPwr f s).fuses = s.fuses := rfl
@[simp] theorem updPwr_boot : (updPwr f s).boot = s.boot := rfl
@[simp] theorem updPwr_pwr : (updPwr f s).pwr = f s.pwr := rfl
@[simp] theorem updPwr_wisp : (updPwr f s).wisp = s.wisp := rfl
@[simp] theorem updPwr_avs : (updPwr f s).avs = s.avs := rfl
@[simp] theorem updPwr_therm : (updPwr f s).therm = s.therm := rfl
@[simp] theorem updPwr_hi : (updPwr f s).hi = s.hi := rfl
@[simp] theorem updPwr_ex : (updPwr f s).ex = s.ex := rfl
@[simp] theorem updPwr_ob : (updPwr f s).ob = s.ob := rfl
@[simp] theorem updPwr_gx : (updPwr f s).gx = s.gx := rfl
@[simp] theorem updPwr_mm : (updPwr f s).mm = s.mm := rfl
@[simp] theorem updPwr_links : (updPwr f s).links = s.links := rfl
@[simp] theorem updPwr_dom : (updPwr f s).dom = s.dom := rfl
@[simp] theorem updPwr_snap : (updPwr f s).snap = s.snap := rfl
@[simp] theorem updPwr_jtagIr : (updPwr f s).jtagIr = s.jtagIr := rfl
@[simp] theorem updPwr_tdo : (updPwr f s).tdo = s.tdo := rfl
@[simp] theorem updPwr_wakeN : (updPwr f s).wakeN = s.wakeN := rfl
end updPwr

/-! ### updWisp -/

section updWisp
variable (f : Wisp → Wisp) (s : State)
@[simp] theorem updWisp_pending : (updWisp f s).pending = s.pending := rfl
@[simp] theorem updWisp_freeCtr : (updWisp f s).freeCtr = s.freeCtr := rfl
@[simp] theorem updWisp_readData : (updWisp f s).readData = s.readData := rfl
@[simp] theorem updWisp_part : (updWisp f s).part = s.part := rfl
@[simp] theorem updWisp_time : (updWisp f s).time = s.time := rfl
@[simp] theorem updWisp_pte : (updWisp f s).pte = s.pte := rfl
@[simp] theorem updWisp_sfi : (updWisp f s).sfi = s.sfi := rfl
@[simp] theorem updWisp_st : (updWisp f s).st = s.st := rfl
@[simp] theorem updWisp_fuses : (updWisp f s).fuses = s.fuses := rfl
@[simp] theorem updWisp_boot : (updWisp f s).boot = s.boot := rfl
@[simp] theorem updWisp_pwr : (updWisp f s).pwr = s.pwr := rfl
@[simp] theorem updWisp_wisp : (updWisp f s).wisp = f s.wisp := rfl
@[simp] theorem updWisp_avs : (updWisp f s).avs = s.avs := rfl
@[simp] theorem updWisp_therm : (updWisp f s).therm = s.therm := rfl
@[simp] theorem updWisp_hi : (updWisp f s).hi = s.hi := rfl
@[simp] theorem updWisp_ex : (updWisp f s).ex = s.ex := rfl
@[simp] theorem updWisp_ob : (updWisp f s).ob = s.ob := rfl
@[simp] theorem updWisp_gx : (updWisp f s).gx = s.gx := rfl
@[simp] theorem updWisp_mm : (updWisp f s).mm = s.mm := rfl
@[simp] theorem updWisp_links : (updWisp f s).links = s.links := rfl
@[simp] theorem updWisp_dom : (updWisp f s).dom = s.dom := rfl
@[simp] theorem updWisp_snap : (updWisp f s).snap = s.snap := rfl
@[simp] theorem updWisp_jtagIr : (updWisp f s).jtagIr = s.jtagIr := rfl
@[simp] theorem updWisp_tdo : (updWisp f s).tdo = s.tdo := rfl
@[simp] theorem updWisp_wakeN : (updWisp f s).wakeN = s.wakeN := rfl
end updWisp

/-! ### updAvs -/

section updAvs
variable (f : Avs → Avs) (s : State)
@[simp] theorem updAvs_pending : (updAvs f s).pending = s.pending := rfl
@[simp] theorem updAvs_freeCtr : (updAvs f s).freeCtr = s.freeCtr := rfl
@[simp] theorem updAvs_readData : (updAvs f s).readData = s.readData := rfl
@[simp] theorem updAvs_part : (updAvs f s).part = s.part := rfl
@[simp] theorem updAvs_time : (updAvs f s).time = s.time := rfl
@[simp] theorem updAvs_pte : (updAvs f s).pte = s.pte := rfl
@[simp] theorem updAvs_sfi : (updAvs f s).sfi = s.sfi := rfl
@[simp] theorem updAvs_st : (updAvs f s).st = s.st := rfl
@[simp] theorem updAvs_fuses : (updAvs f s).fuses = s.fuses := rfl
@[simp] theorem updAvs_boot : (updAvs f s).boot = s.boot := rfl
@[simp] theorem updAvs_pwr : (updAvs f s).pwr = s.pwr := rfl
@[simp] theorem updAvs_wisp : (updAvs f s).wisp = s.wisp := rfl
@[simp] theorem updAvs_avs : (updAvs f s).avs = f s.avs := rfl
@[simp] theorem updAvs_therm : (updAvs f s).therm = s.therm := rfl
@[simp] theorem updAvs_hi : (updAvs f s).hi = s.hi := rfl
@[simp] theorem updAvs_ex : (updAvs f s).ex = s.ex := rfl
@[simp] theorem updAvs_ob : (updAvs f s).ob = s.ob := rfl
@[simp] theorem updAvs_gx : (updAvs f s).gx = s.gx := rfl
@[simp] theorem updAvs_mm : (updAvs f s).mm = s.mm := rfl
@[simp] theorem updAvs_links : (updAvs f s).links = s.links := rfl
@[simp] theorem updAvs_dom : (updAvs f s).dom = s.dom := rfl
@[simp] theorem updAvs_snap : (updAvs f s).snap = s.snap := rfl
@[simp] theorem updAvs_jtagIr : (updAvs f s).jtagIr = s.jtagIr := rfl
@[simp] theorem updAvs_tdo : (updAvs f s).tdo = s.tdo := rfl
@[simp] theorem updAvs_wakeN : (updAvs f s).wakeN = s.wakeN := rfl
end updAvs

/-! ### updTherm -/

section updTherm
variable (f : Therm → Therm) (s : State)
@[simp] theorem updTherm_pending : (updTherm f s).pending = s.pending := rfl
@[simp] theorem updTherm_freeCtr : (updTherm f s).freeCtr = s.freeCtr := rfl
@[simp] theorem updTherm_readData : (updTherm f s).readData = s.readData := rfl
@[simp] theorem updTherm_part : (updTherm f s).part = s.part := rfl
@[simp] theorem updTherm_time : (updTherm f s).time = s.time := rfl
@[simp] theorem updTherm_pte : (updTherm f s).pte = s.pte := rfl
@[simp] theorem updTherm_sfi : (updTherm f s).sfi = s.sfi := rfl
@[simp] theorem updTherm_st : (updTherm f s).st = s.st := rfl
@[simp] theorem updTherm_fuses : (updTherm f s).fuses = s.fuses := rfl
@[simp] theorem updTherm_boot : (updTherm f s).boot = s.boot := rfl
@[simp] theorem updTherm_pwr : (updTherm f s).pwr = s.pwr := rfl
@[simp] theorem updTherm_wisp : (updTherm f s).wisp = s.wisp := rfl
@[simp] theorem updTherm_avs : (updTherm f s).avs = s.avs := rfl
@[simp] theorem updTherm_therm : (updTherm f s).therm = f s.therm := rfl
@[simp] theorem updTherm_hi : (updTherm f s).hi = s.hi := rfl
@[simp] theorem updTherm_ex : (updTherm f s).ex = s.ex := rfl
@[simp] theorem updTherm_ob : (updTherm f s).ob = s.ob := rfl
@[simp] theorem updTherm_gx : (updTherm f s).gx = s.gx := rfl
@[simp] theorem updTherm_mm : (updTherm f s).mm = s.mm := rfl
@[simp] theorem updTherm_links : (updTherm f s).links = s.links := rfl
@[simp] theorem updTherm_dom : (updTherm f s).dom = s.dom := rfl
@[simp] theorem updTherm_snap : (updTherm f s).snap = s.snap := rfl
@[simp] theorem updTherm_jtagIr : (updTherm f s).jtagIr = s.jtagIr := rfl
@[simp] theorem updTherm_tdo : (updTherm f s).tdo = s.tdo := rfl
@[simp] theorem updTherm_wakeN : (updTherm f s).wakeN = s.wakeN := rfl
end updTherm

/-! ### updHi -/

section updHi
variable (f : HostIf → HostIf) (s : State)
@[simp] theorem updHi_pending : (updHi f s).pending = s.pending := rfl
@[simp] theorem updHi_freeCtr : (updHi f s).freeCtr = s.freeCtr := rfl
@[simp] theorem updHi_readData : (updHi f s).readData = s.readData := rfl
@[simp] theorem updHi_part : (updHi f s).part = s.part := rfl
@[simp] theorem updHi_time : (updHi f s).time = s.time := rfl
@[simp] theorem updHi_pte : (updHi f s).pte = s.pte := rfl
@[simp] theorem updHi_sfi : (updHi f s).sfi = s.sfi := rfl
@[simp] theorem updHi_st : (updHi f s).st = s.st := rfl
@[simp] theorem updHi_fuses : (updHi f s).fuses = s.fuses := rfl
@[simp] theorem updHi_boot : (updHi f s).boot = s.boot := rfl
@[simp] theorem updHi_pwr : (updHi f s).pwr = s.pwr := rfl
@[simp] theorem updHi_wisp : (updHi f s).wisp = s.wisp := rfl
@[simp] theorem updHi_avs : (updHi f s).avs = s.avs := rfl
@[simp] theorem updHi_therm : (updHi f s).therm = s.therm := rfl
@[simp] theorem updHi_hi : (updHi f s).hi = f s.hi := rfl
@[simp] theorem updHi_ex : (updHi f s).ex = s.ex := rfl
@[simp] theorem updHi_ob : (updHi f s).ob = s.ob := rfl
@[simp] theorem updHi_gx : (updHi f s).gx = s.gx := rfl
@[simp] theorem updHi_mm : (updHi f s).mm = s.mm := rfl
@[simp] theorem updHi_links : (updHi f s).links = s.links := rfl
@[simp] theorem updHi_dom : (updHi f s).dom = s.dom := rfl
@[simp] theorem updHi_snap : (updHi f s).snap = s.snap := rfl
@[simp] theorem updHi_jtagIr : (updHi f s).jtagIr = s.jtagIr := rfl
@[simp] theorem updHi_tdo : (updHi f s).tdo = s.tdo := rfl
@[simp] theorem updHi_wakeN : (updHi f s).wakeN = s.wakeN := rfl
end updHi

/-! ### updEx -/

section updEx
variable (f : Exec → Exec) (s : State)
@[simp] theorem updEx_pending : (updEx f s).pending = s.pending := rfl
@[simp] theorem updEx_freeCtr : (updEx f s).freeCtr = s.freeCtr := rfl
@[simp] theorem updEx_readData : (updEx f s).readData = s.readData := rfl
@[simp] theorem updEx_part : (updEx f s).part = s.part := rfl
@[simp] theorem updEx_time : (updEx f s).time = s.time := rfl
@[simp] theorem updEx_pte : (updEx f s).pte = s.pte := rfl
@[simp] theorem updEx_sfi : (updEx f s).sfi = s.sfi := rfl
@[simp] theorem updEx_st : (updEx f s).st = s.st := rfl
@[simp] theorem updEx_fuses : (updEx f s).fuses = s.fuses := rfl
@[simp] theorem updEx_boot : (updEx f s).boot = s.boot := rfl
@[simp] theorem updEx_pwr : (updEx f s).pwr = s.pwr := rfl
@[simp] theorem updEx_wisp : (updEx f s).wisp = s.wisp := rfl
@[simp] theorem updEx_avs : (updEx f s).avs = s.avs := rfl
@[simp] theorem updEx_therm : (updEx f s).therm = s.therm := rfl
@[simp] theorem updEx_hi : (updEx f s).hi = s.hi := rfl
@[simp] theorem updEx_ex : (updEx f s).ex = f s.ex := rfl
@[simp] theorem updEx_ob : (updEx f s).ob = s.ob := rfl
@[simp] theorem updEx_gx : (updEx f s).gx = s.gx := rfl
@[simp] theorem updEx_mm : (updEx f s).mm = s.mm := rfl
@[simp] theorem updEx_links : (updEx f s).links = s.links := rfl
@[simp] theorem updEx_dom : (updEx f s).dom = s.dom := rfl
@[simp] theorem updEx_snap : (updEx f s).snap = s.snap := rfl
@[simp] theorem updEx_jtagIr : (updEx f s).jtagIr = s.jtagIr := rfl
@[simp] theorem updEx_tdo : (updEx f s).tdo = s.tdo := rfl
@[simp] theorem updEx_wakeN : (updEx f s).wakeN = s.wakeN := rfl
end updEx

/-! ### updOb -/

section updOb
variable (f : Objects → Objects) (s : State)
@[simp] theorem updOb_pending : (updOb f s).pending = s.pending := rfl
@[simp] theorem updOb_freeCtr : (updOb f s).freeCtr = s.freeCtr := rfl
@[simp] theorem updOb_readData : (updOb f s).readData = s.readData := rfl
@[simp] theorem updOb_part : (updOb f s).part = s.part := rfl
@[simp] theorem updOb_time : (updOb f s).time = s.time := rfl
@[simp] theorem updOb_pte : (updOb f s).pte = s.pte := rfl
@[simp] theorem updOb_sfi : (updOb f s).sfi = s.sfi := rfl
@[simp] theorem updOb_st : (updOb f s).st = s.st := rfl
@[simp] theorem updOb_fuses : (updOb f s).fuses = s.fuses := rfl
@[simp] theorem updOb_boot : (updOb f s).boot = s.boot := rfl
@[simp] theorem updOb_pwr : (updOb f s).pwr = s.pwr := rfl
@[simp] theorem updOb_wisp : (updOb f s).wisp = s.wisp := rfl
@[simp] theorem updOb_avs : (updOb f s).avs = s.avs := rfl
@[simp] theorem updOb_therm : (updOb f s).therm = s.therm := rfl
@[simp] theorem updOb_hi : (updOb f s).hi = s.hi := rfl
@[simp] theorem updOb_ex : (updOb f s).ex = s.ex := rfl
@[simp] theorem updOb_ob : (updOb f s).ob = f s.ob := rfl
@[simp] theorem updOb_gx : (updOb f s).gx = s.gx := rfl
@[simp] theorem updOb_mm : (updOb f s).mm = s.mm := rfl
@[simp] theorem updOb_links : (updOb f s).links = s.links := rfl
@[simp] theorem updOb_dom : (updOb f s).dom = s.dom := rfl
@[simp] theorem updOb_snap : (updOb f s).snap = s.snap := rfl
@[simp] theorem updOb_jtagIr : (updOb f s).jtagIr = s.jtagIr := rfl
@[simp] theorem updOb_tdo : (updOb f s).tdo = s.tdo := rfl
@[simp] theorem updOb_wakeN : (updOb f s).wakeN = s.wakeN := rfl
end updOb

/-! ### updGx -/

section updGx
variable (f : Media → Media) (s : State)
@[simp] theorem updGx_pending : (updGx f s).pending = s.pending := rfl
@[simp] theorem updGx_freeCtr : (updGx f s).freeCtr = s.freeCtr := rfl
@[simp] theorem updGx_readData : (updGx f s).readData = s.readData := rfl
@[simp] theorem updGx_part : (updGx f s).part = s.part := rfl
@[simp] theorem updGx_time : (updGx f s).time = s.time := rfl
@[simp] theorem updGx_pte : (updGx f s).pte = s.pte := rfl
@[simp] theorem updGx_sfi : (updGx f s).sfi = s.sfi := rfl
@[simp] theorem updGx_st : (updGx f s).st = s.st := rfl
@[simp] theorem updGx_fuses : (updGx f s).fuses = s.fuses := rfl
@[simp] theorem updGx_boot : (updGx f s).boot = s.boot := rfl
@[simp] theorem updGx_pwr : (updGx f s).pwr = s.pwr := rfl
@[simp] theorem updGx_wisp : (updGx f s).wisp = s.wisp := rfl
@[simp] theorem updGx_avs : (updGx f s).avs = s.avs := rfl
@[simp] theorem updGx_therm : (updGx f s).therm = s.therm := rfl
@[simp] theorem updGx_hi : (updGx f s).hi = s.hi := rfl
@[simp] theorem updGx_ex : (updGx f s).ex = s.ex := rfl
@[simp] theorem updGx_ob : (updGx f s).ob = s.ob := rfl
@[simp] theorem updGx_gx : (updGx f s).gx = f s.gx := rfl
@[simp] theorem updGx_mm : (updGx f s).mm = s.mm := rfl
@[simp] theorem updGx_links : (updGx f s).links = s.links := rfl
@[simp] theorem updGx_dom : (updGx f s).dom = s.dom := rfl
@[simp] theorem updGx_snap : (updGx f s).snap = s.snap := rfl
@[simp] theorem updGx_jtagIr : (updGx f s).jtagIr = s.jtagIr := rfl
@[simp] theorem updGx_tdo : (updGx f s).tdo = s.tdo := rfl
@[simp] theorem updGx_wakeN : (updGx f s).wakeN = s.wakeN := rfl
end updGx

/-! ### updDom -/

section updDom
variable (f : Domain → Domain) (s : State)
@[simp] theorem updDom_pending : (updDom f s).pending = s.pending := rfl
@[simp] theorem updDom_freeCtr : (updDom f s).freeCtr = s.freeCtr := rfl
@[simp] theorem updDom_readData : (updDom f s).readData = s.readData := rfl
@[simp] theorem updDom_part : (updDom f s).part = s.part := rfl
@[simp] theorem updDom_time : (updDom f s).time = s.time := rfl
@[simp] theorem updDom_pte : (updDom f s).pte = s.pte := rfl
@[simp] theorem updDom_sfi : (updDom f s).sfi = s.sfi := rfl
@[simp] theorem updDom_st : (updDom f s).st = s.st := rfl
@[simp] theorem updDom_fuses : (updDom f s).fuses = s.fuses := rfl
@[simp] theorem updDom_boot : (updDom f s).boot = s.boot := rfl
@[simp] theorem updDom_pwr : (updDom f s).pwr = s.pwr := rfl
@[simp] theorem updDom_wisp : (updDom f s).wisp = s.wisp := rfl
@[simp] theorem updDom_avs : (updDom f s).avs = s.avs := rfl
@[simp] theorem updDom_therm : (updDom f s).therm = s.therm := rfl
@[simp] theorem updDom_hi : (updDom f s).hi = s.hi := rfl
@[simp] theorem updDom_ex : (updDom f s).ex = s.ex := rfl
@[simp] theorem updDom_ob : (updDom f s).ob = s.ob := rfl
@[simp] theorem updDom_gx : (updDom f s).gx = s.gx := rfl
@[simp] theorem updDom_mm : (updDom f s).mm = s.mm := rfl
@[simp] theorem updDom_links : (updDom f s).links = s.links := rfl
@[simp] theorem updDom_dom : (updDom f s).dom = f s.dom := rfl
@[simp] theorem updDom_snap : (updDom f s).snap = s.snap := rfl
@[simp] theorem updDom_jtagIr : (updDom f s).jtagIr = s.jtagIr := rfl
@[simp] theorem updDom_tdo : (updDom f s).tdo = s.tdo := rfl
@[simp] theorem updDom_wakeN : (updDom f s).wakeN = s.wakeN := rfl
end updDom

/-! ### updSnap -/

section updSnap
variable (f : SnapSt → SnapSt) (s : State)
@[simp] theorem updSnap_pending : (updSnap f s).pending = s.pending := rfl
@[simp] theorem updSnap_freeCtr : (updSnap f s).freeCtr = s.freeCtr := rfl
@[simp] theorem updSnap_readData : (updSnap f s).readData = s.readData := rfl
@[simp] theorem updSnap_part : (updSnap f s).part = s.part := rfl
@[simp] theorem updSnap_time : (updSnap f s).time = s.time := rfl
@[simp] theorem updSnap_pte : (updSnap f s).pte = s.pte := rfl
@[simp] theorem updSnap_sfi : (updSnap f s).sfi = s.sfi := rfl
@[simp] theorem updSnap_st : (updSnap f s).st = s.st := rfl
@[simp] theorem updSnap_fuses : (updSnap f s).fuses = s.fuses := rfl
@[simp] theorem updSnap_boot : (updSnap f s).boot = s.boot := rfl
@[simp] theorem updSnap_pwr : (updSnap f s).pwr = s.pwr := rfl
@[simp] theorem updSnap_wisp : (updSnap f s).wisp = s.wisp := rfl
@[simp] theorem updSnap_avs : (updSnap f s).avs = s.avs := rfl
@[simp] theorem updSnap_therm : (updSnap f s).therm = s.therm := rfl
@[simp] theorem updSnap_hi : (updSnap f s).hi = s.hi := rfl
@[simp] theorem updSnap_ex : (updSnap f s).ex = s.ex := rfl
@[simp] theorem updSnap_ob : (updSnap f s).ob = s.ob := rfl
@[simp] theorem updSnap_gx : (updSnap f s).gx = s.gx := rfl
@[simp] theorem updSnap_mm : (updSnap f s).mm = s.mm := rfl
@[simp] theorem updSnap_links : (updSnap f s).links = s.links := rfl
@[simp] theorem updSnap_dom : (updSnap f s).dom = s.dom := rfl
@[simp] theorem updSnap_snap : (updSnap f s).snap = f s.snap := rfl
@[simp] theorem updSnap_jtagIr : (updSnap f s).jtagIr = s.jtagIr := rfl
@[simp] theorem updSnap_tdo : (updSnap f s).tdo = s.tdo := rfl
@[simp] theorem updSnap_wakeN : (updSnap f s).wakeN = s.wakeN := rfl
end updSnap

/-! ### updAxis -/

section updAxis
variable (i : Nat) (f : Axis → Axis) (s : State)
@[simp] theorem updAxis_pending : (updAxis i f s).pending = s.pending := rfl
@[simp] theorem updAxis_freeCtr : (updAxis i f s).freeCtr = s.freeCtr := rfl
@[simp] theorem updAxis_readData : (updAxis i f s).readData = s.readData := rfl
@[simp] theorem updAxis_part : (updAxis i f s).part = s.part := rfl
@[simp] theorem updAxis_time : (updAxis i f s).time = s.time := rfl
@[simp] theorem updAxis_pte : (updAxis i f s).pte = { s.pte with axes := tabUpd s.pte.axes i f } := rfl
@[simp] theorem updAxis_sfi : (updAxis i f s).sfi = s.sfi := rfl
@[simp] theorem updAxis_st : (updAxis i f s).st = s.st := rfl
@[simp] theorem updAxis_fuses : (updAxis i f s).fuses = s.fuses := rfl
@[simp] theorem updAxis_boot : (updAxis i f s).boot = s.boot := rfl
@[simp] theorem updAxis_pwr : (updAxis i f s).pwr = s.pwr := rfl
@[simp] theorem updAxis_wisp : (updAxis i f s).wisp = s.wisp := rfl
@[simp] theorem updAxis_avs : (updAxis i f s).avs = s.avs := rfl
@[simp] theorem updAxis_therm : (updAxis i f s).therm = s.therm := rfl
@[simp] theorem updAxis_hi : (updAxis i f s).hi = s.hi := rfl
@[simp] theorem updAxis_ex : (updAxis i f s).ex = s.ex := rfl
@[simp] theorem updAxis_ob : (updAxis i f s).ob = s.ob := rfl
@[simp] theorem updAxis_gx : (updAxis i f s).gx = s.gx := rfl
@[simp] theorem updAxis_mm : (updAxis i f s).mm = s.mm := rfl
@[simp] theorem updAxis_links : (updAxis i f s).links = s.links := rfl
@[simp] theorem updAxis_dom : (updAxis i f s).dom = s.dom := rfl
@[simp] theorem updAxis_snap : (updAxis i f s).snap = s.snap := rfl
@[simp] theorem updAxis_jtagIr : (updAxis i f s).jtagIr = s.jtagIr := rfl
@[simp] theorem updAxis_tdo : (updAxis i f s).tdo = s.tdo := rfl
@[simp] theorem updAxis_wakeN : (updAxis i f s).wakeN = s.wakeN := rfl
end updAxis

/-! ### updOut -/

section updOut
variable (i : Nat) (f : Output → Output) (s : State)
@[simp] theorem updOut_pending : (updOut i f s).pending = s.pending := rfl
@[simp] theorem updOut_freeCtr : (updOut i f s).freeCtr = s.freeCtr := rfl
@[simp] theorem updOut_readData : (updOut i f s).readData = s.readData := rfl
@[simp] theorem updOut_part : (updOut i f s).part = s.part := rfl
@[simp] theorem updOut_time : (updOut i f s).time = s.time := rfl
@[simp] theorem updOut_pte : (updOut i f s).pte = { s.pte with outs := tabUpd s.pte.outs i f } := rfl
@[simp] theorem updOut_sfi : (updOut i f s).sfi = s.sfi := rfl
@[simp] theorem updOut_st : (updOut i f s).st = s.st := rfl
@[simp] theorem updOut_fuses : (updOut i f s).fuses = s.fuses := rfl
@[simp] theorem updOut_boot : (updOut i f s).boot = s.boot := rfl
@[simp] theorem updOut_pwr : (updOut i f s).pwr = s.pwr := rfl
@[simp] theorem updOut_wisp : (updOut i f s).wisp = s.wisp := rfl
@[simp] theorem updOut_avs : (updOut i f s).avs = s.avs := rfl
@[simp] theorem updOut_therm : (updOut i f s).therm = s.therm := rfl
@[simp] theorem updOut_hi : (updOut i f s).hi = s.hi := rfl
@[simp] theorem updOut_ex : (updOut i f s).ex = s.ex := rfl
@[simp] theorem updOut_ob : (updOut i f s).ob = s.ob := rfl
@[simp] theorem updOut_gx : (updOut i f s).gx = s.gx := rfl
@[simp] theorem updOut_mm : (updOut i f s).mm = s.mm := rfl
@[simp] theorem updOut_links : (updOut i f s).links = s.links := rfl
@[simp] theorem updOut_dom : (updOut i f s).dom = s.dom := rfl
@[simp] theorem updOut_snap : (updOut i f s).snap = s.snap := rfl
@[simp] theorem updOut_jtagIr : (updOut i f s).jtagIr = s.jtagIr := rfl
@[simp] theorem updOut_tdo : (updOut i f s).tdo = s.tdo := rfl
@[simp] theorem updOut_wakeN : (updOut i f s).wakeN = s.wakeN := rfl
end updOut

/-! ### updTg -/

section updTg
variable (i : Nat) (f : TrigGen → TrigGen) (s : State)
@[simp] theorem updTg_pending : (updTg i f s).pending = s.pending := rfl
@[simp] theorem updTg_freeCtr : (updTg i f s).freeCtr = s.freeCtr := rfl
@[simp] theorem updTg_readData : (updTg i f s).readData = s.readData := rfl
@[simp] theorem updTg_part : (updTg i f s).part = s.part := rfl
@[simp] theorem updTg_time : (updTg i f s).time = s.time := rfl
@[simp] theorem updTg_pte : (updTg i f s).pte = { s.pte with tgs := tabUpd s.pte.tgs i f } := rfl
@[simp] theorem updTg_sfi : (updTg i f s).sfi = s.sfi := rfl
@[simp] theorem updTg_st : (updTg i f s).st = s.st := rfl
@[simp] theorem updTg_fuses : (updTg i f s).fuses = s.fuses := rfl
@[simp] theorem updTg_boot : (updTg i f s).boot = s.boot := rfl
@[simp] theorem updTg_pwr : (updTg i f s).pwr = s.pwr := rfl
@[simp] theorem updTg_wisp : (updTg i f s).wisp = s.wisp := rfl
@[simp] theorem updTg_avs : (updTg i f s).avs = s.avs := rfl
@[simp] theorem updTg_therm : (updTg i f s).therm = s.therm := rfl
@[simp] theorem updTg_hi : (updTg i f s).hi = s.hi := rfl
@[simp] theorem updTg_ex : (updTg i f s).ex = s.ex := rfl
@[simp] theorem updTg_ob : (updTg i f s).ob = s.ob := rfl
@[simp] theorem updTg_gx : (updTg i f s).gx = s.gx := rfl
@[simp] theorem updTg_mm : (updTg i f s).mm = s.mm := rfl
@[simp] theorem updTg_links : (updTg i f s).links = s.links := rfl
@[simp] theorem updTg_dom : (updTg i f s).dom = s.dom := rfl
@[simp] theorem updTg_snap : (updTg i f s).snap = s.snap := rfl
@[simp] theorem updTg_jtagIr : (updTg i f s).jtagIr = s.jtagIr := rfl
@[simp] theorem updTg_tdo : (updTg i f s).tdo = s.tdo := rfl
@[simp] theorem updTg_wakeN : (updTg i f s).wakeN = s.wakeN := rfl
end updTg

/-! ### updLayer -/

section updLayer
variable (i : Nat) (f : Layer → Layer) (s : State)
@[simp] theorem updLayer_pending : (updLayer i f s).pending = s.pending := rfl
@[simp] theorem updLayer_freeCtr : (updLayer i f s).freeCtr = s.freeCtr := rfl
@[simp] theorem updLayer_readData : (updLayer i f s).readData = s.readData := rfl
@[simp] theorem updLayer_part : (updLayer i f s).part = s.part := rfl
@[simp] theorem updLayer_time : (updLayer i f s).time = s.time := rfl
@[simp] theorem updLayer_pte : (updLayer i f s).pte = s.pte := rfl
@[simp] theorem updLayer_sfi : (updLayer i f s).sfi = s.sfi := rfl
@[simp] theorem updLayer_st : (updLayer i f s).st = s.st := rfl
@[simp] theorem updLayer_fuses : (updLayer i f s).fuses = s.fuses := rfl
@[simp] theorem updLayer_boot : (updLayer i f s).boot = s.boot := rfl
@[simp] theorem updLayer_pwr : (updLayer i f s).pwr = s.pwr := rfl
@[simp] theorem updLayer_wisp : (updLayer i f s).wisp = s.wisp := rfl
@[simp] theorem updLayer_avs : (updLayer i f s).avs = s.avs := rfl
@[simp] theorem updLayer_therm : (updLayer i f s).therm = s.therm := rfl
@[simp] theorem updLayer_hi : (updLayer i f s).hi = s.hi := rfl
@[simp] theorem updLayer_ex : (updLayer i f s).ex = s.ex := rfl
@[simp] theorem updLayer_ob : (updLayer i f s).ob = s.ob := rfl
@[simp] theorem updLayer_gx : (updLayer i f s).gx = { s.gx with layers := tabUpd s.gx.layers i f } := rfl
@[simp] theorem updLayer_mm : (updLayer i f s).mm = s.mm := rfl
@[simp] theorem updLayer_links : (updLayer i f s).links = s.links := rfl
@[simp] theorem updLayer_dom : (updLayer i f s).dom = s.dom := rfl
@[simp] theorem updLayer_snap : (updLayer i f s).snap = s.snap := rfl
@[simp] theorem updLayer_jtagIr : (updLayer i f s).jtagIr = s.jtagIr := rfl
@[simp] theorem updLayer_tdo : (updLayer i f s).tdo = s.tdo := rfl
@[simp] theorem updLayer_wakeN : (updLayer i f s).wakeN = s.wakeN := rfl
end updLayer

/-! ### updDpo -/

section updDpo
variable (i : Nat) (f : Dpo → Dpo) (s : State)
@[simp] theorem updDpo_pending : (updDpo i f s).pending = s.pending := rfl
@[simp] theorem updDpo_freeCtr : (updDpo i f s).freeCtr = s.freeCtr := rfl
@[simp] theorem updDpo_readData : (updDpo i f s).readData = s.readData := rfl
@[simp] theorem updDpo_part : (updDpo i f s).part = s.part := rfl
@[simp] theorem updDpo_time : (updDpo i f s).time = s.time := rfl
@[simp] theorem updDpo_pte : (updDpo i f s).pte = s.pte := rfl
@[simp] theorem updDpo_sfi : (updDpo i f s).sfi = s.sfi := rfl
@[simp] theorem updDpo_st : (updDpo i f s).st = s.st := rfl
@[simp] theorem updDpo_fuses : (updDpo i f s).fuses = s.fuses := rfl
@[simp] theorem updDpo_boot : (updDpo i f s).boot = s.boot := rfl
@[simp] theorem updDpo_pwr : (updDpo i f s).pwr = s.pwr := rfl
@[simp] theorem updDpo_wisp : (updDpo i f s).wisp = s.wisp := rfl
@[simp] theorem updDpo_avs : (updDpo i f s).avs = s.avs := rfl
@[simp] theorem updDpo_therm : (updDpo i f s).therm = s.therm := rfl
@[simp] theorem updDpo_hi : (updDpo i f s).hi = s.hi := rfl
@[simp] theorem updDpo_ex : (updDpo i f s).ex = s.ex := rfl
@[simp] theorem updDpo_ob : (updDpo i f s).ob = s.ob := rfl
@[simp] theorem updDpo_gx : (updDpo i f s).gx = { s.gx with dpos := tabUpd s.gx.dpos i f } := rfl
@[simp] theorem updDpo_mm : (updDpo i f s).mm = s.mm := rfl
@[simp] theorem updDpo_links : (updDpo i f s).links = s.links := rfl
@[simp] theorem updDpo_dom : (updDpo i f s).dom = s.dom := rfl
@[simp] theorem updDpo_snap : (updDpo i f s).snap = s.snap := rfl
@[simp] theorem updDpo_jtagIr : (updDpo i f s).jtagIr = s.jtagIr := rfl
@[simp] theorem updDpo_tdo : (updDpo i f s).tdo = s.tdo := rfl
@[simp] theorem updDpo_wakeN : (updDpo i f s).wakeN = s.wakeN := rfl
end updDpo

/-! ### updCam -/

section updCam
variable (i : Nat) (f : Cam → Cam) (s : State)
@[simp] theorem updCam_pending : (updCam i f s).pending = s.pending := rfl
@[simp] theorem updCam_freeCtr : (updCam i f s).freeCtr = s.freeCtr := rfl
@[simp] theorem updCam_readData : (updCam i f s).readData = s.readData := rfl
@[simp] theorem updCam_part : (updCam i f s).part = s.part := rfl
@[simp] theorem updCam_time : (updCam i f s).time = s.time := rfl
@[simp] theorem updCam_pte : (updCam i f s).pte = s.pte := rfl
@[simp] theorem updCam_sfi : (updCam i f s).sfi = s.sfi := rfl
@[simp] theorem updCam_st : (updCam i f s).st = s.st := rfl
@[simp] theorem updCam_fuses : (updCam i f s).fuses = s.fuses := rfl
@[simp] theorem updCam_boot : (updCam i f s).boot = s.boot := rfl
@[simp] theorem updCam_pwr : (updCam i f s).pwr = s.pwr := rfl
@[simp] theorem updCam_wisp : (updCam i f s).wisp = s.wisp := rfl
@[simp] theorem updCam_avs : (updCam i f s).avs = s.avs := rfl
@[simp] theorem updCam_therm : (updCam i f s).therm = s.therm := rfl
@[simp] theorem updCam_hi : (updCam i f s).hi = s.hi := rfl
@[simp] theorem updCam_ex : (updCam i f s).ex = s.ex := rfl
@[simp] theorem updCam_ob : (updCam i f s).ob = s.ob := rfl
@[simp] theorem updCam_gx : (updCam i f s).gx = { s.gx with cams := tabUpd s.gx.cams i f } := rfl
@[simp] theorem updCam_mm : (updCam i f s).mm = s.mm := rfl
@[simp] theorem updCam_links : (updCam i f s).links = s.links := rfl
@[simp] theorem updCam_dom : (updCam i f s).dom = s.dom := rfl
@[simp] theorem updCam_snap : (updCam i f s).snap = s.snap := rfl
@[simp] theorem updCam_jtagIr : (updCam i f s).jtagIr = s.jtagIr := rfl
@[simp] theorem updCam_tdo : (updCam i f s).tdo = s.tdo := rfl
@[simp] theorem updCam_wakeN : (updCam i f s).wakeN = s.wakeN := rfl
end updCam

/-! ### updGraph -/

section updGraph
variable (i : Nat) (f : Graph → Graph) (s : State)
@[simp] theorem updGraph_pending : (updGraph i f s).pending = s.pending := rfl
@[simp] theorem updGraph_freeCtr : (updGraph i f s).freeCtr = s.freeCtr := rfl
@[simp] theorem updGraph_readData : (updGraph i f s).readData = s.readData := rfl
@[simp] theorem updGraph_part : (updGraph i f s).part = s.part := rfl
@[simp] theorem updGraph_time : (updGraph i f s).time = s.time := rfl
@[simp] theorem updGraph_pte : (updGraph i f s).pte = s.pte := rfl
@[simp] theorem updGraph_sfi : (updGraph i f s).sfi = s.sfi := rfl
@[simp] theorem updGraph_st : (updGraph i f s).st = s.st := rfl
@[simp] theorem updGraph_fuses : (updGraph i f s).fuses = s.fuses := rfl
@[simp] theorem updGraph_boot : (updGraph i f s).boot = s.boot := rfl
@[simp] theorem updGraph_pwr : (updGraph i f s).pwr = s.pwr := rfl
@[simp] theorem updGraph_wisp : (updGraph i f s).wisp = s.wisp := rfl
@[simp] theorem updGraph_avs : (updGraph i f s).avs = s.avs := rfl
@[simp] theorem updGraph_therm : (updGraph i f s).therm = s.therm := rfl
@[simp] theorem updGraph_hi : (updGraph i f s).hi = s.hi := rfl
@[simp] theorem updGraph_ex : (updGraph i f s).ex = s.ex := rfl
@[simp] theorem updGraph_ob : (updGraph i f s).ob = { s.ob with graphs := tabUpd s.ob.graphs i f } := rfl
@[simp] theorem updGraph_gx : (updGraph i f s).gx = s.gx := rfl
@[simp] theorem updGraph_mm : (updGraph i f s).mm = s.mm := rfl
@[simp] theorem updGraph_links : (updGraph i f s).links = s.links := rfl
@[simp] theorem updGraph_dom : (updGraph i f s).dom = s.dom := rfl
@[simp] theorem updGraph_snap : (updGraph i f s).snap = s.snap := rfl
@[simp] theorem updGraph_jtagIr : (updGraph i f s).jtagIr = s.jtagIr := rfl
@[simp] theorem updGraph_tdo : (updGraph i f s).tdo = s.tdo := rfl
@[simp] theorem updGraph_wakeN : (updGraph i f s).wakeN = s.wakeN := rfl
end updGraph

/-! ### updModel -/

section updModel
variable (i : Nat) (f : Model → Model) (s : State)
@[simp] theorem updModel_pending : (updModel i f s).pending = s.pending := rfl
@[simp] theorem updModel_freeCtr : (updModel i f s).freeCtr = s.freeCtr := rfl
@[simp] theorem updModel_readData : (updModel i f s).readData = s.readData := rfl
@[simp] theorem updModel_part : (updModel i f s).part = s.part := rfl
@[simp] theorem updModel_time : (updModel i f s).time = s.time := rfl
@[simp] theorem updModel_pte : (updModel i f s).pte = s.pte := rfl
@[simp] theorem updModel_sfi : (updModel i f s).sfi = s.sfi := rfl
@[simp] theorem updModel_st : (updModel i f s).st = s.st := rfl
@[simp] theorem updModel_fuses : (updModel i f s).fuses = s.fuses := rfl
@[simp] theorem updModel_boot : (updModel i f s).boot = s.boot := rfl
@[simp] theorem updModel_pwr : (updModel i f s).pwr = s.pwr := rfl
@[simp] theorem updModel_wisp : (updModel i f s).wisp = s.wisp := rfl
@[simp] theorem updModel_avs : (updModel i f s).avs = s.avs := rfl
@[simp] theorem updModel_therm : (updModel i f s).therm = s.therm := rfl
@[simp] theorem updModel_hi : (updModel i f s).hi = s.hi := rfl
@[simp] theorem updModel_ex : (updModel i f s).ex = s.ex := rfl
@[simp] theorem updModel_ob : (updModel i f s).ob = { s.ob with models := tabUpd s.ob.models i f } := rfl
@[simp] theorem updModel_gx : (updModel i f s).gx = s.gx := rfl
@[simp] theorem updModel_mm : (updModel i f s).mm = s.mm := rfl
@[simp] theorem updModel_links : (updModel i f s).links = s.links := rfl
@[simp] theorem updModel_dom : (updModel i f s).dom = s.dom := rfl
@[simp] theorem updModel_snap : (updModel i f s).snap = s.snap := rfl
@[simp] theorem updModel_jtagIr : (updModel i f s).jtagIr = s.jtagIr := rfl
@[simp] theorem updModel_tdo : (updModel i f s).tdo = s.tdo := rfl
@[simp] theorem updModel_wakeN : (updModel i f s).wakeN = s.wakeN := rfl
end updModel

/-! ### updBraid -/

section updBraid
variable (i : Nat) (f : Braid → Braid) (s : State)
@[simp] theorem updBraid_pending : (updBraid i f s).pending = s.pending := rfl
@[simp] theorem updBraid_freeCtr : (updBraid i f s).freeCtr = s.freeCtr := rfl
@[simp] theorem updBraid_readData : (updBraid i f s).readData = s.readData := rfl
@[simp] theorem updBraid_part : (updBraid i f s).part = s.part := rfl
@[simp] theorem updBraid_time : (updBraid i f s).time = s.time := rfl
@[simp] theorem updBraid_pte : (updBraid i f s).pte = s.pte := rfl
@[simp] theorem updBraid_sfi : (updBraid i f s).sfi = s.sfi := rfl
@[simp] theorem updBraid_st : (updBraid i f s).st = s.st := rfl
@[simp] theorem updBraid_fuses : (updBraid i f s).fuses = s.fuses := rfl
@[simp] theorem updBraid_boot : (updBraid i f s).boot = s.boot := rfl
@[simp] theorem updBraid_pwr : (updBraid i f s).pwr = s.pwr := rfl
@[simp] theorem updBraid_wisp : (updBraid i f s).wisp = s.wisp := rfl
@[simp] theorem updBraid_avs : (updBraid i f s).avs = s.avs := rfl
@[simp] theorem updBraid_therm : (updBraid i f s).therm = s.therm := rfl
@[simp] theorem updBraid_hi : (updBraid i f s).hi = s.hi := rfl
@[simp] theorem updBraid_ex : (updBraid i f s).ex = s.ex := rfl
@[simp] theorem updBraid_ob : (updBraid i f s).ob = { s.ob with braids := tabUpd s.ob.braids i f } := rfl
@[simp] theorem updBraid_gx : (updBraid i f s).gx = s.gx := rfl
@[simp] theorem updBraid_mm : (updBraid i f s).mm = s.mm := rfl
@[simp] theorem updBraid_links : (updBraid i f s).links = s.links := rfl
@[simp] theorem updBraid_dom : (updBraid i f s).dom = s.dom := rfl
@[simp] theorem updBraid_snap : (updBraid i f s).snap = s.snap := rfl
@[simp] theorem updBraid_jtagIr : (updBraid i f s).jtagIr = s.jtagIr := rfl
@[simp] theorem updBraid_tdo : (updBraid i f s).tdo = s.tdo := rfl
@[simp] theorem updBraid_wakeN : (updBraid i f s).wakeN = s.wakeN := rfl
end updBraid

/-! ### updFunc -/

section updFunc
variable (i : Nat) (f : Func → Func) (s : State)
@[simp] theorem updFunc_pending : (updFunc i f s).pending = s.pending := rfl
@[simp] theorem updFunc_freeCtr : (updFunc i f s).freeCtr = s.freeCtr := rfl
@[simp] theorem updFunc_readData : (updFunc i f s).readData = s.readData := rfl
@[simp] theorem updFunc_part : (updFunc i f s).part = s.part := rfl
@[simp] theorem updFunc_time : (updFunc i f s).time = s.time := rfl
@[simp] theorem updFunc_pte : (updFunc i f s).pte = s.pte := rfl
@[simp] theorem updFunc_sfi : (updFunc i f s).sfi = s.sfi := rfl
@[simp] theorem updFunc_st : (updFunc i f s).st = s.st := rfl
@[simp] theorem updFunc_fuses : (updFunc i f s).fuses = s.fuses := rfl
@[simp] theorem updFunc_boot : (updFunc i f s).boot = s.boot := rfl
@[simp] theorem updFunc_pwr : (updFunc i f s).pwr = s.pwr := rfl
@[simp] theorem updFunc_wisp : (updFunc i f s).wisp = s.wisp := rfl
@[simp] theorem updFunc_avs : (updFunc i f s).avs = s.avs := rfl
@[simp] theorem updFunc_therm : (updFunc i f s).therm = s.therm := rfl
@[simp] theorem updFunc_hi : (updFunc i f s).hi = { s.hi with funcs := tabUpd s.hi.funcs i f } := rfl
@[simp] theorem updFunc_ex : (updFunc i f s).ex = s.ex := rfl
@[simp] theorem updFunc_ob : (updFunc i f s).ob = s.ob := rfl
@[simp] theorem updFunc_gx : (updFunc i f s).gx = s.gx := rfl
@[simp] theorem updFunc_mm : (updFunc i f s).mm = s.mm := rfl
@[simp] theorem updFunc_links : (updFunc i f s).links = s.links := rfl
@[simp] theorem updFunc_dom : (updFunc i f s).dom = s.dom := rfl
@[simp] theorem updFunc_snap : (updFunc i f s).snap = s.snap := rfl
@[simp] theorem updFunc_jtagIr : (updFunc i f s).jtagIr = s.jtagIr := rfl
@[simp] theorem updFunc_tdo : (updFunc i f s).tdo = s.tdo := rfl
@[simp] theorem updFunc_wakeN : (updFunc i f s).wakeN = s.wakeN := rfl
end updFunc

/-! ### updQueue -/

section updQueue
variable (i : Nat) (f : Queue → Queue) (s : State)
@[simp] theorem updQueue_pending : (updQueue i f s).pending = s.pending := rfl
@[simp] theorem updQueue_freeCtr : (updQueue i f s).freeCtr = s.freeCtr := rfl
@[simp] theorem updQueue_readData : (updQueue i f s).readData = s.readData := rfl
@[simp] theorem updQueue_part : (updQueue i f s).part = s.part := rfl
@[simp] theorem updQueue_time : (updQueue i f s).time = s.time := rfl
@[simp] theorem updQueue_pte : (updQueue i f s).pte = s.pte := rfl
@[simp] theorem updQueue_sfi : (updQueue i f s).sfi = s.sfi := rfl
@[simp] theorem updQueue_st : (updQueue i f s).st = s.st := rfl
@[simp] theorem updQueue_fuses : (updQueue i f s).fuses = s.fuses := rfl
@[simp] theorem updQueue_boot : (updQueue i f s).boot = s.boot := rfl
@[simp] theorem updQueue_pwr : (updQueue i f s).pwr = s.pwr := rfl
@[simp] theorem updQueue_wisp : (updQueue i f s).wisp = s.wisp := rfl
@[simp] theorem updQueue_avs : (updQueue i f s).avs = s.avs := rfl
@[simp] theorem updQueue_therm : (updQueue i f s).therm = s.therm := rfl
@[simp] theorem updQueue_hi : (updQueue i f s).hi = s.hi := rfl
@[simp] theorem updQueue_ex : (updQueue i f s).ex = { s.ex with queues := tabUpd s.ex.queues i f } := rfl
@[simp] theorem updQueue_ob : (updQueue i f s).ob = s.ob := rfl
@[simp] theorem updQueue_gx : (updQueue i f s).gx = s.gx := rfl
@[simp] theorem updQueue_mm : (updQueue i f s).mm = s.mm := rfl
@[simp] theorem updQueue_links : (updQueue i f s).links = s.links := rfl
@[simp] theorem updQueue_dom : (updQueue i f s).dom = s.dom := rfl
@[simp] theorem updQueue_snap : (updQueue i f s).snap = s.snap := rfl
@[simp] theorem updQueue_jtagIr : (updQueue i f s).jtagIr = s.jtagIr := rfl
@[simp] theorem updQueue_tdo : (updQueue i f s).tdo = s.tdo := rfl
@[simp] theorem updQueue_wakeN : (updQueue i f s).wakeN = s.wakeN := rfl
end updQueue

/-! ### updCtx -/

section updCtx
variable (i : Nat) (f : Ctx → Ctx) (s : State)
@[simp] theorem updCtx_pending : (updCtx i f s).pending = s.pending := rfl
@[simp] theorem updCtx_freeCtr : (updCtx i f s).freeCtr = s.freeCtr := rfl
@[simp] theorem updCtx_readData : (updCtx i f s).readData = s.readData := rfl
@[simp] theorem updCtx_part : (updCtx i f s).part = s.part := rfl
@[simp] theorem updCtx_time : (updCtx i f s).time = s.time := rfl
@[simp] theorem updCtx_pte : (updCtx i f s).pte = s.pte := rfl
@[simp] theorem updCtx_sfi : (updCtx i f s).sfi = s.sfi := rfl
@[simp] theorem updCtx_st : (updCtx i f s).st = s.st := rfl
@[simp] theorem updCtx_fuses : (updCtx i f s).fuses = s.fuses := rfl
@[simp] theorem updCtx_boot : (updCtx i f s).boot = s.boot := rfl
@[simp] theorem updCtx_pwr : (updCtx i f s).pwr = s.pwr := rfl
@[simp] theorem updCtx_wisp : (updCtx i f s).wisp = s.wisp := rfl
@[simp] theorem updCtx_avs : (updCtx i f s).avs = s.avs := rfl
@[simp] theorem updCtx_therm : (updCtx i f s).therm = s.therm := rfl
@[simp] theorem updCtx_hi : (updCtx i f s).hi = s.hi := rfl
@[simp] theorem updCtx_ex : (updCtx i f s).ex = { s.ex with ctxs := tabUpd s.ex.ctxs i f } := rfl
@[simp] theorem updCtx_ob : (updCtx i f s).ob = s.ob := rfl
@[simp] theorem updCtx_gx : (updCtx i f s).gx = s.gx := rfl
@[simp] theorem updCtx_mm : (updCtx i f s).mm = s.mm := rfl
@[simp] theorem updCtx_links : (updCtx i f s).links = s.links := rfl
@[simp] theorem updCtx_dom : (updCtx i f s).dom = s.dom := rfl
@[simp] theorem updCtx_snap : (updCtx i f s).snap = s.snap := rfl
@[simp] theorem updCtx_jtagIr : (updCtx i f s).jtagIr = s.jtagIr := rfl
@[simp] theorem updCtx_tdo : (updCtx i f s).tdo = s.tdo := rfl
@[simp] theorem updCtx_wakeN : (updCtx i f s).wakeN = s.wakeN := rfl
end updCtx

/-! ### updPart -/

section updPart
variable (i : Nat) (f : Partition → Partition) (s : State)
@[simp] theorem updPart_pending : (updPart i f s).pending = s.pending := rfl
@[simp] theorem updPart_freeCtr : (updPart i f s).freeCtr = s.freeCtr := rfl
@[simp] theorem updPart_readData : (updPart i f s).readData = s.readData := rfl
@[simp] theorem updPart_part : (updPart i f s).part = s.part := rfl
@[simp] theorem updPart_time : (updPart i f s).time = s.time := rfl
@[simp] theorem updPart_pte : (updPart i f s).pte = s.pte := rfl
@[simp] theorem updPart_sfi : (updPart i f s).sfi = s.sfi := rfl
@[simp] theorem updPart_st : (updPart i f s).st = s.st := rfl
@[simp] theorem updPart_fuses : (updPart i f s).fuses = s.fuses := rfl
@[simp] theorem updPart_boot : (updPart i f s).boot = s.boot := rfl
@[simp] theorem updPart_pwr : (updPart i f s).pwr = s.pwr := rfl
@[simp] theorem updPart_wisp : (updPart i f s).wisp = s.wisp := rfl
@[simp] theorem updPart_avs : (updPart i f s).avs = s.avs := rfl
@[simp] theorem updPart_therm : (updPart i f s).therm = s.therm := rfl
@[simp] theorem updPart_hi : (updPart i f s).hi = s.hi := rfl
@[simp] theorem updPart_ex : (updPart i f s).ex = { s.ex with parts := tabUpd s.ex.parts i f } := rfl
@[simp] theorem updPart_ob : (updPart i f s).ob = s.ob := rfl
@[simp] theorem updPart_gx : (updPart i f s).gx = s.gx := rfl
@[simp] theorem updPart_mm : (updPart i f s).mm = s.mm := rfl
@[simp] theorem updPart_links : (updPart i f s).links = s.links := rfl
@[simp] theorem updPart_dom : (updPart i f s).dom = s.dom := rfl
@[simp] theorem updPart_snap : (updPart i f s).snap = s.snap := rfl
@[simp] theorem updPart_jtagIr : (updPart i f s).jtagIr = s.jtagIr := rfl
@[simp] theorem updPart_tdo : (updPart i f s).tdo = s.tdo := rfl
@[simp] theorem updPart_wakeN : (updPart i f s).wakeN = s.wakeN := rfl
end updPart

/-! ### updCore -/

section updCore
variable (i : Nat) (f : Core → Core) (s : State)
@[simp] theorem updCore_pending : (updCore i f s).pending = s.pending := rfl
@[simp] theorem updCore_freeCtr : (updCore i f s).freeCtr = s.freeCtr := rfl
@[simp] theorem updCore_readData : (updCore i f s).readData = s.readData := rfl
@[simp] theorem updCore_part : (updCore i f s).part = s.part := rfl
@[simp] theorem updCore_time : (updCore i f s).time = s.time := rfl
@[simp] theorem updCore_pte : (updCore i f s).pte = s.pte := rfl
@[simp] theorem updCore_sfi : (updCore i f s).sfi = s.sfi := rfl
@[simp] theorem updCore_st : (updCore i f s).st = s.st := rfl
@[simp] theorem updCore_fuses : (updCore i f s).fuses = s.fuses := rfl
@[simp] theorem updCore_boot : (updCore i f s).boot = s.boot := rfl
@[simp] theorem updCore_pwr : (updCore i f s).pwr = s.pwr := rfl
@[simp] theorem updCore_wisp : (updCore i f s).wisp = s.wisp := rfl
@[simp] theorem updCore_avs : (updCore i f s).avs = s.avs := rfl
@[simp] theorem updCore_therm : (updCore i f s).therm = s.therm := rfl
@[simp] theorem updCore_hi : (updCore i f s).hi = s.hi := rfl
@[simp] theorem updCore_ex : (updCore i f s).ex = { s.ex with cores := tabUpd s.ex.cores i f } := rfl
@[simp] theorem updCore_ob : (updCore i f s).ob = s.ob := rfl
@[simp] theorem updCore_gx : (updCore i f s).gx = s.gx := rfl
@[simp] theorem updCore_mm : (updCore i f s).mm = s.mm := rfl
@[simp] theorem updCore_links : (updCore i f s).links = s.links := rfl
@[simp] theorem updCore_dom : (updCore i f s).dom = s.dom := rfl
@[simp] theorem updCore_snap : (updCore i f s).snap = s.snap := rfl
@[simp] theorem updCore_jtagIr : (updCore i f s).jtagIr = s.jtagIr := rfl
@[simp] theorem updCore_tdo : (updCore i f s).tdo = s.tdo := rfl
@[simp] theorem updCore_wakeN : (updCore i f s).wakeN = s.wakeN := rfl
end updCore

/-! ### updWb -/

section updWb
variable (f : Writeback → Writeback) (s : State)
@[simp] theorem updWb_pending : (updWb f s).pending = s.pending := rfl
@[simp] theorem updWb_freeCtr : (updWb f s).freeCtr = s.freeCtr := rfl
@[simp] theorem updWb_readData : (updWb f s).readData = s.readData := rfl
@[simp] theorem updWb_part : (updWb f s).part = s.part := rfl
@[simp] theorem updWb_time : (updWb f s).time = s.time := rfl
@[simp] theorem updWb_pte : (updWb f s).pte = s.pte := rfl
@[simp] theorem updWb_sfi : (updWb f s).sfi = s.sfi := rfl
@[simp] theorem updWb_st : (updWb f s).st = s.st := rfl
@[simp] theorem updWb_fuses : (updWb f s).fuses = s.fuses := rfl
@[simp] theorem updWb_boot : (updWb f s).boot = s.boot := rfl
@[simp] theorem updWb_pwr : (updWb f s).pwr = s.pwr := rfl
@[simp] theorem updWb_wisp : (updWb f s).wisp = s.wisp := rfl
@[simp] theorem updWb_avs : (updWb f s).avs = s.avs := rfl
@[simp] theorem updWb_therm : (updWb f s).therm = s.therm := rfl
@[simp] theorem updWb_hi : (updWb f s).hi = s.hi := rfl
@[simp] theorem updWb_ex : (updWb f s).ex = s.ex := rfl
@[simp] theorem updWb_ob : (updWb f s).ob = s.ob := rfl
@[simp] theorem updWb_gx : (updWb f s).gx = { s.gx with wb := f s.gx.wb } := rfl
@[simp] theorem updWb_mm : (updWb f s).mm = s.mm := rfl
@[simp] theorem updWb_links : (updWb f s).links = s.links := rfl
@[simp] theorem updWb_dom : (updWb f s).dom = s.dom := rfl
@[simp] theorem updWb_snap : (updWb f s).snap = s.snap := rfl
@[simp] theorem updWb_jtagIr : (updWb f s).jtagIr = s.jtagIr := rfl
@[simp] theorem updWb_tdo : (updWb f s).tdo = s.tdo := rfl
@[simp] theorem updWb_wakeN : (updWb f s).wakeN = s.wakeN := rfl
end updWb

/-! ### updLink -/

section updLink
variable (i : Nat) (f : Link → Link) (s : State)
@[simp] theorem updLink_pending : (updLink i f s).pending = s.pending := rfl
@[simp] theorem updLink_freeCtr : (updLink i f s).freeCtr = s.freeCtr := rfl
@[simp] theorem updLink_readData : (updLink i f s).readData = s.readData := rfl
@[simp] theorem updLink_part : (updLink i f s).part = s.part := rfl
@[simp] theorem updLink_time : (updLink i f s).time = s.time := rfl
@[simp] theorem updLink_pte : (updLink i f s).pte = s.pte := rfl
@[simp] theorem updLink_sfi : (updLink i f s).sfi = s.sfi := rfl
@[simp] theorem updLink_st : (updLink i f s).st = s.st := rfl
@[simp] theorem updLink_fuses : (updLink i f s).fuses = s.fuses := rfl
@[simp] theorem updLink_boot : (updLink i f s).boot = s.boot := rfl
@[simp] theorem updLink_pwr : (updLink i f s).pwr = s.pwr := rfl
@[simp] theorem updLink_wisp : (updLink i f s).wisp = s.wisp := rfl
@[simp] theorem updLink_avs : (updLink i f s).avs = s.avs := rfl
@[simp] theorem updLink_therm : (updLink i f s).therm = s.therm := rfl
@[simp] theorem updLink_hi : (updLink i f s).hi = s.hi := rfl
@[simp] theorem updLink_ex : (updLink i f s).ex = s.ex := rfl
@[simp] theorem updLink_ob : (updLink i f s).ob = s.ob := rfl
@[simp] theorem updLink_gx : (updLink i f s).gx = s.gx := rfl
@[simp] theorem updLink_mm : (updLink i f s).mm = s.mm := rfl
@[simp] theorem updLink_links : (updLink i f s).links = tabUpd s.links i f := rfl
@[simp] theorem updLink_dom : (updLink i f s).dom = s.dom := rfl
@[simp] theorem updLink_snap : (updLink i f s).snap = s.snap := rfl
@[simp] theorem updLink_jtagIr : (updLink i f s).jtagIr = s.jtagIr := rfl
@[simp] theorem updLink_tdo : (updLink i f s).tdo = s.tdo := rfl
@[simp] theorem updLink_wakeN : (updLink i f s).wakeN = s.wakeN := rfl
end updLink

/-! ### xlUpd -/

section xlUpd
variable (f : Xlu → Xlu) (s : State)
@[simp] theorem xlUpd_pending : (xlUpd f s).pending = s.pending := rfl
@[simp] theorem xlUpd_freeCtr : (xlUpd f s).freeCtr = s.freeCtr := rfl
@[simp] theorem xlUpd_readData : (xlUpd f s).readData = s.readData := rfl
@[simp] theorem xlUpd_part : (xlUpd f s).part = s.part := rfl
@[simp] theorem xlUpd_time : (xlUpd f s).time = s.time := rfl
@[simp] theorem xlUpd_pte : (xlUpd f s).pte = s.pte := rfl
@[simp] theorem xlUpd_sfi : (xlUpd f s).sfi = s.sfi := rfl
@[simp] theorem xlUpd_st : (xlUpd f s).st = s.st := rfl
@[simp] theorem xlUpd_fuses : (xlUpd f s).fuses = s.fuses := rfl
@[simp] theorem xlUpd_boot : (xlUpd f s).boot = s.boot := rfl
@[simp] theorem xlUpd_pwr : (xlUpd f s).pwr = s.pwr := rfl
@[simp] theorem xlUpd_wisp : (xlUpd f s).wisp = s.wisp := rfl
@[simp] theorem xlUpd_avs : (xlUpd f s).avs = s.avs := rfl
@[simp] theorem xlUpd_therm : (xlUpd f s).therm = s.therm := rfl
@[simp] theorem xlUpd_hi : (xlUpd f s).hi = s.hi := rfl
@[simp] theorem xlUpd_ex : (xlUpd f s).ex = s.ex := rfl
@[simp] theorem xlUpd_ob : (xlUpd f s).ob = s.ob := rfl
@[simp] theorem xlUpd_gx : (xlUpd f s).gx = s.gx := rfl
@[simp] theorem xlUpd_mm : (xlUpd f s).mm = { s.mm with xl := f s.mm.xl } := rfl
@[simp] theorem xlUpd_links : (xlUpd f s).links = s.links := rfl
@[simp] theorem xlUpd_dom : (xlUpd f s).dom = s.dom := rfl
@[simp] theorem xlUpd_snap : (xlUpd f s).snap = s.snap := rfl
@[simp] theorem xlUpd_jtagIr : (xlUpd f s).jtagIr = s.jtagIr := rfl
@[simp] theorem xlUpd_tdo : (xlUpd f s).tdo = s.tdo := rfl
@[simp] theorem xlUpd_wakeN : (xlUpd f s).wakeN = s.wakeN := rfl
end xlUpd

/-! ### ctlUpd -/

section ctlUpd
variable (f : MemCtl → MemCtl) (s : State)
@[simp] theorem ctlUpd_pending : (ctlUpd f s).pending = s.pending := rfl
@[simp] theorem ctlUpd_freeCtr : (ctlUpd f s).freeCtr = s.freeCtr := rfl
@[simp] theorem ctlUpd_readData : (ctlUpd f s).readData = s.readData := rfl
@[simp] theorem ctlUpd_part : (ctlUpd f s).part = s.part := rfl
@[simp] theorem ctlUpd_time : (ctlUpd f s).time = s.time := rfl
@[simp] theorem ctlUpd_pte : (ctlUpd f s).pte = s.pte := rfl
@[simp] theorem ctlUpd_sfi : (ctlUpd f s).sfi = s.sfi := rfl
@[simp] theorem ctlUpd_st : (ctlUpd f s).st = s.st := rfl
@[simp] theorem ctlUpd_fuses : (ctlUpd f s).fuses = s.fuses := rfl
@[simp] theorem ctlUpd_boot : (ctlUpd f s).boot = s.boot := rfl
@[simp] theorem ctlUpd_pwr : (ctlUpd f s).pwr = s.pwr := rfl
@[simp] theorem ctlUpd_wisp : (ctlUpd f s).wisp = s.wisp := rfl
@[simp] theorem ctlUpd_avs : (ctlUpd f s).avs = s.avs := rfl
@[simp] theorem ctlUpd_therm : (ctlUpd f s).therm = s.therm := rfl
@[simp] theorem ctlUpd_hi : (ctlUpd f s).hi = s.hi := rfl
@[simp] theorem ctlUpd_ex : (ctlUpd f s).ex = s.ex := rfl
@[simp] theorem ctlUpd_ob : (ctlUpd f s).ob = s.ob := rfl
@[simp] theorem ctlUpd_gx : (ctlUpd f s).gx = s.gx := rfl
@[simp] theorem ctlUpd_mm : (ctlUpd f s).mm = { s.mm with ctl := f s.mm.ctl } := rfl
@[simp] theorem ctlUpd_links : (ctlUpd f s).links = s.links := rfl
@[simp] theorem ctlUpd_dom : (ctlUpd f s).dom = s.dom := rfl
@[simp] theorem ctlUpd_snap : (ctlUpd f s).snap = s.snap := rfl
@[simp] theorem ctlUpd_jtagIr : (ctlUpd f s).jtagIr = s.jtagIr := rfl
@[simp] theorem ctlUpd_tdo : (ctlUpd f s).tdo = s.tdo := rfl
@[simp] theorem ctlUpd_wakeN : (ctlUpd f s).wakeN = s.wakeN := rfl
end ctlUpd

/-! ### updCmd -/

section updCmd
variable (i : Nat) (f : Cmd → Cmd) (s : State)
@[simp] theorem updCmd_pending : (updCmd i f s).pending = s.pending := rfl
@[simp] theorem updCmd_freeCtr : (updCmd i f s).freeCtr = s.freeCtr := rfl
@[simp] theorem updCmd_readData : (updCmd i f s).readData = s.readData := rfl
@[simp] theorem updCmd_part : (updCmd i f s).part = s.part := rfl
@[simp] theorem updCmd_time : (updCmd i f s).time = s.time := rfl
@[simp] theorem updCmd_pte : (updCmd i f s).pte = s.pte := rfl
@[simp] theorem updCmd_sfi : (updCmd i f s).sfi = s.sfi := rfl
@[simp] theorem updCmd_st : (updCmd i f s).st = s.st := rfl
@[simp] theorem updCmd_fuses : (updCmd i f s).fuses = s.fuses := rfl
@[simp] theorem updCmd_boot : (updCmd i f s).boot = s.boot := rfl
@[simp] theorem updCmd_pwr : (updCmd i f s).pwr = s.pwr := rfl
@[simp] theorem updCmd_wisp : (updCmd i f s).wisp = s.wisp := rfl
@[simp] theorem updCmd_avs : (updCmd i f s).avs = s.avs := rfl
@[simp] theorem updCmd_therm : (updCmd i f s).therm = s.therm := rfl
@[simp] theorem updCmd_hi : (updCmd i f s).hi = s.hi := rfl
@[simp] theorem updCmd_ex : (updCmd i f s).ex = { s.ex with cmds := updWhere (·.id == i) f s.ex.cmds } := rfl
@[simp] theorem updCmd_ob : (updCmd i f s).ob = s.ob := rfl
@[simp] theorem updCmd_gx : (updCmd i f s).gx = s.gx := rfl
@[simp] theorem updCmd_mm : (updCmd i f s).mm = s.mm := rfl
@[simp] theorem updCmd_links : (updCmd i f s).links = s.links := rfl
@[simp] theorem updCmd_dom : (updCmd i f s).dom = s.dom := rfl
@[simp] theorem updCmd_snap : (updCmd i f s).snap = s.snap := rfl
@[simp] theorem updCmd_jtagIr : (updCmd i f s).jtagIr = s.jtagIr := rfl
@[simp] theorem updCmd_tdo : (updCmd i f s).tdo = s.tdo := rfl
@[simp] theorem updCmd_wakeN : (updCmd i f s).wakeN = s.wakeN := rfl
end updCmd

/-! ### updBlk -/

section updBlk
variable (i : Nat) (f : Block → Block) (s : State)
@[simp] theorem updBlk_pending : (updBlk i f s).pending = s.pending := rfl
@[simp] theorem updBlk_freeCtr : (updBlk i f s).freeCtr = s.freeCtr := rfl
@[simp] theorem updBlk_readData : (updBlk i f s).readData = s.readData := rfl
@[simp] theorem updBlk_part : (updBlk i f s).part = s.part := rfl
@[simp] theorem updBlk_time : (updBlk i f s).time = s.time := rfl
@[simp] theorem updBlk_pte : (updBlk i f s).pte = s.pte := rfl
@[simp] theorem updBlk_sfi : (updBlk i f s).sfi = s.sfi := rfl
@[simp] theorem updBlk_st : (updBlk i f s).st = s.st := rfl
@[simp] theorem updBlk_fuses : (updBlk i f s).fuses = s.fuses := rfl
@[simp] theorem updBlk_boot : (updBlk i f s).boot = s.boot := rfl
@[simp] theorem updBlk_pwr : (updBlk i f s).pwr = s.pwr := rfl
@[simp] theorem updBlk_wisp : (updBlk i f s).wisp = s.wisp := rfl
@[simp] theorem updBlk_avs : (updBlk i f s).avs = s.avs := rfl
@[simp] theorem updBlk_therm : (updBlk i f s).therm = s.therm := rfl
@[simp] theorem updBlk_hi : (updBlk i f s).hi = s.hi := rfl
@[simp] theorem updBlk_ex : (updBlk i f s).ex = { s.ex with blocks := updWhere (·.id == i) f s.ex.blocks } := rfl
@[simp] theorem updBlk_ob : (updBlk i f s).ob = s.ob := rfl
@[simp] theorem updBlk_gx : (updBlk i f s).gx = s.gx := rfl
@[simp] theorem updBlk_mm : (updBlk i f s).mm = s.mm := rfl
@[simp] theorem updBlk_links : (updBlk i f s).links = s.links := rfl
@[simp] theorem updBlk_dom : (updBlk i f s).dom = s.dom := rfl
@[simp] theorem updBlk_snap : (updBlk i f s).snap = s.snap := rfl
@[simp] theorem updBlk_jtagIr : (updBlk i f s).jtagIr = s.jtagIr := rfl
@[simp] theorem updBlk_tdo : (updBlk i f s).tdo = s.tdo := rfl
@[simp] theorem updBlk_wakeN : (updBlk i f s).wakeN = s.wakeN := rfl
end updBlk

/-! ### updGrp -/

section updGrp
variable (i : Nat) (f : Group → Group) (s : State)
@[simp] theorem updGrp_pending : (updGrp i f s).pending = s.pending := rfl
@[simp] theorem updGrp_freeCtr : (updGrp i f s).freeCtr = s.freeCtr := rfl
@[simp] theorem updGrp_readData : (updGrp i f s).readData = s.readData := rfl
@[simp] theorem updGrp_part : (updGrp i f s).part = s.part := rfl
@[simp] theorem updGrp_time : (updGrp i f s).time = s.time := rfl
@[simp] theorem updGrp_pte : (updGrp i f s).pte = s.pte := rfl
@[simp] theorem updGrp_sfi : (updGrp i f s).sfi = s.sfi := rfl
@[simp] theorem updGrp_st : (updGrp i f s).st = s.st := rfl
@[simp] theorem updGrp_fuses : (updGrp i f s).fuses = s.fuses := rfl
@[simp] theorem updGrp_boot : (updGrp i f s).boot = s.boot := rfl
@[simp] theorem updGrp_pwr : (updGrp i f s).pwr = s.pwr := rfl
@[simp] theorem updGrp_wisp : (updGrp i f s).wisp = s.wisp := rfl
@[simp] theorem updGrp_avs : (updGrp i f s).avs = s.avs := rfl
@[simp] theorem updGrp_therm : (updGrp i f s).therm = s.therm := rfl
@[simp] theorem updGrp_hi : (updGrp i f s).hi = s.hi := rfl
@[simp] theorem updGrp_ex : (updGrp i f s).ex = { s.ex with groups := updWhere (·.id == i) f s.ex.groups } := rfl
@[simp] theorem updGrp_ob : (updGrp i f s).ob = s.ob := rfl
@[simp] theorem updGrp_gx : (updGrp i f s).gx = s.gx := rfl
@[simp] theorem updGrp_mm : (updGrp i f s).mm = s.mm := rfl
@[simp] theorem updGrp_links : (updGrp i f s).links = s.links := rfl
@[simp] theorem updGrp_dom : (updGrp i f s).dom = s.dom := rfl
@[simp] theorem updGrp_snap : (updGrp i f s).snap = s.snap := rfl
@[simp] theorem updGrp_jtagIr : (updGrp i f s).jtagIr = s.jtagIr := rfl
@[simp] theorem updGrp_tdo : (updGrp i f s).tdo = s.tdo := rfl
@[simp] theorem updGrp_wakeN : (updGrp i f s).wakeN = s.wakeN := rfl
end updGrp

/-! ### updPass -/

section updPass
variable (i : Nat) (f : Pass → Pass) (s : State)
@[simp] theorem updPass_pending : (updPass i f s).pending = s.pending := rfl
@[simp] theorem updPass_freeCtr : (updPass i f s).freeCtr = s.freeCtr := rfl
@[simp] theorem updPass_readData : (updPass i f s).readData = s.readData := rfl
@[simp] theorem updPass_part : (updPass i f s).part = s.part := rfl
@[simp] theorem updPass_time : (updPass i f s).time = s.time := rfl
@[simp] theorem updPass_pte : (updPass i f s).pte = s.pte := rfl
@[simp] theorem updPass_sfi : (updPass i f s).sfi = s.sfi := rfl
@[simp] theorem updPass_st : (updPass i f s).st = s.st := rfl
@[simp] theorem updPass_fuses : (updPass i f s).fuses = s.fuses := rfl
@[simp] theorem updPass_boot : (updPass i f s).boot = s.boot := rfl
@[simp] theorem updPass_pwr : (updPass i f s).pwr = s.pwr := rfl
@[simp] theorem updPass_wisp : (updPass i f s).wisp = s.wisp := rfl
@[simp] theorem updPass_avs : (updPass i f s).avs = s.avs := rfl
@[simp] theorem updPass_therm : (updPass i f s).therm = s.therm := rfl
@[simp] theorem updPass_hi : (updPass i f s).hi = s.hi := rfl
@[simp] theorem updPass_ex : (updPass i f s).ex = s.ex := rfl
@[simp] theorem updPass_ob : (updPass i f s).ob = s.ob := rfl
@[simp] theorem updPass_gx : (updPass i f s).gx = { s.gx with passes := updWhere (·.id == i) f s.gx.passes } := rfl
@[simp] theorem updPass_mm : (updPass i f s).mm = s.mm := rfl
@[simp] theorem updPass_links : (updPass i f s).links = s.links := rfl
@[simp] theorem updPass_dom : (updPass i f s).dom = s.dom := rfl
@[simp] theorem updPass_snap : (updPass i f s).snap = s.snap := rfl
@[simp] theorem updPass_jtagIr : (updPass i f s).jtagIr = s.jtagIr := rfl
@[simp] theorem updPass_tdo : (updPass i f s).tdo = s.tdo := rfl
@[simp] theorem updPass_wakeN : (updPass i f s).wakeN = s.wakeN := rfl
end updPass

/-! ### The time of an event, free values -/

section State.at
variable (t : W64) (s : State)
@[simp] theorem at_pending : (s.at t).pending = s.pending := rfl
@[simp] theorem at_freeCtr : (s.at t).freeCtr = s.freeCtr := rfl
@[simp] theorem at_readData : (s.at t).readData = s.readData := rfl
@[simp] theorem at_part : (s.at t).part = s.part := rfl
@[simp] theorem at_time : (s.at t).time = timeMax s.time t := rfl
@[simp] theorem at_pte : (s.at t).pte = s.pte := rfl
@[simp] theorem at_sfi : (s.at t).sfi = s.sfi := rfl
@[simp] theorem at_st : (s.at t).st = s.st := rfl
@[simp] theorem at_fuses : (s.at t).fuses = s.fuses := rfl
@[simp] theorem at_boot : (s.at t).boot = s.boot := rfl
@[simp] theorem at_pwr : (s.at t).pwr = s.pwr := rfl
@[simp] theorem at_wisp : (s.at t).wisp = s.wisp := rfl
@[simp] theorem at_avs : (s.at t).avs = s.avs := rfl
@[simp] theorem at_therm : (s.at t).therm = s.therm := rfl
@[simp] theorem at_hi : (s.at t).hi = s.hi := rfl
@[simp] theorem at_ex : (s.at t).ex = s.ex := rfl
@[simp] theorem at_ob : (s.at t).ob = s.ob := rfl
@[simp] theorem at_gx : (s.at t).gx = s.gx := rfl
@[simp] theorem at_mm : (s.at t).mm = s.mm := rfl
@[simp] theorem at_links : (s.at t).links = s.links := rfl
@[simp] theorem at_dom : (s.at t).dom = s.dom := rfl
@[simp] theorem at_snap : (s.at t).snap = s.snap := rfl
@[simp] theorem at_jtagIr : (s.at t).jtagIr = s.jtagIr := rfl
@[simp] theorem at_tdo : (s.at t).tdo = s.tdo := rfl
@[simp] theorem at_wakeN : (s.at t).wakeN = s.wakeN := rfl
end State.at

section State.draw
variable (s : State)
@[simp] theorem draw_pending : s.draw.2.pending = s.pending := rfl
@[simp] theorem draw_freeCtr : s.draw.2.freeCtr = s.freeCtr + 1 := rfl
@[simp] theorem draw_readData : s.draw.2.readData = s.readData := rfl
@[simp] theorem draw_part : s.draw.2.part = s.part := rfl
@[simp] theorem draw_time : s.draw.2.time = s.time := rfl
@[simp] theorem draw_pte : s.draw.2.pte = s.pte := rfl
@[simp] theorem draw_sfi : s.draw.2.sfi = s.sfi := rfl
@[simp] theorem draw_st : s.draw.2.st = s.st := rfl
@[simp] theorem draw_fuses : s.draw.2.fuses = s.fuses := rfl
@[simp] theorem draw_boot : s.draw.2.boot = s.boot := rfl
@[simp] theorem draw_pwr : s.draw.2.pwr = s.pwr := rfl
@[simp] theorem draw_wisp : s.draw.2.wisp = s.wisp := rfl
@[simp] theorem draw_avs : s.draw.2.avs = s.avs := rfl
@[simp] theorem draw_therm : s.draw.2.therm = s.therm := rfl
@[simp] theorem draw_hi : s.draw.2.hi = s.hi := rfl
@[simp] theorem draw_ex : s.draw.2.ex = s.ex := rfl
@[simp] theorem draw_ob : s.draw.2.ob = s.ob := rfl
@[simp] theorem draw_gx : s.draw.2.gx = s.gx := rfl
@[simp] theorem draw_mm : s.draw.2.mm = s.mm := rfl
@[simp] theorem draw_links : s.draw.2.links = s.links := rfl
@[simp] theorem draw_dom : s.draw.2.dom = s.dom := rfl
@[simp] theorem draw_snap : s.draw.2.snap = s.snap := rfl
@[simp] theorem draw_jtagIr : s.draw.2.jtagIr = s.jtagIr := rfl
@[simp] theorem draw_tdo : s.draw.2.tdo = s.tdo := rfl
@[simp] theorem draw_wakeN : s.draw.2.wakeN = s.wakeN := rfl
@[simp] theorem draw_fst : s.draw.1 = Config.freeValue s.freeCtr := rfl
end State.draw

end Sys2Proof.Machine
end

