-- ==== Sys2Proof/Laws/Tables.lean ====
section
/-! SUPPORT. Laws/Tables.lean: reading and updating tables, and what an update of one axis, output, generator, braid, queue, core … leaves
of the others. -/
namespace Sys2Proof.Machine

section Tab
variable {α : Type} {n : Nat} (v : Tab α n) (f : α → α) (d : α)

theorem tabD_ge {i : Nat} (h : n ≤ i) : tabD v i d = d := by
  simp [tabD, Array.getD, Nat.not_lt.mpr h]

theorem tabD_lt {i : Nat} (h : i < n) : tabD v i d = v[i] := by
  simp [tabD, Array.getD, h]

theorem tabUpd_ge {i : Nat} (h : n ≤ i) : tabUpd v i f = v := by
  simp [tabUpd, Nat.not_lt.mpr h]

theorem tabD_tabUpd_same {i : Nat} (h : i < n) : tabD (tabUpd v i f) i d = f (tabD v i d) := by
  simp [tabUpd, h, tabD, Array.getD]

@[simp] theorem tabD_tabUpd_ne {i j : Nat} (h : i ≠ j) : tabD (tabUpd v i f) j d = tabD v j d := by
  by_cases hi : i < n
  · by_cases hj : j < n
    · simp [tabUpd, hi, tabD, Array.getD, hj, h]
    · rw [tabD_ge _ _ (Nat.le_of_not_lt hj), tabD_ge _ _ (Nat.le_of_not_lt hj)]
  · rw [tabUpd_ge _ _ (Nat.le_of_not_lt hi)]

theorem tabD_tabUpd {i j : Nat} : tabD (tabUpd v i f) j d = if i = j ∧ i < n then f (tabD v j d) else tabD v j d := by
  by_cases e : i = j
  · subst e
    by_cases h : i < n
    · simp [tabD_tabUpd_same, h]
    · simp [h, tabUpd_ge _ _ (Nat.le_of_not_lt h)]
  · simp [e]

/-- A property of entries that an update does not change. -/
theorem tabD_tabUpd_keeps {β : Type} (p : α → β) (hp : ∀ x, p (f x) = p x) (i j : Nat) : p (tabD (tabUpd v i f) j d) = p (tabD v j d) := by
  rw [tabD_tabUpd]; split
  · exact hp _
  · rfl

theorem tabD_map {i : Nat} (h : i < n) : tabD (v.map f) i d = f (tabD v i d) := by
  simp [tabD, Array.getD, h]

theorem tab_ext {v w : Tab α n} (h : ∀ i, i < n → tabD v i d = tabD w i d) : v = w := by
  apply Vector.ext
  intro i hi
  have := h i hi
  rwa [tabD_lt _ _ hi, tabD_lt _ _ hi] at this

/-- Updates that agree on the entry agree. -/
theorem tabUpd_congr {i : Nat} {g : α → α} (h : f (tabD v i d) = g (tabD v i d)) : tabUpd v i f = tabUpd v i g := by
  refine tab_ext d fun j _ => ?_
  rw [tabD_tabUpd, tabD_tabUpd]
  split
  · rename_i e; rw [← e.1]; exact h
  · rfl

theorem tabUpd_id (i : Nat) : tabUpd v i (fun x => x) = v := by
  unfold tabUpd; split
  · simp
  · rfl

end Tab

theorem tabUpd_tabUpd {α : Type} {n : Nat} (v : Tab α n) (i : Nat) (f g : α → α) : tabUpd (tabUpd v i f) i g = tabUpd v i (fun x => g (f x)) := by
  unfold tabUpd; split <;> simp

/-- A property of a state that each step of a fold keeps. -/
theorem foldl_keeps {α β : Type} (p : β → Prop) (f : β → α → β) (h : ∀ b a, p b → p (f b a)) (l : List α) (b : β) (hb : p b) : p (l.foldl f b) := by
  induction l generalizing b with
  | nil => exact hb
  | cons a r ih => exact ih _ (h b a hb)

/-- A value read from a state that no step of a fold changes. -/
theorem foldl_same {α β γ : Type} (g : β → γ) (f : β → α → β) (h : ∀ b a, g (f b a) = g b) (l : List α) (b : β) : g (l.foldl f b) = g b := by
  induction l generalizing b with
  | nil => rfl
  | cons a r ih => exact (ih _).trans (h b a)

section Pte
variable (s : State) (i j : Nat)

@[simp] theorem output_updAxis (f : Axis → Axis) : output (updAxis i f s) j = output s j := rfl
@[simp] theorem output_updTg (f : TrigGen → TrigGen) : output (updTg i f s) j = output s j := rfl
@[simp] theorem axis_updOut (f : Output → Output) : axis (updOut i f s) j = axis s j := rfl
@[simp] theorem axis_updTg (f : TrigGen → TrigGen) : axis (updTg i f s) j = axis s j := rfl
@[simp] theorem output_updSfi (f : Sfi → Sfi) : output (updSfi f s) j = output s j := rfl
@[simp] theorem axis_updSfi (f : Sfi → Sfi) : axis (updSfi f s) j = axis s j := rfl
@[simp] theorem output_at (t : W64) : output (s.at t) j = output s j := rfl
@[simp] theorem axis_at (t : W64) : axis (s.at t) j = axis s j := rfl

theorem output_updOut (f : Output → Output) : output (updOut i f s) j = if i = j ∧ i < 36 then f (output s j) else output s j := tabD_tabUpd ..
theorem axis_updAxis (f : Axis → Axis) : axis (updAxis i f s) j = if i = j ∧ i < 8 then f (axis s j) else axis s j := tabD_tabUpd ..
theorem tg_updTg (f : TrigGen → TrigGen) : tabD (updTg i f s).pte.tgs j {} = if i = j ∧ i < 4 then f (tabD s.pte.tgs j {}) else tabD s.pte.tgs j {} := tabD_tabUpd ..
@[simp] theorem output_updOut_ne (f : Output → Output) (h : i ≠ j) : output (updOut i f s) j = output s j := tabD_tabUpd_ne _ _ _ h
@[simp] theorem axis_updAxis_ne (f : Axis → Axis) (h : i ≠ j) : axis (updAxis i f s) j = axis s j := tabD_tabUpd_ne _ _ _ h
theorem output_updOut_same (f : Output → Output) (h : i < 36) : output (updOut i f s) i = f (output s i) := tabD_tabUpd_same _ _ _ h
theorem axis_updAxis_same (f : Axis → Axis) (h : i < 8) : axis (updAxis i f s) i = f (axis s i) := tabD_tabUpd_same _ _ _ h

theorem updOut_congr {f g : Output → Output} (h : f (output s i) = g (output s i)) : updOut i f s = updOut i g s :=
  congrArg (fun v => updPte (fun p => { p with outs := v }) s) (tabUpd_congr _ _ ({} : Output) h)
theorem updAxis_congr {f g : Axis → Axis} (h : f (axis s i) = g (axis s i)) : updAxis i f s = updAxis i g s :=
  congrArg (fun v => updPte (fun p => { p with axes := v }) s) (tabUpd_congr _ _ ({} : Axis) h)
theorem updTg_congr {f g : TrigGen → TrigGen} (h : f (tabD s.pte.tgs i {}) = g (tabD s.pte.tgs i {})) : updTg i f s = updTg i g s :=
  congrArg (fun v => updPte (fun p => { p with tgs := v }) s) (tabUpd_congr _ _ {} h)

theorem updOut_updOut (f g : Output → Output) : updOut i g (updOut i f s) = updOut i (fun x => g (f x)) s :=
  congrArg (fun v => updPte (fun p => { p with outs := v }) s) (tabUpd_tabUpd ..)
theorem updAxis_updAxis (f g : Axis → Axis) : updAxis i g (updAxis i f s) = updAxis i (fun x => g (f x)) s :=
  congrArg (fun v => updPte (fun p => { p with axes := v }) s) (tabUpd_tabUpd ..)
theorem updTg_updTg (f g : TrigGen → TrigGen) : updTg i g (updTg i f s) = updTg i (fun x => g (f x)) s :=
  congrArg (fun v => updPte (fun p => { p with tgs := v }) s) (tabUpd_tabUpd ..)

@[simp] theorem postAlarm_pte (c u d : Nat) : (postAlarm c u d s).pte = s.pte := rfl
@[simp] theorem postAlarm_sfi (c u d : Nat) : (postAlarm c u d s).sfi = s.sfi := rfl
@[simp] theorem postAlarm_time (c u d : Nat) : (postAlarm c u d s).time = s.time := rfl
@[simp] theorem output_postAlarm (c u d : Nat) : output (postAlarm c u d s) j = output s j := rfl
@[simp] theorem axis_postAlarm (c u d : Nat) : axis (postAlarm c u d s) j = axis s j := rfl
@[simp] theorem output_pteAlarm (b u : Nat) : output (pteAlarm b u s) j = output s j := rfl
@[simp] theorem axis_pteAlarm (b u : Nat) : axis (pteAlarm b u s) j = axis s j := rfl
@[simp] theorem output_countDrops (n : Nat) : output (countDrops i n s) j = output s j := rfl

end Pte

/-! ### The other tables -/

section
variable (s : State) (i j : Nat)

theorem updLayer_get (f : Layer → Layer) (d : Layer) : tabD (updLayer i f s).gx.layers j d = if i = j ∧ i < s.gx.layers.size then f (tabD s.gx.layers j d) else tabD s.gx.layers j d := tabD_tabUpd ..
theorem updLayer_updLayer (f g : Layer → Layer) : updLayer i g (updLayer i f s) = updLayer i (fun x => g (f x)) s := congrArg (fun v => updGx (fun x => { x with layers := v }) s) (tabUpd_tabUpd s.gx.layers i f g)
theorem updLayer_congr {f g : Layer → Layer} (d : Layer) (h : f (tabD s.gx.layers i d) = g (tabD s.gx.layers i d)) : updLayer i f s = updLayer i g s := congrArg (fun v => updGx (fun x => { x with layers := v }) s) (tabUpd_congr _ _ d h)
theorem updDpo_get (f : Dpo → Dpo) (d : Dpo) : tabD (updDpo i f s).gx.dpos j d = if i = j ∧ i < s.gx.dpos.size then f (tabD s.gx.dpos j d) else tabD s.gx.dpos j d := tabD_tabUpd ..
theorem updDpo_updDpo (f g : Dpo → Dpo) : updDpo i g (updDpo i f s) = updDpo i (fun x => g (f x)) s := congrArg (fun v => updGx (fun x => { x with dpos := v }) s) (tabUpd_tabUpd s.gx.dpos i f g)
theorem updDpo_congr {f g : Dpo → Dpo} (d : Dpo) (h : f (tabD s.gx.dpos i d) = g (tabD s.gx.dpos i d)) : updDpo i f s = updDpo i g s := congrArg (fun v => updGx (fun x => { x with dpos := v }) s) (tabUpd_congr _ _ d h)
theorem updCam_get (f : Cam → Cam) (d : Cam) : tabD (updCam i f s).gx.cams j d = if i = j ∧ i < s.gx.cams.size then f (tabD s.gx.cams j d) else tabD s.gx.cams j d := tabD_tabUpd ..
theorem updCam_updCam (f g : Cam → Cam) : updCam i g (updCam i f s) = updCam i (fun x => g (f x)) s := congrArg (fun v => updGx (fun x => { x with cams := v }) s) (tabUpd_tabUpd s.gx.cams i f g)
theorem updCam_congr {f g : Cam → Cam} (d : Cam) (h : f (tabD s.gx.cams i d) = g (tabD s.gx.cams i d)) : updCam i f s = updCam i g s := congrArg (fun v => updGx (fun x => { x with cams := v }) s) (tabUpd_congr _ _ d h)
theorem updGraph_get (f : Graph → Graph) (d : Graph) : tabD (updGraph i f s).ob.graphs j d = if i = j ∧ i < s.ob.graphs.size then f (tabD s.ob.graphs j d) else tabD s.ob.graphs j d := tabD_tabUpd ..
theorem updGraph_updGraph (f g : Graph → Graph) : updGraph i g (updGraph i f s) = updGraph i (fun x => g (f x)) s := congrArg (fun v => updOb (fun x => { x with graphs := v }) s) (tabUpd_tabUpd s.ob.graphs i f g)
theorem updGraph_congr {f g : Graph → Graph} (d : Graph) (h : f (tabD s.ob.graphs i d) = g (tabD s.ob.graphs i d)) : updGraph i f s = updGraph i g s := congrArg (fun v => updOb (fun x => { x with graphs := v }) s) (tabUpd_congr _ _ d h)
theorem updModel_get (f : Model → Model) (d : Model) : tabD (updModel i f s).ob.models j d = if i = j ∧ i < s.ob.models.size then f (tabD s.ob.models j d) else tabD s.ob.models j d := tabD_tabUpd ..
theorem updModel_updModel (f g : Model → Model) : updModel i g (updModel i f s) = updModel i (fun x => g (f x)) s := congrArg (fun v => updOb (fun x => { x with models := v }) s) (tabUpd_tabUpd s.ob.models i f g)
theorem updModel_congr {f g : Model → Model} (d : Model) (h : f (tabD s.ob.models i d) = g (tabD s.ob.models i d)) : updModel i f s = updModel i g s := congrArg (fun v => updOb (fun x => { x with models := v }) s) (tabUpd_congr _ _ d h)
theorem updBraid_get (f : Braid → Braid) (d : Braid) : tabD (updBraid i f s).ob.braids j d = if i = j ∧ i < s.ob.braids.size then f (tabD s.ob.braids j d) else tabD s.ob.braids j d := tabD_tabUpd ..
theorem updBraid_updBraid (f g : Braid → Braid) : updBraid i g (updBraid i f s) = updBraid i (fun x => g (f x)) s := congrArg (fun v => updOb (fun x => { x with braids := v }) s) (tabUpd_tabUpd s.ob.braids i f g)
theorem updBraid_congr {f g : Braid → Braid} (d : Braid) (h : f (tabD s.ob.braids i d) = g (tabD s.ob.braids i d)) : updBraid i f s = updBraid i g s := congrArg (fun v => updOb (fun x => { x with braids := v }) s) (tabUpd_congr _ _ d h)
theorem updFunc_get (f : Func → Func) (d : Func) : tabD (updFunc i f s).hi.funcs j d = if i = j ∧ i < s.hi.funcs.size then f (tabD s.hi.funcs j d) else tabD s.hi.funcs j d := tabD_tabUpd ..
theorem updFunc_updFunc (f g : Func → Func) : updFunc i g (updFunc i f s) = updFunc i (fun x => g (f x)) s := congrArg (fun v => updHi (fun x => { x with funcs := v }) s) (tabUpd_tabUpd s.hi.funcs i f g)
theorem updFunc_congr {f g : Func → Func} (d : Func) (h : f (tabD s.hi.funcs i d) = g (tabD s.hi.funcs i d)) : updFunc i f s = updFunc i g s := congrArg (fun v => updHi (fun x => { x with funcs := v }) s) (tabUpd_congr _ _ d h)
theorem updQueue_get (f : Queue → Queue) (d : Queue) : tabD (updQueue i f s).ex.queues j d = if i = j ∧ i < s.ex.queues.size then f (tabD s.ex.queues j d) else tabD s.ex.queues j d := tabD_tabUpd ..
theorem updQueue_updQueue (f g : Queue → Queue) : updQueue i g (updQueue i f s) = updQueue i (fun x => g (f x)) s := congrArg (fun v => updEx (fun x => { x with queues := v }) s) (tabUpd_tabUpd s.ex.queues i f g)
theorem updQueue_congr {f g : Queue → Queue} (d : Queue) (h : f (tabD s.ex.queues i d) = g (tabD s.ex.queues i d)) : updQueue i f s = updQueue i g s := congrArg (fun v => updEx (fun x => { x with queues := v }) s) (tabUpd_congr _ _ d h)
theorem updCtx_get (f : Ctx → Ctx) (d : Ctx) : tabD (updCtx i f s).ex.ctxs j d = if i = j ∧ i < s.ex.ctxs.size then f (tabD s.ex.ctxs j d) else tabD s.ex.ctxs j d := tabD_tabUpd ..
theorem updCtx_updCtx (f g : Ctx → Ctx) : updCtx i g (updCtx i f s) = updCtx i (fun x => g (f x)) s := congrArg (fun v => updEx (fun x => { x with ctxs := v }) s) (tabUpd_tabUpd s.ex.ctxs i f g)
theorem updCtx_congr {f g : Ctx → Ctx} (d : Ctx) (h : f (tabD s.ex.ctxs i d) = g (tabD s.ex.ctxs i d)) : updCtx i f s = updCtx i g s := congrArg (fun v => updEx (fun x => { x with ctxs := v }) s) (tabUpd_congr _ _ d h)
theorem updPart_get (f : Partition → Partition) (d : Partition) : tabD (updPart i f s).ex.parts j d = if i = j ∧ i < s.ex.parts.size then f (tabD s.ex.parts j d) else tabD s.ex.parts j d := tabD_tabUpd ..
theorem updPart_updPart (f g : Partition → Partition) : updPart i g (updPart i f s) = updPart i (fun x => g (f x)) s := congrArg (fun v => updEx (fun x => { x with parts := v }) s) (tabUpd_tabUpd s.ex.parts i f g)
theorem updPart_congr {f g : Partition → Partition} (d : Partition) (h : f (tabD s.ex.parts i d) = g (tabD s.ex.parts i d)) : updPart i f s = updPart i g s := congrArg (fun v => updEx (fun x => { x with parts := v }) s) (tabUpd_congr _ _ d h)
theorem updCore_get (f : Core → Core) (d : Core) : tabD (updCore i f s).ex.cores j d = if i = j ∧ i < s.ex.cores.size then f (tabD s.ex.cores j d) else tabD s.ex.cores j d := tabD_tabUpd ..
theorem updCore_updCore (f g : Core → Core) : updCore i g (updCore i f s) = updCore i (fun x => g (f x)) s := congrArg (fun v => updEx (fun x => { x with cores := v }) s) (tabUpd_tabUpd s.ex.cores i f g)
theorem updCore_congr {f g : Core → Core} (d : Core) (h : f (tabD s.ex.cores i d) = g (tabD s.ex.cores i d)) : updCore i f s = updCore i g s := congrArg (fun v => updEx (fun x => { x with cores := v }) s) (tabUpd_congr _ _ d h)
theorem updLink_get (f : Link → Link) (d : Link) : tabD (updLink i f s).links j d = if i = j ∧ i < s.links.size then f (tabD s.links j d) else tabD s.links j d := tabD_tabUpd ..
theorem updLink_updLink (f g : Link → Link) : updLink i g (updLink i f s) = updLink i (fun x => g (f x)) s := congrArg (fun v => ({ s with links := v } : State)) (tabUpd_tabUpd s.links i f g)
theorem updLink_congr {f g : Link → Link} (d : Link) (h : f (tabD s.links i d) = g (tabD s.links i d)) : updLink i f s = updLink i g s := congrArg (fun v => ({ s with links := v } : State)) (tabUpd_congr _ _ d h)
end

end Sys2Proof.Machine
end

