-- ==== Sys2Proof/Laws/Mem.lean ====
section
/-! SUPPORT. Laws/Mem.lean: every memory operation keeps the canonical form of log 7; a byte reads as last written and every other byte
as before; what reads and writes of device and host memory leave alone. -/
namespace Sys2Proof.Machine

/-! ### Sorted lists of pairs -/

theorem rising_cons {α : Type} {o : Option Nat} {x : Nat} {v : α} {r : List (Nat × α)} :
    rising o ((x, v) :: r) = true ↔ (∀ l, o = some l → l < x) ∧ rising (some x) r = true := by
  cases o <;> simp [rising]

/-- Rising from a bound is rising from a lower bound. -/
theorem rising_weaken {α : Type} {o p : Option Nat} {l : List (Nat × α)} (h : ∀ k, p = some k → ∃ j, o = some j ∧ k ≤ j) (hl : rising o l = true) :
    rising p l = true := by
  cases l with
  | nil => cases p <;> rfl
  | cons c r =>
    obtain ⟨x, v⟩ := c
    rw [rising_cons] at *
    refine ⟨fun k hk => ?_, hl.2⟩
    obtain ⟨j, hj, hkj⟩ := h k hk
    exact Nat.lt_of_le_of_lt hkj (hl.1 j hj)

theorem rising_filter {α : Type} (f : Nat × α → Bool) {o : Option Nat} {l : List (Nat × α)} (h : rising o l = true) : rising o (l.filter f) = true := by
  induction l generalizing o with
  | nil => exact h
  | cons c r ih =>
    obtain ⟨x, v⟩ := c
    rw [rising_cons] at h
    rw [List.filter_cons]
    split
    · rw [rising_cons]; exact ⟨h.1, ih h.2⟩
    · exact rising_weaken (fun k hk => ⟨x, rfl, Nat.le_of_lt (h.1 k hk)⟩) (ih h.2)

theorem cellPut_rising {o : Option Nat} {l : List Host.Cell} (a : Nat) (b : Byte) (h : rising o l = true) (ha : ∀ k, o = some k → k < a) :
    rising o (cellPut l a b) = true := by
  induction l generalizing o with
  | nil =>
    unfold cellPut; split
    · exact h
    · rw [rising_cons]; exact ⟨ha, rfl⟩
  | cons c r ih =>
    obtain ⟨x, v⟩ := c
    have h' := rising_cons.mp h
    unfold cellPut
    split
    · split
      · exact h
      · rename_i hx _; rw [rising_cons, rising_cons]; exact ⟨ha, fun l hl => by cases hl; exact hx, h'.2⟩
    · split
      · rename_i hx; subst hx
        split
        · exact rising_weaken (fun k hk => ⟨a, rfl, Nat.le_of_lt (ha k hk)⟩) h'.2
        · rw [rising_cons]; exact h'
      · rename_i h1 h2
        rw [rising_cons]
        exact ⟨h'.1, ih h'.2 fun k hk => by cases hk; omega⟩

theorem cellPut_nonzero {l : List Host.Cell} (a : Nat) (b : Byte) (h : l.all (fun c => c.2 != 0) = true) : (cellPut l a b).all (fun c => c.2 != 0) = true := by
  induction l with
  | nil => unfold cellPut; split <;> simp_all
  | cons c r ih =>
    obtain ⟨x, v⟩ := c
    simp only [List.all_cons, Bool.and_eq_true] at h
    have k := ih h.2
    unfold cellPut
    split
    · split
      · rw [List.all_cons, Bool.and_eq_true]; exact h
      · rename_i hb; simp only [List.all_cons, Bool.and_eq_true]; exact ⟨by simpa using hb, h.1, h.2⟩
    · split
      · split
        · exact h.2
        · rename_i hb; simp only [List.all_cons, Bool.and_eq_true]; exact ⟨by simpa using hb, h.2⟩
      · simp only [List.all_cons, Bool.and_eq_true]; exact ⟨h.1, k⟩

theorem pairPut_rising {α : Type} {o : Option Nat} {l : List (Nat × α)} (k : Nat) (v : Option α) (h : rising o l = true) (hk : ∀ j, o = some j → j < k) :
    rising o (pairPut l k v) = true := by
  induction l generalizing o with
  | nil =>
    cases v with
    | none => exact h
    | some v => show rising o [(k, v)] = true; rw [rising_cons]; exact ⟨hk, rfl⟩
  | cons c r ih =>
    obtain ⟨x, w⟩ := c
    have h' := rising_cons.mp h
    unfold pairPut
    split
    · rename_i hx
      cases v with
      | none => exact h
      | some v => show rising o ((k, v) :: (x, w) :: r) = true; rw [rising_cons, rising_cons]; exact ⟨hk, fun l hl => by cases hl; exact hx, h'.2⟩
    · split
      · rename_i hx; subst hx
        cases v with
        | none => exact rising_weaken (fun j hj => ⟨k, rfl, Nat.le_of_lt (hk j hj)⟩) h'.2
        | some v => show rising o ((k, v) :: r) = true; rw [rising_cons]; exact h'
      · rename_i h1 h2
        rw [rising_cons]
        exact ⟨h'.1, ih h'.2 fun j hj => by cases hj; omega⟩

theorem cellGet_below {l : List Host.Cell} {o a : Nat} (h : rising (some o) l = true) (ha : a ≤ o) : cellGet l a = 0 := by
  induction l generalizing o with
  | nil => rfl
  | cons c r ih =>
    obtain ⟨x, v⟩ := c
    have h' := rising_cons.mp h
    have hx := h'.1 o rfl
    unfold cellGet
    rw [if_neg (by omega)]
    exact ih h'.2 (by omega)

/-! ### The canonical form -/

theorem Mem.wf_iff (m : Mem) : m.wf = true ↔ rising none m.cells = true ∧ m.cells.all (fun c => c.2 != 0) = true ∧ rising none m.marks = true := by
  unfold Mem.wf; simp only [Bool.and_eq_true, and_assoc]

theorem Mem.wf_empty : ({} : Mem).wf = true := rfl

theorem Mem.putByte_wf {m : Mem} (a : Nat) (b : Byte) (h : m.wf = true) : (m.putByte a b).wf = true := by
  rw [Mem.wf_iff] at *
  exact ⟨cellPut_rising a b h.1 (fun _ hk => by cases hk), cellPut_nonzero a b h.2.1, h.2.2⟩

theorem Mem.putMark_wf {m : Mem} (g : Nat) (k : Option Mark) (h : m.wf = true) : (m.putMark g k).wf = true := by
  rw [Mem.wf_iff] at *
  exact ⟨h.1, h.2.1, pairPut_rising g k h.2.2 (fun _ hk => by cases hk)⟩

theorem Mem.putBytes_wf {m : Mem} (a : Nat) (bs : List Byte) (h : m.wf = true) : (m.putBytes a bs).wf = true := by
  induction bs generalizing m a with
  | nil => exact h
  | cons b r ih => exact ih (a + 1) (Mem.putByte_wf a b h)

theorem Mem.putWord_wf {m : Mem} (g : Nat) (d : List Byte) (p : Bool) (h : m.wf = true) : (m.putWord g d p).wf = true :=
  Mem.putMark_wf _ _ (Mem.putBytes_wf _ _ h)

/-- Dropping marks or bytes keeps the form. -/
theorem Mem.filter_wf {m : Mem} (f : Host.Cell → Bool) (g : Nat × Mark → Bool) (h : m.wf = true) :
    ({ cells := m.cells.filter f, marks := m.marks.filter g } : Mem).wf = true := by
  rw [Mem.wf_iff] at *
  refine ⟨rising_filter f h.1, ?_, rising_filter g h.2.2⟩
  rw [List.all_eq_true] at *
  exact fun c hc => h.2.1 c (List.mem_filter.mp hc).1

theorem Mem.filterMarks_wf {m : Mem} (g : Nat × Mark → Bool) (h : m.wf = true) : ({ m with marks := m.marks.filter g } : Mem).wf = true := by
  rw [Mem.wf_iff] at *
  exact ⟨h.1, h.2.1, rising_filter g h.2.2⟩

/-! ### Read after write -/

theorem cellGet_cellPut {o : Option Nat} {l : List Host.Cell} (a : Nat) (b : Byte) (h : rising o l = true) (x : Nat) :
    cellGet (cellPut l a b) x = if x = a then b else cellGet l x := by
  induction l generalizing o with
  | nil =>
    unfold cellPut
    split
    · rename_i hb; subst hb
      show (0 : Byte) = if x = a then 0 else 0
      split <;> rfl
    · show (if a = x then b else 0) = if x = a then b else 0
      by_cases hx : x = a
      · subst hx; rfl
      · rw [if_neg hx, if_neg (fun e => hx e.symm)]
  | cons c r ih =>
    obtain ⟨y, v⟩ := c
    have h' := rising_cons.mp h
    have low : ∀ z, z ≤ y → cellGet r z = 0 := fun z hz => cellGet_below h'.2 hz
    unfold cellPut
    split
    · rename_i hay
      split
      · rename_i hb
        by_cases hx : x = a
        · subst hx
          rw [if_pos rfl, hb]
          show (if y = x then v else cellGet r x) = 0
          rw [if_neg (by omega)]; exact low x (by omega)
        · rw [if_neg hx]
      · show (if a = x then b else cellGet ((y, v) :: r) x) = _
        by_cases hx : x = a
        · subst hx; simp
        · rw [if_neg hx, if_neg (fun e => hx e.symm)]
    · split
      · rename_i h1 h2; subst h2
        split
        · rename_i hb
          by_cases hx : x = a
          · subst hx; rw [if_pos rfl, hb]; exact low x (Nat.le_refl _)
          · rw [if_neg hx]
            show cellGet r x = if a = x then v else cellGet r x
            rw [if_neg (fun e => hx e.symm)]
        · show (if a = x then b else cellGet r x) = if x = a then b else (if a = x then v else cellGet r x)
          by_cases hx : x = a
          · subst hx; simp
          · rw [if_neg hx, if_neg (fun e => hx e.symm), if_neg (fun e => hx e.symm)]
      · rename_i h1 h2
        show (if y = x then v else cellGet (cellPut r a b) x) = if x = a then b else (if y = x then v else cellGet r x)
        by_cases hy : y = x
        · subst hy; rw [if_pos rfl, if_pos rfl, if_neg (fun e => h2 e.symm)]
        · rw [if_neg hy, if_neg hy]; exact ih h'.2

/-- A byte reads as written, every other byte as before. -/
theorem Mem.byte_putByte {m : Mem} (h : m.wf = true) (a : Nat) (b : Byte) (x : Nat) : (m.putByte a b).byte x = if x = a then b else m.byte x :=
  cellGet_cellPut a b ((Mem.wf_iff m).mp h).1 x

theorem Mem.byte_putMark (m : Mem) (g : Nat) (k : Option Mark) (x : Nat) : (m.putMark g k).byte x = m.byte x := rfl

/-- A byte outside the bytes written reads as before, one inside as written. -/
theorem Mem.byte_putBytes {m : Mem} (h : m.wf = true) (a : Nat) (bs : List Byte) (x : Nat) :
    (m.putBytes a bs).byte x = if a ≤ x ∧ x < a + bs.length then bs.getD (x - a) 0 else m.byte x := by
  induction bs generalizing m a with
  | nil => rw [if_neg (show ¬(a ≤ x ∧ x < a + ([] : List Byte).length) by rw [List.length_nil]; omega)]; rfl
  | cons b r ih =>
    show ((m.putByte a b).putBytes (a + 1) r).byte x = _
    rw [ih (Mem.putByte_wf a b h), Mem.byte_putByte h]
    by_cases h1 : x = a
    · subst h1
      rw [if_neg (by omega), if_pos rfl, if_pos (by rw [List.length_cons]; omega)]; simp
    · by_cases h2 : a + 1 ≤ x ∧ x < a + 1 + r.length
      · rw [if_pos h2, if_pos (by simp only [List.length_cons]; omega)]
        obtain ⟨j, hj⟩ : ∃ j, x - a = j + 1 := ⟨x - a - 1, by omega⟩
        rw [hj, show x - (a + 1) = j by omega]
        simp
      · rw [if_neg h2, if_neg h1, if_neg (by simp only [List.length_cons]; omega)]

/-! ### Device memory: what reads and writes leave -/

/-- `t` differs from `s` at most in memory with its counters, in the host interface (alarms and the concentrator), and in the count of the free
values. -/
def MemOnly (s t : State) : Prop := t = { s with mm := t.mm, hi := t.hi, freeCtr := t.freeCtr }

theorem MemOnly.refl (s : State) : MemOnly s s := rfl
theorem MemOnly.trans {a b c : State} (h : MemOnly a b) (k : MemOnly b c) : MemOnly a c := by
  unfold MemOnly at *; rw [k, h]
theorem MemOnly.ex {s t : State} (h : MemOnly s t) : t.ex = s.ex := by rw [h]
theorem MemOnly.pte {s t : State} (h : MemOnly s t) : t.pte = s.pte := by rw [h]
theorem MemOnly.sfi {s t : State} (h : MemOnly s t) : t.sfi = s.sfi := by rw [h]
theorem MemOnly.pending {s t : State} (h : MemOnly s t) : t.pending = s.pending := by rw [h]
theorem MemOnly.ob {s t : State} (h : MemOnly s t) : t.ob = s.ob := by rw [h]
theorem MemOnly.time {s t : State} (h : MemOnly s t) : t.time = s.time := by rw [h]

theorem postAlarm_memOnly (c u d : Nat) (s : State) : MemOnly s (postAlarm c u d s) := rfl
theorem icnPulse_memOnly (n : Nat) (s : State) : MemOnly s (icnPulse n s) := rfl
theorem eccCount_memOnly (lp : Bool) (a : Nat) (f : EccUnit → EccUnit) (s : State) : MemOnly s (eccCount lp a f s) := rfl
theorem eccAlarm_memOnly (b : Nat) (s : State) : MemOnly s (eccAlarm b s) := rfl
theorem eccCe_memOnly (lp : Bool) (a : Nat) (s : State) : MemOnly s (eccCe lp a s) :=
  ((eccCount_memOnly ..).trans (eccAlarm_memOnly 0 _)).trans ((icnPulse_memOnly 12 _).trans (postAlarm_memOnly ..))
theorem eccUe_memOnly (lp : Bool) (a : Nat) (s : State) : MemOnly s (eccUe lp a s) := by
  unfold eccUe
  exact MemOnly.trans (MemOnly.trans ((eccCount_memOnly lp a _ s).trans (eccAlarm_memOnly 1 _)) (by rfl)) ((icnPulse_memOnly 13 _).trans (postAlarm_memOnly ..))
theorem eccPoison_memOnly (lp : Bool) (a : Nat) (s : State) : MemOnly s (eccPoison lp a s) :=
  ((eccCount_memOnly ..).trans (eccAlarm_memOnly 2 _)).trans (icnPulse_memOnly 13 _)
theorem eccNote_memOnly (lp : Bool) (g : Nat) (f : Found) (s : State) : MemOnly s (eccNote lp g f s) := by
  cases f with
  | good => rfl
  | corrected => exact eccCe_memOnly ..
  | uncorrectable => exact eccUe_memOnly ..
  | stored => exact eccPoison_memOnly ..
theorem setDevMem_memOnly (lp : Bool) (m : Mem) (s : State) : MemOnly s (setDevMem lp m s) := by
  unfold setDevMem; split <;> rfl
theorem readGran_memOnly (lp : Bool) (g : Nat) (s : State) : MemOnly s (readGran lp g s).2 := eccNote_memOnly ..
theorem readGrans_memOnly (lp : Bool) (k g : Nat) (s : State) : MemOnly s (readGrans lp k g s).2 := by
  induction k generalizing g s with
  | zero => rfl
  | succ k ih => exact (readGran_memOnly lp g s).trans (ih (g + 1) _)
theorem portWait_memOnly (lp : Bool) (a n : Nat) (s : State) : MemOnly s (portWait lp a n s) := by
  unfold portWait; split <;> rfl
theorem readDev_memOnly (lp : Bool) (a n : Nat) (s : State) : MemOnly s (readDev lp a n s).2 := by
  unfold readDev; split
  · rfl
  · exact (portWait_memOnly ..).trans (readGrans_memOnly ..)
theorem writeGran_memOnly (lp : Bool) (g : Nat) (new : List (Option (Byte × Bool))) (s : State) : MemOnly s (writeGran lp g new s) := by
  unfold writeGran
  dsimp only
  split
  · exact setDevMem_memOnly ..
  · exact (readGran_memOnly lp g s).trans (setDevMem_memOnly ..)
theorem writeGrans_memOnly (lp : Bool) (k g o : Nat) (bs : PB) (s : State) : MemOnly s (writeGrans lp k g o bs s) := by
  induction k generalizing g o bs s with
  | zero => rfl
  | succ k ih => exact (writeGran_memOnly lp g _ s).trans (ih ..)
theorem keepOld_memOnly (s : State) : MemOnly s (keepOld s) := by
  unfold keepOld; split <;> rfl
theorem writeDev_memOnly (lp : Bool) (a : Nat) (bs : PB) (s : State) : MemOnly s (writeDev lp a bs s) := by
  unfold writeDev; split
  · rfl
  · exact ((keepOld_memOnly s).trans (portWait_memOnly ..)).trans (writeGrans_memOnly ..)
theorem hostWriteP_memOnly (fn a : Nat) (bs : PB) (s : State) : MemOnly s (hostWriteP fn a bs s) := by
  unfold hostWriteP; split <;> rfl
theorem hostWrite_memOnly (fn a : Nat) (bs : List Byte) (s : State) : MemOnly s (hostWrite fn a bs s) := hostWriteP_memOnly ..
theorem hostReadP_memOnly (fn a n : Nat) (s : State) : MemOnly s (hostReadP fn a n s).2 := by
  unfold hostReadP; dsimp only; split <;> rfl
theorem writePlace_memOnly (fn : Nat) (pl : Place) (bs : PB) (s : State) : MemOnly s (writePlace fn pl bs s) := by
  cases pl with
  | peat a => exact writeDev_memOnly ..
  | lpddr a => exact writeDev_memOnly ..
  | host a => exact hostWriteP_memOnly ..
  | remote d k o => rfl

/-! ### The memories of a state stay canonical -/

/-- Peat, LPDDR and host memory are in canonical form. -/
def DevWf (s : State) : Prop := s.mm.peat.wf = true ∧ s.mm.lpddr.wf = true ∧ s.mm.host.wf = true

theorem devMem_wf {s : State} (h : DevWf s) (lp : Bool) : (devMem lp s).wf = true := by
  unfold devMem; split
  · exact h.2.1
  · exact h.1
theorem setDevMem_wf {s : State} (h : DevWf s) (lp : Bool) {m : Mem} (hm : m.wf = true) : DevWf (setDevMem lp m s) := by
  unfold setDevMem; split
  · exact ⟨h.1, hm, h.2.2⟩
  · exact ⟨hm, h.2.1, h.2.2⟩
/-- What is counted and raised leaves the memories themselves. -/
theorem eccCount_wf {s : State} (h : DevWf s) (lp : Bool) (a : Nat) (f : EccUnit → EccUnit) : DevWf (eccCount lp a f s) := h
theorem eccAlarm_wf {s : State} (h : DevWf s) (b : Nat) : DevWf (eccAlarm b s) := h
theorem icnPulse_wf {s : State} (h : DevWf s) (n : Nat) : DevWf (icnPulse n s) := h
theorem postAlarm_wf {s : State} (h : DevWf s) (c u d : Nat) : DevWf (postAlarm c u d s) := h
theorem setCtl_wf {s : State} (h : DevWf s) (c : MemCtl) : DevWf { s with mm := { s.mm with ctl := c } } := h
theorem eccCe_wf {s : State} (h : DevWf s) (lp : Bool) (a : Nat) : DevWf (eccCe lp a s) :=
  postAlarm_wf (icnPulse_wf (eccAlarm_wf (eccCount_wf h ..) 0) 12) ..
theorem eccUe_wf {s : State} (h : DevWf s) (lp : Bool) (a : Nat) : DevWf (eccUe lp a s) := by
  unfold eccUe
  exact postAlarm_wf (icnPulse_wf (setCtl_wf (eccAlarm_wf (eccCount_wf h lp a _) 1) _) 13) ..
theorem eccPoison_wf {s : State} (h : DevWf s) (lp : Bool) (a : Nat) : DevWf (eccPoison lp a s) :=
  icnPulse_wf (eccAlarm_wf (eccCount_wf h ..) 2) 13
theorem eccNote_wf {s : State} (h : DevWf s) (lp : Bool) (g : Nat) (f : Found) : DevWf (eccNote lp g f s) := by
  cases f with
  | good => exact h
  | corrected => exact eccCe_wf h ..
  | uncorrectable => exact eccUe_wf h ..
  | stored => exact eccPoison_wf h ..
theorem readGran_wf {s : State} (h : DevWf s) (lp : Bool) (g : Nat) : DevWf (readGran lp g s).2 := eccNote_wf h ..
theorem readGrans_wf (lp : Bool) (k g : Nat) {s : State} (h : DevWf s) : DevWf (readGrans lp k g s).2 := by
  induction k generalizing g s with
  | zero => exact h
  | succ k ih => exact ih (g + 1) (readGran_wf h lp g)
theorem portWait_wf {s : State} (h : DevWf s) (lp : Bool) (a n : Nat) : DevWf (portWait lp a n s) := by
  unfold portWait; split <;> exact h
theorem readDev_wf {s : State} (h : DevWf s) (lp : Bool) (a n : Nat) : DevWf (readDev lp a n s).2 := by
  unfold readDev; split
  · exact h
  · exact readGrans_wf _ _ _ (portWait_wf h ..)
theorem writeGran_wf {s : State} (h : DevWf s) (lp : Bool) (g : Nat) (new : List (Option (Byte × Bool))) : DevWf (writeGran lp g new s) := by
  unfold writeGran
  dsimp only
  split
  · exact setDevMem_wf h lp (Mem.putWord_wf _ _ _ (devMem_wf h lp))
  · exact setDevMem_wf (readGran_wf h lp g) lp (Mem.putWord_wf _ _ _ (devMem_wf (readGran_wf h lp g) lp))
theorem writeGrans_wf (lp : Bool) (k g o : Nat) (bs : PB) {s : State} (h : DevWf s) : DevWf (writeGrans lp k g o bs s) := by
  induction k generalizing g o bs s with
  | zero => exact h
  | succ k ih => exact ih _ _ _ (writeGran_wf h ..)
theorem keepOld_wf {s : State} (h : DevWf s) : DevWf (keepOld s) := by
  unfold keepOld; split <;> exact h
theorem writeDev_wf {s : State} (h : DevWf s) (lp : Bool) (a : Nat) (bs : PB) : DevWf (writeDev lp a bs s) := by
  unfold writeDev; split
  · exact h
  · exact writeGrans_wf _ _ _ _ _ (portWait_wf (keepOld_wf h) ..)
/-- Marking granules leaves the stored bytes. -/
theorem noteGrans_cells (k g o : Nat) (bs : PB) (m : Mem) : (noteGrans k g o bs m).cells = m.cells := by
  induction k generalizing g o bs m with
  | zero => rfl
  | succ n ih => unfold noteGrans; rw [ih]; split
                 · rfl
                 · split <;> rfl
theorem hostWrite_cells (fn a : Nat) (bs : List Byte) (s : State) (h : busOn s fn = true) :
    (hostWrite fn a bs s).mm.host.cells = (s.mm.host.putBytes a bs).cells := by
  unfold hostWrite hostWriteP
  rw [if_pos h]
  show (noteGrans _ _ _ _ _).cells = _
  rw [noteGrans_cells]; simp [dataOf, clean, Function.comp_def]
theorem noteGrans_wf (k g o : Nat) (bs : PB) {m : Mem} (h : m.wf = true) : (noteGrans k g o bs m).wf = true := by
  induction k generalizing g o bs m with
  | zero => exact h
  | succ k ih =>
    refine ih _ _ _ ?_
    split
    · exact Mem.putMark_wf _ _ h
    · split
      · exact Mem.putMark_wf _ _ h
      · exact h
theorem hostWriteP_wf {s : State} (h : DevWf s) (fn a : Nat) (bs : PB) : DevWf (hostWriteP fn a bs s) := by
  unfold hostWriteP; split
  · exact ⟨h.1, h.2.1, noteGrans_wf _ _ _ _ (Mem.putBytes_wf _ _ h.2.2)⟩
  · exact h
theorem hostWrite_wf {s : State} (h : DevWf s) (fn a : Nat) (bs : List Byte) : DevWf (hostWrite fn a bs s) := hostWriteP_wf h ..
theorem hostReadP_wf {s : State} (h : DevWf s) (fn a n : Nat) : DevWf (hostReadP fn a n s).2 := by
  unfold hostReadP; dsimp only; split <;> exact h
theorem writePlace_wf {s : State} (h : DevWf s) (fn : Nat) (pl : Place) (bs : PB) : DevWf (writePlace fn pl bs s) := by
  cases pl with
  | peat a => exact writeDev_wf h ..
  | lpddr a => exact writeDev_wf h ..
  | host a => exact hostWriteP_wf h ..
  | remote d k o => exact h
theorem readPlace_wf {s : State} (h : DevWf s) (fn : Nat) (pl : Place) (n : Nat) : DevWf (readPlace fn pl n s).2 := by
  cases pl with
  | peat a => exact readDev_wf h ..
  | lpddr a => exact readDev_wf h ..
  | host a => exact hostReadP_wf h ..
  | remote d k o => exact h
theorem msiSend_wf {s : State} (h : DevWf s) (fn vec : Nat) : DevWf (msiSend fn vec s) := by
  unfold msiSend
  dsimp only
  split
  · exact h
  · split
    · exact h
    · split
      · exact h
      · exact hostWrite_wf h ..
theorem icnNotify_wf {s : State} (h : DevWf s) (t : Nat) : DevWf (icnNotify t s) := by
  unfold icnNotify
  dsimp only
  split
  · exact msiSend_wf (by exact h) ..
  · exact h
theorem icnSettle_wf {s : State} (h : DevWf s) : DevWf (icnSettle s) := by
  unfold icnSettle
  exact foldl_keeps DevWf _ (fun b a k => icnNotify_wf k a) _ _ h

end Sys2Proof.Machine
end

