-- ==== Sys2Proof/Laws/Settle.lean ====
section
/-! SUPPORT. Laws/Settle.lean: what the concentrator leaves alone when it settles at the end of a command (11 R413-R415). -/
namespace Sys2Proof.Machine

/-- `t` differs from `s` at most in the concentrator, the functions' MSI-X pending bits and host memory. -/
def IcnOnly (s t : State) : Prop :=
  t = { s with hi := { s.hi with icn := t.hi.icn, funcs := t.hi.funcs }, mm := { s.mm with host := t.mm.host } }

theorem IcnOnly.refl (s : State) : IcnOnly s s := rfl

theorem IcnOnly.trans {a b c : State} (h : IcnOnly a b) (k : IcnOnly b c) : IcnOnly a c := by
  unfold IcnOnly at *
  rw [k, h]

theorem hostWrite_icnOnly (fn a : Nat) (bs : List Byte) (s : State) : IcnOnly s (hostWrite fn a bs s) := by
  unfold hostWrite hostWriteP
  split <;> rfl

theorem msiSend_icnOnly (fn vec : Nat) (s : State) : IcnOnly s (msiSend fn vec s) := by
  unfold msiSend
  dsimp only
  split
  · rfl
  · split
    · rfl
    · split
      · rfl
      · exact hostWrite_icnOnly ..

theorem icnNotify_icnOnly (t : Nat) (s : State) : IcnOnly s (icnNotify t s) := by
  unfold icnNotify
  dsimp only
  split
  · exact IcnOnly.trans (by rfl) (msiSend_icnOnly ..)
  · rfl

theorem icnPulse_icnOnly (n : Nat) (s : State) : IcnOnly s (icnPulse n s) := rfl

theorem icnSettle_icnOnly (s : State) : IcnOnly s (icnSettle s) := by
  unfold icnSettle
  exact foldl_keeps (IcnOnly s) _ (fun b a h => h.trans (icnNotify_icnOnly a b)) _ _ rfl

theorem IcnOnly.pending {s t : State} (h : IcnOnly s t) : t.pending = s.pending := by rw [h]
theorem IcnOnly.freeCtr {s t : State} (h : IcnOnly s t) : t.freeCtr = s.freeCtr := by rw [h]
theorem IcnOnly.readData {s t : State} (h : IcnOnly s t) : t.readData = s.readData := by rw [h]
theorem IcnOnly.part {s t : State} (h : IcnOnly s t) : t.part = s.part := by rw [h]
theorem IcnOnly.time {s t : State} (h : IcnOnly s t) : t.time = s.time := by rw [h]
theorem IcnOnly.pte {s t : State} (h : IcnOnly s t) : t.pte = s.pte := by rw [h]
theorem IcnOnly.sfi {s t : State} (h : IcnOnly s t) : t.sfi = s.sfi := by rw [h]
theorem IcnOnly.st {s t : State} (h : IcnOnly s t) : t.st = s.st := by rw [h]
theorem IcnOnly.fuses {s t : State} (h : IcnOnly s t) : t.fuses = s.fuses := by rw [h]
theorem IcnOnly.boot {s t : State} (h : IcnOnly s t) : t.boot = s.boot := by rw [h]
theorem IcnOnly.pwr {s t : State} (h : IcnOnly s t) : t.pwr = s.pwr := by rw [h]
theorem IcnOnly.wisp {s t : State} (h : IcnOnly s t) : t.wisp = s.wisp := by rw [h]
theorem IcnOnly.avs {s t : State} (h : IcnOnly s t) : t.avs = s.avs := by rw [h]
theorem IcnOnly.therm {s t : State} (h : IcnOnly s t) : t.therm = s.therm := by rw [h]
theorem IcnOnly.ex {s t : State} (h : IcnOnly s t) : t.ex = s.ex := by rw [h]
theorem IcnOnly.ob {s t : State} (h : IcnOnly s t) : t.ob = s.ob := by rw [h]
theorem IcnOnly.gx {s t : State} (h : IcnOnly s t) : t.gx = s.gx := by rw [h]
theorem IcnOnly.links {s t : State} (h : IcnOnly s t) : t.links = s.links := by rw [h]
theorem IcnOnly.dom {s t : State} (h : IcnOnly s t) : t.dom = s.dom := by rw [h]
theorem IcnOnly.snap {s t : State} (h : IcnOnly s t) : t.snap = s.snap := by rw [h]
theorem IcnOnly.jtagIr {s t : State} (h : IcnOnly s t) : t.jtagIr = s.jtagIr := by rw [h]
theorem IcnOnly.tdo {s t : State} (h : IcnOnly s t) : t.tdo = s.tdo := by rw [h]
theorem IcnOnly.wakeN {s t : State} (h : IcnOnly s t) : t.wakeN = s.wakeN := by rw [h]
theorem IcnOnly.peat {s t : State} (h : IcnOnly s t) : t.mm.peat = s.mm.peat := by rw [h]
theorem IcnOnly.lpddr {s t : State} (h : IcnOnly s t) : t.mm.lpddr = s.mm.lpddr := by rw [h]
theorem IcnOnly.ctl {s t : State} (h : IcnOnly s t) : t.mm.ctl = s.mm.ctl := by rw [h]
theorem IcnOnly.xl {s t : State} (h : IcnOnly s t) : t.mm.xl = s.mm.xl := by rw [h]

@[simp] theorem icnSettle_pending (s : State) : (icnSettle s).pending = s.pending := (icnSettle_icnOnly s).pending
@[simp] theorem icnSettle_freeCtr (s : State) : (icnSettle s).freeCtr = s.freeCtr := (icnSettle_icnOnly s).freeCtr
@[simp] theorem icnSettle_readData (s : State) : (icnSettle s).readData = s.readData := (icnSettle_icnOnly s).readData
@[simp] theorem icnSettle_part (s : State) : (icnSettle s).part = s.part := (icnSettle_icnOnly s).part
@[simp] theorem icnSettle_time (s : State) : (icnSettle s).time = s.time := (icnSettle_icnOnly s).time
@[simp] theorem icnSettle_pte (s : State) : (icnSettle s).pte = s.pte := (icnSettle_icnOnly s).pte
@[simp] theorem icnSettle_sfi (s : State) : (icnSettle s).sfi = s.sfi := (icnSettle_icnOnly s).sfi
@[simp] theorem icnSettle_st (s : State) : (icnSettle s).st = s.st := (icnSettle_icnOnly s).st
@[simp] theorem icnSettle_fuses (s : State) : (icnSettle s).fuses = s.fuses := (icnSettle_icnOnly s).fuses
@[simp] theorem icnSettle_boot (s : State) : (icnSettle s).boot = s.boot := (icnSettle_icnOnly s).boot
@[simp] theorem icnSettle_pwr (s : State) : (icnSettle s).pwr = s.pwr := (icnSettle_icnOnly s).pwr
@[simp] theorem icnSettle_wisp (s : State) : (icnSettle s).wisp = s.wisp := (icnSettle_icnOnly s).wisp
@[simp] theorem icnSettle_avs (s : State) : (icnSettle s).avs = s.avs := (icnSettle_icnOnly s).avs
@[simp] theorem icnSettle_therm (s : State) : (icnSettle s).therm = s.therm := (icnSettle_icnOnly s).therm
@[simp] theorem icnSettle_ex (s : State) : (icnSettle s).ex = s.ex := (icnSettle_icnOnly s).ex
@[simp] theorem icnSettle_ob (s : State) : (icnSettle s).ob = s.ob := (icnSettle_icnOnly s).ob
@[simp] theorem icnSettle_gx (s : State) : (icnSettle s).gx = s.gx := (icnSettle_icnOnly s).gx
@[simp] theorem icnSettle_links (s : State) : (icnSettle s).links = s.links := (icnSettle_icnOnly s).links
@[simp] theorem icnSettle_dom (s : State) : (icnSettle s).dom = s.dom := (icnSettle_icnOnly s).dom
@[simp] theorem icnSettle_snap (s : State) : (icnSettle s).snap = s.snap := (icnSettle_icnOnly s).snap
@[simp] theorem icnSettle_jtagIr (s : State) : (icnSettle s).jtagIr = s.jtagIr := (icnSettle_icnOnly s).jtagIr
@[simp] theorem icnSettle_tdo (s : State) : (icnSettle s).tdo = s.tdo := (icnSettle_icnOnly s).tdo
@[simp] theorem icnSettle_wakeN (s : State) : (icnSettle s).wakeN = s.wakeN := (icnSettle_icnOnly s).wakeN
@[simp] theorem icnSettle_peat (s : State) : (icnSettle s).mm.peat = s.mm.peat := (icnSettle_icnOnly s).peat
@[simp] theorem icnSettle_lpddr (s : State) : (icnSettle s).mm.lpddr = s.mm.lpddr := (icnSettle_icnOnly s).lpddr
@[simp] theorem icnSettle_ctl (s : State) : (icnSettle s).mm.ctl = s.mm.ctl := (icnSettle_icnOnly s).ctl
@[simp] theorem icnSettle_xl (s : State) : (icnSettle s).mm.xl = s.mm.xl := (icnSettle_icnOnly s).xl
@[simp] theorem output_icnSettle (s : State) (i : Nat) : output (icnSettle s) i = output s i := by unfold output; rw [icnSettle_pte]
@[simp] theorem axis_icnSettle (s : State) (i : Nat) : axis (icnSettle s) i = axis s i := by unfold axis; rw [icnSettle_pte]
@[simp] theorem braidOf_icnSettle (s : State) (i : Nat) : braidOf (icnSettle s) i = braidOf s i := by unfold braidOf; rw [icnSettle_ob]
@[simp] theorem queueOf_icnSettle (s : State) (i : Nat) : queueOf (icnSettle s) i = queueOf s i := by unfold queueOf; rw [icnSettle_ex]

/-- In a calm state no trap waits. -/
theorem firstTrap_calm {s : State} (h : Calm s) : firstTrap s = none := by
  unfold Calm at h
  rw [List.all_eq_true] at h
  unfold firstTrap
  generalize s.ex.groups = l at h
  induction l with
  | nil => rfl
  | cons a r ih =>
    have ha := h a (by simp)
    rw [List.foldl_cons]
    have : isTrapped a = none := by simpa using ha
    rw [this]
    exact ih (fun x hx => h x (by simp [hx]))

end Sys2Proof.Machine
end

