-- ==== Sys2Proof/Laws/Commands.lean ====
section
/-! SUPPORT. Laws/Commands.lean: acceptance, start and publication of commands; the opcode of a packet selects its start. -/
namespace Sys2Proof.Machine

theorem mayStart_only (a : State) (c : Cmd) (h : a.ex.cmds = [c]) : mayStart a c = true := by
  have e : earlier a c = [] := by simp [earlier, h]
  simp [mayStart, e]

theorem startAll_only (a : State) (c : Cmd) (h : a.ex.cmds = [c]) (hp : c.phase = .waiting) (hr : ringFullQ (queueOf a c.q) = false) :
    startAll a = tryStart c.id a := by
  have f : findCmd a c.id = some c := by simp [findCmd, h]
  have st : startable a c = true := by simp [startable, hp, hr, mayStart_only a c h]
  have tier : cmdTier a c = 0 ∨ cmdTier a c = 1 ∨ cmdTier a c = 2 := by
    unfold cmdTier queueTier
    repeat' split
    all_goals simp
  have l : tierCmds a 0 ++ tierCmds a 1 ++ tierCmds a 2 = [c.id] := by
    rcases tier with e | e | e <;> simp [tierCmds, h, e]
  simp [startAll, l, f, st]

/-- R374 lets the only command start: its timeout runs. -/
theorem noteStarts_only (a : State) (c : Cmd) (h : a.ex.cmds = [c]) (hp : c.phase = .waiting) :
    noteStarts a = updCmd c.id (fun _ => { c with startT := some (c.startT.getD a.time) }) a := by
  have e : { c with startT := some (c.startT.getD a.time) } = if c.phase == .waiting && c.startT.isNone && mayStart a c then { c with startT := some a.time } else c := by
    rw [mayStart_only a c h]
    obtain ⟨id, q, pkt, ph, st, wk, su, re, sa, tr, pa, gi, gc, mo, di, dr⟩ := c
    subst hp
    cases st <;> rfl
  simp only [noteStarts, updCmd, updEx, h, List.map_cons, List.map_nil, updWhere, beq_self_eq_true, if_true, e]

/-- With one waiting command, what waits goes on by starting that command. -/
theorem goOn_only (a : State) (c : Cmd) (h : a.ex.cmds = [c]) (hp : c.phase = .waiting) (hh : holding a = false) (hf : fwOn a = true)
    (hr : ringFullQ (queueOf a c.q) = false) (hw : faultWaits a c.id = false) (hm : a.mm.xl.missq = [])
    (d : Cmd) (hd : d = { c with startT := some (c.startT.getD a.time) }) :
    goOn a = schedSettle (graphsGo (advanceDraws (advanceSteps (advanceLoads
      (applyStart c.id (startCmd d (startAcquire d (updCmd c.id (fun _ => d) a)))))))) := by
  have n := noteStarts_only a c h hp
  rw [← hd] at n
  obtain ⟨a', ha⟩ : ∃ a', a' = updCmd c.id (fun _ => d) a := ⟨_, rfl⟩
  have hc : a'.ex.cmds = [d] := by rw [ha]; simp [updCmd, updEx, h, updWhere]
  have hold : holding a' = false := by rw [ha]; exact hh
  have fw : fwOn a' = true := by rw [ha]; exact hf
  have ring : ringFullQ (queueOf a' d.q) = false := by rw [ha, hd]; exact hr
  have fw2 : faultWaits a' d.id = false := by rw [ha, hd]; exact hw
  have time : a'.time = a.time := by rw [ha]; rfl
  have hp' : d.phase = .waiting := by rw [hd]; exact hp
  have again : updCmd d.id (fun _ => d) a' = a' := by rw [ha, hd]; simp [updCmd, updEx, h, updWhere]
  have same : { d with startT := some (d.startT.getD a'.time) } = d := by rw [time, hd]; rfl
  have id : d.id = c.id := by rw [hd]
  have f : findCmd a' d.id = some d := by simp [findCmd, hc]
  have t : tryStart d.id a' = applyStart d.id (startCmd d (startAcquire d a')) := by
    rw [tryStart, f]
    have g : (d.phase != .waiting || faultWaits a' d.id) = false := by rw [hp', fw2]; rfl
    dsimp only
    rw [g, if_neg Bool.false_ne_true, same, again]
  have ns : noteStarts (missDrain a.mm.xl.missq.length a) = a' := by rw [hm, ha]; exact n
  unfold goOn
  dsimp only
  rw [ns, hold, fw, startAll_only a' d hc hp' ring, t, id, ← ha]
  rfl

theorem returnToRun_run (s : State) (h : s.pwr.state = .run) : returnToRun s = s := by
  simp [returnToRun, h]

theorem acceptRow_live (q : Nat) (p : RingPkt) (s : State) (hl : (queueOf s q).life = .live) (hh : holding (placePkt q p s) = false) :
    acceptRow q true p s = kick (placePkt q p s) := by
  simp [acceptRow, hl, hh]

/-- A packet of any packet row comes to stand in the ring of its queue, then what waits goes on and the front end runs. -/
theorem packetRow_exec (i : Instr) (q : Fin 256) (p : Pkt) (s : State) (h : packetOf i = some (q, p, true)) (hl : (queueOf s q).life = .live)
    (hh : holding s = false) : exec i s = .next (after (kick (placePkt q { pkt := p } s))) := by
  have key : ∀ m, m = true → fin (acceptRow q m { pkt := p } s) = .next (after (kick (placePkt q { pkt := p } s))) := by
    intro m hm; rw [hm, acceptRow_live q _ s hl hh, fin_eq]
  cases i
  all_goals first
    | (injection h with h; injection h with h1 h; injection h with h2 hm; subst h1; subst h2; exact key _ hm)
    | nomatch h

/-- The front end turns to a queue whose next packet has been handed in, and takes it. -/
theorem feStep_takes (s : State) (q : Nat) (r : RingPkt) (hn : feNext s = some q) (hp : headPkt s q = some r) : feStep s = some (goOn (feTook q r s)) := by
  unfold feStep
  rw [hn, Option.bind_some, hp, Option.map_some]

/-- With one packet in the rings that the front end can take, that packet is what an event brings in. -/
theorem kick_takes (s u : State) (q : Nat) (r : RingPkt) (hu : u = goOn s) (h1 : slotsHeld u = 1) (hn : feNext u = some q) (hp : headPkt u q = some r) :
    kick s = goOn (feTook q r u) := by
  unfold kick
  simp only [← hu, h1, feRun, feStep_takes u q r hn hp]

theorem queueOf_upd (q : Fin 256) (f : Queue → Queue) (s : State) : queueOf (updQueue q f s) q = f (queueOf s q) := tabD_tabUpd_same _ _ _ q.isLt

theorem pushCmd_queue (q i : Nat) (p : Pkt) (ph : Phase) (st : Status) (s : State) : queueOf (pushCmd q p ph st s).2 i = queueOf s i := rfl

theorem countFetch_fetch (q : Fin 256) (n : Nat) (s : State) : (queueOf (countFetch q n s) q).fetch = (queueOf s q).fetch + BitVec.ofNat 64 n := by
  unfold countFetch; rw [queueOf_upd]

theorem countFetch_accepted (q : Fin 256) (n : Nat) (s : State) : (queueOf (countFetch q n s) q).accepted = (queueOf s q).accepted + 1 := by
  unfold countFetch; rw [queueOf_upd]

theorem pushCmd_cmds (q : Nat) (p : Pkt) (ph : Phase) (st : Status) (s : State) :
    (pushCmd q p ph st s).2.ex.cmds = s.ex.cmds ++ [{ id := s.ex.nextCmd, q := fin' 255 q, pkt := p, phase := ph, status := st }] := rfl

theorem hostWrite_keeps (fn a : Nat) (bs : List Byte) (s : State) :
    (hostWrite fn a bs s).ex = s.ex ∧ (hostWrite fn a bs s).pte = s.pte ∧ (hostWrite fn a bs s).hi = s.hi ∧ (hostWrite fn a bs s).boot = s.boot ∧ (hostWrite fn a bs s).snap = s.snap := by
  unfold hostWrite hostWriteP; split <;> exact ⟨rfl, rfl, rfl, rfl, rfl⟩

theorem hostWrite_fold (fn : Nat) (l : List (Nat × List Byte)) (base : Nat) (s : State) :
    let r := l.foldl (fun s x => hostWrite fn (base + x.1) x.2 s) s
    r.ex = s.ex ∧ r.pte = s.pte ∧ r.hi = s.hi ∧ r.boot = s.boot ∧ r.snap = s.snap :=
  ⟨foldl_same State.ex _ (fun _ _ => (hostWrite_keeps ..).1) _ _, foldl_same State.pte _ (fun _ _ => (hostWrite_keeps ..).2.1) _ _,
   foldl_same State.hi _ (fun _ _ => (hostWrite_keeps ..).2.2.1) _ _, foldl_same State.boot _ (fun _ _ => (hostWrite_keeps ..).2.2.2.1) _ _,
   foldl_same State.snap _ (fun _ _ => (hostWrite_keeps ..).2.2.2.2) _ _⟩

def Pub (s t : State) : Prop := t.ex = s.ex ∧ t.pte = s.pte ∧ t.hi.page = s.hi.page ∧ t.boot = s.boot ∧ t.snap = s.snap

theorem mirrorOne_keeps (o n : Page) (fn : Nat) (s : State) : Pub s (mirrorOne o n fn s) := by
  unfold mirrorOne
  simp only []
  split
  · exact ⟨rfl, rfl, rfl, rfl, rfl⟩
  · split
    · exact ⟨rfl, rfl, rfl, rfl, rfl⟩
    · generalize (if (tabD s.hi.funcs fn {}).mirrorWhole = true then viewSegs (pagePart n fn) n fn else _) = l
      have h1 : ∀ v : State, v = (if (tabD s.hi.funcs fn {}).mirrorWhole = true then hostWrite fn (fld (tabD s.hi.funcs fn {}).mirror 63 16 * 65536) (List.replicate 65536 0) s else s) → v.ex = s.ex ∧ v.pte = s.pte ∧ v.hi = s.hi ∧ v.boot = s.boot ∧ v.snap = s.snap := by
        intro v hv; subst hv; split
        · exact hostWrite_keeps ..
        · exact ⟨rfl, rfl, rfl, rfl, rfl⟩
      have h2 := h1 _ rfl
      have h3 := hostWrite_fold fn l (fld (tabD s.hi.funcs fn {}).mirror 63 16 * 65536) (if (tabD s.hi.funcs fn {}).mirrorWhole = true then hostWrite fn (fld (tabD s.hi.funcs fn {}).mirror 63 16 * 65536) (List.replicate 65536 0) s else s)
      exact ⟨h3.1.trans h2.1, h3.2.1.trans h2.2.1, (by have k := congrArg HostIf.page (h3.2.2.1.trans h2.2.2.1); exact k), h3.2.2.2.1.trans h2.2.2.2.1, h3.2.2.2.2.trans h2.2.2.2.2⟩

/-- What a publication leaves (R347). -/
theorem publishNow_keeps (s : State) : (publishNow s).ex = s.ex ∧ (publishNow s).pte = s.pte ∧ (publishNow s).boot = s.boot ∧ (publishNow s).snap = s.snap ∧
    (publishNow s).hi.page = pageImage (s.hi.page.epoch + 2) s.time s := by
  have f : ∀ (o n : Page) (l : List Nat) (u : State), Pub u (l.foldl (fun s fn => mirrorOne o n fn s) u) := fun o n l u =>
    ⟨foldl_same State.ex _ (fun _ _ => (mirrorOne_keeps ..).1) _ _, foldl_same State.pte _ (fun _ _ => (mirrorOne_keeps ..).2.1) _ _,
     foldl_same (fun s : State => s.hi.page) _ (fun _ _ => (mirrorOne_keeps ..).2.2.1) _ _, foldl_same State.boot _ (fun _ _ => (mirrorOne_keeps ..).2.2.2.1) _ _,
     foldl_same State.snap _ (fun _ _ => (mirrorOne_keeps ..).2.2.2.2) _ _⟩
  have k := f s.hi.page (pageImage (s.hi.page.epoch + 2) s.time s) (List.range 9) (updHi (fun h => { h with page := pageImage (s.hi.page.epoch + 2) s.time s }) (xlUpd (fun x => { x with fqWaited := false }) s))
  exact ⟨k.1, k.2.1, k.2.2.2.1, k.2.2.2.2, k.2.2.1⟩

theorem bestBy_mem (aff grp : Nat → Nat) (l : List Nat) (k : Nat) (h : bestBy aff grp l = some k) : k ∈ l := by
  have key : ∀ (l : List Nat) (o : Option Nat) (k : Nat), l.foldl (fun o x => match o with | none => some x | some y => if better aff grp x y then some x else some y) o = some k → k ∈ l ∨ o = some k := by
    intro l
    induction l with
    | nil => intro o k h; exact .inr h
    | cons a r ih =>
      intro o k h
      rcases ih _ k h with h | h
      · exact .inl (List.mem_cons_of_mem _ h)
      · cases o with
        | none => simp at h; exact .inl (by simp [h])
        | some y =>
          simp only at h
          split at h
          · simp at h; exact .inl (by simp [h])
          · exact .inr h
  rcases key l none k h with h | h
  · exact h
  · simp at h

theorem bestN_mem (aff grp : Nat → Nat) (n : Nat) (l : List Nat) (k : Nat) (h : k ∈ bestN aff grp n l) : k ∈ l := by
  induction n generalizing l with
  | zero => simp [bestN] at h
  | succ n ih =>
    unfold bestN at h
    split at h
    · simp at h
    · rename_i x hx
      rcases List.mem_cons.1 h with h | h
      · subst h; exact bestBy_mem _ _ _ _ hx
      · exact (List.mem_filter.1 (ih _ h)).1

/-- Every core that the scheduler chooses takes the block (R507). -/
theorem chooseCores_takes (s : State) (c : Cmd) (src : Nat) (d : Dispatching) (k : Nat) (h : k ∈ chooseCores s c src d) :
    coreTakes s c.id src d.groups (codeRegs s d.code) d.lmSize k = true := by
  unfold chooseCores at h
  simp only [] at h
  split at h
  · exact (List.mem_filter.1 h).2
  · split at h
    · split at h
      · simp at h
      · have := (List.mem_filter.1 h).2
        simp only [List.contains_iff_mem] at this
        exact (List.mem_filter.1 (bestN_mem _ _ _ _ _ this)).2
    · exact (List.mem_filter.1 (bestBy_mem _ _ _ _ (Option.mem_toList.1 h))).2

theorem startOp_70 (c : Cmd) (s : State) (h : pktOpcode c.pkt = 0x70) : startOp c s = startAxisConfig c s := by unfold startOp; rw [h]; rfl

theorem startOp_72 (c : Cmd) (s : State) (h : pktOpcode c.pkt = 0x72) : startOp c s = startOutConfig c s := by unfold startOp; rw [h]; rfl

theorem startOp_30 (c : Cmd) (s : State) (h : pktOpcode c.pkt = 0x30) : startOp c s = startBraidDefine c s := by unfold startOp; rw [h]; rfl

theorem startOp_32 (c : Cmd) (s : State) (h : pktOpcode c.pkt = 0x32) : startOp c s = startBraidStop c s := by unfold startOp; rw [h]; rfl

theorem startOp_00 (c : Cmd) (s : State) (h : pktOpcode c.pkt = 0x00) : startOp c s = startNop c s := by unfold startOp; rw [h]; rfl

theorem startOp_A0 (c : Cmd) (s : State) (h : pktOpcode c.pkt = 0xA0) : startOp c s = startContextCreate c s := by unfold startOp; rw [h]; rfl

theorem startOp_A1 (c : Cmd) (s : State) (h : pktOpcode c.pkt = 0xA1) : startOp c s = startContextDestroy c s := by unfold startOp; rw [h]; rfl

theorem startOp_A2 (c : Cmd) (s : State) (h : pktOpcode c.pkt = 0xA2) : startOp c s = startQueueCreate c s := by unfold startOp; rw [h]; rfl

theorem startOp_A3 (c : Cmd) (s : State) (h : pktOpcode c.pkt = 0xA3) : startOp c s = startQueueDestroy c s := by unfold startOp; rw [h]; rfl

theorem startOp_80 (c : Cmd) (s : State) (h : pktOpcode c.pkt = 0x80) : startOp c s = startPowerHint c s := by unfold startOp; rw [h]; rfl

theorem startOp_91 (c : Cmd) (s : State) (h : pktOpcode c.pkt = 0x91) : startOp c s = startLogConfig c s := by unfold startOp; rw [h]; rfl

theorem startOp_92 (c : Cmd) (s : State) (h : pktOpcode c.pkt = 0x92) : startOp c s = startTraceConfig c s := by unfold startOp; rw [h]; rfl

theorem startOp_A8 (c : Cmd) (s : State) (h : pktOpcode c.pkt = 0xA8) : startOp c s = startPartitionConfig c s := by unfold startOp; rw [h]; rfl

theorem startOp_43 (c : Cmd) (s : State) (h : pktOpcode c.pkt = 0x43) : startOp c s = startGraphFree c s := by unfold startOp; rw [h]; rfl

theorem startOp_50 (c : Cmd) (s : State) (h : pktOpcode c.pkt = 0x50) : startOp c s = startKnotSignal c s := by unfold startOp; rw [h]; rfl

theorem startOp_51 (c : Cmd) (s : State) (h : pktOpcode c.pkt = 0x51) : startOp c s = startKnotWait c s := by unfold startOp; rw [h]; rfl

theorem startOp_52 (c : Cmd) (s : State) (h : pktOpcode c.pkt = 0x52) : startOp c s = startKnotReset c s := by unfold startOp; rw [h]; rfl

theorem startOp_18 (c : Cmd) (s : State) (h : pktOpcode c.pkt = 0x18) : startOp c s = startCopy c s := by unfold startOp; rw [h]; rfl

theorem startOp_01 (c : Cmd) (s : State) (h : pktOpcode c.pkt = 0x01) : startOp c s = startQuery c s := by unfold startOp; rw [h]; rfl

theorem startOp_10 (c : Cmd) (s : State) (h : pktOpcode c.pkt = 0x10) : startOp c s = startMemMap c s := by unfold startOp; rw [h]; rfl

theorem startOp_12 (c : Cmd) (s : State) (h : pktOpcode c.pkt = 0x12) : startOp c s = startXlInvalidate c s := by unfold startOp; rw [h]; rfl

theorem startOp_13 (c : Cmd) (s : State) (h : pktOpcode c.pkt = 0x13) : startOp c s = startFaultResume c s := by unfold startOp; rw [h]; rfl

theorem startOp_31 (c : Cmd) (s : State) (h : pktOpcode c.pkt = 0x31) : startOp c s = startBraidStart c s := by unfold startOp; rw [h]; rfl

theorem startOp_39 (c : Cmd) (s : State) (h : pktOpcode c.pkt = 0x39) : startOp c s = startModelEvict c s := by unfold startOp; rw [h]; rfl

theorem startOp_40 (c : Cmd) (s : State) (h : pktOpcode c.pkt = 0x40) : startOp c s = startGraphRecord c s := by unfold startOp; rw [h]; rfl

theorem startOp_61 (c : Cmd) (s : State) (h : pktOpcode c.pkt = 0x61) : startOp c s = startDraw c s := by unfold startOp; rw [h]; rfl

theorem startOp_62 (c : Cmd) (s : State) (h : pktOpcode c.pkt = 0x62) : startOp c s = startDirect c s := by unfold startOp; rw [h]; rfl

theorem startOp_90 (c : Cmd) (s : State) (h : pktOpcode c.pkt = 0x90) : startOp c s = startSnapshot c s := by unfold startOp; rw [h]; rfl

theorem startOp_C0 (c : Cmd) (s : State) (h : pktOpcode c.pkt = 0xC0) : startOp c s = startTestSlice c s := by unfold startOp; rw [h]; rfl

theorem startOp_F0 (c : Cmd) (s : State) (h : pktOpcode c.pkt = 0xF0) : startOp c s = startShutdown c s := by unfold startOp; rw [h]; rfl

theorem knotAddr_bad (c va : Nat) (k : Access) (rq : Rq) (s : State) (h : va % 8 ≠ 0) : knotAddr c va k rq s = (.bad, s) := by
  unfold knotAddr; rw [if_pos h]

theorem find_lowest (p : Nat → Bool) (n i : Nat) (hi : i < n) (hp : p i = true) (hl : ∀ j, j < i → p j = false) : (List.range n).find? p = some i := by
  rw [List.find?_eq_some_iff_getElem]
  refine ⟨hp, i, by simpa using hi, by simp, ?_⟩
  intro j hj; simp [hl j hj]

end Sys2Proof.Machine
end

