-- ==== Sys2Proof/Laws/Cores.lean ====
section
/-! SUPPORT. Laws/Cores.lean: the operations over local memory, bank groups and raw words keep every memory canonical (log 7). -/
namespace Sys2Proof.Machine

theorem newLm_wf {m : Mem} (h : m.wf = true) (occ : Tab (Option (Fin 64)) 256) (c : Fin 64) (ctr base n : Nat) : (newLm occ c ctr base n m).wf = true :=
  foldl_keeps (fun m : Mem => m.wf = true) _ (fun _ _ k => Mem.putMark_wf _ _ k) _ _ (Mem.putBytes_wf _ _ h)

theorem zeroGroup_wf {m : Mem} (h : m.wf = true) (k : Nat) : (zeroGroup k m).wf = true := Mem.filter_wf _ _ h

theorem putCountWord_wf {s : State} (h : DevWf s) (g : Nat) (d : W64) : DevWf (putCountWord g d s) := by
  have one : ∀ (i v : Nat) {s : State}, DevWf s → DevWf (putCount i v s) := by
    intro i v s h; unfold putCount; dsimp only; split <;> exact h
  exact one _ _ (one _ _ h)

/-- Storing a word with its check bits, where it may hold counts too, keeps the form. -/
theorem storeData_wf {s : State} (h : DevWf s) (lp : Bool) (g : Nat) (d : W64) (mk : Option Mark) : DevWf (storeData lp g d mk s) := by
  unfold storeData
  dsimp only
  split
  · exact setDevMem_wf (putCountWord_wf h g d) lp (Mem.putMark_wf _ _ (devMem_wf (putCountWord_wf h g d) lp))
  · have k := setDevMem_wf h lp (Mem.putBytes_wf (8 * g) (leBytes 8 d.toNat) (devMem_wf h lp))
    exact setDevMem_wf k lp (Mem.putMark_wf _ _ (devMem_wf k lp))

/-- Every core's local memory is in canonical form. -/
def CoresWf (s : State) : Prop := s.ex.cores.toList.all (fun c => c.lm.wf) = true

theorem coresWf_iff (s : State) : CoresWf s ↔ ∀ i, i < 32 → (tabD s.ex.cores i {}).lm.wf = true := by
  unfold CoresWf
  rw [List.all_eq_true]
  constructor
  · intro h i hi
    rw [tabD_lt _ _ hi]
    exact h _ (by simp)
  · intro h c hc
    rw [List.mem_iff_getElem] at hc
    obtain ⟨i, hi, e⟩ := hc
    have hi' : i < 32 := by simpa using hi
    have k := h i hi'
    rw [tabD_lt _ _ hi'] at k
    rw [← e]; simpa using k

theorem memWf_iff (s : State) : MemWf s ↔ DevWf s ∧ CoresWf s := by
  unfold MemWf DevWf CoresWf
  constructor
  · rintro ⟨a, b, c, d⟩; exact ⟨⟨a, b, c⟩, d⟩
  · rintro ⟨⟨a, b, c⟩, d⟩; exact ⟨a, b, c, d⟩

/-- An update of one core that keeps its local memory's form. -/
theorem updCore_wf {s : State} (h : MemWf s) (i : Nat) (f : Core → Core) (hf : ∀ c : Core, c.lm.wf = true → (f c).lm.wf = true) : MemWf (updCore i f s) := by
  rw [memWf_iff, coresWf_iff] at *
  refine ⟨h.1, fun j hj => ?_⟩
  show (tabD (tabUpd s.ex.cores i f) j {}).lm.wf = true
  rw [tabD_tabUpd]
  split
  · exact hf _ (h.2 j hj)
  · exact h.2 j hj

/-- A store to local memory keeps the form (R96). -/
theorem lmWrite_wf {s : State} (h : MemWf s) (core a : Nat) (bs : List Byte) (p : Bool) : MemWf (lmWrite core a bs p s) := by
  refine updCore_wf h _ _ fun c hc => ?_
  dsimp only
  split
  · exact Mem.putBytes_wf _ _ hc
  · exact foldl_keeps (fun m : Mem => m.wf = true) _ (fun m w k => Mem.putMark_wf _ _ k) _ _ (Mem.putBytes_wf _ _ hc)

/-- What reads and writes of device and host memory do keeps the form everywhere. -/
theorem memWf_of_memOnly {s t : State} (h : MemWf s) (m : MemOnly s t) (d : DevWf t) : MemWf t := by
  rw [memWf_iff, CoresWf, m.ex] at *
  exact ⟨d, h.2⟩

theorem MemWf.dev {s : State} (h : MemWf s) : DevWf s := ((memWf_iff s).mp h).1

theorem writePlace_memWf {s : State} (h : MemWf s) (fn : Nat) (pl : Place) (bs : PB) : MemWf (writePlace fn pl bs s) :=
  memWf_of_memOnly h (writePlace_memOnly ..) (writePlace_wf h.dev ..)
theorem writeDev_memWf {s : State} (h : MemWf s) (lp : Bool) (a : Nat) (bs : PB) : MemWf (writeDev lp a bs s) :=
  memWf_of_memOnly h (writeDev_memOnly ..) (writeDev_wf h.dev ..)
theorem readDev_memWf {s : State} (h : MemWf s) (lp : Bool) (a n : Nat) : MemWf (readDev lp a n s).2 :=
  memWf_of_memOnly h (readDev_memOnly ..) (readDev_wf h.dev ..)
theorem hostWrite_memWf {s : State} (h : MemWf s) (fn a : Nat) (bs : List Byte) : MemWf (hostWrite fn a bs s) :=
  memWf_of_memOnly h (hostWrite_memOnly ..) (hostWrite_wf h.dev ..)

theorem setPwr_wf {s : State} (h : DevWf s) (p : Pwr) : DevWf { s with pwr := p } := h
theorem zeroOne_wf {s : State} (h : DevWf s) (k : Nat) (c : MemCtl) :
    DevWf { s with mm := { s.mm with peat := zeroGroup k s.mm.peat, ctl := c } } := ⟨zeroGroup_wf h.1 _, h.2.1, h.2.2⟩

/-- Domains that turn on zero their bank groups and keep the form (R537). -/
theorem settlePd_wf {s : State} (h : DevWf s) : DevWf (settlePd s) := by
  unfold settlePd
  dsimp only
  refine foldl_keeps DevWf _ (fun b a k => zeroOne_wf k a _) _ _ (setPwr_wf h _)

/-- Zeroing bank groups touches Peat and its controller alone. -/
theorem zeroGroups_keeps (l : List Nat) (s : State) :
    ∃ m, l.foldl (fun s k => { s with mm := { s.mm with peat := zeroGroup k s.mm.peat, ctl := { s.mm.ctl with zeroing := setBit s.mm.ctl.zeroing k true } } }) s = { s with mm := m } ∧
      m.host = s.mm.host ∧ m.lpddr = s.mm.lpddr ∧ (l = [] → m = s.mm) := by
  induction l generalizing s with
  | nil => exact ⟨_, rfl, rfl, rfl, fun _ => rfl⟩
  | cons k r ih =>
    obtain ⟨m, h, h1, h2, _⟩ := ih { s with mm := { s.mm with peat := zeroGroup k s.mm.peat, ctl := { s.mm.ctl with zeroing := setBit s.mm.ctl.zeroing k true } } }
    exact ⟨m, h, h1, h2, by simp⟩
/-- What settling the power domains can do: their levels, and bank groups that come out of power-off are zeroed. -/
theorem settlePd_keeps (s : State) : ∃ pd m, settlePd s = { s with pwr := { s.pwr with pd := pd }, mm := m } ∧ m.host = s.mm.host ∧ m.lpddr = s.mm.lpddr ∧
    ((∀ k, k < 8 → pdOf s (36 + k) ≠ .off) → m = s.mm) := by
  unfold settlePd
  obtain ⟨m, h, h1, h2, h3⟩ := zeroGroups_keeps ((List.range 8).filter fun k => pdOf s (36 + k) == .off && tabD (Vector.ofFn fun i : Fin 64 => stateLevel s s.pwr.state i.val) (36 + k) .off != .off)
    { s with pwr := { s.pwr with pd := Vector.ofFn fun i => stateLevel s s.pwr.state i.val } }
  refine ⟨_, m, h, h1, h2, fun hk => h3 ?_⟩
  rw [List.filter_eq_nil_iff]; intro k hk'
  have := hk k (by simpa using hk')
  simp [this]
/-- What a device reset leaves. -/
theorem deviceReset_keeps (src : BitVec 2) (keep : Bool) (s : State) (x : Exec)
    (hx : x = (updPart 0 (fun p => { p with cores := p.cores &&& coreMask s.part, peat := p.peat &&& coreMask s.part }) State.reset).ex) :
    (deviceReset src keep s).fuses = s.fuses ∧ (deviceReset src keep s).part = s.part ∧ (deviceReset src keep s).mm.host = s.mm.host ∧ (deviceReset src keep s).mm.peat = {} ∧
    (deviceReset src keep s).mm.lpddr = {} ∧ (deviceReset src keep s).ex = x ∧ (deviceReset src keep s).sfi.state = .boot ∧ (deviceReset src keep s).pte.safeState = true ∧
    (deviceReset src keep s).boot.stage = 0 ∧ (deviceReset src keep s).boot.rstsrc = src ∧ (deviceReset src keep s).st.shutRec = if keep then s.st.shutRec else none := by
  unfold deviceReset
  dsimp only
  generalize hz : updPart 0 _ _ = z
  obtain ⟨pd, m, h, h1, h2, h3⟩ := settlePd_keeps z
  have hp : ∀ k, pdOf z k = pdOf State.reset k := by intro k; rw [← hz]; rfl
  have m0 : m = z.mm := h3 (by intro k hk; rw [hp]; revert k; decide)
  rw [h, m0, ← hz, hx]
  exact ⟨rfl, rfl, rfl, rfl, rfl, rfl, rfl, rfl, rfl, rfl, rfl⟩

end Sys2Proof.Machine
end

