-- ==== Sys2Proof/Laws/Device.lean ====
section
/-! SUPPORT. Laws/Device.lean: links, cameras, heat and the snapshot section. -/
namespace Sys2Proof.Machine

theorem linkOf_upd (k : Fin 4) (f : Link → Link) (s : State) : linkOf (updLink k f s) k = f (linkOf s k) := tabD_tabUpd_same _ _ _ k.isLt

theorem camOf_updCam (p : Nat) (f : Cam → Cam) (s : State) (hp : p < 4) : camOf (updCam p f s) p = f (camOf s p) := tabD_tabUpd_same _ _ _ hp

theorem bit_setBit_same {n : Nat} (x : BitVec n) (i : Nat) (h : i < n) : bit (setBit x i true) i = true := by rw [bit_setBit]; simp [h]

theorem tabD_pos {α : Type} {n : Nat} (v : Tab α n) (i : Nat) (d e : α) (h : i < n) : tabD v i d = tabD v i e := by rw [tabD_lt _ _ h, tabD_lt _ _ h]

theorem foldl_max (r : List Int) (x : Int) : (∀ y ∈ x :: r, y ≤ r.foldl max x) ∧ r.foldl max x ∈ x :: r := by
  induction r generalizing x with
  | nil => simp
  | cons a r ih =>
    obtain ⟨h1, h2⟩ := ih (max x a)
    refine ⟨?_, ?_⟩
    · intro y hy
      have hm := h1 (max x a) (by simp)
      simp only [List.mem_cons] at hy
      rcases hy with h | h | h
      · subst h; simp only [List.foldl_cons]; omega
      · subst h; simp only [List.foldl_cons]; omega
      · exact h1 y (by simp [h])
    · simp only [List.foldl_cons, List.mem_cons] at *
      rcases h2 with h | h
      · rcases Int.le_total x a with g | g
        · right; left; rw [h]; omega
        · left; rw [h]; omega
      · exact .inr (.inr h)

/-- What latching the PTE section leaves (R368). -/
theorem snapSection_keeps (s : State) : (snapSection s).2.ex = s.ex ∧ (snapSection s).2.mm = s.mm ∧ (snapSection s).2.snap = s.snap ∧ (snapSection s).2.time = s.time := by
  have os : ∀ o (z : State), (outStatus o z).2.ex = z.ex ∧ (outStatus o z).2.mm = z.mm ∧ (outStatus o z).2.snap = z.snap ∧ (outStatus o z).2.time = z.time := by
    intro o z; unfold outStatus; simp only []
    split <;> exact ⟨rfl, rfl, rfl, rfl⟩
  have so : (snapOuts s).2.ex = s.ex ∧ (snapOuts s).2.mm = s.mm ∧ (snapOuts s).2.snap = s.snap ∧ (snapOuts s).2.time = s.time := by
    unfold snapOuts
    refine ⟨?_, ?_, ?_, ?_⟩
    · exact foldl_same (fun a : List Byte × State => a.2.ex) _ (fun a o => (os o a.2).1) _ _
    · exact foldl_same (fun a : List Byte × State => a.2.mm) _ (fun a o => (os o a.2).2.1) _ _
    · exact foldl_same (fun a : List Byte × State => a.2.snap) _ (fun a o => (os o a.2).2.2.1) _ _
    · exact foldl_same (fun a : List Byte × State => a.2.time) _ (fun a o => (os o a.2).2.2.2) _ _
  have e : (snapSection s).2 = (snapOuts s).2 := by simp only [snapSection]
  rw [e]; exact so

end Sys2Proof.Machine
end

