-- ==== Sys2Proof/Laws/Host.lean ====
section
/-! SUPPORT. Laws/Host.lean: the host interface: in RUN nothing wakes, an ignored doorbell, eligibility. -/
namespace Sys2Proof.Machine

theorem wakeBy_run (code : Nat) (s : State) (h : s.pwr.state = .run) : wakeBy code s = s := by
  unfold wakeBy wakeUp
  have : [code].filter (wakeIn s.pwr.state) = [] := by
    rw [List.filter_eq_nil_iff]; intro c hc
    rw [h]; unfold wakeIn; simp only [pwrCode]
    split <;> decide
  rw [this]

theorem doorbellWake_run (q : Nat) (s : State) (h : s.pwr.state = .run) : doorbellWake q s = s := by
  unfold doorbellWake; split
  · exact wakeBy_run _ _ h
  · rfl

/-- What an ignored doorbell does (R399, R400). -/
theorem doorbellBad_spec (fn : Fin 9) (s : State) : (doorbellBad fn s).ex = s.ex ∧ (doorbellBad fn s).mm = s.mm ∧ (funcOf (doorbellBad fn s) fn).doorbellErr = satInc (funcOf s fn).doorbellErr ∧ bit (funcOf (doorbellBad fn s) fn).alarm 0 = true := by
  have e : funcOf (doorbellBad fn s) fn = { funcOf s fn with doorbellErr := satInc (funcOf s fn).doorbellErr, alarm := setBit (funcOf s fn).alarm 0 true } := by
    have k : ∀ f z, funcOf (updFunc fn f z) fn = f (funcOf z fn) := fun f z => tabD_tabUpd_same z.hi.funcs _ {} fn.isLt
    unfold doorbellBad hifAlarm
    rw [show ∀ a b c z, funcOf (postAlarm a b c z) fn = funcOf z fn from fun _ _ _ _ => rfl, k, k]
  rw [e]; exact ⟨rfl, rfl, rfl, by simp [bit_setBit]⟩

/-- Eligibility, as R414 says it. -/
theorem elig_iff (t thr n : Nat) (c : IcnSrc) : icnEligible t thr n c = true ↔ (c.en = true ∧ icnPending n c = true ∧ c.active = false ∧ thr < c.prio.toNat ∧ icnTargetOf c = t) := by
  unfold icnEligible
  simp only [Bool.and_eq_true, Bool.not_eq_true', decide_eq_true_eq, and_assoc]

/-- In RUN nothing wakes. -/
theorem wakeUp_none (codes : List Nat) (a b : Bool) (s : State) (h : s.pwr.state = .run) : wakeUp codes a b s = s := by
  unfold wakeUp
  have : codes.filter (wakeIn s.pwr.state) = [] := by
    rw [List.filter_eq_nil_iff]; intro c hc
    rw [h]; unfold wakeIn; simp only [pwrCode]
    split <;> decide
  rw [this]

end Sys2Proof.Machine
end

