-- ==== Sys2Proof/Laws/Issue.lean ====
section
/-! SUPPORT. Laws/Issue.lean: what issuing an instruction does once its conditions hold, and what a register write under a mask does. -/
namespace Sys2Proof.Machine

/-- A word that can issue (`Issues`) does its effect `f`, then what follows every effect. -/
theorem issue_ok {s : State} {g : Nat} {w ext : W64} {cls ops x b} (h : Issues s g w ext cls ops x b) (f : Group → Block → State → State) :
    issue cls ops g w ext s f = .next (after (f x b (issued w g x s))) := by
  obtain ⟨y, h1, h2, h3, h4, h5, hz, h6, h7, h8, h9⟩ := h
  unfold issue
  rw [h1]; simp only [h2]
  rw [← h3]
  have ht : (updGrp g (fun _ => x) s).therm.thermN = false := h5
  have hd : declRegs (updGrp g (fun _ => x) s) b = declRegs s b := rfl
  have hz' : hazard (updGrp g (fun _ => x) s) g w ext = false := hz
  simp [h4, h5, hd, hz', h6, h7, h8, h9]
  rfl

/-- Every issue answers a next state. -/
theorem issue_answers (cls : Nat) (ops : Nat → Bool) (g : Nat) (w ext : W64) (s : State) (f : Group → Block → State → State) :
    ∃ t, issue cls ops g w ext s f = .next t := by
  unfold issue
  repeat' (first | exact ⟨_, rfl⟩ | split | dsimp only)

/-- Bits of a mask built from a list of lanes. -/
theorem maskOf_bit (f : Nat → Bool) (l : Nat) (hl : l < 32) : bit (maskOf 32 ((List.range 32).filter f)) l = f l := by
  have key : ∀ (is : List Nat) (a : Nat), (is.foldl (fun a i => a ||| 1 <<< i) a).testBit l = (a.testBit l || is.contains l) := by
    intro is
    induction is with
    | nil => intro a; simp
    | cons i r ih =>
      intro a
      rw [List.foldl_cons, ih]
      simp only [Nat.testBit_or, Nat.one_shiftLeft, Nat.testBit_two_pow, List.contains_cons, Bool.or_assoc]
      congr 1
      by_cases h : i = l
      · subst h; simp
      · have : ¬ l = i := fun e => h e.symm
        simp [h, this]
  unfold bit maskOf
  rw [BitVec.toNat_ofNat, Nat.testBit_mod_two_pow, key]
  simp [hl]

/-- A register read after a write under a mask. -/
theorem rdV_wrV (rd : Nat) (m : W32) (f : Nat → PV) (g : Group) (r l : Nat) (hr : r < g.v.length) (hl : l < 32) :
    rdV (wrV rd m f g) r l = if r = rd ∧ r ≠ 0xFF ∧ bit m l = true then f l else rdV g r l := by
  by_cases h : rd = 0xFF
  · subst h
    have : (r = 0xFF ∧ r ≠ 0xFF ∧ bit m l = true) = False := eq_false (fun ⟨a, c, _⟩ => c a)
    simp only [this, if_false, wrV, if_true]
  · by_cases h1 : r = 0xFF
    · simp [rdV, h1]
    · unfold wrV; rw [if_neg h]
      simp only [rdV, h1, if_false]
      by_cases h2 : r = rd
      · subst h2
        rw [show (g.v.set r _).getD r vregD = _ from by rw [List.getD_eq_getElem?_getD, List.getElem?_set_self hr]]
        simp only [Option.getD_some]
        rw [maskOf_bit _ _ hl]
        have : ∀ F : Nat → W32, ((List.range 32).map F).getD l 0 = F l := by
          intro F; rw [List.getD_eq_getElem?_getD]; simp [hl]
        rw [this]
        by_cases h3 : bit m l = true
        · simp [h3, h1]
        · simp [h3]
      · have h2' : rd ≠ r := fun e => h2 e.symm
        simp [h2, List.getD_eq_getElem?_getD, List.getElem?_set_ne h2']

end Sys2Proof.Machine
end

