-- ==== Sys2Proof/Laws/Knot.lean ====
section
/-! SUPPORT. Laws/Knot.lean: a knot without waiters wakes nobody; a store to a knot leaves the cores. -/
namespace Sys2Proof.Machine

theorem updWhere_none {α : Type} (p : α → Bool) (f : α → α) (l : List α) (h : ∀ x ∈ l, p x = false) : updWhere p f l = l := by
  unfold updWhere
  rw [List.map_congr_left (g := fun x => x)]
  · simp
  · intro x hx; rw [h x hx]; rfl

/-- With no registered waiter nothing wakes. -/
theorem knotWake_none {pl : Place} {s : State} (h : hasWaiters pl s = false) (w : W64) (p : Bool) : knotWake pl w p s = s := by
  unfold hasWaiters at h
  rw [Bool.or_eq_false_iff] at h
  obtain ⟨h1, h2⟩ := h
  unfold knotWake
  have e : s.ex.waiters.filter (·.k == pl) = [] := by
    rw [List.filter_eq_nil_iff]; intro x hx; simpa using List.any_eq_false.mp h1 x hx
  rw [e]
  simp only [List.foldl_nil]
  have none' : ∀ x ∈ s.ex.groups, (waitsOn pl x && !isParked s x.blk) = false := fun x hx => by
    have := List.any_eq_false.mp h2 x hx
    simp at this; simp [this]
  have c : s.ex.groups.filter (fun g => waitsOn pl g && !isParked s g.blk && (kwaitEval s w p g).wait == .ready) = [] := by
    rw [List.filter_eq_nil_iff]; intro x hx; rw [none' x hx]; simp
  rw [c]
  have k : ∀ g : Group → Group, updWhere (fun g => waitsOn pl g && !isParked s g.blk) g s.ex.groups = s.ex.groups := fun g => updWhere_none _ _ _ none'
  exact congrArg (fun v => { s with ex := { s.ex with groups := v } }) (k _)

theorem lt63 (v : W64) (h : bit v 63 = false) : v.toNat < 2 ^ (62 + 1 - 0) := by
  have h64 : v.toNat < 2 ^ 64 := v.isLt
  unfold bit at h
  rw [Nat.testBit_eq_decide_div_mod_eq] at h
  simp at h
  omega

theorem knotStore_ex (fn : Nat) (pl : Place) (z : W64) (s : State) : (knotStore fn pl z s).ex = s.ex := (writePlace_memOnly ..).ex

theorem braidKnot_memOnly {s t : State} (h : MemOnly s t) (pl : Place) : braidKnot t pl = braidKnot s pl := by
  have e : knotFrame t = knotFrame s := by unfold knotFrame; rw [h]
  unfold braidKnot; rw [e]

/-- What the device's own reads of Peat find touches memory and the host interface alone. -/
theorem noteWord_memOnly (a : Nat) (s : State) : MemOnly s (noteWord a s) := eccNote_memOnly ..
theorem noteKnot_memOnly (b off : Nat) (s : State) : MemOnly s (noteKnot b off s) := by
  unfold noteKnot; split
  · exact noteWord_memOnly ..
  · rfl

end Sys2Proof.Machine
end

