-- ==== Sys2Proof/Laws/Timebase.lean ====
section
/-! SUPPORT. Laws/Timebase.lean: the timebase: counting pending hits, firing leaves other outputs alone, the forced safe state. -/
namespace Sys2Proof.Machine

theorem fld_lt {n : Nat} (x : BitVec n) (hi lo : Nat) : fld x hi lo < 2 ^ (hi + 1 - lo) := Nat.mod_lt _ (Nat.two_pow_pos _)

theorem sum_foldl_add (l : List Output) (k : Nat) (f : Output → Nat) : l.foldl (fun n o => n + f o) k = k + (l.map f).sum := by
  induction l generalizing k with
  | nil => simp
  | cons a r ih => simp [ih]; omega

theorem sum_set (l : List Output) (f : Output → Nat) (i : Nat) (h : i < l.length) (y : Output) : ((l.set i y).map f).sum + f l[i] = (l.map f).sum + f y := by
  induction l generalizing i with
  | nil => simp at h
  | cons a r ih =>
    cases i with
    | zero => simp; omega
    | succ i => simp at h; have := ih i h; simp at this ⊢; omega

/-- How an update of one output changes the entries in use. -/
theorem hitsUsed_updOut (s : State) (o : Nat) (ho : o < 36) (f : Output → Output) : hitsUsed (updOut o f s) + (output s o).pend.length = hitsUsed s + (f (output s o)).pend.length := by
  unfold hitsUsed
  rw [sum_foldl_add, sum_foldl_add]
  have e : (updOut o f s).pte.outs.toList = s.pte.outs.toList.set o (f (output s o)) := by
    show (tabUpd s.pte.outs o f).toList = _
    unfold output
    rw [tabD_lt _ _ ho]
    simp [tabUpd, ho, Vector.toList, Vector.set]
  rw [e]
  have := sum_set s.pte.outs.toList (fun o => o.pend.length) o (by simp [ho]) (f (output s o))
  have e2 : s.pte.outs.toList[o]'(by simp [ho]) = output s o := by
    unfold output; rw [tabD_lt _ _ ho]; simp
  rw [e2] at this
  omega

theorem fmt_facts (s : State) (r : HitRec) (h : hitFormatOk s r = true) : fld r.dw2 5 0 ≤ 35 ∧ fld r.dw2 8 6 ≤ 2 := by
  unfold hitFormatOk at h; simp at h; exact ⟨by have := h.1; unfold hitOutput at this; omega, by have := h.1; unfold hitAction at this; omega⟩

theorem camStamp_pte (a : Nat) (b : Stamp) (s : State) : (camStamp a b s).pte = s.pte := by
  unfold camStamp; dsimp only; split <;> rfl

/-- A hit that fires leaves the other outputs. -/
theorem output_fireHit_ne (o : Nat) (h : PendHit) (s : State) (i : Nat) (hi : i ≠ o) : output (fireHit o h s) i = output s i := by
  unfold fireHit; dsimp only; split
  · rfl
  · exact output_updOut_ne _ _ _ _ (Ne.symm hi)

/-- An action leaves the list, the configuration and the count. -/
theorem act_keep (c w : Nat) (t : W64) (o : Output) : (act c w t o).pend = o.pend ∧ (act c w t o).cfg = o.cfg ∧ (act c w t o).fired = o.fired := by
  unfold act; split <;> exact ⟨rfl, rfl, rfl⟩

def barKey (s : State) (o : Nat) := (outPhase (output s o), outAxis (output s o), axSrc (axis s (outAxis (output s o))), (axis s (outAxis (output s o))).mode)

theorem bar_of_key {s t : State} {o : Nat} (h : barKey t o = barKey s o) : phaseBarred t (output t o) = phaseBarred s (output s o) := by
  unfold barKey at h; simp only [Prod.mk.injEq] at h
  unfold phaseBarred; rw [h.1, h.2.1] at *; dsimp only; rw [h.2.2.1, h.2.2.2]

/-- Escalation does nothing unless the SFI is ARMED (R615). -/
theorem escLateAxis_id (a : Nat) (s : State) (h : s.sfi.state ≠ .armed) : escLateAxis a s = s := by
  unfold escLateAxis; split
  · rename_i e _; exact absurd e h
  · rfl

theorem pteSafe_fold (l : List Nat) (hl : ∀ o ∈ l, o < 36) (s : State) :
    (∀ o, o ∈ l → output (l.foldl (fun s o => updOut o (actClear s.time) (discardHits o s)) s) o = { output s o with pend := [], active := false, until' := some s.time }) ∧
    (∀ o, o ∉ l → output (l.foldl (fun s o => updOut o (actClear s.time) (discardHits o s)) s) o = output s o) := by
  induction l generalizing s with
  | nil => exact ⟨fun _ h => by simp at h, fun _ _ => rfl⟩
  | cons a r ih =>
    have ha : a < 36 := hl a (by simp)
    have st : ∀ o, output (updOut a (actClear s.time) (discardHits a s)) o = if o = a then { output s o with pend := [], active := false, until' := some s.time } else output s o := by
      intro o
      by_cases e : o = a
      · subst e; rw [if_pos rfl, output_updOut_same _ _ _ ha]
        show actClear s.time (output (updOut o (fun x => { x with pend := [] }) s) o) = _
        rw [output_updOut_same _ _ _ ha]; rfl
      · rw [if_neg e, output_updOut_ne _ _ _ _ (Ne.symm e)]
        show output (updOut a (fun x => { x with pend := [] }) s) o = _
        rw [output_updOut_ne _ _ _ _ (Ne.symm e)]
    have k := ih (fun o h => hl o (by simp [h])) (updOut a (actClear s.time) (discardHits a s))
    refine ⟨fun o ho => ?_, fun o ho => ?_⟩
    · by_cases hr : o ∈ r
      · refine (k.1 o hr).trans ?_
        rw [st]; split <;> rfl
      · have e : o = a := by simpa [hr] using ho
        refine (k.2 o hr).trans ?_
        rw [st, if_pos e]
    · simp at ho
      refine (k.2 o ho.2).trans ?_
      rw [st, if_neg ho.1]

theorem output_safeFlag (t : State) (o : Nat) :
    output (updPte (fun p => { p with safeState := true, tgs := p.tgs.map fun g => { g with cfg := setBit g.cfg 0 false } }) t) o = output t o := rfl
theorem axis_safeFlag (t : State) (a : Nat) :
    axis (updPte (fun p => { p with safeState := true, tgs := p.tgs.map fun g => { g with cfg := setBit g.cfg 0 false } }) t) a = axis t a := rfl
theorem tgs_safeFlag (t : State) :
    (updPte (fun p => { p with safeState := true, tgs := p.tgs.map fun g => { g with cfg := setBit g.cfg 0 false } }) t).pte.tgs =
      t.pte.tgs.map (fun g => { g with cfg := setBit g.cfg 0 false }) := rfl

/-- An output under the forced safe state (R69). -/
theorem pteSafe_output (s : State) (o : Nat) (ho : o < 36) : output (pteSafe s) o = { output s o with pend := [], active := false, until' := some s.time } := by
  unfold pteSafe
  rw [output_safeFlag]
  exact (pteSafe_fold (List.range 36) (fun o h => by simpa using h) s).1 o (by simpa using ho)

theorem foldl_upd {α : Type} (P : State → State → Prop) (r : ∀ s, P s s) (tr : ∀ a b c, P a b → P b c → P a c) (f : State → α → State) (h : ∀ s a, P s (f s a)) (l : List α) (s : State) :
    P s (l.foldl f s) := by
  induction l generalizing s with
  | nil => exact r s
  | cons a t ih => exact tr _ _ _ (h s a) (ih _)

def OnlyPte (s t : State) : Prop := t = { s with pte := t.pte } 

/-- The forced safe state changes the timebase alone. -/
theorem pteSafe_only (s : State) : OnlyPte s (pteSafe s) := by
  have h := foldl_upd OnlyPte (fun _ => rfl) (fun a b c h k => by unfold OnlyPte at *; rw [k, h]) (fun s o => updOut o (actClear s.time) (discardHits o s)) (fun s o => rfl) (List.range 36) s
  unfold OnlyPte at *
  unfold pteSafe; dsimp only; rw [h]; rfl

theorem pteSafe_axis (s : State) (a : Nat) : (axis (pteSafe s) a).pos = (axis s a).pos ∧ (axis (pteSafe s) a).mode = (axis s a).mode := by
  have h := foldl_same (fun s => ((axis s a).pos, (axis s a).mode)) (fun s o => updOut o (actClear s.time) (discardHits o s)) (fun s o => by
    show ((axis (countDrops _ _ _) a).pos, (axis (countDrops _ _ _) a).mode) = _
    unfold countDrops
    exact tabD_tabUpd_keeps (updOut o (fun x => { x with pend := [] }) s).pte.axes (fun x => { x with drops := satAdd x.drops (output s o).pend.length }) {} (fun (x : Axis) => (x.pos, x.mode)) (fun _ => rfl) _ _) (List.range 36) s
  unfold pteSafe
  rw [axis_safeFlag]
  generalize (List.range 36).foldl _ s = t at h
  exact Prod.mk.inj h

theorem pteSafe_tgs (s : State) : (pteSafe s).pte.tgs = s.pte.tgs.map (fun g => { g with cfg := setBit g.cfg 0 false }) := by
  have h := foldl_same (fun s : State => s.pte.tgs) (fun s o => updOut o (actClear s.time) (discardHits o s)) (fun s o => rfl) (List.range 36) s
  unfold pteSafe
  rw [tgs_safeFlag]
  exact congrArg (fun (t : Tab TrigGen 4) => t.map (fun g => { g with cfg := setBit g.cfg 0 false })) h

theorem sum_zero (l : List Nat) (h : ∀ x ∈ l, x = 0) : l.sum = 0 := by
  induction l with
  | nil => rfl
  | cons a r ih => simp [h a (by simp), ih (fun x hx => h x (by simp [hx]))]

theorem mem_outs (s : State) (o : Output) (h : o ∈ s.pte.outs.toList) : ∃ i, i < 36 ∧ output s i = o := by
  rw [List.mem_iff_getElem] at h
  obtain ⟨i, hi, e⟩ := h
  have hi' : i < 36 := by simpa using hi
  refine ⟨i, hi', ?_⟩
  unfold output; rw [tabD_lt _ _ hi']; simpa using e

end Sys2Proof.Machine
end

