-- ==== Sys2Proof/Laws/Xlate.lean ====
section
/-! SUPPORT. Laws/Xlate.lean: reads of memory and of the tables leave the translation unit; a fault that waits, and one that does not. -/
namespace Sys2Proof.Machine

theorem eccNote_xl (lp : Bool) (g : Nat) (f : Found) (s : State) : (eccNote lp g f s).mm.xl = s.mm.xl := by
  unfold eccNote; split <;> rfl

theorem readGran_xl (lp : Bool) (g : Nat) (s : State) : (readGran lp g s).2.mm.xl = s.mm.xl := by
  unfold readGran; exact eccNote_xl ..

theorem portWait_xl (lp : Bool) (a n : Nat) (s : State) : (portWait lp a n s).mm.xl = s.mm.xl := by
  unfold portWait; split <;> rfl

theorem readDev_xl (lp : Bool) (a n : Nat) (s : State) : (readDev lp a n s).2.mm.xl = s.mm.xl := by
  have gr : ∀ k g (s : State), (readGrans lp k g s).2.mm.xl = s.mm.xl := by
    intro k; induction k with
    | zero => intro g s; rfl
    | succ k ih => intro g s; unfold readGrans; exact (ih _ _).trans (readGran_xl ..)
  unfold readDev; split
  · rfl
  · exact (gr ..).trans (portWait_xl ..)

theorem areaRead_xl (p : Partition) (lp : Bool) (a : Nat) (s : State) : (areaRead p lp a s).2.mm.xl = s.mm.xl := by
  unfold areaRead; split
  · simp only []; rw [readDev_xl]
  · rfl

theorem walkRead_tlb (part : Nat) (lp : Bool) (a : Nat) (s : State) : (walkRead part lp a s).2.mm.xl.tlb = s.mm.xl.tlb := by
  unfold walkRead; rw [areaRead_xl]

/-- The entries that a release walk reads leave the translation unit. -/
theorem leafEntries_xl (p : Partition) (d : W64) (k : Nat) (s : State) : (leafEntries p d k s).2.mm.xl = s.mm.xl := by
  induction k generalizing s with
  | zero => rfl
  | succ k ih => unfold leafEntries; simp only [areaRead_xl, ih]

theorem dirEntries_xl (p : Partition) (d : Bool × W64) (s : State) : (dirEntries p d s).2.mm.xl = s.mm.xl := by
  unfold dirEntries; split
  · exact leafEntries_xl ..
  · rfl

theorem treeEntries_xl (root : W64) (p : Partition) (n : Nat) (s : State) : (treeEntries root p n s).2.mm.xl = s.mm.xl := by
  induction n generalizing s with
  | zero => rfl
  | succ n ih => unfold treeEntries; simp only [dirEntries_xl, areaRead_xl, ih]

theorem dirEntry_tlb (c part va : Nat) (s : State) : (dirEntry c part va s).2.mm.xl.tlb = s.mm.xl.tlb := by
  unfold dirEntry
  simp only []
  split
  · rfl
  · split
    · exact walkRead_tlb ..
    · exact walkRead_tlb ..

/-- The requester's miss as the pending-miss table holds it. -/
def missOf (c va : Nat) (k : Access) (rq : Rq) (who : Requester) : PmtReq :=
  { who := who, ctx := fin' 63 c, eng := rq.eng.map (fin' 45), va := va, kind := k }

/-- A translation that waits for a reply, from its walk, when nothing keeps the walk back. -/
theorem xl_stall (c va : Nat) (k : Access) (rq : Rq) (s u : State) (kind : Nat) (dir : Bool) (en : W64) (who : Requester)
    (h : translate c va k s = (.fault kind 0 dir en, u)) (hw : rq.who = some who) (hm : missAhead (missOf c va k rq who) s = none) :
    xl c va k rq s = (.stall, stallFault kind dir en rq.queue (missOf c va k rq who) u) := by
  have : (rq.who.bind fun who => missAhead { who := who, ctx := fin' 63 c, eng := rq.eng.map (fin' 45), va := va, kind := k } s) = none := by
    rw [hw]; exact hm
  unfold xl; rw [this, h]
  simp only [xlAnswer, hw, Option.isNone_some, Bool.false_and]
  rfl

/-- A request without a requester translates at once. -/
theorem xl_none (c va : Nat) (k : Access) (rq : Rq) (s : State) (hw : rq.who = none) : xl c va k rq s = xlAnswer c va k rq (translate c va k s) := by
  unfold xl; rw [hw]; rfl

/-- A translation that fails, from its walk. -/
theorem xl_fail (c va : Nat) (k : Access) (rq : Rq) (s u : State) (kind : Nat) (dir : Bool) (en : W64)
    (h : translate c va k s = (.fault kind 1 dir en, u)) (hm : ∀ who, rq.who = some who → missAhead (missOf c va k rq who) s = none) :
    xl c va k rq s = (.fail (failStatus kind), fqInfo (faultWords 0xFFFF kind 1 c va true dir k rq en u.time) u) := by
  have : (rq.who.bind fun who => missAhead { who := who, ctx := fin' 63 c, eng := rq.eng.map (fin' 45), va := va, kind := k } s) = none := by
    cases hw : rq.who with
    | none => rfl
    | some who => exact hm who hw
  unfold xl; rw [this, h]
  cases hw : rq.who <;> simp only [xlAnswer, hw, ite_self]

end Sys2Proof.Machine
end

