-- ==== Sys2Proof/Tests/Slice0.lean ====
section
/-! SUPPORT. Tests/Slice0.lean: small checks of the model on the spec's own numbers, and for every statement with hypotheses a state and
operands that meet them. -/
namespace Sys2Proof.Machine

/-! ### A small machine: context 1, one block with one group of 32 registers, lane 0 active -/

def tGrp : Group :=
  { id := 11, blk := 10, core := 0, quarter := 0, age := 0, cls0 := false, idx := 0, v := List.replicate 32 { lanes := List.replicate 32 0 }
    u := List.replicate 64 0, p := List.replicate 8 0, pPoison := List.replicate 8 0, active := 1, exited := 0xFFFFFFFE, pc := 0 }
def tCode : Code := { id := 1, strand := false, tile := false, vregs := 32, lmSize := 4096, entry := 0, cbSize := 0, text := [], const := [], binds := [] }
/-- A texture of 4 by 4 texels of format 0, one level and layer, linear at address 0 (Table 8.10). -/
def tTex : List Byte := (List.replicate 0x18 0 ++ leBytes 4 64 ++ leBytes 2 4 ++ leBytes 2 4 ++ ([0, 1, 0, 0] : List Byte) ++ leBytes 2 1 ++ List.replicate 26 0)
def tBlk : Block :=
  { id := 10, owner := .cmd 5, ctx := 1, part := 0, tier := 2, share := 0, index := 0, nblock := 1, core := 0, lmBase := 0, lmSize := 4096, code := 1, cluster := none, rank := 0
    texs := [tTex] }
/-- Page 0 of context 1 is Peat frame 0, readable and writable. -/
def tEntry : W64 := 0x181
def tState : State :=
  let s := State.reset
  { s with
    ex := { s.ex with groups := [tGrp], blocks := [tBlk], codes := [tCode], ctxs := tabUpd s.ex.ctxs 1 (fun c => { c with life := .live }) }
    pwr := { s.pwr with pd := Vector.replicate 64 .on }
    mm := { s.mm with xl := { s.mm.xl with tlb := [{ ctx := 1, page := 0, entry := tEntry }] } } }
/-- The same machine with another group. -/
def tWith (f : Group → Group) : State := updEx (fun e => { e with groups := e.groups.map f }) tState

/-- Whether group `g` can issue a word with `p` of what it then holds. -/
def issB (s : State) (g : Nat) (w ext : W64) (cls : Nat) (ops : Nat → Bool) (p : Group → Block → Bool) : Bool :=
  match findGrp s g with
  | none => false
  | some y =>
    match findBlk s y.blk with
    | none => false
    | some b =>
      let x := atIssue s b y
      decide (x.wait = .ready) && (s.therm.thermN == false) && !(hazard (atWord g x s) g w ext) && decide (iCls w = cls) && ops (iOp w) && wordOk (declRegs s b) w ext && !(guardMask x w).2 && p x b

theorem issB_spec {s : State} {g : Nat} {w ext : W64} {cls : Nat} {ops : Nat → Bool} {p : Group → Block → Bool} (h : issB s g w ext cls ops p = true) :
    ∃ x b, Issues s g w ext cls ops x b ∧ p x b = true := by
  unfold issB at h
  cases hg : findGrp s g with
  | none => rw [hg] at h; cases h
  | some y =>
    rw [hg] at h; dsimp only at h
    cases hb : findBlk s y.blk with
    | none => rw [hb] at h; cases h
    | some b =>
      rw [hb] at h
      simp only [Bool.and_eq_true, decide_eq_true_eq, beq_iff_eq, Bool.not_eq_true'] at h
      obtain ⟨⟨⟨⟨⟨⟨⟨h1, h2⟩, h0⟩, h3⟩, h4⟩, h5⟩, h6⟩, h7⟩ := h
      exact ⟨_, b, ⟨y, hg, hb, rfl, h1, h2, h0, h3, h4, h5, h6⟩, h7⟩

/-- A remote load of the group is out, to register 1 of lane 0. -/
def tAwait : State := { tState with dom := { tState.dom with reqs := [{ id := 1, link := 0, dev := 1, isStore := false, group := some 11, cmd := none, dst := [1, 0, 2], issued := 0 }] } }

def isOk {α : Type} (x : LaneAns α) : Bool := match x with | .ok _ => true | _ => false
def okE {α : Type} (x : Except Status α) : Bool := match x with | .ok _ => true | _ => false
def getA {α : Type} (d : α) (x : LaneAns α) : α := match x with | .ok a => a | _ => d

/-! ### Witnesses of the statements about instructions: words written from Tables 4.1 to 4.17 -/

theorem wit_LaneInstructionsComplete :
    (∃ x b, Issues tState 11 0x0300000C08048001 0 1 (fun _ => true) x b ∧ (fun _ _ => true) x b = true) ∧
    (∃ x b, Issues tState 11 0x0000000008048002 0 2 (fun _ => true) x b ∧ (fun _ _ => true) x b = true) ∧
    (∃ x b, Issues tState 11 0x0000000008048004 0 4 (· == 0) x b ∧ (fun _ _ => true) x b = true) ∧
    (∃ x b, Issues tState 11 0x0300000008048024 0 4 (· == 2) x b ∧ (fun _ _ => true) x b = true) ∧
    (∃ x b, Issues tState 11 0x2000000C08048009 0 9 (isShfl) x b ∧ (fun x _ => !(shflFault 0x2000000C08048009 0 (execMask x 0x2000000C08048009) x)) x b = true) ∧
    (∃ x b, Issues tState 11 0x2000000004008089 0 9 (isVote) x b ∧ (fun _ _ => true) x b = true) ∧
    (∃ x b, Issues tState 11 0x20000000080480C9 0 9 (· == 0xC) x b ∧ (fun _ _ => true) x b = true) ∧
    (∃ x b, Issues tState 11 0x2300000008048109 0 9 (isRed) x b ∧ (fun _ _ => true) x b = true) :=
  ⟨issB_spec (by decide), issB_spec (by decide), issB_spec (by decide), issB_spec (by decide), issB_spec (by decide), issB_spec (by decide), issB_spec (by decide), issB_spec (by decide)⟩

/-- A word with that register as a source waits; one with it as its destination, or without it, issues. -/
theorem wit_LaneInstructionsComplete_hazard : (findGrp tAwait 11).isSome = true ∧ hazard (atWord 11 (atIssue tAwait tBlk tGrp) tAwait) 11 0x0300000408048001 0 = true ∧ hazard (atWord 11 (atIssue tAwait tBlk tGrp) tAwait) 11 0x0300000C08048001 0 = false ∧
    hazard (atWord 11 (atIssue tAwait tBlk tGrp) tAwait) 11 0x0000000000048044 0 = false := by decide

theorem wit_UniformInstructionsComplete :
    (∃ x b, Issues tState 11 0x0414000C08048003 0 3 (fun _ => true) x b ∧ (fun _ _ => true) x b = true) ∧
    (∃ x b, Issues tState 11 0x0004000008048014 0 4 (· == 1) x b ∧ (fun _ _ => true) x b = true) ∧
    (∃ x b, Issues tState 11 0x0000000024048034 0 4 (· == 3) x b ∧ (fun _ _ => decide (iSa 0x0000000024048034 < 10)) x b = true) ∧
    (∃ x b, Issues tState 11 0x0000000000048044 0 4 (· == 4) x b ∧ (fun _ _ => decide (iSa 0x0000000000048044 = 0)) x b = true) ∧
    (∃ x b, Issues tState 11 0x0000000024048044 0 4 (· == 4) x b ∧ (fun _ _ => decide (0 < iSa 0x0000000024048044 ∧ iSa 0x0000000024048044 < 10)) x b = true) ∧
    (∃ x b, Issues tState 11 0x0000000028048034 0 4 (· == 3) x b ∧ (fun _ _ => decide (10 ≤ iSa 0x0000000028048034)) x b = true) ∧
    (∃ x b, Issues tState 11 0x0000000028048044 0 4 (· == 4) x b ∧ (fun _ _ => decide (10 ≤ iSa 0x0000000028048044)) x b = true) ∧
    (∃ x b, Issues tState 11 0x0204000000008026 0 6 (· == 2) x b ∧ (fun x b => fld (0x0204000000008026 : W64) 49 34 % sizeBytes (iType 0x0204000000008026) == 0 && isOk (bankRead x b (iSa 0x0204000000008026) (fld (0x0204000000008026 : W64) 49 34) (sizeBytes (iType 0x0204000000008026)) (issued 0x0204000000008026 11 x tState)).1) x b = true) :=
  ⟨issB_spec (by decide), issB_spec (by decide), issB_spec (by decide), issB_spec (by decide), issB_spec (by decide), issB_spec (by decide), issB_spec (by decide), issB_spec (by decide)⟩

/-- A group with one entry on its divergence stack, at its join; the same machine with two instructions of text. -/
def tJoin : State := tWith fun g => { g with stack := [{ mask := 1, elseMask := 0, elsePc := 8, joinPc := 0, phase := true }] }
def tDiv : State := tWith fun g => { g with exited := 0 }
def tText : State := updEx (fun e => { e with codes := [{ tCode with text := [0x8020, 0x8020] }] }) tState

theorem wit_ControlFlowComplete :
    (∃ x b, Issues tState 11 0x0000000000008010 0 0 (· == 1) x b ∧ (fun _ _ => true) x b = true) ∧
    (∃ x b, Issues tState 11 0x0000000000028020 0 0 (· == 2) x b ∧ (fun x _ => decide (x.stack.length < 32)) x b = true) ∧
    (∃ x b, Issues tJoin 11 0x0000000000008030 0 0 (· == 3) x b ∧ (fun x _ => match x.stack with | t :: _ => x.pc == t.joinPc | [] => false) x b = true) ∧
    (∃ x b, Issues tState 11 0x0000000000008040 0 0 (· == 4) x b ∧ (fun _ _ => true) x b = true) ∧
    (∃ x b, Issues tState 11 0x0000000000088050 0 0 (· == 5) x b ∧ (fun _ _ => true) x b = true) ∧
    (∃ x b, Issues tText 11 0x0004000008008060 0 0 (· == 6) x b ∧ (fun x b => !(rdU x (iSa 0x0004000008008060)).2 && isBaseWord (issued 0x0004000008008060 11 x tText) b (rdU x (iSa 0x0004000008008060)).1.toNat) x b = true) :=
  ⟨issB_spec (by decide), issB_spec (by decide), issB_spec (by decide), issB_spec (by decide), issB_spec (by decide), issB_spec (by decide)⟩

theorem wit_BarriersComplete :
    (∃ x b, Issues tState 11 0x800A 0 10 (· == 0) x b ∧ (fun x _ => !divergent x && !mustAwait (issued 0x800A 11 x tState) 11 false) x b = true) ∧
    (∃ x b, Issues tState 11 0x801A 0 10 (· == 1) x b ∧ (fun x _ => !divergent x && !mustAwait (issued 0x801A 11 x tState) 11 false) x b = true) ∧
    (∃ x b, Issues tState 11 0x780000000000802A 0 10 (· == 2) x b ∧ (fun x _ => !mustAwait (issued 0x780000000000802A 11 x tState) 11 (bit (0x780000000000802A : W64) 60 && fld (0x780000000000802A : W64) 63 61 == 4)) x b = true) ∧
    (∃ x b, Issues tAwait 11 0x800A 0 10 (· == 0) x b ∧ (fun x _ => !divergent x && mustAwait (issued 0x800A 11 x tAwait) 11 false) x b = true) ∧
    (∃ x b, Issues tAwait 11 0x900000000000802A 0 10 (· == 2) x b ∧ (fun x _ => mustAwait (issued 0x900000000000802A 11 x tAwait) 11 (bit (0x900000000000802A : W64) 60 && fld (0x900000000000802A : W64) 63 61 == 4)) x b = true) ∧
    (∃ x b, Issues tDiv 11 0x800A 0 10 (· == 0) x b ∧ (fun x _ => divergent x) x b = true) :=
  ⟨issB_spec (by decide), issB_spec (by decide), issB_spec (by decide), issB_spec (by decide), issB_spec (by decide), issB_spec (by decide)⟩

/-- Address registers at the last word of the block's local memory. -/
def tLast : State := tWith fun g => { g with v := List.replicate 32 { lanes := List.replicate 32 4092 } }

theorem wit_LocalMemoryComplete :
    (∃ x b, Issues tState 11 0x0200000008048005 0 5 (· == 0) x b ∧ (fun x b => okE (lmLanes (issued 0x0200000008048005 11 x tState) b (sizeBytes (iType 0x0200000008048005)) (lmAddrs x 0x0200000008048005 0 (memOfs 0x0200000008048005) (execMask x 0x0200000008048005)))) x b = true) ∧
    (∃ x b, Issues tLast 11 0x0200000008048005 0 5 (· == 0) x b ∧ (fun x b => okE (lmLanes (issued 0x0200000008048005 11 x tLast) b (sizeBytes (iType 0x0200000008048005)) (lmAddrs x 0x0200000008048005 0 (memOfs 0x0200000008048005) (execMask x 0x0200000008048005)))) x b = true) ∧
    (∃ x b, Issues tState 11 0x0200000008048015 0 5 (· == 1) x b ∧ (fun x b => !(releases 0x0200000008048015 && mustAwait (issued 0x0200000008048015 11 x tState) 11 (sysRelease 0x0200000008048015)) && okE (lmLanes (issued 0x0200000008048015 11 x tState) b (sizeBytes (iType 0x0200000008048015)) (lmAddrs x 0x0200000008048015 0 (memOfs 0x0200000008048015) (execMask x 0x0200000008048015)))) x b = true) ∧
    (∃ x b, Issues tLast 11 0x0200000008048015 0 5 (· == 1) x b ∧ (fun x b => !(releases 0x0200000008048015 && mustAwait (issued 0x0200000008048015 11 x tLast) 11 (sysRelease 0x0200000008048015)) && okE (lmLanes (issued 0x0200000008048015 11 x tLast) b (sizeBytes (iType 0x0200000008048015)) (lmAddrs x 0x0200000008048015 0 (memOfs 0x0200000008048015) (execMask x 0x0200000008048015)))) x b = true) :=
  ⟨issB_spec (by decide), issB_spec (by decide), issB_spec (by decide), issB_spec (by decide)⟩

/-- The remote load goes to register 20: a store that releases at SYSTEM scope waits for it. -/
def tAway : State := { tState with dom := { tState.dom with reqs := tAwait.dom.reqs.map fun r => { r with dst := [20, 0, 2] } } }
theorem wit_LocalMemoryComplete_await : ∃ x b, Issues tAway 11 0xE200000008048015 0 5 (· == 1) x b ∧ (fun x _ => releases 0xE200000008048015 && mustAwait (atWord 11 x tAway) 11 (sysRelease 0xE200000008048015)) x b = true :=
  issB_spec (by decide)

theorem wit_DeviceMemoryComplete :
    (∃ x b, Issues tState 11 0x0200000008048006 0 6 (· == 0) x b ∧ (fun x b => isOk (devLanes b.ctx (sizeBytes (iType 0x0200000008048006)) .load (rqG x) (devAddrs x 0x0200000008048006 0 (memOfs 0x0200000008048006) (execMask x 0x0200000008048006)) (issued 0x0200000008048006 11 x tState)).1 && !lanesDown (devLanes b.ctx (sizeBytes (iType 0x0200000008048006)) .load (rqG x) (devAddrs x 0x0200000008048006 0 (memOfs 0x0200000008048006) (execMask x 0x0200000008048006)) (issued 0x0200000008048006 11 x tState)).2 (getA [] (devLanes b.ctx (sizeBytes (iType 0x0200000008048006)) .load (rqG x) (devAddrs x 0x0200000008048006 0 (memOfs 0x0200000008048006) (execMask x 0x0200000008048006)) (issued 0x0200000008048006 11 x tState)).1) && (bulk b.part (laneNeeds x.core (sizeBytes (iType 0x0200000008048006)) (getA [] (devLanes b.ctx (sizeBytes (iType 0x0200000008048006)) .load (rqG x) (devAddrs x 0x0200000008048006 0 (memOfs 0x0200000008048006) (execMask x 0x0200000008048006)) (issued 0x0200000008048006 11 x tState)).1)) (devLanes b.ctx (sizeBytes (iType 0x0200000008048006)) .load (rqG x) (devAddrs x 0x0200000008048006 0 (memOfs 0x0200000008048006) (execMask x 0x0200000008048006)) (issued 0x0200000008048006 11 x tState)).2).isSome) x b = true) ∧
    (∃ x b, Issues tState 11 0x0200000008048016 0 6 (· == 1) x b ∧ (fun x b => !(releases 0x0200000008048016 && mustAwait (issued 0x0200000008048016 11 x tState) 11 (sysRelease 0x0200000008048016)) && isOk (devLanes b.ctx (sizeBytes (iType 0x0200000008048016)) .store (rqG x) (devAddrs x 0x0200000008048016 0 (memOfs 0x0200000008048016) (execMask x 0x0200000008048016)) (issued 0x0200000008048016 11 x tState)).1 && !lanesDown (devLanes b.ctx (sizeBytes (iType 0x0200000008048016)) .store (rqG x) (devAddrs x 0x0200000008048016 0 (memOfs 0x0200000008048016) (execMask x 0x0200000008048016)) (issued 0x0200000008048016 11 x tState)).2 (getA [] (devLanes b.ctx (sizeBytes (iType 0x0200000008048016)) .store (rqG x) (devAddrs x 0x0200000008048016 0 (memOfs 0x0200000008048016) (execMask x 0x0200000008048016)) (issued 0x0200000008048016 11 x tState)).1) && (bulk b.part (laneNeeds x.core (sizeBytes (iType 0x0200000008048016)) (getA [] (devLanes b.ctx (sizeBytes (iType 0x0200000008048016)) .store (rqG x) (devAddrs x 0x0200000008048016 0 (memOfs 0x0200000008048016) (execMask x 0x0200000008048016)) (issued 0x0200000008048016 11 x tState)).1)) (devLanes b.ctx (sizeBytes (iType 0x0200000008048016)) .store (rqG x) (devAddrs x 0x0200000008048016 0 (memOfs 0x0200000008048016) (execMask x 0x0200000008048016)) (issued 0x0200000008048016 11 x tState)).2).isSome && !((getA [] (devLanes b.ctx (sizeBytes (iType 0x0200000008048016)) .store (rqG x) (devAddrs x 0x0200000008048016 0 (memOfs 0x0200000008048016) (execMask x 0x0200000008048016)) (issued 0x0200000008048016 11 x tState)).1).any fun t => isHost t.2 && anyPoison (laneData x (iDst 0x0200000008048016) (iType 0x0200000008048016) t.1))) x b = true) :=
  ⟨issB_spec (by decide), issB_spec (by decide)⟩

theorem wit_SamplerComplete :
    (∃ x b, Issues tState 11 0x1000100008208007 0 7 (· == 0) x b ∧ (fun x b => b.texs[iSb 0x1000100008208007]? == some tTex && !(anyLane (execMask x 0x1000100008208007) (fun l => (texArg 0x1000100008208007 x l).2.2.2 || (texLodOf 0x1000100008208007 0 x tTex 0 l).2.1)) && (match bulk b.part (texNeeds x b tTex (popcount (execMask x 0x1000100008208007)) (issued 0x1000100008208007 11 x tState)) (issued 0x1000100008208007 11 x tState) with | none => false | some u => isOk (texLanes (fun k z => marked (texLodOf 0x1000100008208007 0 x tTex 0 k).2.2 (texSample b.ctx (rqG x) tTex (texArg 0x1000100008208007 x k).1 (texArg 0x1000100008208007 x k).2.1 (texArg 0x1000100008208007 x k).2.2.1 (texLodOf 0x1000100008208007 0 x tTex 0 k).1 z)) (lanesOf (execMask x 0x1000100008208007)) { u with freeCtr := 64 }).1)) x b = true) ∧
    (∃ x b, Issues tState 11 0x0000000008208017 0 7 (· == 1) x b ∧ (fun x b => b.texs[iSb 0x0000000008208017]? == some tTex && !(anyLane (execMask x 0x0000000008208017) (fun l => (texArg 0x0000000008208017 x l).2.2.2 || (texLodOf 0x0000000008208017 0 x tTex 0 l).2.1)) && (match bulk b.part (texNeeds x b tTex (popcount (execMask x 0x0000000008208017)) (issued 0x0000000008208017 11 x tState)) (issued 0x0000000008208017 11 x tState) with | none => false | some u => isOk (texLanes (fun k z => texFetch b.ctx (rqG x) tTex (texArg 0x0000000008208017 x k).1 (texArg 0x0000000008208017 x k).2.1 (texArg 0x0000000008208017 x k).2.2.1 0 z) (lanesOf (execMask x 0x0000000008208017)) { u with freeCtr := 64 }).1)) x b = true) ∧
    (∃ x b, Issues tState 11 0x1000100008048027 0 7 (· == 2) x b ∧ (fun x b => b.texs[iSb 0x1000100008048027]? == some tTex && !(anyLane (execMask x 0x1000100008048027) (fun l => (texArg 0x1000100008048027 x l).2.2.2 || (texLodOf 0x1000100008048027 0 x tTex 0 l).2.1)) && (match bulk b.part (texNeeds x b tTex (popcount (execMask x 0x1000100008048027)) (issued 0x1000100008048027 11 x tState)) (issued 0x1000100008048027 11 x tState) with | none => false | some u => isOk (texLanes (fun k z => marked (texLodOf 0x1000100008048027 0 x tTex 0 k).2.2 (texResident b.ctx (rqG x) tTex (texArg 0x1000100008048027 x k).1 (texArg 0x1000100008048027 x k).2.1 (texArg 0x1000100008048027 x k).2.2.1 (texLodOf 0x1000100008048027 0 x tTex 0 k).1 z)) (lanesOf (execMask x 0x1000100008048027)) { u with freeCtr := 64 }).1)) x b = true) :=
  ⟨issB_spec (by decide), issB_spec (by decide), issB_spec (by decide)⟩

set_option maxRecDepth 20000 in
theorem wit_MatrixComplete :
    (∃ x b, Issues tState 11 0x0003FC6040208018 0 8 (· == 1) x b ∧ (fun _ _ => true) x b = true) ∧
    (∃ x b, Issues tState 11 0x0014000C08208008 0 8 (· == 0) x b ∧ (fun x b => bit (0x0014000C08208008 : W64) 63 == false && !(fragBase 0x0014000C08208008 x).2.2 && (fragBase 0x0014000C08208008 x).1 % 4 == 0 && (fragBase 0x0014000C08208008 x).2.1 % 4 == 0 && okE (fragLm (issued 0x0014000C08208008 11 x tState) b (mldPieces 0x0014000C08208008 (fragBase 0x0014000C08208008 x).1 (fragBase 0x0014000C08208008 x).2.1))) x b = true) ∧
    (∃ x b, Issues tState 11 0x0017FC0C08208028 0 8 (· == 2) x b ∧ (fun x b => bit (0x0017FC0C08208028 : W64) 63 == false && !(fragBase 0x0017FC0C08208028 x).2.2 && (fragBase 0x0017FC0C08208028 x).1 % 4 == 0 && (fragBase 0x0017FC0C08208028 x).2.1 % 4 == 0 && okE (mstBias (issued 0x0017FC0C08208028 11 x tState) b 0x0017FC0C08208028 0 x) && okE (fragLm (issued 0x0017FC0C08208028 11 x tState) b (mstPieces 0x0017FC0C08208028 (fragBase 0x0017FC0C08208028 x).1 (fragBase 0x0017FC0C08208028 x).2.1 (2 * fmtBits (fld (0x0017FC0C08208028 : W64) 59 56))))) x b = true) :=
  ⟨issB_spec (by decide), issB_spec (by decide), issB_spec (by decide)⟩

theorem wit_AtomicsComplete :
    (∃ x b, Issues tState 11 0x0000000C0804800B 0 11 (fun _ => true) x b ∧ (fun x b => !(releases 0x0000000C0804800B && mustAwait (issued 0x0000000C0804800B 11 x tState) 11 (sysRelease 0x0000000C0804800B)) && !bit (0x0000000C0804800B : W64) 59 && okE (lmLanes (issued 0x0000000C0804800B 11 x tState) b (atomBytes 0x0000000C0804800B) (lmAddrs x 0x0000000C0804800B 0 0 (execMask x 0x0000000C0804800B)))) x b = true) ∧
    (∃ x b, Issues tState 11 0x080000100804800B 0 11 (fun _ => true) x b ∧ (fun x b => !(releases 0x080000100804800B && mustAwait (issued 0x080000100804800B 11 x tState) 11 (sysRelease 0x080000100804800B)) && bit (0x080000100804800B : W64) 59 && !((devAddrs x 0x080000100804800B 0 0 (execMask x 0x080000100804800B)).any (hostPage (issued 0x080000100804800B 11 x tState) b)) && isOk (devLanes b.ctx (atomBytes 0x080000100804800B) .atomic (rqG x) (devAddrs x 0x080000100804800B 0 0 (execMask x 0x080000100804800B)) (issued 0x080000100804800B 11 x tState)).1 && !lanesDown (devLanes b.ctx (atomBytes 0x080000100804800B) .atomic (rqG x) (devAddrs x 0x080000100804800B 0 0 (execMask x 0x080000100804800B)) (issued 0x080000100804800B 11 x tState)).2 (getA [] (devLanes b.ctx (atomBytes 0x080000100804800B) .atomic (rqG x) (devAddrs x 0x080000100804800B 0 0 (execMask x 0x080000100804800B)) (issued 0x080000100804800B 11 x tState)).1) && (bulk b.part (laneNeeds x.core (atomBytes 0x080000100804800B) (atomPlaces 0x080000100804800B (getA [] (devLanes b.ctx (atomBytes 0x080000100804800B) .atomic (rqG x) (devAddrs x 0x080000100804800B 0 0 (execMask x 0x080000100804800B)) (issued 0x080000100804800B 11 x tState)).1))) (devLanes b.ctx (atomBytes 0x080000100804800B) .atomic (rqG x) (devAddrs x 0x080000100804800B 0 0 (execMask x 0x080000100804800B)) (issued 0x080000100804800B 11 x tState)).2).isSome) x b = true) :=
  ⟨issB_spec (by decide), issB_spec (by decide)⟩

/-- A strand's group: its block is of braid 2, which may post to output 0. -/
def tStrand : State := updBraid 2 (fun x => { x with outmask := 1 }) (updEx (fun e => { e with blocks := [{ tBlk with owner := .strand 2 0 }] }) tState)

theorem wit_KnotInstructionsComplete :
    (∃ x b, Issues tState 11 0x001400100800800C 0 12 (· == 0) x b ∧ (fun x b => !(knotArg 0x001400100800800C 0 x).2 && !(rdUPair x (iSa 0x001400100800800C)).2 && (rdUPair x (iSa 0x001400100800800C)).1 % 8 == 0 && (match (xl b.ctx (rdUPair x (iSa 0x001400100800800C)).1 .store (rqG x) (issued 0x001400100800800C 11 x tState)) with | (.ok pl, u) => pl == .peat 0 && !mustAwait u 11 (farKnot pl) && !routeDown u pl && (bulk b.part (bulkNeeds (some x.core) pl 8) u).isSome | _ => false)) x b = true) ∧
    (∃ x b, Issues tState 11 0x001404100BFC801C 0 12 (· == 1) x b ∧ (fun x b => !(knotArg 0x001404100BFC801C 0 x).2 && !mustAwait (issued 0x001404100BFC801C 11 x tState) 11 false && !(rdUPair x (iSa 0x001404100BFC801C)).2 && (rdUPair x (iSa 0x001404100BFC801C)).1 % 8 == 0 && (match (xl b.ctx (rdUPair x (iSa 0x001404100BFC801C)).1 .load (rqG x) (issued 0x001404100BFC801C 11 x tState)) with | (.ok pl, u) => pl == .peat 0 && !routeDown u pl | _ => false)) x b = true) ∧
    (∃ x b, Issues tStrand 11 0x000000002000800D 0 13 (· == 0) x b ∧ (fun x b => b.owner == .strand 2 0 && !(anyLane (execMask x 0x000000002000800D) fun l => (List.range 5).any fun i => (rdV x (iSa 0x000000002000800D + i) l).2) && !(anyLane (execMask x 0x000000002000800D) fun l => outDenied (issued 0x000000002000800D 11 x tStrand) 2 (hitOfLane 0x000000002000800D x l))) x b = true) :=
  ⟨issB_spec (by decide), issB_spec (by decide), issB_spec (by decide)⟩

def tKwait : State := tWith fun g => { g with wait := .knot (.peat 0) 1 0xFF 1 false (some 100) 8 }
theorem wit_KwaitTimeoutCompletes : (findGrp tKwait 11).map (·.wait) = some (.knot (.peat 0) 1 0xFF 1 false (some 100) 8) ∧ (100 : W64).toNat ≤ (timeMax tKwait.time 100).toNat ∧ isParked tKwait 10 = false := by decide

set_option maxRecDepth 20000 in
theorem wit_MatrixDeviceComplete :
    (∃ x b, Issues tState 11 0x8014000C08208008 0 8 (· == 0) x b ∧ (fun x b => bit (0x8014000C08208008 : W64) 63 == true && !(fragBase 0x8014000C08208008 x).2.2 && (fragBase 0x8014000C08208008 x).1 % 8 == 0 && (fragBase 0x8014000C08208008 x).2.1 % 8 == 0 && (match fragPlaces b.ctx .load (rqG x) (mldPieces 0x8014000C08208008 (fragBase 0x8014000C08208008 x).1 (fragBase 0x8014000C08208008 x).2.1) (issued 0x8014000C08208008 11 x tState) with | (.ok l, u) => !lanesDown u (l.map fun q => (0, q)) && (bulk b.part (((mldPieces 0x8014000C08208008 (fragBase 0x8014000C08208008 x).1 (fragBase 0x8014000C08208008 x).2.1).zip l).foldl (fun a q => addNeeds a (laneNeeds x.core q.1.2.2.2 [(0, q.2)])) [0, 0, 0]) u).isSome | _ => false)) x b = true) ∧
    (∃ x b, Issues tState 11 0x8017FC0C08208028 0 8 (· == 2) x b ∧ (fun x b => bit (0x8017FC0C08208028 : W64) 63 == true && !(fragBase 0x8017FC0C08208028 x).2.2 && (fragBase 0x8017FC0C08208028 x).1 % 8 == 0 && (fragBase 0x8017FC0C08208028 x).2.1 % 8 == 0 && okE (mstBias (issued 0x8017FC0C08208028 11 x tState) b 0x8017FC0C08208028 0 x) && (match fragPlaces b.ctx .store (rqG x) (mstPieces 0x8017FC0C08208028 (fragBase 0x8017FC0C08208028 x).1 (fragBase 0x8017FC0C08208028 x).2.1 (2 * fmtBits (fld (0x8017FC0C08208028 : W64) 59 56))) (issued 0x8017FC0C08208028 11 x tState) with | (.ok l, u) => !lanesDown u (l.map fun q => (0, q)) && l.all (fun q => !isHost q) && (bulk b.part (laneNeeds x.core 4 (l.map fun q => (0, q))) u).isSome | _ => false)) x b = true) :=
  ⟨issB_spec (by decide), issB_spec (by decide)⟩

/-! ### Witnesses: the step, the timebase and the safety island -/

theorem wit_CalmEffectStands : Calm tState := by unfold Calm; decide
theorem wit_StepKeepsMemoryCanonical : MemWf { State.reset with pending := [.idcode] } ∧ ∃ t, step { State.reset with pending := [.idcode] } = .next t :=
  ⟨by unfold MemWf; decide, _, rfl⟩
theorem wit_StepKeepsOutputsSafe : OutputsSafe State.reset ∧ ∃ t, step State.reset = .next t := ⟨by unfold OutputsSafe; decide, _, rfl⟩

/-- Axis 0 enabled and driven by the host at position 0; output 0 enabled on it; outputs free. -/
def tPte (hits : Nat) : State :=
  updPte (fun p => { p with safeState := false, axes := tabUpd p.axes 0 (fun a => { a with cfg := 7, mode := .fine })
                            outs := (Vector.replicate 36 ({ cfg := 0x200, pend := List.replicate hits { target := 5, rev := false, action := 0, width := 0, tag := 1, seq := 0 } } : Output)) }) State.reset
/-- A SET of output 0 at a target of the axis. -/
def tHit (t : W64) : HitRec := { target := t, dw2 := 0, width := 0, tag := 9 }

set_option maxRecDepth 20000 in
theorem wit_HitPortOutcomes :
    (35 < fld (36 : W32) 5 0 ∧ 2 < fld (0xC0 : W32) 8 6 ∧ 2 < fld (0xC00 : W32) 11 10 ∧ fld (0x1000 : W32) 31 12 ≠ 0 ∧ outEn (output State.reset 0) = false ∧ axEn (axis State.reset 0) = false) ∧
    (hitFormatOk (updPte (fun p => { p with safeState := true }) (tPte 0)) (tHit 1) = true) ∧
    (hitFormatOk (tPte 0) (tHit 0x8000000000000000) = true ∧ (tHit 0x8000000000000000).target - axPos (axis (tPte 0) 0) (tPte 0).now = 0x8000000000000000) ∧
    (hitFormatOk (tPte 0) (tHit 0) = true ∧ reached false (axPos (axis (tPte 0) 0) (tPte 0).now) 0 = true) ∧
    (hitFormatOk (tPte 114) (tHit 1) = true ∧ reached false (axPos (axis (tPte 114) 0) (tPte 114).now) 1 = false ∧ 4096 ≤ hitsUsed (tPte 114)) ∧
    (hitFormatOk (tPte 113) (tHit 1) = true ∧ reached false (axPos (axis (tPte 113) 0) (tPte 113).now) 1 = false ∧ hitsUsed (tPte 113) < 4096) := by decide
theorem wit_HitPortArrivalCompletes : holding ((tPte 0).at 5) = false ∧ (hitArrive { tHit 1 with dw2 := setFld (0 : W32) 11 10 (tabD (tPte 0).ob.braids 2 {}).late.toNat } ((tPte 0).at 5)).1 = .accepted ∧
    (hitArrive { tHit 1 with dw2 := setFld (0 : W32) 11 10 (tabD (tPte 0).ob.braids 2 {}).late.toNat } ((updPte (fun p => { p with safeState := true }) (tPte 0)).at 5)).1 = .refused 0x0701 := by decide
theorem wit_LateHitPolicy : fld (tHit 0).dw2 5 0 < 36 ∧ (tPte 0).sfi.state ≠ .armed ∧ phaseBarred (tPte 0) (output (tPte 0) 0) = false ∧
    phaseBarred (updOut 0 (fun y => { y with cfg := 0x208 }) (tPte 0)) (output (updOut 0 (fun y => { y with cfg := 0x208 }) (tPte 0)) 0) = true ∧
    (output (tPte 0) 0).until' = some 0 ∧ outDefact (output (tPte 0) 0) = 0 ∧ outDefact (output (updOut 0 (fun y => { y with cfg := 0x280 }) (tPte 0)) 0) = 1 ∧
    fld (0x400 : W32) 11 10 = 1 ∧ fld (0x800 : W32) 11 10 = 2 ∧ fld (0x80 : W32) 8 6 = 2 ∧ fld (0x40 : W32) 8 6 = 1 := by decide
theorem wit_FiringIsExact : (0 : Nat) < 36 ∧ (35 : Nat) < 36 ∧ phaseBarred (tPte 2) (output (tPte 2) 35) = false ∧
    phaseBarred (updOut 35 (fun y => { y with cfg := 0x208 }) (tPte 2)) (output (updOut 35 (fun y => { y with cfg := 0x208 }) (tPte 2)) 35) = true := by decide
/-- CFG_LOCK set. -/
def tLock : State := updPte (fun p => { p with cfgLock := true }) (tPte 0)
theorem wit_OutputCommandsComplete :
    ((output (updOut 3 (fun y => { y with active := true, until' := some 7 }) (tPte 0)) 3).until' = some 7 ∧ (7 : W64).toNat ≤ (timeMax (tPte 0).time 7).toNat) ∧
    ((tPte 0).pte.cfgLock = false ∧ (output (tPte 0) 3).pend = [] ∧ bit (0x200 : W32) 9 = true) ∧
    (tLock.pte.cfgLock = true ∧ (output tLock 3).pend = [] ∧ (0x3F0 : W32) &&& 0x3FF = 0x3F0 ∧ fld (0x3F0 : W32) 2 0 = fld (output tLock 3).cfg 2 0) ∧
    ((0x3F7 : W32) &&& 0x3FF = 0x3F7 ∧ fld (0x3F7 : W32) 2 0 ≠ fld (output tLock 3).cfg 2 0) := by decide
/-- Generator 0 runs forward on axis 0 with its first target at 0 and a count of 1. -/
def tGen : State := updTg 0 (fun x => { x with cfg := 1, pitch := 1, count := 1 }) (tPte 0)
theorem wit_GeneratorCommandsComplete :
    (tgEn (tabD tGen.pte.tgs 0 {}) = true ∧ tgReached (tabD tGen.pte.tgs 0 {}) (axPos (axis tGen (tgAxis (tabD tGen.pte.tgs 0 {}))) tGen.now) ≠ 0 ∧ phaseBarred tGen (output tGen 32) = false) ∧
    (let x : TrigGen := { cfg := 1, count := 1, k := 1 }; tgEn x = true ∧ x.count ≠ 0 ∧ x.count.toNat ≤ x.k) ∧
    (tgEn (tabD (tPte 0).pte.tgs 0 {}) = false ∧ bit (0x10 : W32) 0 = false) ∧
    (bit (1 : W32) 0 = true ∧ axEn (axis (tPte 0) (fld (1 &&& 0xFF : W32) 3 1)) = true) ∧ (bit (3 : W32) 0 = true ∧ axEn (axis (tPte 0) (fld (3 &&& 0xFF : W32) 3 1)) = false) := by decide
/-- Axis 1: an encoder in coarse mode with both levels low; axis 2: the same, loading at Z; axis 3: in fine mode since 0; axis 4: mains, unlocked; axis 5: mains, locked. -/
def tAxes : State :=
  updAxis 1 (fun a => { a with cfg := 1, mode := .coarse, lvA := false, lvB := false }) (updAxis 2 (fun a => { a with cfg := 0x81, mode := .coarse }) (updAxis 3 (fun a =>
    { a with cfg := 1, mode := .fine, lastT := some 0 }) (updAxis 4 (fun a => { a with cfg := 3, mode := .coarse }) (updAxis 5 (fun a =>
    { a with cfg := 3, mode := .locked, lastT := some 0, ivals := [16, 16, 16, 16] }) State.reset))))
theorem wit_AxisEventsComplete :
    (axSrc (axis tAxes 1) = 0 ∧ (axis tAxes 1).mode ≠ .disabled ∧ (axis tAxes 1).lvB = false ∧ edgeFiltered (axis tAxes 1) true false 0 = true ∧ edgeFiltered (axis tAxes 1) true true 0 = true ∧
      edgeFiltered (noteEdge true false 10 (axis tAxes 1)) false false 12 = false ∧ edgeFiltered (noteEdge true false 10 (axis tAxes 1)) false false 15 = true ∧
      filtered (axis tAxes 1) 2 (axis tAxes 1).qZ 0 = true ∧ filtered (axis tAxes 2) 2 (axis tAxes 2).qZ 0 = true ∧ filtered (axis tAxes 4) 1 (axis tAxes 4).qA 0 = true ∧ mphSelects (axis tAxes 4) true = true ∧ mphSelects (axis tAxes 4) false = false ∧ mphSelects (axis (updAxis 4 (fun a => { a with cfg := 0x203 }) tAxes) 4) false = true ∧
      axSrc (axis tAxes 0) = 0 ∧ (axis tAxes 0).mode = .disabled ∧
      decodeEdge (axDecode (axis tAxes 1)) (axis tAxes 1).lvA (axis tAxes 1).lvB true false (axInvert (axis tAxes 1)) = some false) ∧
    ((axis tAxes 1).lvA ≠ true ∧ (axis tAxes 1).lvB ≠ true) ∧ (axZen (axis tAxes 1) = false) ∧ (axSrc (axis tAxes 2) = 0 ∧ axZen (axis tAxes 2) = true) ∧
    (axSrc (axis tAxes 3) = 0 ∧ (axis tAxes 3).mode = .fine ∧ (axis tAxes 3).lastT = some 0 ∧ (0 : W64).toNat + (axis tAxes 3).stall.toNat ≤ (timeMax tAxes.time 1000000).toNat) ∧
    (axSrc (axis tAxes 4) = 1 ∧ (axis tAxes 4).mode = .coarse ∧ (axis tAxes 4).lastT = none ∧ mainsConsist (axis tAxes 4).ivals ≠ 4) ∧
    (axSrc (axis tAxes 5) = 1 ∧ (axis tAxes 5).mode = .locked ∧ (axis tAxes 5).lastT = some 0 ∧ 3 * sumN (axis tAxes 5).ivals ≤ 8 * ((timeMax tAxes.time 24).toNat - (0 : W64).toNat)) := by decide
theorem wit_AxisWritesComplete :
    (axEn (axis (tPte 0) 1) = false ∧ bit (0x80 : W32) 0 = false) ∧ (axEn (axis (tPte 0) 0) = true ∧ bit (7 : W32) 0 = true ∧ (7 : W32) &&& 0x3FF = (axis (tPte 0) 0).cfg) ∧
    (bit (0x87 : W32) 0 = true ∧ (0x87 : W32) &&& 0x3FF ≠ (axis (tPte 0) 0).cfg) ∧ (bit (6 : W32) 0 = false ∧ ((6 : W32) &&& 0x3FF) ||| 1 = (axis (tPte 0) 0).cfg) ∧
    (axEn (axis (tPte 0) 1) = false ∧ fld (7 : W32) 2 1 = 3) ∧ (axSrc (axis (tPte 0) 0) = 3) ∧ (tPte 0).pte.latch = [] := by decide

/-- PD1 on, in a given SFI state. -/
def tSfi (st : SfiState) : State := { tState with sfi := { tState.sfi with state := st, cause := 1 } }
theorem wit_TripForcesSafeState : (tSfi .armed).sfi.state = .armed ∧ (tSfi .arming).sfi.state = .arming := by decide
theorem wit_TripInHoldIsLogged : (tSfi .hold).sfi.state = .hold ∧ (tSfi .hold).sfi.cause ≠ 0 := by decide
theorem wit_MonitorEventsTrip : sfiOn (tSfi .armed) = true ∧ sfiOn (tSfi .hold) = true ∧ outDrive ((tSfi .armed).at 3) (output (tSfi .armed) 0) = some false ∧
    (tSfi .hold).sfi.halted = false ∧ (tSfi .hold).sfi.scb = none := by decide
theorem wit_ArmingSequence :
    (sfiOn (tSfi .hold) = true ∧ (tSfi .hold).sfi.state = .hold ∧ (tSfi .hold).sfi.latchA = false ∧ (tSfi .hold).sfi.halted = false ∧ sfiMon (tSfi .hold) = 0 ∧ requiredRunning (tSfi .hold) = true ∧
      safeAAsserted (tSfi .hold) = true ∧ safeBAsserted (tSfi .hold) = true) ∧
    (sfiOn (tSfi .boot) = true ∧ (tSfi .boot).sfi.state ≠ .hold) ∧
    (sfiOn (tSfi .arming) = true ∧ (tSfi .arming).sfi.halted = false ∧ (updSfi (fun x => { x with armOk := (true, true) }) (tSfi .arming)).sfi.armOk = (true, true) ∧
      (updSfi (fun x => { x with armOk := (true, false) }) (tSfi .arming)).sfi.armOk ≠ (true, true)) := by decide
/-- Braid 3 runs with a deadline and one unit admitted at 0. -/
def tDead : State := updBraid 3 (fun x => { x with state := .running, deadline := 100, units := [(7, 0, false)] }) State.reset
/-- The same with its result knot at 8. -/
def tPast : State := { tDead with mm := { tDead.mm with peat := tDead.mm.peat.putBytes (knotBasePeat 3 tDead + 0x400) [8, 0, 0, 0, 0, 0, 0, 0] } }
set_option maxRecDepth 20000 in
theorem wit_MonitorsAndDeadlines : (braidOf tDead 3).state = .running ∧ (braidOf tDead 3).deadline ≠ 0 ∧ (7, 0, false) ∈ (braidOf tDead 3).units ++ (braidOf tDead 3).early ∧ resolved 3 (noteKnot 3 0x400 (tDead.at 100)) ≤ (7 : W64).toNat ∧ (7 : W64).toNat < resolved 3 (noteKnot 3 0x400 (tPast.at 100)) ∧
    (0 : W64).toNat + (braidOf tDead 3).deadline.toNat ≤ (timeMax tDead.time 100).toNat ∧ tDead.sfi.state ≠ .armed := by decide
/-! ### Witnesses: cameras, displays, braids, the host interface -/

/-- Camera port 0 enabled on channel 0, type 0x24: in line mode, in frame mode, and with a unit open. -/
def tCam (frame op : Bool) : State :=
  updCam 0 (fun c => { c with en := true, dt := 0x24, frame := frame, dest := 2, open' := if op then some { admitted := true, n := 0, pos := 0, time := 0, seq := 0, flags := 0, axis := 0 } else none }) tState
theorem wit_CameraCommandsComplete :
    ((camOf (tCam false false) 0).en = true ∧ (camOf (tCam false false) 0).vc = 0 ∧ (camOf (tCam false false) 0).dt = 0x24 ∧ (camOf (tCam false false) 0).dt ≠ 0 ∧ (camOf (tCam false false) 0).frame = false) ∧
    ((camOf (tCam true false) 0).frame = true ∧ (camOf (tCam true false) 0).open' = none) ∧ ((camOf (tCam true true) 0).frame = true ∧ (camOf (tCam true true) 0).open'.isSome = true) ∧
    (0x18 ≤ (0x18 : BitVec 6).toNat ∧ (camOf (updCam 0 (fun c => { c with dt := 0 }) (tCam true true)) 0).dt = 0) ∧ ((1 : BitVec 5) ≠ (camOf (tCam true true) 0).vc) ∧
    ((camOf (tCam true true) 0).lastHdr.toNat + 100000000 ≤ (timeMax (tCam true true).time 100000000).toNat) := by decide
/-- A capture ring of 1 slot whose FREED knot reads 0. -/
def tRing (units : W64) : State := updCam 0 (fun c => { c with ctx := 1, dest := 2, ring := { c.ring with slots := 1 }, units := units }) tState
def tFreed (n : W64) : Option Nat × State := knotValRq (camRq 0) (camOf (tRing n) 0).ctx (camOf (tRing n) 0).freed.toNat (tRing n)
set_option maxRecDepth 20000 in
theorem wit_CaptureRingAdmission : (camOf (tRing 1) 0).dest = 2 ∧ (camOf (tRing 1) 0).fifo = [] ∧
    ((tFreed 1).1 = some 0 ∧ camOf (tFreed 1).2 0 = camOf (tRing 1) 0 ∧ (tFreed 1).2.pte.axes = (tRing 1).pte.axes ∧ (tFreed 1).2.time = (tRing 1).time) ∧ (tFreed 0).1 = some 0 ∧
    0 + (camOf (tRing 1) 0).ring.slots < (camOf (tRing 1) 0).units.toNat + 1 ∧ (camOf (tRing 0) 0).units.toNat + 1 ≤ 0 + (camOf (tRing 0) 0).ring.slots := by decide
/-- Display output 0: with a mode that fits, enabled, with a message out, training. -/
def tDpo (f : Dpo → Dpo) : State := updDpo 0 f State.reset
def tMode (x : Dpo) : Dpo := { x with h := 0x000007FF, hs := 0x0, v := 0x000003FF, vs := 0, pclk := 25000 }
theorem wit_DisplayCommandsComplete :
    (bit (dpoOf (tDpo fun x => { x with ctrl := 1 }) 0).ctrl 0 = true ∧ (scanFrame 0 ((tDpo fun x => { x with ctrl := 1 }).at 9)).time = timeMax (tDpo fun x => { x with ctrl := 1 }).time 9) ∧
    (bit (dpoOf State.reset 0).ctrl 0 = false ∧ bit (1 : W32) 0 = true ∧ bit (0 : W32) 0 = false) ∧ (modeOk 0 (0 : W32) (dpoOf State.reset 0) = false) ∧
    (fld (dpoOf State.reset 0).ctrl 7 5 = 0 ∧ bit (dpoOf State.reset 0).ctrl 8 = false) ∧ (fld (dpoOf (tDpo fun x => { x with ctrl := 0x20 }) 0).ctrl 7 5 = 1 ∧ bit (dpoOf (tDpo fun x => { x with ctrl := 0x20 }) 0).ctrl 8 = false) ∧
    ((dpoOf (tDpo fun x => { x with training := true }) 0).training = true) ∧ ((dpoOf State.reset 0).busy = false) ∧ ((dpoOf (tDpo fun x => { x with busy := true }) 0).busy = true ∧ (dpoOf (tDpo fun x => { x with busy := true }) 0).msgHeld = false) ∧
    ((dpoOf (tDpo fun x => { x with busy := true, msgHeld := true }) 0).busy = true ∧ (dpoOf (tDpo fun x => { x with busy := true, msgHeld := true }) 0).msgHeld = true) := by decide

/-- Braid 3 drains with nothing admitted. -/
def tDrain : State := updBraid 3 (fun x => { x with state := .draining }) State.reset
/-- Model 4 is being evicted; command 5 runs the only stage of a MIXED_STEP. -/
def tModel : State := updModel 4 (fun m => { m with state := .evicting }) State.reset
def tStep : State := updEx (fun e => { e with cmds := [{ id := 5, q := 0, pkt := ⟨[]⟩, phase := .running, work := .step 4 0 [] 0 { noDispatch with nblock := 1, next := 1 } }] }) State.reset
/-- A MIXED_STEP of context 1 and its one sequence, in page 0. -/
def tCmd5 : Cmd := { id := 5, q := 0, pkt := ⟨[0x02000000, 0x10000]⟩, startT := some 0 }
def tSeq : StepEntry := { seq := 64, tokens := 0, out := 0, start := 3, count := 2, logits := 0 }
set_option maxRecDepth 20000 in
theorem wit_BraidModelEventsComplete :
    ((braidOf tDrain 3).state = .draining ∧ (braidOf tDrain 3).drained = false ∧ (braidOf tDrain 3).admitted.toNat ≤ resolved 3 (noteKnot 3 0x400 tDrain)) ∧
    (strandBlocks tDrain 3 = [] ∧ (braidOf (updBraid 3 (fun x => { x with drained := true }) tDrain) 3).drained = true ∧ (braidOf tDrain 3).flush = false ∧ (braidOf tDrain 3).drainEnd.toNat ≤ (timeMax tDrain.time 0).toNat) ∧
    ((modelOf tModel 4).state = .evicting ∧ modelUses 4 tModel = 0) ∧
    ((findCmd tStep 5).map (·.phase) = some .running ∧ stageEnded tStep 5 { noDispatch with nblock := 1, next := 1 } = true ∧ stepsPast tStep 4 < 4 ∧ (modelOf tStep 4).stages.length ≤ 0 + 1 ∧ acksDue tStep 5 = false ∧ (writablePieces (cmdCtx tCmd5) tCmd5.who.rq ([tSeq].map fun e => (e.seq.toNat, 64)) tState).1 = .ok ∧
      (putLengths tCmd5 [tSeq] tState).1 = .ok ∧ acksDue tState 5 = false) ∧
    (0 + 1 < (modelOf (updModel 4 (fun m => { m with stages := [{}, {}] }) tStep) 4).stages.length) := by decide

/-- The link up, firmware running, function 0's memory decoded and bus mastering on, its root queue 0 with rings of 16 slots, an epoch published. -/
def tHost : State :=
  let s := tState
  { s with
    boot := { s.boot with stage := 6 }
    hi := { s.hi with pcie := { s.hi.pcie with up := true }, page := { s.hi.page with epoch := 2 }
                      funcs := tabUpd s.hi.funcs 0 (fun f => { f with memDecode := true, busMaster := true, rootqOn := true, rootqCfg := 0x404 }) }
    ex := { s.ex with queues := tabUpd s.ex.queues 0 (fun q => { q with life := .live, root := true, size := 4, csize := 4 }) } }
set_option maxRecDepth 20000 in
theorem wit_DoorbellsComplete : barOn tHost 0 = true ∧ tHost.pwr.state = .run ∧ queueActive tHost 0 = true ∧ queueMine tHost 0 0 = true ∧
    ((queueOf tHost 0).tail - BitVec.ofNat 32 (queueOf tHost 0).fetch.toNat).toNat + ((16 : W32) - (queueOf tHost 0).tail).toNat ≤ 2 ^ (queueOf tHost 0).size ∧
    2 ^ (queueOf tHost 0).size < ((queueOf tHost 0).tail - BitVec.ofNat 32 (queueOf tHost 0).fetch.toNat).toNat + ((17 : W32) - (queueOf tHost 0).tail).toNat ∧
    ((queueOf tHost 0).written - 0).toNat ≤ 2 ^ (queueOf tHost 0).csize ∧ 2 ^ (queueOf tHost 0).csize < ((queueOf tHost 0).written - 1).toNat := by decide
def tOff : State := updFunc 0 (fun f => { f with rootqOn := false }) tHost
set_option maxRecDepth 20000 in
theorem wit_RootQueueAndMirrorComplete :
    (barOn tOff 0 = true ∧ bit (1 : W32) 0 = true ∧ (funcOf tOff 0).rootqOn = false ∧ hifReady tOff 0 = true ∧ 4 ≤ fld (funcOf tOff 0).rootqCfg 4 0 ∧ fld (funcOf tOff 0).rootqCfg 4 0 ≤ 16 ∧
      4 ≤ fld (funcOf tOff 0).rootqCfg 12 8 ∧ fld (funcOf tOff 0).rootqCfg 12 8 ≤ 16) ∧
    (hifReady (updHi (fun h => { h with page := { h.page with epoch := 0 } }) tOff) 0 = false) ∧ (bit (0 : W32) 0 = false ∧ rootQ 0 = 0 ∧ (queueOf tHost (rootQ 0)).root = true ∧ tHost.ex.cmds = [] ∧ (queueOf tHost (rootQ 0)).waitRecs = []) := by decide
/-- BAR2 of function 0 on context 1. -/
def tMap : State := updFunc 0 (fun f => { f with bar2Map := 0x8001000000000000 }) tHost
set_option maxRecDepth 20000 in
theorem wit_HostAccessesComplete :
    (barOn tHost 0 = true ∧ accessOk 0 0x1000 4 = true ∧ blockOff tHost 0x1000 = false) ∧ (accessOk 0 0x1002 4 = false) ∧ (accessOk 0 0x1000 8 = true) ∧ (accessOk 0 0x101028 8 = true ∧ blockOff tHost 0x101028 = false ∧ (0x101028 : Nat) = 0x101028 + 0x100 * (0 : Fin 8)) ∧
    (accessOk 0 0x40000 4 = true ∧ blockOff { tHost with pwr := { tHost.pwr with pd := Vector.replicate 64 .off } } 0x40000 = true) ∧
    (blockOff tHost 0x1000 = false ∧ (0x1000 : Nat) < 0x50000) ∧ (tHost.pwr.state = .run ∧ bar2In tHost 0 (0 + 4 - 1) = true ∧ (bar2Get 0 (pagePieces (bar2Va (funcOf tMap 0) 0) 4) tMap).2.1 = false ∧
      (bar2Put 0 (pagePieces (bar2Va (funcOf tMap 0) 0) 4) ([1, 2, 3, 4].map (·, false)) tMap).1 = false) ∧ ((bar2Get 0 (pagePieces (bar2Va (funcOf tHost 0) 0) 4) (updFunc 0 (fun f => { f with bar2Map := 0 }) tHost)).2.1 = true) ∧
    ((bar2Put 0 (pagePieces (bar2Va (funcOf tHost 0) 0) 4) ([1, 2, 3, 4].map (·, true)) tHost).1 = true) := by decide
/-- Source 13 enabled and pending at priority 1 for target 0; the same source active. -/
def tIcn (act : Bool) : State := { tHost with hi := { tHost.hi with icn := { tHost.hi.icn with srcs := tabUpd tHost.hi.icn.srcs 13 (fun c => { c with en := true, prio := 1, pending := !act, active := act }) } } }
/-- With no source eligible there is no winner. -/
theorem wit_noWinner : icnWinner tHost.hi.icn 0 = none := by
  have e : ∀ n, tabD tHost.hi.icn.srcs n {} = {} := fun n => by
    show tabD (Vector.replicate 256 ({} : IcnSrc)) n {} = {}
    unfold tabD; simp [Array.getD]
  unfold icnWinner
  refine foldl_keeps (· = none) _ (fun o n h => ?_) _ _ rfl
  dsimp only
  rw [e n, h]
  exact if_neg (by unfold icnEligible; simp)
set_option maxRecDepth 20000 in
theorem wit_ConcentratorCommandsComplete :
    (barOn (tIcn false) 0 = true ∧ icnWinner (tIcn false).hi.icn 0 = some 13) ∧
    ((tabD (tIcn true).hi.icn.srcs 13 {}).active = true ∧ icnTargetOf (tabD (tIcn true).hi.icn.srcs 13 {}) = 0 ∧ fld (13 : W32) 9 0 = 13) ∧ ((tabD (tIcn false).hi.icn.srcs 13 {}).active = false) ∧
    (icnPending 13 { (tabD (tIcn true).hi.icn.srcs 13 {}) with pending := true } = true) := by decide
theorem wit_LinkAndResetsComplete :
    (2 ≤ tHost.boot.stage.toNat ∧ tHost.pwr.state ≠ .dormant) ∧ (tHost.hi.pcie.up = true ∧ (funcOf tHost 0).enabled = true) ∧ ((funcOf (updFunc 0 (fun f => { f with memDecode := false }) tHost) 0).memDecode = false ∧
      8 ≤ (8 : W32).toNat ∧ (12 : W32).toNat ≤ 12) ∧ vfPart tHost 7 = none := by decide
/-! ### Witnesses: packets, translation, links, power, boot -/

/-- A one-slot packet with opcode `op`, flags `fl` (bits 12-17) and context `c`; words from DW8 on follow. -/
def tPkt (op fl c : Nat) (ws : List W32) : Pkt := ⟨[BitVec.ofNat 32 (0x01000100 + op + fl), BitVec.ofNat 32 (c * 65536 + 1), 0, 0, 0, 0, 0, 0] ++ ws ++ List.replicate (8 - ws.length) 0⟩
/-- The host with queue 0 a queue of context 1, one slot of it below TAIL; the packet stands in the ring; the front end takes it. -/
def tTail : State := updQueue 0 (fun q => { q with tail := 1, root := false, ctx := 1, kind := 1 }) tHost
def zOf (p : Pkt) : State := goOn (placePkt 0 { pkt := p } tTail)
def aOf (p : Pkt) : State := feTook 0 { pkt := p } (zOf p)
/-- The command that is now alone, with its time running, and the state at its start. -/
def tStart (p : Pkt) : Option (Cmd × State) :=
  match (aOf p).ex.cmds with
  | [c] => let d := { c with startT := some (c.startT.getD (aOf p).time) }; some (d, startAcquire d (updCmd c.id (fun _ => d) (aOf p)))
  | _ => none
/-- What every clause of PacketsStart asks of an accepted packet. -/
def startOk (p : Pkt) : Bool :=
  (queueOf tTail 0).life == .live && (aOf p).mm.xl.missq.isEmpty && !(holding tTail) && slotsHeld (zOf p) == 1 && feNext (zOf p) == some 0 && headPkt (zOf p) 0 == some { pkt := p } && !(holding (aOf p)) && fwOn (aOf p) &&
  (match tStart p with
    | some (d, b) => d.phase == .waiting && !(ringFullQ (queueOf (aOf p) d.q)) && !(faultWaits (aOf p) d.id) && !(contextGone b d) && statusOk d.status
    | none => false)
def bodyOf (p : Pkt) : Option Status := match tStart p with | some (d, b) => bodyBad b d.q d.pkt | none => some 0
/-- Firmware that does not run takes no packet. -/
theorem feNext_off (s : State) (h : fwOn s = false) : feNext s = none := by
  have e : ∀ t, feTier s t = none := by
    intro t; unfold feTier; rw [List.find?_eq_none]; intro q _; simp [doorbellPending, takesPkt, h]
  simp [feNext, e]
set_option maxRecDepth 20000 in
theorem wit_PacketsStart : packetOf (.nop 0 (tPkt 0 0 1 [])) = some (0, tPkt 0 0 1 [], true) ∧
    (startOk (tPkt 0 0 1 [1]) = true ∧ bodyOf (tPkt 0 0 1 [1]) = some 0x0106) ∧
    (startOk (tPkt 0 0 1 []) = true ∧ bodyOf (tPkt 0 0 1 []) = none ∧ pktSignal (tPkt 0 0 1 []) = false) ∧
    (startOk (tPkt 0 0x8000 1 []) = true ∧ bodyOf (tPkt 0 0x8000 1 []) = none ∧ pktSignal (tPkt 0 0x8000 1 []) = true) := by decide
set_option maxRecDepth 20000 in
theorem wit_PacketsStart_none : (queueOf tTail 0).life = .live ∧ holding State.reset = false ∧ feNext (goOn (placePkt 0 { pkt := tPkt 0 0 1 [] } State.reset)) = none :=
  ⟨by decide, by decide, feNext_off _ (by decide)⟩
set_option maxRecDepth 20000 in
/-- Queue 0 of context 1 with its ring in page 0. -/
def tPageRing : State := updQueue 0 (fun q => { q with life := .live, ctx := 1, size := 4 }) tState
set_option maxRecDepth 20000 in
theorem wit_AcceptanceAndFraming : (fetchSlots 0 1 tPageRing).1 = .ok ∧ (fetchSlots 0 1 tPageRing).2.ex.cmds = [] ∧ sigCount (fetchSlots 0 1 tPageRing).2 ≤ 65536 ∧
    (framingBad (2 ^ (queueOf tPageRing 0).size) (contextOk (fetchSlots 0 1 tPageRing).2 0 (pktContext (tPkt 2 0 1 []))) (tPkt 2 0 1 [])) = some 0x0102 ∧
    framingBad (2 ^ (queueOf tPageRing 0).size) (contextOk (fetchSlots 0 1 tPageRing).2 0 (pktContext (tPkt 0 0 1 []))) (tPkt 0 0 1 []) = none ∧ namedKnots (tPkt 0 0 1 []) = [] ∧ pktOpcode (tPkt 0 0 1 []) = 0 ∧
    (queueOf tHost 0).root = true ∧ (queueOf tHost 0).abortFetch = none ∧ (queueOf tPageRing 0).life = .live ∧ holding tPageRing = false ∧
    feNext (zOf (tPkt 0 0 1 [])) = some 0 ∧ headPkt (zOf (tPkt 0 0 1 [])) 0 = some { pkt := tPkt 0 0 1 [] } ∧ doorbellPending (zOf (tPkt 0 0 1 [])) 0 = true := by decide
/-- A root-queue NOP that is done; `full` fills the completion ring. -/
def tDone (full : Bool) : State :=
  updQueue 0 (fun q => { q with written := if full then 16 else 0 }) (updEx (fun e => { e with cmds := [{ id := 5, q := 0, pkt := tPkt 0 0 0xFF [], phase := .done, startT := some 0 }] }) tHost)
set_option maxRecDepth 20000 in
theorem wit_CompletionComplete : (tDone true).ex.cmds.all (fun c => c.q == 0 && c.phase == .done && c.startT.isSome && c.parent == none && !(pktSignal c.pkt) && !(pktIrq c.pkt) && pktOpcode c.pkt != 0xF0) = true ∧ (tDone true).ex.cmds.length = 1 ∧
    acksDue (tDone true) 5 = false ∧ (queueOf (tDone false) 0).root = true ∧ busOn (tDone false) 0 = true ∧ fwOn (tDone true) = true ∧ holding (tDone true) = false ∧ ringFullQ (queueOf (tDone true) 0) = true ∧ ringFullQ (queueOf (tDone false) 0) = false := by decide
/-- Command 5 of a given packet, started at 0. -/
def tCmd (op fl : Nat) (ph : Phase) (dr : Option W64) : State := updEx (fun e => { e with cmds := [{ id := 5, q := 0, pkt := tPkt op fl 1 [], phase := ph, startT := some 0, drainEnd := dr }] }) tHost
def tLate (op fl : Nat) (ph : Phase) (t : W64) : Bool := let u := (tCmd op fl ph none).at t; match findCmd u 5 with | some y => timedOut u y && fwOn u | none => false
theorem wit_TimeoutsComplete : tLate 0x10 0 .waiting 99999999 = false ∧ tLate 0x10 0 .waiting 100000000 = true ∧ tLate 0x10 0 .running 100000000 = true ∧ tLate 0x20 0x4000 .running 100000000 = true ∧
    pktKill (tPkt 0x20 0x4000 1 []) = true ∧ tLate 0x20 0 .waiting 100000000 = true ∧ pktKill (tPkt 0x20 0 1 []) = false ∧
    ((findCmd ((tCmd 0x20 0 .running (some 7)).at 7) 5).map (fun y => (y.drainEnd, y.work)) = some (some 7, .single) ∧ (7 : W64).toNat ≤ ((tCmd 0x20 0 .running (some 7)).at 7).now ∧ ((tCmd 0x20 0 .running (some 7)).at 6).now < 7) ∧
    ownedBy ((tCmd 0x20 0 .running (some 7)).at 7) 5 = true ∧ ownedBy (updEx (fun e => { e with blocks := [] }) ((tCmd 0x20 0 .running (some 7)).at 7)) 5 = false := by decide
/-- A LAUNCH of one block of one group, running; partition 0 with and without a claim old enough. -/
def tDisp (f : Option W64) : Dispatching := { code := 1, nblock := 1, groups := 1, cluster := 0, lmSize := 1024, bank0 := [], banks := [], texs := [], aff := [], noCoreSince := f }
def tLaunch (f : Option W64) : State := updEx (fun e => { e with groups := [], blocks := [], cmds := [{ id := 5, q := 0, pkt := tPkt 0x20 0 1 [], phase := .running, startT := some 0, work := .blocks (tDisp f) }] }) tHost
def tTurn : State :=
  updPart 0 (fun p => { p with turn := some 0, turnFrom := some 0, turnLen := 1 }) (updEx (fun e => { e with blocks := [tBlk, { tBlk with id := 12, core := 1, share := 1, parked := true }] }) tHost)
set_option maxRecDepth 20000 in
theorem wit_SchedulerComplete :
    ((partOf (reserveTiles (schedPart 0 (tLaunch none))) 0).en = true ∧ (candidates (reserveTiles (schedPart 0 (tLaunch none))) 0).length = 1 ∧ (match candidates (reserveTiles (schedPart 0 (tLaunch none))) 0 with
      | .cmd c :: _ => (nextNeeds c).isSome && (match nextNeeds c with | some d => !(chooseCores (reserveTiles (schedPart 0 (tLaunch none))) c (candSource (reserveTiles (schedPart 0 (tLaunch none))) 0 (.cmd c)) d).isEmpty | none => false) | _ => false) = true) ∧
    ((partOf (reserveTiles (schedPart 1 tHost)) 1).en = false) ∧
    (((findCmd ((tLaunch (some 0)).at 1000000) 5).bind nextNeeds).map (fun d => (d.bound.isEmpty, d.noCoreSince)) = some (true, some 0) ∧ (0 : W64).toNat + 1000000 ≤ ((tLaunch (some 0)).at 1000000).now ∧
      ((List.range 32).all fun i => decide ((coreOf (tLaunch (some 0)) i).claim = none)) = true ∧
      ((partCores ((tLaunch (some 0)).at 1000000) 0).find? (((findCmd ((tLaunch (some 0)).at 1000000) 5).bind nextNeeds).elim (fun _ => false) (claimable ((tLaunch (some 0)).at 1000000) 0))) = some 0) := by decide
/-- The turn of class 0, whose block is on a core and not parked. -/
def tTurn0 : State := updPart 0 (fun p => { p with turn := some 0 }) tHost
set_option maxRecDepth 20000 in
theorem wit_SchedulerTurn : (partOf (schedPart 0 (tTurn.at 5000)) 0).turn = some 0 ∧ turnOver (schedPart 0 (tTurn.at 5000)) 0 0 = true ∧
    (partOf (schedPart 0 (tTurn0.at 5)) 0).turn = some 0 ∧ turnOver (schedPart 0 (tTurn0.at 5)) 0 0 = false := by decide

/-- A command with a given packet on root queue 0; an armed island whose output 0 is a safety output and whose braid 3 is required. -/
def tJob (op c : Nat) (ws : List W32) : Cmd := { id := 5, q := 0, pkt := tPkt op 0 c ws, startT := some 0 }
def tScb : Scb :=
  { rearm := false, safeOut := 1, level := Vector.replicate 36 0, braids := tabUpd (Vector.replicate 16 { window := 0, missLim := 0, lateLim := 0, required := false }) 3 (fun b => { b with required := true })
    axes := Vector.replicate 8 { window := 0, lateLim := 0 } }
def tArmed : State := updSfi (fun x => { x with state := .armed, scb := some tScb }) (tPte 0)
theorem wit_ArmedConfigurationRefused : tArmed.sfi.state = .armed ∧
    (pktOpcode (tJob 0x70 1 [0]).pkt = 0x70 ∧ safetyAxis tArmed (fld (dw (tJob 0x70 1 [0]).pkt 8) 2 0) = true ∧ bit (dw (tJob 0x70 1 [0]).pkt 8) 5 = false) ∧
    (pktOpcode (tJob 0x72 1 [1]).pkt = 0x72 ∧ (dq (tJob 0x72 1 [1]).pkt 8).testBit 0 = true ∧ safetyOut tArmed 0 = true) ∧
    (pktOpcode (tJob 0x30 1 [3]).pkt = 0x30 ∧ pktOpcode (tJob 0x32 1 [3]).pkt = 0x32 ∧ requiredBraid tArmed (fld (dw (tJob 0x30 1 [3]).pkt 8) 3 0) = true) := by decide
/-- A host whose contexts and queues (but the root queue) are all in use. -/
def tFull : State := { tHost with ex := { tHost.ex with ctxs := Vector.replicate 64 { life := .live }, queues := Vector.replicate 256 { life := .live } } }
/-- Queue 7 of context 1, live; graph 4 of context 1, defined. -/
def tOwn : State := updGraph 4 (fun g => { g with live := true, ctx := 1 }) (updQueue 7 (fun q => { q with life := .live, ctx := 1 }) tHost)
set_option maxRecDepth 20000 in
theorem wit_ManagementPackets :
    (pktOpcode (tJob 0 1 []).pkt = 0 ∧ rootFn tHost (tJob 0xA0 0xFF [0, 0, 4096]) = 0 ∧ (partOf tHost 0).en = true ∧ dq (tJob 0xA0 0xFF [0, 0, 4096]).pkt 10 % 4096 = 0 ∧
      (ctxOf tHost 0).life = .free ∧ (ctxOf tFull 5).life = .live ∧ (ctxOf tFull 63).life = .live ∧ (partOf tHost 1).en = false) ∧
    (fld (dw (tJob 0xA2 1 [3]).pkt 8) 1 0 = 3 ∧ pktOpcode (tJob 0xA2 1 [0x40400]).pkt = 0xA2 ∧ namedLive tHost (tJob 0xA2 1 [0x40400]) = true ∧ fld (dw (tJob 0xA2 1 [0x40400]).pkt 8) 12 8 = 4 ∧
      fld (dw (tJob 0xA2 1 [0x40400]).pkt 8) 20 16 = 4 ∧ fld (dw (tJob 0xA2 1 [0x40400]).pkt 8) 29 24 < vectors (rootFn tHost (tJob 0xA2 1 [0x40400])) ∧ (queueOf tHost 1).life = .free) ∧
    (cmdCtx (tJob 0xA1 2 []) = 2 ∧ (ctxOf tHost 2).life = .free) ∧
    ((queueOf tOwn (fld (dw (tJob 0xA3 1 [7]).pkt 8) 7 0)).life = .live ∧ (queueOf tOwn 7).root = false ∧ (queueOf tOwn 7).ctx.val = cmdCtx (tJob 0xA3 1 [7])) ∧
    (8 ≤ fld (0x800 : W32) 11 8 ∧ fld (0xE00 : W32) 11 8 ≠ 15) ∧ sfiArmed tHost = false ∧
    (graphMine tOwn (fld (dw (tJob 0x43 1 [4]).pkt 8) 7 0) (cmdCtx (tJob 0x43 1 [4])) = true ∧ graphMine tOwn 3 1 = false) := by decide
/-- A waiter on the knot at Peat address 0. -/
def tWaits : State := updEx (fun e => { e with waiters := [{ cmd := 9, k := .peat 0, thr := 1 }] }) tHost
/-- Braid 3 of context 1 runs, braid 4 of context 1 and braid 5 of context 2 are stopped; braid 3's selector 0 holds model 6. -/
def tBraids : State := updBraid 3 (fun x => { x with state := .running, ctx := 1 }) (updBraid 4 (fun x => { x with state := .stopped, ctx := 1 }) (updBraid 5 (fun x => { x with state := .stopped, ctx := 2 }) tHost))
/-- What KNOT_SIGNAL and KNOT_RESET meet at Peat address 0 of context 1. -/
def tKnotAt (s : State) (f : State → Bool) : Bool := match knotAddr 1 0 .store (tJob 0x50 1 [0, 0, 7]).who.rq s with | (.ok pl, u) => pl == .peat 0 && f u | _ => false
set_option maxRecDepth 20000 in
theorem wit_WorkPackets :
    (cmdCtx (tJob 0x50 1 [0, 0, 7]) = 1 ∧ dq (tJob 0x50 1 [0, 0, 7]).pkt 8 = 0 ∧ tKnotAt tHost (fun u => match addSigs 1 [0] u with | some v => !routeDown v (.peat 0) | none => false) = true) ∧
    (dq (tJob 0x51 1 [4]).pkt 8 % 8 ≠ 0) ∧ (tKnotAt tWaits (hasWaiters (.peat 0)) = true) ∧ (tKnotAt tHost (fun u => !hasWaiters (.peat 0) u && braidKnot u (.peat 0) == none) = true) := by decide
/-- A selection record of braid 3 names model 6; a pass of queue 0 is open; graph 4 is live (tOwn). -/
def tSel : State := putSelCount 3 1 (putSelRec 3 0 (List.replicate 8 0 ++ leBytes 2 6 ++ List.replicate 22 0) (updModel 6 (fun m => { m with state := .resident, ctx := 1 }) tBraids))
def tPass : State := { tHost with gx := { tHost.gx with passes := [{ id := 3, q := 0, ctx := 1, part := 0, tilecores := 1, colours := [], depth := none }] } }
/-- A copy of one row of 16 bytes from 0 to 8, and to 16. -/
def tCopy (dst : W32) : Cmd := { tJob 0x18 1 [] with pkt := ⟨[0x02000118, 0x00010001, 0, 0, 0, 0, 0, 0, 0, 1, 0, 0, dst, 0, 16, 0, 0, 0, 0, 0, 0, 0, 0, 0]⟩ }
/-- A query of braid 3's record, 64 bytes to address 0 of context 1. -/
def tQuery : Cmd := tJob 0x01 1 [0x00030003, 0, 0, 0, 64]
set_option maxRecDepth 20000 in
theorem wit_WorkPacketsTwo :
    (copyOverlap (tCopy 8).pkt = true ∧ copyOverlap (tCopy 16).pkt = false) ∧
    ((match queryReply tQuery tHost with | .ok bs => (match writablePieces tQuery.who.ctx tQuery.who.rq (pagePieces (dq tQuery.pkt 10) (bs.take (dw tQuery.pkt 12).toNat).length) tHost with | (.ok, _) => true | _ => false) | _ => false) = true) ∧
    (fld (0x600 : W32) 10 9 = 3) ∧ tHost.mm.xl.pmt = [] ∧
    ((braidOf tBraids (fld (dw (tJob 0x31 1 [5]).pkt 8) 3 0)).state ≠ .free ∧ (braidOf tBraids 5).ctx.val ≠ cmdCtx (tJob 0x31 1 [5]) ∧ (braidOf tBraids 3).state = .running ∧ (braidOf tBraids 3).ctx.val = cmdCtx (tJob 0x31 1 [3])) ∧
    (fld (0x23 : W32) 5 4 = 2 ∧ stopChecks (tJob 0x32 1 [0x23]) tBraids = none ∧ bActive (braidOf tBraids 3) = true ∧ stopChecks (tJob 0x32 1 [0x24]) tBraids = none ∧ bActive (braidOf tBraids 4) = false) ∧
    (modelRef tSel (cmdCtx (tJob 0x39 1 [6])) (fld (dw (tJob 0x39 1 [6]).pkt 8) 9 0) = none ∧ 0 < selUses 6 tSel) ∧ ((graphOf tOwn 4).live = true) ∧
    (openPass tHost 0 = none ∧ (openPass tPass 0).isSome = true) ∧ (tHost.snap.cur = none ∧ 256 < fld (0x8080 : W32) 15 7) ∧ (presentCores .ac ≤ fld (24 : W32) 4 0) ∧ bit (0 : W32) 0 = false := by decide

/-! ### Witnesses: translation, memory, links, the domain -/

/-- Context 1's directory at Peat 0 with one table at 32768, whose entry 1 is `tEntry`; with a directory entry of fault class 1. -/
def tTree : State := writeDev false 32776 (clean (leBytes 8 tEntry.toNat)) (writeDev false 0 (clean (leBytes 8 0x8001)) tState)
def tTree1 : State := writeDev false 0 (clean (leBytes 8 4)) tState
def tXl (f : Xlu → Xlu) : State := xlUpd f tState
/-- A load of engine 0 in context 1. -/
def tMiss (va : Nat) : PmtReq := { who := .engine 0, ctx := 1, eng := some 0, va := va, kind := .load }
/-- A directory entry that is not valid, of class ZERO. -/
def tZero : State := setDevMem false ((devMem false tTree).putBytes 0 (leBytes 8 8)) tTree
set_option maxRecDepth 20000 in
theorem wit_TranslationEventsComplete :
    (engPresent tState.part 0 = true ∧ engPresent tState.part 33 = true ∧ engPresent .ac 31 = false) ∧ ((ctxOf tTree 1).life ≠ .free ∧ (65536 : W64).toNat < 2 ^ 40 ∧ (65536 : W64).toNat / 65536 ≠ knotPage ∧ tlbFind tTree.mm.xl.tlb 1 1 = none ∧
      (match walk 1 65536 .load tTree with | (.ok _ _, _) => true | _ => false) = true) ∧
    (tlbFind tTree1.mm.xl.tlb 1 1 = none ∧ (match walk 1 65536 .load tTree1 with | (.fault _ cls _ _, _) => cls == 1 | _ => false) = true) ∧
    (tlbFind tState.mm.xl.tlb 1 1 = none ∧ (match walk 1 65536 .load tState with | (.fault _ cls _ _, _) => cls == 0 | _ => false) = true ∧ neverWaits 0 = false ∧ neverWaits 33 = true) ∧
    (missAhead (tMiss 65536) tTree = none ∧ missAhead (tMiss 65536) tState = none ∧ (missAhead (tMiss 65536) (stallFault 0 true 0 none (tMiss 65540) tState)).isSome = true) ∧
    ((match walk 1 65536 .load tZero with | (.fault _ cls _ _, _) => cls == 2 | _ => false) = true ∧ tlbFind tZero.mm.xl.tlb 1 1 = none ∧ missAhead (tMiss 65536) tZero = none) ∧
    (((invalStart 1 0 1 [] [] none tState).2.mm.xl.invals.find? (·.id == 0)).isSome = true ∧ holding tState = false) ∧
    (bit tState.mm.xl.fqbase 0 = false ∧ bit (0x1001 : W64) 0 = true ∧ bit (tXl fun x => { x with fqbase := 0x2001 }).mm.xl.fqbase 0 = true) ∧
    ((tState.mm.xl.tail - (0 : W32)).toNat ≤ 2 ^ fqSize tState.mm.xl ∧ 2 ^ fqSize tState.mm.xl < (tState.mm.xl.tail - (1 : W32)).toNat) ∧
    ((tXl fun x => { x with scanning := true }).mm.xl.scanning = true ∧ tState.mm.xl.scanning = false ∧ bit (0x8000000000000000 : W64) 63 = true ∧ tState.mm.xl.walksPend = [] ∧ tState.mm.xl.heldCnt = [] ∧
      tState.ex.cmds = []) ∧
    ((tXl fun x => { x with walksPend := [(0, {})] }).mm.xl.walksPend = [(0, {})] ∧ tState.mm.xl.scanPending = false) := by decide
/-- A good word, a word with one bit wrong at Peat 0; the test registers at Peat word 0 and beyond Peat; every unit's lap done. -/
def tFlip : State := setDevMem false ((devMem false tState).putMark 0 (some (.raw (secdedCheck 0 ^^^ 1)))) tState
theorem wit_correctedWord : (wordFound 0 (some (.raw (secdedCheck 0 ^^^ 1)))).2 = .corrected := by
  have n1 : ∀ x : Byte, ¬ x = x ^^^ 1 := by decide
  have n2 : ∀ x : Byte, ¬ ~~~x = x ^^^ 1 := by decide
  have n3 : ∀ x : Byte, (List.range 8).any (fun i => x == (x ^^^ 1) ^^^ (1#8 <<< i)) = true := by decide
  unfold wordFound
  dsimp only
  rw [if_neg (n1 _), if_neg (n2 _)]
  have f : (secdedFix 0 (secdedCheck 0 ^^^ 1)).isSome = true := by
    unfold secdedFix
    split
    · rfl
    · rw [if_pos (n3 _)]; rfl
  obtain ⟨y, hy⟩ := Option.isSome_iff_exists.mp f
  rw [hy]
theorem wit_flippedWord : storedData false 0 tFlip = 0 ∧ (pairGet (devMem false tFlip).marks 0).isSome = true := by decide
def tLap : State := ctlUpd (fun c => { c with scrubCnt := Vector.replicate 36 1572864 }) tState
set_option maxRecDepth 20000 in
theorem wit_MemoryMaintenanceComplete :
    (bit tState.mm.ctl.ctrl (b2n false) = true ∧ unitOn tState 0 = true ∧ 0 < unitWords tState 0 ∧ (wordFound (storedData false 0 tState) (pairGet (devMem false tState).marks 0)).2 = .good ∧
      tabD tState.mm.ctl.scrubPos 0 0 = 0 ∧ tabD tFlip.mm.ctl.scrubPos 0 0 = 0) ∧ (unitOn tState 32 = false) ∧
    (lapUnits false (tLap.at 3) ≠ [] ∧ (lapUnits false (tLap.at 3)).all (fun i => decide (unitWords (tLap.at 3) i ≤ tabD tLap.mm.ctl.scrubCnt i 0)) = true) ∧
    (testWord tState = some (false, 0) ∧ testWord (ctlUpd (fun c => { c with testAddr := 0x7FFFFFFF8 }) tState) = none) := by decide

/-- Link 0 up; the same with 16 failed replays; the domain of size 2 as device 0 with barrier 3 arrived at and withdrawn from. -/
def tLink (n : Nat) : State := updLink 0 (fun l => { l with up := true, failRun := n }) tState
def tDom : State := updDom (fun d => { d with member := true, size := 2, id := 0, arrived := [3], withdrawn := [3] }) (tLink 0)
/-- Link 0 sends a flit until time 8, and one more waits. -/
def tBusy : State := updLink 0 (fun l => { l with up := true, busy := 16, txq := [.data] }) tState
set_option maxRecDepth 20000 in
theorem wit_LinkEventsComplete :
    ((linkOf (tLink 0) 0).up = true) ∧ (17 ≤ (linkOf (tLink 17) 0).failRun ∧ (linkOf (tLink 16) 0).failRun < 17 ∧ (linkOf (tLink 16) 0).againRun < 17) ∧
    ((linkOf (tLink 0) 0).lastFlit.toNat + 10000 ≤ ((tLink 0).at 10000).now ∧ ((tLink 0).at 9999).now < (linkOf (tLink 0) 0).lastFlit.toNat + 10000) ∧
    (linksPresent tState.part = true ∧ bit (1 : W32) 0 = true ∧ bit (1 : W32) 1 = false ∧ bit (0 : W32) 0 = false) ∧
    ((linkOf tState 0).en = true ∧ pdOf tState 58 = .on ∧ (linkOf tState 0).up = false ∧ peerOk tState 0 5 = true) ∧
    ((linkOf (updDom (fun d => { d with member := true, size := 2, id := 0 }) tState) 0).up = false ∧ (List.range 4).any (fun k => !peerOk (updDom (fun d => { d with member := true, size := 2, id := 0 }) tState) k 5) = true) ∧
    (2 * (tBusy).now < (linkOf tBusy 0).busy ∧ (linkOf tBusy 0).txq ≠ []) := by decide
def tReq (st : Bool) : State := updDom (fun d => { d with reqs := [{ id := 7, link := 0, dev := 1, isStore := st, group := none, cmd := none, dst := [], issued := 0 }] }) (tLink 0)
set_option maxRecDepth 20000 in
theorem wit_RemoteAndBarrierEventsComplete :
    ((linkOf (tLink 0) 0).up = true ∧ (partOf (tLink 0) 0).en = true ∧ inPartition (tLink 0) 0 false ((0 : BitVec 27).toNat * 65536 + (8 : BitVec 16).toNat) (opBytes (.load 8)) = true) ∧
    ((partOf (tLink 0) 1).en = false ∧ inPartition (tLink 0) 0 true (0x7FFFFFF * 65536) 8 = false ∧ guestKnots tDom ((knotFrame tDom - 1) * 65536) = true ∧ guestKnots tDom (knotFrame tDom * 65536) = false) ∧
    ((findReq (tReq false) 7).map (·.isStore) = some false ∧ (findReq (tReq true) 7).map (·.isStore) = some true ∧ (findReq (tReq false) 6).isNone = true) ∧
    ((findReq ((tReq false).at 50000) 7).map (·.issued) = some 0 ∧ (findReq ((tReq true).at 50000) 7).map (·.isStore) = some true ∧ 0 + 50000 ≤ ((tReq true).at 50000).now ∧ ((tReq true).at 49999).now < 0 + 50000 ∧
      (findReq ((tReq true).at 49999) 7).isSome = true) ∧
    ((3 : BitVec 8) ∈ tDom.dom.arrived ∧ (3 : BitVec 8) ∈ tDom.dom.withdrawn ∧ tDom.dom.member = true ∧ tState.dom.member = false) := by decide
/-! ### Witnesses: power, rails, boot, snapshots, the test port -/

def tPwr (st : PState) (w : W64) : State := { tHost with pwr := { tHost.pwr with state := st, wakeTimer := w } }
def tWisp (v : W32) : State := updWisp (fun w => { w with ctrl := v, pins := Vector.replicate 8 1 }) tHost
set_option maxRecDepth 20000 in
theorem wit_PowerAndWakeComplete :
    (pwrCode tHost.pwr.state < pwrCode (pwrTarget tHost) ∧ pwrCode tHost.pwr.state ≤ 2 ∧ .run ≠ pwrTarget tHost) ∧ (((setBits (0x0A : BitVec 7)).map (· + 1)).filter (wakeIn (tPwr .nap 0).pwr.state) = [2, 4]) ∧
    (tHost.pwr.state = .run ∧ (tPwr .nap 0).pwr.state ≠ .run ∧ (tPwr .nap 0).pwr.state ≠ .idle) ∧ ((tPwr .doze 50).pwr.state = .doze ∧ (tPwr .doze 50).pwr.wakeTimer.toNat ≤ ((tPwr .doze 50).at 50).now ∧
      ((tPwr .doze 50).at 49).now < (tPwr .doze 50).pwr.wakeTimer.toNat) ∧
    (bit tHost.wisp.ctrl 0 = false ∧ bit (tWisp 3).wisp.ctrl 0 = true ∧ bit (tWisp 3).wisp.ctrl 1 = true ∧ bit (tabD (tWisp 3).wisp.pins 5 0) 0 = true ∧ bit (tabD (tWisp 3).wisp.rules 3 0) 31 = false ∧
      barOn (tWisp 3) 0 = true ∧ barOn tHost 0 = true ∧ bit (2 : W32) 0 = false) := by decide
def tAvs (r : AvsReq) (tj : Int) (st : Fin 5) : State := { State.reset with avs := { State.reset.avs with req := Vector.replicate 2 r }, therm := { State.reset.therm with tj := tj, step := st } }
theorem wit_RailsAndThermalComplete :
    (tabD (tAvs (.sent 700 4) 25 0).avs.req 0 .idle = .sent 700 4 ∧ tabD (tAvs (.sent 700 3) 25 0).avs.req 1 .idle = .sent 700 3 ∧ tabD (tAvs (.settling 700) 25 0).avs.req 0 .idle = .settling 700 ∧
      tabD (tAvs .idle 25 0).avs.req 0 .idle = .idle) ∧
    (100 ≤ (tAvs .idle 100 3).therm.tj ∧ (tAvs .idle 100 3).therm.step.val < 4 ∧ (tAvs .idle 95 1).therm.tj ≤ 95 ∧ 0 < (tAvs .idle 95 1).therm.step.val ∧ 95 < (tAvs .idle 97 1).therm.tj ∧ (tAvs .idle 97 1).therm.tj < 100) := by decide

def tRec (p : Bool) : State := { State.reset with st := { State.reset.st with shutRec := some (testRec p 0 []) } }
/-- STAGE 2 with the link up; a shutdown test in progress; a slice of command 5 on core 0, with its block and without. -/
def tStage2 : State := { tHost with boot := { tHost.boot with stage := 2 } }
def tSlice : State := updEx (fun e => { e with blocks := [], cmds := [{ tJob 0xC0 1 [] with phase := .running, work := .slice 0 7 }] }) tHost
set_option maxRecDepth 20000 in
theorem wit_BootAndSelfTestComplete :
    (State.reset.boot.stage = 0 ∧ State.reset.sfi.keeper = false ∧ (tRec true).st.shutRec = some (testRec true 0 []) ∧ (testRec true 0 []).pass = true ∧ State.reset.st.shutRec = none ∧ (testRec true 1 []).pass = false) ∧
    (barOn tStage2 0 = true ∧ bit (1 : W32) 0 = true ∧ tStage2.boot.stage = 2 ∧ tHost.boot.stage ≠ 2) ∧
    (imageErr tStage2.fuses tStage2.boot.size.toNat (dataOf (hostReadP 0 tStage2.boot.img.toNat (min tStage2.boot.size.toNat imageMax) tStage2).1) (anyPoison (hostReadP 0 tStage2.boot.img.toNat (min tStage2.boot.size.toNat imageMax) tStage2).1) ≠ 0) ∧
    ((updSt (fun x => { x with testing := true }) tHost).st.testing = true ∧ tHost.st.testing = false) ∧ (sliceOf (tSlice.at 9) 0 = some (5, 7) ∧ blocksOn (tSlice.at 9) 0 = [] ∧ (tSlice.at 9).gx.passes.any (keptBy · 0) = false ∧ sliceOf (tSlice.at 9) 1 = none) := by decide
/-- A snapshot at PTE time 100, and one that has triggered. -/
def tSnapAt (trig : Bool) : State := updSnap (fun x => { x with cur := some { cmd := none, ctx := 1, trigger := 1, axis := 0, rev := false, tp := 100, domain := false, buf := 0, knots := [], triggered := trig } }) tHost
set_option maxRecDepth 20000 in
theorem wit_SnapshotEventsComplete :
    ((tSnapAt false).snap.cur.map (fun c => (c.triggered, snapDue ((tSnapAt false).at 100) c, snapDue ((tSnapAt false).at 99) c)) = some (false, true, false)) ∧ (tHost.snap.cur = none) ∧
    ((tSnapAt true).snap.cur.map (·.triggered) = some true ∧ holding (tSnapAt true) = true ∧ fwOn (tSnapAt true) = true) ∧ (tDom.dom.member = true ∧ tDom.snap.cur = none ∧ (ctxOf tDom 1).life = .live ∧ tHost.dom.member = false) := by decide
theorem wit_TestPortComplete : testAssigned 0x77 = false ∧ testAssigned 0x10 = true ∧ tArmed.sfi.state = .armed ∧ State.reset.sfi.state ≠ .armed ∧ State.reset.sfi.state ≠ .arming := by decide
theorem wit_IntegerArithmeticWraps : ∃ x b, Issues tState 11 0x0300000C08048001 0 1 (fun _ => true) x b ∧ decide (iOp 0x0300000C08048001 ≤ 2 ∧ iType 0x0300000C08048001 = 3) = true :=
  let ⟨x, b, h, _⟩ := issB_spec (s := tState) (g := 11) (w := 0x0300000C08048001) (ext := 0) (cls := 1) (ops := fun _ => true) (p := fun _ _ => true) (by decide)
  ⟨x, b, h, by decide⟩
/-- Rule 0 on filter 0, a level filter of pin 0 that is warm and high: the evaluation fires (21 R595-R597); without its enable it does not. -/
def tRule (en : W32) : State :=
  updWisp (fun w => { w with ctrl := 1, filts := Vector.replicate 8 { cfg := 0x0000000100000001, value := 1, produced := 1 }, levels := Vector.replicate 8 true, rules := tabUpd w.rules 0 (fun _ => en + 1) }) tHost
def tRuleAt (en : W32) : Nat × Bool := ruleStep (tRule en).wisp 0
set_option maxRecDepth 20000 in
theorem test_ruleFires : (tRuleAt 0x80000000).1 = 1 ∧ (tRuleAt 0x80000000).2 = true ∧ (tRuleAt 0).2 = false ∧ (tRuleAt 0x80020000).1 = 1 ∧ (tRuleAt 0x80020000).2 = false := by decide
/-- The word 5 at Peat 0. -/
def tWord5 : State := writeDev false 0 (clean (leBytes 8 5)) State.reset
theorem wit_KnotSignalTakesMaximum : knotRead 0 (.peat 0) tWord5 = (5, false, tWord5) ∧ hasWaiters (.peat 0) tWord5 = false ∧ bit (0x8000000000000001 : W64) 63 = true ∧ (4 : W64).toNat < knotVal 5 ∧
    (5 : W64).toNat = knotVal 5 ∧ bit (6 : W64) 63 = false ∧ knotVal 5 < (6 : W64).toNat ∧ braidKnot tWord5 (.peat 0) = none := by
  refine ⟨?_, by decide, by decide, by decide, by decide, by decide, by decide, by decide⟩
  have h : readDev false 0 8 tWord5 = ((readDev false 0 8 tWord5).1, tWord5) := rfl
  have e : (readDev false 0 8 tWord5).1 = clean (leBytes 8 5) := by decide
  unfold knotRead readPlace
  dsimp only
  rw [h, e]
  rfl
/-! ### Ill-formed terms, one for each check of WellFormed.lean -/

theorem test_illPacketSlots : (Instr.nop 0 ⟨[0x01000100]⟩).ill = some .packetSlots ∧ (Instr.nop 0 ⟨[]⟩).ill = some .packetSlots := by decide
theorem test_illPacketRow : (Instr.nop 0 (tPkt 0x20 0 1 [])).ill = some .packetRow ∧ (Instr.braidStopHalt 0 (tPkt 0x32 0 1 [0x20])).ill = some .packetRow ∧
    (Instr.braidStopHalt 0 (tPkt 0x32 0 1 [0x10])).wf = true := by decide
theorem test_illInstrRow : (Instr.bar 0 0x801A 0).ill = some .instrRow ∧ (Instr.cbar 0 0x801A 0).wf = true ∧ (Instr.ldg 0 0x0200000008048005 0).ill = some .instrRow := by decide
theorem test_illExtWord : (Instr.bar 0 0x800A 1).ill = some .extWord := by decide
theorem test_illAlign : (Instr.registerWrite 0 0x1004 8 0).ill = some .align ∧ (Instr.registerWrite 0 0x1004 4 0).wf = true ∧ (Instr.lowerWordRead 0x1002).ill = some .align := by decide
theorem test_illEmpty : (Instr.bar2Read 0 0 0).ill = some .empty ∧ (Instr.bar2Write 0 0 []).ill = some .empty ∧ (Instr.tjSample [] 0).ill = some .empty := by decide
theorem test_illPayload : (Instr.messageDone 0 .done (List.replicate 17 0)).ill = some .payload ∧ (Instr.messageDone 0 .done (List.replicate 16 0)).wf = true ∧
    (Instr.domainSnapshotStart 0 0 0 257 0 0).ill = some .payload ∧ (Instr.axHostposWrite 0 .lower 0x100000000).ill = some .payload := by decide

/-! ### Values of the spec's own examples -/

/-- 04, Table 4.21, step 3: v16 := v0 × v8 + 0 in EK8b, valid with VREGS = 24; steps 4 to 12 name v16 as SC. -/
theorem test_mmaWord : iCls 0x3303FC2000408018 = 8 ∧ iOp 0x3303FC2000408018 = 1 ∧ iPred 0x3303FC2000408018 = 8 ∧ iDst 0x3303FC2000408018 = 0x10 ∧ iSa 0x3303FC2000408018 = 0 ∧
    iSb 0x3303FC2000408018 = 8 ∧ iSc 0x3303FC2000408018 = 0xFF ∧ wordOk 24 0x3303FC2000408018 0 = true ∧ iSc 0x3300402000408018 = 0x10 ∧ wordOk 24 0x3300402000408018 0 = true ∧
    leBytes 8 0x3300402000408018 = [0x18, 0x80, 0x40, 0x00, 0x20, 0x40, 0x00, 0x33] := by decide
/-- 04, step 13: MST v16, base u4, stride u6, scale u7; bias at u8, clip none. -/
theorem test_mstWord : iCls 0x83541C1810428028 = 8 ∧ iOp 0x83541C1810428028 = 2 ∧ iExt 0x83541C1810428028 = true ∧ iDst 0x83541C1810428028 = 0x10 ∧ iSa 0x83541C1810428028 = 4 ∧ iKa 0x83541C1810428028 = 1 ∧
    iSb 0x83541C1810428028 = 6 ∧ iKb 0x83541C1810428028 = 1 ∧ iSc 0x83541C1810428028 = 7 ∧ wordOk 24 0x83541C1810428028 0xFF08 = true := by decide
/-- 04, R165: the three synchronisation words. -/
theorem test_syncWords : (Instr.bar 0 0x800A 0).wf = true ∧ (Instr.cbar 0 0x801A 0).wf = true ∧ (Instr.fence 0 0x780000000000802A 0).wf = true ∧ wordOk 8 0x800A 0 = true ∧ wordOk 8 0x801A 0 = true ∧
    wordOk 8 0x780000000000802A 0 = true ∧ wordOk 8 0x802A 0 = false := by decide
/-- 12, "A launch that outlives its timeout": DW0 to DW2. -/
theorem test_launchHeader : let p : Pkt := ⟨[0x03009120, 0x00050042, 0x00004E20]⟩
    pktLength p = 3 ∧ pktOpcode p = 0x20 ∧ pktIrq p = true ∧ pktSignal p = true ∧ pktKill p = false ∧ pktOverlap p = false ∧ pktContext p = 5 ∧ pktTag p = 0x42 ∧ pktTimeoutNs p = 20000000 := by decide
/-- 14, after Table 14.7: DW11 = 0x20C1 and frame 0x4005 give leaf entry 0x4005_0183. -/
theorem test_mapEntry : (mapF ⟨List.replicate 11 0 ++ [0x20C1]⟩).entry 0x4005 = 0x40050183 ∧ (mapF ⟨List.replicate 11 0 ++ [0x20C1]⟩).contig = true := by decide
/-- 16: four channels of 4 GiB give 14,332 MiB (R540), and 0x1_0000_0040 lies in unit 32 (R539). -/
theorem test_lpddr : let s := ctlUpd (fun c => { c with chmask := 0xF, mibPerCh := 4096 }) State.reset
    lpddrMib s = 14332 ∧ eccUnit s true 0x100000040 = 32 ∧ eccUnit s true 0x100001040 = 33 := by decide
/-- 02, Table 2.5: cycle 5's boundary at 87.0 ms and P = 20 ms put AX2 at 18,054 counts at 87.3 ms. -/
theorem test_mainsPosition : axPos { cfg := 3, mode := .locked, k := 5, te := 87000000, ivals := [20000000, 20000000, 20000000, 20000000] } 87300000 = 18054 * 65536 := by decide

end Sys2Proof.Machine
end

/-! The interrupt concentrator's target commands (11 R414, R416, R417): the winner is the eligible source that outranks
every other, and what CLAIM and COMPLETE make of it. -/
namespace Sys2Proof.Machine

/-! ### The winner of a target (R414) -/

section Winner
variable {icn : Icn} {t thr : Nat}

/-- Source `n` is eligible for target `t` of THRESHOLD `thr`. -/
def SrcEligible (icn : Icn) (t thr n : Nat) : Prop := icnEligible t thr n (tabD icn.srcs n {}) = true

/-- Source `n` comes before source `m`: a higher PRIO, or the same and a number not above. -/
def SrcOutranks (icn : Icn) (n m : Nat) : Prop :=
  (tabD icn.srcs m {}).prio.toNat < (tabD icn.srcs n {}).prio.toNat ∨ ((tabD icn.srcs m {}).prio = (tabD icn.srcs n {}).prio ∧ n ≤ m)

/-- `o` is R414's winner among the sources below `k`: none of them eligible, or the eligible one that outranks the others. -/
def WinsBelow (icn : Icn) (t thr k : Nat) : Option Nat → Prop
  | none => ∀ m, m < k → icnEligible t thr m (tabD icn.srcs m {}) = false
  | some n => n < k ∧ SrcEligible icn t thr n ∧ ∀ m, m < k → SrcEligible icn t thr m → SrcOutranks icn n m

/-- One step of `icnWinner`'s scan: source `n` against the best found before it. -/
def scanStep (icn : Icn) (t thr : Nat) (o : Option Nat) (n : Nat) : Option Nat :=
  let c := tabD icn.srcs n {}
  if icnEligible t thr n c then
    match o with
    | none => some n
    | some m => if (tabD icn.srcs m {}).prio.toNat < c.prio.toNat then some n else some m
  else o

theorem icnWinner_eq_scan (icn : Icn) (t : Nat) :
    icnWinner icn t = (List.range 256).foldl (scanStep icn t (fld (tabD icn.tgts t {}).cfg 3 0)) none := by
  unfold icnWinner scanStep
  rfl

theorem SrcOutranks.refl (icn : Icn) (n : Nat) : SrcOutranks icn n n := .inr ⟨rfl, le_rfl⟩

theorem SrcOutranks.trans {a b c : Nat} (h : SrcOutranks icn a b) (k : SrcOutranks icn b c) : SrcOutranks icn a c := by
  unfold SrcOutranks at *
  simp only [← BitVec.toNat_inj] at *
  omega

theorem SrcOutranks.antisymm {a b : Nat} (h : SrcOutranks icn a b) (k : SrcOutranks icn b a) : a = b := by
  unfold SrcOutranks at *
  simp only [← BitVec.toNat_inj] at *
  omega

/-- A source that the earlier one does not exceed in PRIO is outranked by it. -/
theorem SrcOutranks.of_not_lt {m n : Nat} (hmn : m < n) (h : ¬(tabD icn.srcs m {}).prio.toNat < (tabD icn.srcs n {}).prio.toNat) :
    SrcOutranks icn m n := by
  unfold SrcOutranks
  simp only [← BitVec.toNat_inj]
  omega

theorem scanStep_ineligible {n : Nat} (o : Option Nat) (h : ¬SrcEligible icn t thr n) : scanStep icn t thr o n = o := if_neg h

theorem scanStep_eligible_none {n : Nat} (h : SrcEligible icn t thr n) : scanStep icn t thr none n = some n := if_pos h

theorem scanStep_eligible_some {m n : Nat} (h : SrcEligible icn t thr n) : scanStep icn t thr (some m) n =
    if (tabD icn.srcs m {}).prio.toNat < (tabD icn.srcs n {}).prio.toNat then some n else some m := if_pos h

/-- An ineligible source `k` leaves the winner as it was. -/
theorem WinsBelow.succ_ineligible {k : Nat} {o : Option Nat} (hk : ¬SrcEligible icn t thr k) (h : WinsBelow icn t thr k o) :
    WinsBelow icn t thr (k + 1) o := by
  cases o with
  | none =>
    intro m hm
    rcases Nat.lt_succ_iff_lt_or_eq.mp hm with hlt | rfl
    · exact h m hlt
    · exact Bool.eq_false_iff.mpr hk
  | some n =>
    obtain ⟨hn, he, hbest⟩ := h
    refine ⟨Nat.lt_succ_of_lt hn, he, fun m hm hm' => ?_⟩
    rcases Nat.lt_succ_iff_lt_or_eq.mp hm with hlt | rfl
    · exact hbest m hlt hm'
    · exact absurd hm' hk

/-- Of an eligible source `k` and the winner so far, the one that outranks the other wins. -/
theorem WinsBelow.succ_some {k n w : Nat} (h : WinsBelow icn t thr k (some n)) (hw : w < k + 1) (he : SrcEligible icn t thr w)
    (hn : SrcOutranks icn w n) (hk : SrcOutranks icn w k) : WinsBelow icn t thr (k + 1) (some w) := by
  obtain ⟨-, -, hbest⟩ := h
  refine ⟨hw, he, fun m hm hm' => ?_⟩
  rcases Nat.lt_succ_iff_lt_or_eq.mp hm with hlt | rfl
  · exact hn.trans (hbest m hlt hm')
  · exact hk

theorem WinsBelow.succ_scanStep {k : Nat} {o : Option Nat} (h : WinsBelow icn t thr k o) :
    WinsBelow icn t thr (k + 1) (scanStep icn t thr o k) := by
  by_cases hk : SrcEligible icn t thr k
  · cases o with
    | none =>
      rw [scanStep_eligible_none hk]
      refine ⟨k.lt_succ_self, hk, fun m hm hm' => ?_⟩
      rcases Nat.lt_succ_iff_lt_or_eq.mp hm with hlt | rfl
      · exact absurd hm' (Bool.eq_false_iff.mp (h m hlt))
      · exact .refl ..
    | some n =>
      rw [scanStep_eligible_some hk]
      obtain ⟨hn, he, -⟩ := id h
      split
      case isTrue hlt => exact h.succ_some k.lt_succ_self hk (.inl hlt) (.refl ..)
      case isFalse hge => exact h.succ_some (Nat.lt_succ_of_lt hn) he (.refl ..) (.of_not_lt hn hge)
  · rw [scanStep_ineligible o hk]
    exact h.succ_ineligible hk

/-- The scan of the first `k` sources finds the winner among them. -/
theorem winsBelow_scan (icn : Icn) (t thr k : Nat) : WinsBelow icn t thr k ((List.range k).foldl (scanStep icn t thr) none) := by
  induction k with
  | zero => exact fun m hm => absurd hm m.not_lt_zero
  | succ k ih =>
    rw [List.range_succ, List.foldl_append]
    exact ih.succ_scanStep

theorem WinsBelow.unique {k : Nat} {o p : Option Nat} (h : WinsBelow icn t thr k o) (h' : WinsBelow icn t thr k p) : o = p := by
  have clash : ∀ {n}, WinsBelow icn t thr k none → ¬WinsBelow icn t thr k (some n) :=
    fun hnone ⟨hn, he, _⟩ => absurd he (Bool.eq_false_iff.mp (hnone _ hn))
  match o, p with
  | none, none => rfl
  | none, some _ => exact absurd h' (clash h)
  | some _, none => exact absurd h (clash h')
  | some n, some m =>
    obtain ⟨hn, hen, hbn⟩ := h
    obtain ⟨hm, hem, hbm⟩ := h'
    exact congrArg some ((hbn m hm hem).antisymm (hbm n hn hen))

/-- `icnWinner` answers R414's winner and nothing else. -/
theorem icnWinner_eq_iff {o : Option Nat} (hthr : thr = fld (tabD icn.tgts t {}).cfg 3 0) :
    icnWinner icn t = o ↔ WinsBelow icn t thr 256 o := by
  have hscan : WinsBelow icn t thr 256 (icnWinner icn t) := by
    rw [icnWinner_eq_scan, ← hthr]
    exact winsBelow_scan ..
  exact ⟨fun h => h ▸ hscan, hscan.unique⟩

end Winner

/-! ### CLAIM (R416) and COMPLETE (R417) -/

section TargetCommands
variable {s : State} {t : Fin 9} {v : W32}

theorem exec_icnClaim_of_barOn (h : barOn s t = true) : exec (.icnClaim t) s = .next (icnSettle (claim t s)) := by
  rw [exec_icnClaim, execIcnClaim, if_pos h, done_eq]

theorem exec_icnComplete_of_barOn (h : barOn s t = true) : exec (.icnComplete t v) s = .next (icnSettle (complete t v s)) := by
  rw [exec_icnComplete, execIcnComplete, if_pos h, done_eq]

theorem claim_of_winner {t n : Nat} (h : icnWinner s.hi.icn t = some n) : claim t s =
    { s with readData := BitVec.ofNat 64 n, hi := { s.hi with icn := { s.hi.icn with
      tgts := tabUpd s.hi.icn.tgts t (fun x => { x with outstanding := false }),
      srcs := tabUpd s.hi.icn.srcs n (fun c => { c with active := true, pending := false }) } } } := by
  simp only [claim, h]
  rfl

theorem claim_of_no_winner {t : Nat} (h : icnWinner s.hi.icn t = none) : claim t s =
    { s with readData := if (tabD s.hi.icn.tgts t {}).outstanding then 1023 else 1022, hi := { s.hi with icn := { s.hi.icn with
      tgts := tabUpd s.hi.icn.tgts t (fun x => { x with outstanding := false }) } } } := by
  simp only [claim, h, apply_ite (BitVec.ofNat 64)]
  rfl

/-- COMPLETE updates the named source by any function that agrees with R417 on that source's entry. -/
theorem complete_eq_of_entry {t : Nat} (g : IcnSrc → IcnSrc) {c : IcnSrc} (hc : c = tabD s.hi.icn.srcs (fld v 9 0) {})
    (h : (if c.active && icnTargetOf c == t then { c with active := false } else c) = g c) : complete t v s =
    { s with hi := { s.hi with icn := { s.hi.icn with srcs := tabUpd s.hi.icn.srcs (fld v 9 0) g } } } :=
  congrArg (fun srcs => ({ s with hi := { s.hi with icn := { s.hi.icn with srcs := srcs } } } : State)) (tabUpd_congr _ _ {} (hc ▸ h))

theorem complete_of_active {t : Nat} {c : IcnSrc} (hc : c = tabD s.hi.icn.srcs (fld v 9 0) {}) (ha : c.active = true)
    (ht : icnTargetOf c = t) : complete t v s =
    { s with hi := { s.hi with icn := { s.hi.icn with srcs := tabUpd s.hi.icn.srcs (fld v 9 0) (fun c => { c with active := false }) } } } :=
  complete_eq_of_entry (fun c => { c with active := false }) hc (if_pos (by simp [ha, ht]))

theorem complete_of_not_active {t : Nat} {c : IcnSrc} (hc : c = tabD s.hi.icn.srcs (fld v 9 0) {}) (h : c.active = false ∨ icnTargetOf c ≠ t) :
    complete t v s = s := by
  rw [complete_eq_of_entry (fun c => c) hc (if_neg (by simpa [imp_iff_not_or] using h)), tabUpd_id]

/-- A source that was ACTIVE and is still PENDING is eligible once ACTIVE is clear (R417). -/
theorem icnEligible_inactive {thr n : Nat} {c : IcnSrc} (he : c.en = true) (hp : icnPending n c = true) (hthr : thr < c.prio.toNat) :
    icnEligible (icnTargetOf c) thr n { c with active := false } = true :=
  (elig_iff ..).mpr ⟨he, hp, rfl, hthr, rfl⟩

end TargetCommands

/-- Settles O40: the scan over the sources keeps the winner among those it has passed; CLAIM and COMPLETE by their cases. -/
theorem concentratorCommandsComplete : Obligations.ConcentratorCommandsComplete := by
  intro s t v thr hbar hthr
  refine ⟨elig_iff _ _, fun n => icnWinner_eq_iff hthr, icnWinner_eq_iff hthr, fun n hw => ?winner, fun d hw hd => ?noWinner,
    fun n c hn hc ha ht => ⟨?active, fun he hp hprio => ?again⟩, fun c hc hna => ?other⟩
  case winner => rw [exec_icnClaim_of_barOn hbar, claim_of_winner hw]
  case noWinner => rw [exec_icnClaim_of_barOn hbar, claim_of_no_winner hw, hd]
  case active =>
    subst hn
    rw [exec_icnComplete_of_barOn hbar, complete_of_active hc ha ht]
  case again => exact ht ▸ icnEligible_inactive he hp hprio
  case other => rw [exec_icnComplete_of_barOn hbar, complete_of_not_active hc hna]

end Sys2Proof.Machine

/-! What the armed SFI locks (19 R616): AXIS_CONFIG of a safety axis, OUT_CONFIG of a safety output, BRAID_DEFINE and BRAID_STOP
of a REQUIRED braid. -/
namespace Sys2Proof.Machine

section ArmedLock
variable {s : State} {c : Cmd}

theorem sfiArmed_iff : sfiArmed s = true ↔ s.sfi.state = .armed ∨ s.sfi.state = .arming := by
  simp [sfiArmed]

/-- The range of AXIS_CONFIG that is checked before R616: a generator would run on an axis that is disabled at the end of the
step (R439, log 60). -/
def runsOnDisabledAxis (c : Cmd) (s : State) : Bool :=
  bit (dw c.pkt 8) 5 && bit (dw c.pkt 8) 8 &&
    !(if fld (dw c.pkt 18) 3 1 = fld (dw c.pkt 8) 2 0 then bit (dw c.pkt 8) 3 else axEn (axis s (fld (dw c.pkt 18) 3 1)))

theorem runsOnDisabledAxis_eq_false_iff : runsOnDisabledAxis c s = false ↔
    bit (dw c.pkt 8) 5 = false ∨ bit (dw c.pkt 8) 8 = false ∨
      (fld (dw c.pkt 18) 3 1 = fld (dw c.pkt 8) 2 0 ∧ bit (dw c.pkt 8) 3 = true) ∨
      (fld (dw c.pkt 18) 3 1 ≠ fld (dw c.pkt 8) 2 0 ∧ axEn (axis s (fld (dw c.pkt 18) 3 1)) = true) := by
  unfold runsOnDisabledAxis
  by_cases hself : fld (dw c.pkt 18) 3 1 = fld (dw c.pkt 8) 2 0 <;> simp [hself, imp_iff_not_or, or_assoc]

theorem startAxisConfig_of_locked (hrun : runsOnDisabledAxis c s = false) (harm : sfiArmed s = true)
    (hsafe : safetyAxis s (fld (dw c.pkt 8) 2 0) = true) : startAxisConfig c s = (.ended St.safetyLocked, s) := by
  have hrange : ¬ runsOnDisabledAxis c s = true := Bool.eq_false_iff.mp hrun
  exact (if_neg hrange).trans (if_pos (Bool.and_eq_true_iff.mpr ⟨harm, hsafe⟩))

theorem any_safetyOut_of_mask {mask o : Nat} (ho : o < 36) (hmask : mask.testBit o = true) (hsafe : safetyOut s o = true) :
    ((List.range 36).filter fun o => mask.testBit o).any (safetyOut s) = true :=
  List.any_eq_true.mpr ⟨o, List.mem_filter.mpr ⟨List.mem_range.mpr ho, hmask⟩, hsafe⟩

theorem startOutConfig_of_locked (harm : sfiArmed s = true)
    (hsafe : ∃ o, o < 36 ∧ (dq c.pkt 8).testBit o = true ∧ safetyOut s o = true) :
    startOutConfig c s = (.ended St.safetyLocked, s) := by
  obtain ⟨o, ho, hmask, hout⟩ := hsafe
  exact if_pos (Bool.and_eq_true_iff.mpr ⟨harm, any_safetyOut_of_mask ho hmask hout⟩)

theorem startBraidDefine_of_locked (harm : sfiArmed s = true) (hreq : requiredBraid s (fld (dw c.pkt 8) 3 0) = true) :
    startBraidDefine c s = (.ended St.safetyLocked, s) :=
  if_pos (Bool.and_eq_true_iff.mpr ⟨harm, hreq⟩)

theorem stopChecks_of_locked (harm : sfiArmed s = true) (hreq : requiredBraid s (fld (dw c.pkt 8) 3 0) = true) :
    stopChecks c s = some St.safetyLocked :=
  if_pos (Bool.and_eq_true_iff.mpr ⟨harm, hreq⟩)

/-- A check of BRAID_STOP that fails ends each of its modes and changes nothing. -/
theorem startBraidStop_of_stopChecks {st : Status} (h : stopChecks c s = some st) : startBraidStop c s = (.ended st, s) := by
  unfold startBraidStop
  split
  case h_1 => rw [startDrain, h]
  case h_2 => rw [startHalt, h]
  case h_3 => rw [startRelease, h]

end ArmedLock

/-- Settles O47: each of the four packets meets R616's check before it changes anything. -/
theorem armedConfigurationRefused : Obligations.ArmedConfigurationRefused := by
  intro s c hstate
  have harm : sfiArmed s = true := sfiArmed_iff.mpr hstate
  refine ⟨fun hop hsafe hrange => ?axis, fun hop hsafe => ?out, fun hop hreq => ?define, fun hop hreq => ?stop⟩
  case axis =>
    have hrun : runsOnDisabledAxis c s = false := runsOnDisabledAxis_eq_false_iff.mpr hrange
    rw [startOp_70 c s hop, startAxisConfig_of_locked hrun harm hsafe, St.safetyLocked]
  case out => rw [startOp_72 c s hop, startOutConfig_of_locked harm hsafe, St.safetyLocked]
  case define => rw [startOp_30 c s hop, startBraidDefine_of_locked harm hreq, St.safetyLocked]
  case stop => rw [startOp_32 c s hop, startBraidStop_of_stopChecks (stopChecks_of_locked harm hreq), St.safetyLocked]

end Sys2Proof.Machine

/-! The step, what follows an effect, and the state at reset (tier 1 statements about the block as a whole). -/
namespace Sys2Proof.Machine

/-- Settles O1: the queue's front is matched first. -/
theorem stepRunsFrontCommand : Obligations.StepRunsFrontCommand := fun _ _ _ => rfl

/-- With no trapped group the scan for the first trap finds none. -/
theorem firstTrap_of_calm {u : State} (h : Calm u) : firstTrap u = none := by
  have hnone : ∀ x ∈ u.ex.groups, isTrapped x = none := fun x hx => by simpa using List.all_eq_true.mp h x hx
  unfold firstTrap
  generalize u.ex.groups = gs at hnone
  induction gs with
  | nil => rfl
  | cons x r ih =>
    rw [List.foldl_cons, hnone x List.mem_cons_self]
    exact ih fun y hy => hnone y (List.mem_cons_of_mem x hy)

theorem settleTraps_of_calm {u : State} (h : Calm u) (n : Nat) : settleTraps n u = u := by
  cases n with
  | zero => rfl
  | succ n => rw [settleTraps, firstTrap_of_calm h]

/-- Settles O4: the traps settle to nothing. -/
theorem calmEffectStands : Obligations.CalmEffectStands := fun _ h => congrArg icnSettle (settleTraps_of_calm h _)

/-- Settles O5: every memory of the reset state is empty and its outputs are the inactive ones. -/
theorem resetInvariants : Obligations.ResetInvariants := by
  refine ⟨⟨Mem.wf_empty, Mem.wf_empty, Mem.wf_empty, ?cores⟩, .inr rfl, ?outs⟩
  case cores => decide
  case outs => unfold OutputsIdle; decide

end Sys2Proof.Machine

/-! Instructions of a group: each issues (`issue_ok`), and its hypotheses pick the branch that completes. -/
namespace Sys2Proof.Machine

section Instructions
variable {s : State} {g : Nat} {w ext : W64} {x : Group} {b : Block} {cls : Nat} {ops : Nat → Bool}

/-- A word that issues does its effect, written as the state that the effect comes to. -/
theorem issue_eq (h : Issues s g w ext cls ops x b) {f : Group → Block → State → State} {t : State} (hf : f x b (issued w g x s) = t) :
    issue cls ops g w ext s f = .next (after t) := by
  rw [issue_ok h, hf]

/-- A group whose word has a hazard issues nothing (R85). -/
theorem issue_of_hazard {y : Group} {f : Group → Block → State → State} (hy : findGrp s g = some y) (hb : findBlk s y.blk = some b) (hx : x = atIssue s b y)
    (hz : hazard (atWord g x s) g w ext = true) : issue cls ops g w ext s f = .next (after (atWord g x s)) := by
  unfold issue
  rw [hy]
  simp only [hb, ← hx]
  rw [if_pos (by simp [show hazard (updGrp g (fun _ => x) s) g w ext = true from hz])]
  rfl

/-- The course of a sampler instruction whose texture is bound and whose lanes are read. -/
theorem texRun_ok {α : Type} {d : List Byte} {u v : State} {l : List (Nat × α)} {f : List Byte → Nat → Nat → State → LaneAns α × State}
    {put : List (Nat × α) → Group → Group} (hd : b.texs[iSb w]? = some d)
    (hp : anyLane (execMask x w) (fun l => (texArg w x l).2.2.2 || (texLodOf w ext x d s.freeCtr l).2.1) = false)
    (hu : bulk b.part (texNeeds x b d (popcount (execMask x w)) s) s = some u)
    (hl : texLanes (f d s.freeCtr) (lanesOf (execMask x w)) { u with freeCtr := s.freeCtr + 64 } = (.ok l, v)) :
    texRun g w ext x b s f put = putG (next w (put l x)) v := by
  simp only [texRun, hd, hp, hu, hl]
  rfl

/-- The knot that a group's pair names, over a route that is up (R354, R358): not LPDDR, and host memory for a signal alone. -/
theorem knotOf_ok {k : Access} {wait : Bool} {pl : Place} {u : State} {f : Place → State → State} (hp : (rdUPair x (iSa w)).2 = false)
    (ha : (rdUPair x (iSa w)).1 % 8 = 0) (hx : xl b.ctx (rdUPair x (iSa w)).1 k (rqG x) s = (.ok pl, u)) (hl : ∀ a, pl ≠ .lpddr a)
    (hh : wait = true → ∀ a, pl ≠ .host a) (hr : routeDown u pl = false) : knotOf g w x b k wait s f = f pl u := by
  unfold knotOf
  simp only [hp, ha, hx]
  cases pl with
  | lpddr a => exact absurd rfl (hl a)
  | host a =>
    cases wait with
    | true => exact absurd rfl (hh rfl a)
    | false => rfl
  | remote d fr o => simp [hr]
  | peat a => rfl

end Instructions

/-- Settles O8: each word's effect is the group with the registers of its operation; SHFL by its fault check, a hazard by the issue check. -/
theorem laneInstructionsComplete : Obligations.LaneInstructionsComplete := by
  intro s g w ext x b
  refine ⟨fun h => by rw [exec_valu, execValu, issue_ok h], fun h => by rw [exec_vsfu, execVsfu, issue_ok h], fun h => by rw [exec_mov, execMov, issue_ok h],
    fun h => by rw [exec_cvt, execCvt, issue_ok h], fun h hf => ?shfl, fun h => by rw [exec_vote, execVote, issue_ok h],
    fun h => by rw [exec_matchLanes, execMatchLanes, issue_ok h], fun h => by rw [exec_red, execRed, issue_ok h], fun y hy hb hx hz => ?hazard⟩
  case shfl =>
    rw [exec_shfl, execShfl]
    exact issue_eq h (by rw [if_neg (by simp [hf])])
  case hazard => rw [exec_valu, execValu, issue_of_hazard hy hb hx hz]

theorem seeCycles_none {core n : Nat} (h : n < 10) (s : State) : seeCycles core n s = (0, s) := if_pos h

theorem seeCycles_drawn {core n : Nat} (h : 10 ≤ n) (s : State) : seeCycles core n s =
    ((coreOf s core).cycles + Config.freeValue s.freeCtr,
      updCore core (fun k => { k with cycles := (coreOf s core).cycles + Config.freeValue s.freeCtr }) { s with freeCtr := s.freeCtr + 1 }) :=
  if_neg (Nat.not_lt.mpr h)

theorem uniformLane_pos {n : Nat} (h : 0 < n) (s : State) : uniformLane n s = (0, s) := if_neg (Nat.pos_iff_ne_zero.mp h)

theorem freeCtr_issued (w : W64) (g : Nat) (x : Group) (s : State) : (issued w g x s).freeCtr = s.freeCtr := rfl

/-- Settles O9: the selected lane, the cycle count and the bytes of the bank are what the effect takes first. -/
theorem uniformInstructionsComplete : Obligations.UniformInstructionsComplete := by
  intro s g w ext x b
  refine ⟨fun h => by rw [exec_ualu, execUalu, issue_ok h], fun h => by rw [exec_umov, execUmov, issue_ok h], fun h hn => ?s2r,
    fun h hn => ?s2uLane, fun h h0 hn => ?s2u, fun h hn => ?s2rCycles, fun h hn => ?s2uCycles, fun h hal bs u hr => ?ldc⟩
  case s2r =>
    rw [exec_s2r, execS2r]
    exact issue_eq h (by simp only [seeCycles_none hn])
  case s2uLane =>
    rw [exec_s2u, execS2u]
    refine ⟨BitVec.ofNat 32 (Config.freeValue s.freeCtr).toNat, issue_eq h ?_⟩
    simp only [hn, seeCycles_none (show (0 : Nat) < 10 by decide)]
    rfl
  case s2u =>
    rw [exec_s2u, execS2u]
    exact issue_eq h (by simp only [uniformLane_pos h0, seeCycles_none hn])
  case s2rCycles =>
    rw [exec_s2r, execS2r]
    exact ⟨(coreOf (issued w g x s) x.core).cycles + Config.freeValue s.freeCtr, issue_eq h (by simp only [seeCycles_drawn hn, freeCtr_issued])⟩
  case s2uCycles =>
    rw [exec_s2u, execS2u]
    exact ⟨(coreOf (issued w g x s) x.core).cycles + Config.freeValue s.freeCtr, issue_eq h (by simp only [uniformLane_pos (Nat.lt_of_lt_of_le (by decide) hn), seeCycles_drawn hn, freeCtr_issued])⟩
  case ldc =>
    rw [exec_ldc, execLdc]
    refine issue_eq h ?_
    simp only [hal, hr, ne_eq, not_true_eq_false, if_false]

/-- Settles O10: the depth of the stack, the join's place and the return offset pick the branch. -/
theorem controlFlowComplete : Obligations.ControlFlowComplete := by
  intro s g w ext x b
  refine ⟨fun h => by rw [exec_bra, execBra, issue_ok h], fun h hd => ?split, fun t r h hs hpc => ?join,
    fun h => by rw [exec_exit, execExit, issue_ok h], fun h => by rw [exec_call, execCall, issue_ok h], fun h hp hw => ?ret⟩
  case split =>
    rw [exec_split, execSplit]
    exact issue_eq h (if_neg (Nat.not_le.mpr hd))
  case join =>
    rw [exec_join, execJoin]
    exact issue_eq h (by simp only [hs, hpc, ne_eq, not_true_eq_false, if_false])
  case ret =>
    rw [exec_ret, execRet]
    exact issue_eq h (by simp only [hp, hw, Bool.false_eq_true, Bool.not_true, if_false])

/-- Settles O11: divergence and outstanding remote work pick the branch. -/
theorem barriersComplete : Obligations.BarriersComplete := by
  intro s g w ext x b
  refine ⟨fun h hd hm => ?bar, fun h hd hm => ?cbar, fun h hm => ?fence, fun h hd => ?divergent, fun h hd hm => ?barWaits, fun h hm => ?fenceWaits⟩
  case bar =>
    rw [exec_bar, execBar]
    exact issue_eq h (by simp only [hd, hm, Bool.false_eq_true, if_false])
  case cbar =>
    rw [exec_cbar, execCbar]
    exact issue_eq h (by simp only [hd, hm, Bool.false_eq_true, if_false])
  case fence =>
    rw [exec_fence, execFence]
    exact issue_eq h (by simp only [hm, Bool.false_eq_true, if_false])
  case divergent =>
    rw [exec_bar, execBar]
    exact issue_eq h (by simp only [hd, if_true])
  case barWaits =>
    rw [exec_bar, execBar]
    exact issue_eq h (by simp only [hd, hm, Bool.false_eq_true, if_false, if_true])
  case fenceWaits =>
    rw [exec_fence, execFence]
    exact issue_eq h (by simp only [hm, if_true])

/-- Settles O12: every lane's place in the block's local memory is known. -/
theorem localMemoryComplete : Obligations.LocalMemoryComplete := by
  intro s g w ext x b ls
  refine ⟨fun h hl => ?ldl, fun h hm hl => ?stl, fun h hm => ?waits⟩
  case ldl =>
    rw [exec_ldl, execLdl]
    exact issue_eq h (by simp only [hl])
  case stl =>
    rw [exec_stl, execStl]
    exact issue_eq h (by simp only [hm, hl, Bool.false_eq_true, if_false])
  case waits =>
    rw [exec_stl, execStl]
    exact issue_eq h (by simp only [hm, if_true])

/-- Settles O13: every lane's place in device memory is known, its route is up and the regulators have room. -/
theorem deviceMemoryComplete : Obligations.DeviceMemoryComplete := by
  intro s u v g w ext x b ls
  refine ⟨fun h hl hd hv => ?ldg, fun h hm hl hp hd hv => ?stg⟩
  case ldg =>
    rw [exec_ldg, execLdg]
    exact issue_eq h (by simp only [hl, hd, hv, Bool.false_eq_true, if_false])
  case stg =>
    rw [exec_stg, execStg]
    exact issue_eq h (by simp only [hm, hl, hp, hd, hv, Bool.false_eq_true, if_false])

/-- Settles O14: the three instructions take the sampler's common course. -/
theorem samplerComplete : Obligations.SamplerComplete := by
  intro s u v g w ext x b d hd hp hu
  refine ⟨fun l h hl => ?tex, fun l h hl => ?tld, fun l h hl => ?tres⟩
  case tex =>
    rw [exec_tex, execTex]
    exact issue_eq h (texRun_ok hd hp hu hl)
  case tld =>
    rw [exec_tld, execTld]
    exact issue_eq h (texRun_ok hd hp hu hl)
  case tres =>
    rw [exec_tres, execTres]
    exact issue_eq h (texRun_ok hd hp hu hl)

/-- Settles O15: base and stride are aligned to 4 bytes and every piece lies in local memory. -/
theorem matrixComplete : Obligations.MatrixComplete := by
  intro s g w ext x b
  refine ⟨fun h => by rw [exec_mma, execMma, issue_ok h], fun ps h hb hp ha hs hl => ?mld, fun ps bias h hb hp ha hs hbias hl => ?mst⟩
  case mld =>
    rw [exec_mld, execMld]
    refine issue_eq h ?_
    simp only [hb, hp, ha, hs, hl, Bool.false_eq_true, if_false, ne_eq, not_true_eq_false, or_self]
  case mst =>
    rw [exec_mst, execMst]
    refine issue_eq h ?_
    simp only [hb, hp, ha, hs, hbias, hl, Bool.false_eq_true, if_false, ne_eq, not_true_eq_false, or_self]

/-- Settles O16: the waiting release and the memory that the word names pick the branch. -/
theorem atomicsComplete : Obligations.AtomicsComplete := by
  intro s g w ext x b h hm
  refine ⟨fun ls hb hl => ?lm, fun ls u v hb hh hl hd hv => ?dev⟩
  case lm =>
    rw [exec_atom, execAtom]
    exact issue_eq h (by simp only [hm, hb, hl, Bool.false_eq_true, if_false])
  case dev =>
    rw [exec_atom, execAtom]
    exact issue_eq h (by simp only [hm, hb, hh, hl, hd, hv, Bool.false_eq_true, if_false, if_true])

/-- Settles O17: the knot that the pair names is reached (`knotOf_ok`), and the group's own remote work is done. -/
theorem knotInstructionsComplete : Obligations.KnotInstructionsComplete := by
  intro s u v g w ext x b pl hl hr
  refine ⟨fun h hk hp ha hx hm hv => ?ksig, fun h hk hm hp ha hx hh => ?kwait, fun br k h ho hp hd => ?hit, fun k v => rfl⟩
  case ksig =>
    rw [exec_ksig, execKsig]
    refine issue_eq h ?_
    simp only [hk, Bool.false_eq_true, if_false]
    rw [knotOf_ok hp ha hx hl (fun e => absurd e (by decide)) hr]
    simp only [hm, hv, Bool.false_eq_true, if_false]
  case kwait =>
    rw [exec_kwait, execKwait]
    refine ⟨_, _, _, rfl, rfl, rfl, issue_eq h ?_⟩
    simp only [hk, hm, Bool.false_eq_true, if_false]
    rw [knotOf_ok hp ha hx hl (fun _ => hh) hr]
  case hit =>
    rw [exec_hit, execHit]
    exact issue_eq h (by simp only [ho, hp, hd, Bool.false_eq_true, if_false])

/-- Settles O18: the wait is due and its block is not parked. -/
theorem kwaitTimeoutCompletes : Obligations.KwaitTimeoutCompletes := by
  intro s g t x k thr dst pred trapab dl nxt hx hw hdl hpark
  have hg : findGrp (s.at t) g = some x := hx
  have hlate : isLate (s.at t) (some dl) = true := decide_eq_true hdl
  have hp : isParked (s.at t) x.blk = false := hpark
  rw [exec_kwaitTimeout, execKwaitTimeout]
  simp only [hg, hw, hlate, hp]
  rfl

/-- Settles O19: every piece's place in device memory is known, its route is up and the regulators have room. -/
theorem matrixDeviceComplete : Obligations.MatrixDeviceComplete := by
  intro s u v g w ext x b pls hb hp ha hs
  refine ⟨fun ps hps h hl hd hv => ?mld, fun ps bias rows hps h hbias hrows hl hpo hd hv => ?mst⟩
  case mld =>
    rw [exec_mld, execMld]
    subst hps
    refine issue_eq h ?_
    simp only [hb, hp, ha, hs, hl, hd, hv, Bool.false_eq_true, if_false, if_true, ne_eq, not_true_eq_false, or_self]
  case mst =>
    rw [exec_mst, execMst]
    subst hps hrows
    refine issue_eq h ?_
    simp only [hb, hp, ha, hs, hbias, hl, hpo, hd, hv, Bool.false_eq_true, if_false, if_true, ne_eq, not_true_eq_false, or_self]

section TestPort
variable {s : State}

/-- Codes of the instructions that could change a ball (R649). -/
def ballCodes : List Byte := [0x00, 0x03, 0x04, 0x05, 0x06]

theorem testActs_of_armed {k : Byte} (ha : sfiArmed s = true) (hk : k ∈ ballCodes) : testActs s k = 0xFF := by
  have hdrive : testDrives k = true := (by decide : ∀ k ∈ ballCodes, testDrives k = true) k hk
  exact if_pos (by rw [hdrive, ha]; simp)

theorem testActs_of_not_armed {k : Byte} (ha : sfiArmed s = false) (hk : testAssigned k = true) : testActs s k = k :=
  if_neg (by rw [hk, ha]; simp)

/-- A code that is not IDCODE's or STREC's acts as neither of them, and so shows nothing. -/
theorem testData_eq_nil {k : Byte} (h1 : k ≠ 0x01) (h2 : k ≠ 0x10) : testData s k = [] := by
  have hne : testActs s k ≠ 0x01 ∧ testActs s k ≠ 0x10 := by
    unfold testActs
    split
    · exact ⟨by decide, by decide⟩
    · exact ⟨h1, h2⟩
  unfold testData
  split
  · exact absurd ‹_› hne.1
  · exact absurd ‹_› hne.2
  · rfl

end TestPort

/-- Settles O58: the loaded code, its data register, and the codes that the armed SFI turns into BYPASS. -/
theorem testPortComplete : Obligations.TestPortComplete := by
  intro s code
  have hball : ∀ k ∈ ballCodes, testData s k = [] := fun k hk =>
    testData_eq_nil ((by decide : ∀ k ∈ ballCodes, k ≠ 0x01) k hk) ((by decide : ∀ k ∈ ballCodes, k ≠ 0x10) k hk)
  have hload : ∀ k, testData s k = [] → done (loadTest k s) = .next (icnSettle { s with jtagIr := k, tdo := [] }) := fun k hk => by
    rw [done_eq, loadTest, hk]
  refine ⟨rfl, rfl, hload 0x02 (testData_eq_nil (by decide) (by decide)), hload 0x00 (hball _ (by decide)), hload 0x03 (hball _ (by decide)),
    hload 0x04 (hball _ (by decide)), hload 0x05 (hball _ (by decide)), hload 0x06 (hball _ (by decide)), fun h => ?free, fun h => ?assigned,
    fun k ha hk => testActs_of_armed (sfiArmed_iff.mpr ha) hk, fun k h1 h2 hk => ?acts⟩
  case free =>
    have hne : ∀ k, testAssigned k = true → code ≠ k := fun k hk e => by rw [e, hk] at h; exact absurd h (by decide)
    rw [exec_bypass, execBypass, if_neg (by rw [h]; decide)]
    exact hload code (testData_eq_nil (hne _ (by decide)) (hne _ (by decide)))
  case assigned =>
    rw [exec_bypass, execBypass, if_pos h]
    exact hload 0xFF (testData_eq_nil (by decide) (by decide))
  case acts =>
    have harm : sfiArmed s = false := Bool.eq_false_iff.mpr fun e => (sfiArmed_iff.mp e).elim h1 h2
    exact testActs_of_not_armed harm ((by decide : ∀ k ∈ ballCodes, testAssigned k = true) k hk)

end Sys2Proof.Machine

/-! Hits and outputs of the position timebase (02): the hit port, late hits, firing, the commands of an output. -/
namespace Sys2Proof.Machine

section HitPort
variable {s : State} {r : HitRec}

/-- R62's format check, clause by clause. -/
theorem hitFormatOk_iff : hitFormatOk s r = true ↔
    fld r.dw2 5 0 ≤ 35 ∧ fld r.dw2 8 6 ≤ 2 ∧ fld r.dw2 11 10 ≤ 2 ∧ fld r.dw2 31 12 = 0 ∧ r.rsv = 0 ∧
      (if fld r.dw2 8 6 = 2 then 4 ≤ r.width.toNat else r.width = 0) ∧ outEn (output s (fld r.dw2 5 0)) = true ∧
      axEn (axis s (outAxis (output s (fld r.dw2 5 0)))) = true := by
  unfold hitFormatOk hitOutput hitAction hitLate
  by_cases h : fld r.dw2 8 6 = 2 <;> simp [h, and_assoc]

theorem hitRangeOk_eq_false {p : W64} (hp : p = axPos (axis s (outAxis (output s (fld r.dw2 5 0)))) s.now) (h : r.target - p = 0x8000000000000000) :
    hitRangeOk s r = false := by
  subst hp
  unfold hitRangeOk hitOutput
  rw [h]
  rfl

theorem hitRangeOk_eq_true {p : W64} (hp : p = axPos (axis s (outAxis (output s (fld r.dw2 5 0)))) s.now) (h : r.target - p ≠ 0x8000000000000000) :
    hitRangeOk s r = true := by
  subst hp
  unfold hitRangeOk hitOutput
  exact bne_iff_ne.mpr h

theorem hitArrive_malformed (h : hitFormatOk s r = false) : hitArrive r s = (.refused St.hitRecord, s) := by
  unfold hitArrive
  rw [h]
  rfl

theorem hitArrive_safe (hf : hitFormatOk s r = true) (hs : s.pte.safeState = true) : hitArrive r s = (.refused St.safeStateActive, s) := by
  unfold hitArrive
  rw [hf, hs]
  rfl

theorem hitArrive_out_of_range (hf : hitFormatOk s r = true) (hs : s.pte.safeState = false) (hr : hitRangeOk s r = false) :
    hitArrive r s = (.refused St.hitRecord, s) := by
  unfold hitArrive
  rw [hf, hs, hr]
  rfl

/-- A well-formed record in range outside the safe state: late, refused for want of an entry, or queued. -/
theorem hitArrive_judged (hf : hitFormatOk s r = true) (hs : s.pte.safeState = false) (hr : hitRangeOk s r = true) {p : W64}
    (hp : p = axPos (axis s (outAxis (output s (fld r.dw2 5 0)))) s.now) :
    hitArrive r s = if reached (bit r.dw2 9) p r.target then (.late, lateHit r s)
      else if 4096 ≤ hitsUsed s then (.refused St.hitQueueFull, pteAlarm 0 (fld r.dw2 5 0) (updPte (fun x => { x with hitrej := satInc x.hitrej }) s))
      else (.accepted, updPte (fun x => { x with nextSeq := x.nextSeq + 1, hitHigh := max x.hitHigh (hitsUsed (updOut (fld r.dw2 5 0) (fun x =>
          { x with pend := x.pend ++ [{ target := r.target, rev := bit r.dw2 9, action := BitVec.ofNat 3 (fld r.dw2 8 6), width := r.width, tag := r.tag, seq := s.pte.nextSeq }] }) s)) })
        (updOut (fld r.dw2 5 0) (fun x =>
          { x with pend := x.pend ++ [{ target := r.target, rev := bit r.dw2 9, action := BitVec.ofNat 3 (fld r.dw2 8 6), width := r.width, tag := r.tag, seq := s.pte.nextSeq }] }) s)) := by
  subst hp
  unfold hitArrive
  rw [hf, hs, hr]
  rfl

end HitPort

/-- Settles O20: each outcome is one branch of the port; an accepted record is one more entry of its output's list. -/
theorem hitPortOutcomes : Obligations.HitPortOutcomes := by
  intro r s o a p ho ha hp
  subst ho ha
  refine ⟨fun h => ?malformed, fun hf hs => hitArrive_safe hf hs, fun hf hs h => hitArrive_out_of_range hf hs (hitRangeOk_eq_false hp h),
    fun hf hs h hr => ?late, fun hf hs h hr hu => ?full, fun hf hs h hr hu => ?accepted⟩
  case malformed =>
    refine hitArrive_malformed (Bool.eq_false_iff.mpr fun hf => ?_)
    obtain ⟨h1, h2, h3, h4, h5, h6, h7, h8⟩ := hitFormatOk_iff.mp hf
    split at h6 <;> simp_all <;> omega
  case late => rw [hitArrive_judged hf hs (hitRangeOk_eq_true hp h) hp, if_pos hr]
  case full =>
    rw [hitArrive_judged hf hs (hitRangeOk_eq_true hp h) hp, if_neg (by simp [hr]), if_pos hu]
    exact ⟨_, rfl, rfl, bit_setBit_same _ _ (by decide), rfl⟩
  case accepted =>
    obtain ⟨hout, hact⟩ := fmt_facts s r hf
    have ho : fld r.dw2 5 0 < 36 := by omega
    rw [hitArrive_judged hf hs (hitRangeOk_eq_true hp h) hp, if_neg (by simp [hr]), if_neg (by omega)]
    refine ⟨_, _, rfl, rfl, rfl, ?action, rfl, rfl, output_updOut_same _ _ _ ho, fun i hi => output_updOut_ne _ _ _ _ (Ne.symm hi), ?used⟩
    case action => rw [BitVec.toNat_ofNat]; omega
    case used =>
      have hlen := hitsUsed_updOut s (fld r.dw2 5 0) ho (fun x => { x with pend := x.pend ++ [{ target := r.target, rev := bit r.dw2 9, action := BitVec.ofNat 3 (fld r.dw2 8 6), width := r.width, tag := r.tag, seq := s.pte.nextSeq }] })
      simp only [List.length_append, List.length_singleton] at hlen
      show hitsUsed (updOut _ _ s) = _
      omega

section Arrival
variable {s : State} {r : HitRec}

theorem hitPort_open {src : HitSrc} (h : holding s = false) : hitPort r src s = (hitNow r src s).2 := by
  unfold hitPort
  rw [h]
  rfl

end Arrival

/-- Settles O21: a record of a strand is the host's with the braid's LATE, and its answer counts in the braid. -/
theorem hitPortArrivalCompletes : Obligations.HitPortArrivalCompletes := by
  intro r b s t hh
  have harr : ∀ src, exec (.hitPortArrival r src t) s = .next (after (hitNow r src (s.at t)).2) := fun src => by
    rw [exec_hitPortArrival, execHitPortArrival, fin_eq, hitPort_open hh]
  have hstrand : strandHit (s.at t) b r = { r with dw2 := setFld r.dw2 11 10 (tabD s.ob.braids b {}).late.toNat } := rfl
  refine ⟨harr .host, fun u hu => ?accepted, fun u hu => ?refused⟩
  case accepted =>
    rw [harr, hitNow]
    simp only [hstrand, hu]
  case refused =>
    have hst : (((0x0701 : Status) == St.hitRecord) || ((0x0701 : Status) == St.hitQueueFull)) = false := by decide
    rw [harr, hitNow]
    simp only [hstrand, hu, hst, Bool.and_false, Bool.false_eq_true, if_false]

/-! ### Late hits (R68, R654) -/

/-- A late hit is noted: AX_COUNT.LATE of its axis and LATE of PTE_ALARM. -/
def lateNoted (r : HitRec) (s : State) : State :=
  pteAlarm 5 (outAxis (output s (hitOutput r))) (updAxis (outAxis (output s (hitOutput r))) (fun x => { x with late := satInc x.late }) s)

/-- What the LATE policy of a record makes of the state `z` in which it is noted. -/
def latePolicy (r : HitRec) (z : State) : State :=
  if phaseBarred z (output z (hitOutput r)) then countDrops (outAxis (output z (hitOutput r))) 1 z
  else match hitLate r with
    | 0 => hitAct (hitAction r) r.width.toNat r.tag (hitOutput r) z
    | 1 => z
    | _ => match outDefact (output z (hitOutput r)) with
      | 0 => z
      | 3 => hitAct 2 (max (output z (hitOutput r)).defw.toNat 4) r.tag (hitOutput r) z
      | d => hitAct (d - 1) 0 r.tag (hitOutput r) z

theorem lateHit_eq (r : HitRec) (s : State) :
    lateHit r s = escLateAxis (outAxis (output s (hitOutput r))) (latePolicy r (lateNoted r s)) := by
  unfold lateHit latePolicy lateNoted
  rfl

/-- Noting a late hit leaves what bars an output (R60). -/
theorem phaseBarred_lateNoted (r : HitRec) (s : State) (o : Nat) : phaseBarred (lateNoted r s) (output (lateNoted r s) o) = phaseBarred s (output s o) := by
  have hax : (fun x => (axSrc x, x.mode)) (axis (lateNoted r s) (outAxis (output s o))) = (axSrc (axis s (outAxis (output s o))), (axis s (outAxis (output s o))).mode) :=
    tabD_tabUpd_keeps s.pte.axes (fun x => { x with late := satInc x.late }) {} (fun x => (axSrc x, x.mode)) (fun _ => rfl) _ _
  obtain ⟨hsrc, hmode⟩ := Prod.mk.inj hax
  exact bar_of_key (Prod.ext rfl (Prod.ext rfl (Prod.ext hsrc hmode)))

/-- A state that the policy leaves: one with drops counted, one with an action of the output, or the same. -/
theorem latePolicy_cases (r : HitRec) (z : State) :
    latePolicy r z = countDrops (outAxis (output z (hitOutput r))) 1 z ∨ latePolicy r z = z ∨
      ∃ code w, latePolicy r z = hitAct code w r.tag (hitOutput r) z := by
  unfold latePolicy
  split
  · exact .inl rfl
  · split
    · exact .inr (.inr ⟨_, _, rfl⟩)
    · exact .inr (.inl rfl)
    · split
      · exact .inr (.inl rfl)
      · exact .inr (.inr ⟨_, _, rfl⟩)
      · exact .inr (.inr ⟨_, _, rfl⟩)

theorem latePolicy_sfi (r : HitRec) (z : State) : (latePolicy r z).sfi = z.sfi := by
  obtain h | h | ⟨_, _, h⟩ := latePolicy_cases r z <;> rw [h] <;> rfl

theorem latePolicy_alarm (r : HitRec) (z : State) : (latePolicy r z).pte.alarm = z.pte.alarm := by
  obtain h | h | ⟨_, _, h⟩ := latePolicy_cases r z <;> rw [h] <;> rfl

theorem latePolicy_late (r : HitRec) (z : State) (a : Nat) : (axis (latePolicy r z) a).late = (axis z a).late := by
  obtain h | h | ⟨_, _, h⟩ := latePolicy_cases r z
  · rw [h]
    exact tabD_tabUpd_keeps z.pte.axes (fun x => { x with drops := satAdd x.drops 1 }) {} (fun x => x.late) (fun _ => rfl) _ _
  · rw [h]
  · rw [h]
    rfl

theorem latePolicy_output_ne (r : HitRec) (z : State) {i : Nat} (hi : i ≠ hitOutput r) : output (latePolicy r z) i = output z i := by
  obtain h | h | ⟨_, _, h⟩ := latePolicy_cases r z
  · rw [h]
    rfl
  · rw [h]
  · rw [h]
    exact output_updOut_ne _ _ _ _ (Ne.symm hi)

/-- Outside ARMED no late hit escalates (R615). -/
theorem lateHit_of_not_armed {r : HitRec} {s : State} (h : s.sfi.state ≠ .armed) : lateHit r s = latePolicy r (lateNoted r s) := by
  rw [lateHit_eq, escLateAxis_id]
  rw [latePolicy_sfi]
  exact h

theorem output_hitAct {code w o : Nat} {tag : W32} {s : State} (ho : o < 36) :
    output (hitAct code w tag o s) o = { act code w s.time (output s o) with fired := (output s o).fired + 1, lasttag := tag } :=
  (output_updOut_same _ _ _ ho).trans (by rw [← (act_keep code w s.time (output s o)).2.2])

/-- Settles O22: noting a late hit, then the branch of its policy. -/
theorem lateHitPolicy : Obligations.LateHitPolicy := by
  intro r s o f ho hlt harm hf
  obtain rfl : o = hitOutput r := ho
  have hz : ∀ i, output (lateNoted r s) i = output s i := fun _ => rfl
  have hbar := phaseBarred_lateNoted r s (hitOutput r)
  have hact : ∀ code w, output (hitAct code w r.tag (hitOutput r) (lateNoted r s)) (hitOutput r) =
      f (act code w s.time (output s (hitOutput r))) := fun code w => by
    rw [output_hitAct hlt, hf, hz, ← (act_keep code w s.time (output s (hitOutput r))).2.2]
    rfl
  rw [lateHit_of_not_armed harm]
  refine ⟨?late, ?alarm, fun i hi => (latePolicy_output_ne r _ hi).trans (hz i), fun hb => ?barred, fun hb hl ha => ?set, fun hb hl ha => ?clear,
    fun hb hl ha u hu => ?pulse, fun hl => ?skip, fun hl hd => ?noDefault, fun hb hl hd => ?defaultSet⟩
  case late =>
    rw [latePolicy_late]
    exact congrArg Axis.late (axis_updAxis_same _ _ _ (fld_lt _ 6 4))
  case alarm =>
    rw [latePolicy_alarm]
    exact bit_setBit_same _ _ (by decide)
  case barred =>
    rw [latePolicy, if_pos (hbar.trans hb)]
    rfl
  case set =>
    rw [latePolicy, if_neg (Bool.eq_false_iff.mp (hbar.trans hb))]
    simp only [hitLate, hl, hitAction, ha]
    exact hact 0 _
  case clear =>
    rw [latePolicy, if_neg (Bool.eq_false_iff.mp (hbar.trans hb))]
    simp only [hitLate, hl, hitAction, ha]
    exact hact 1 _
  case pulse =>
    rw [latePolicy, if_neg (Bool.eq_false_iff.mp (hbar.trans hb))]
    simp only [hitLate, hl, hitAction, ha]
    refine (hact 2 _).trans ?_
    simp only [act, actPulse, hu]
  case skip =>
    rw [latePolicy]
    simp only [hitLate, hl]
    split <;> rfl
  case noDefault =>
    rw [latePolicy]
    simp only [hitLate, hl, hz, hd]
    split <;> rfl
  case defaultSet =>
    rw [latePolicy, if_neg (Bool.eq_false_iff.mp (hbar.trans hb))]
    simp only [hitLate, hl, hz, hd]
    exact hact 0 _

/-! ### Firing (R53, R54) -/

section Fire
variable {o : Nat} {s : State}

/-- On a barred output a hit that fires leaves every output (R60). -/
theorem fireHit_barred (h : PendHit) (hb : phaseBarred s (output s o) = true) : fireHit o h s = countDrops (outAxis (output s o)) 1 s := by
  unfold fireHit
  exact if_pos hb

theorem fireHit_acts (h : PendHit) (hb : phaseBarred s (output s o) = false) : fireHit o h s = hitAct h.action.toNat h.width.toNat h.tag o s := by
  unfold fireHit
  exact if_neg (by simp [hb])

/-- Counting drops leaves what bars an output. -/
theorem barKey_countDrops (a n : Nat) (s : State) (o : Nat) : barKey (countDrops a n s) o = barKey s o := by
  have hax : (fun x => (axSrc x, x.mode)) (axis (countDrops a n s) (outAxis (output s o))) = (axSrc (axis s (outAxis (output s o))), (axis s (outAxis (output s o))).mode) :=
    tabD_tabUpd_keeps s.pte.axes (fun x => { x with drops := satAdd x.drops n }) {} (fun x => (axSrc x, x.mode)) (fun _ => rfl) _ _
  obtain ⟨hsrc, hmode⟩ := Prod.mk.inj hax
  exact Prod.ext rfl (Prod.ext rfl (Prod.ext hsrc hmode))

/-- An update of an output that keeps its configuration leaves what bars it. -/
theorem barKey_updOut (f : Output → Output) (hf : ∀ x, (f x).cfg = x.cfg) (s : State) (o : Nat) : barKey (updOut o f s) o = barKey s o := by
  have hcfg : (output (updOut o f s) o).cfg = (output s o).cfg := tabD_tabUpd_keeps s.pte.outs f {} Output.cfg hf _ _
  unfold barKey outPhase outAxis
  rw [hcfg]
  rfl

theorem barKey_hitAct (code w : Nat) (tag : W32) (o : Nat) (s : State) : barKey (hitAct code w tag o s) o = barKey s o := by
  unfold hitAct
  refine barKey_updOut _ (fun x => ?_) s o
  exact (act_keep code w s.time x).2.1

/-- A hit that fires leaves its output's list and what bars it (R60). -/
theorem fireHit_keeps (h : PendHit) (ho : o < 36) : (output (fireHit o h s) o).pend = (output s o).pend ∧ barKey (fireHit o h s) o = barKey s o := by
  cases hb : phaseBarred s (output s o) with
  | true =>
    rw [fireHit_barred h hb]
    exact ⟨congrArg Output.pend (output_countDrops _ _ _ _), barKey_countDrops _ _ _ _⟩
  | false =>
    rw [fireHit_acts h hb]
    refine ⟨?_, barKey_hitAct _ _ _ _ _⟩
    rw [output_hitAct ho]
    exact (act_keep _ _ _ _).1

/-- Hits that fire one after the other leave the list, the other outputs and what bars the output; each counts in OUT_FIRED, or, barred, none does. -/
theorem fireHits_keeps (ho : o < 36) (l : List PendHit) (s : State) :
    (output (l.foldl (fun s h => fireHit o h s) s) o).pend = (output s o).pend ∧
    (∀ i, i ≠ o → output (l.foldl (fun s h => fireHit o h s) s) i = output s i) ∧
    (phaseBarred s (output s o) = false → (output (l.foldl (fun s h => fireHit o h s) s) o).fired = (output s o).fired + BitVec.ofNat 32 l.length) ∧
    (phaseBarred s (output s o) = true → output (l.foldl (fun s h => fireHit o h s) s) o = output s o) := by
  induction l generalizing s with
  | nil => exact ⟨rfl, fun _ _ => rfl, fun _ => by simp, fun _ => rfl⟩
  | cons h l ih =>
    obtain ⟨ipend, iother, ifired, ibarred⟩ := ih (fireHit o h s)
    obtain ⟨hpend, hkey⟩ := fireHit_keeps (s := s) h ho
    have hbar := bar_of_key hkey
    refine ⟨ipend.trans hpend, fun i hi => (iother i hi).trans (output_fireHit_ne o h s i hi), fun hb => ?fires, fun hb => ?barred⟩
    case fires =>
      refine (ifired (hbar.trans hb)).trans ?_
      rw [fireHit_acts h hb, output_hitAct ho, List.length_cons]
      show (output s o).fired + 1 + _ = _
      rw [BitVec.add_assoc, Nat.add_comm l.length, BitVec.ofNat_add]
      rfl
    case barred =>
      refine (ibarred (hbar.trans hb)).trans ?_
      rw [fireHit_barred h hb]
      rfl

end Fire

/-- The hits that position `p` reaches leave the list of an output. -/
def dropDue (o : Nat) (p : W64) (s : State) : State := updOut o (fun x => { x with pend := x.pend.filter fun h => !(reached h.rev p h.target) }) s

theorem barKey_dropDue (o : Nat) (p : W64) (s : State) : barKey (dropDue o p s) o = barKey s o := by
  unfold dropDue
  refine barKey_updOut _ (fun x => ?_) s o
  rfl

/-- Settles O23: the hits that are due leave the list, then fire one after the other. -/
theorem firingIsExact : Obligations.FiringIsExact := by
  intro s o p ho hp
  subst hp
  unfold fireDue
  dsimp only
  generalize axPos (axis s (outAxis (output s o))) s.now = p
  split
  case isTrue hnone =>
    have hdue : (output s o).pend.filter (fun h => reached h.rev p h.target) = [] := List.isEmpty_iff.mp hnone
    refine ⟨?_, fun _ _ => rfl, fun _ => by simp [hdue], fun _ => ⟨rfl, rfl⟩⟩
    rw [List.filter_eq_nil_iff] at hdue
    exact (List.filter_eq_self.mpr fun h hm => by simp [hdue h hm]).symm
  case isFalse =>
    have hz : output (dropDue o p s) o = { output s o with pend := (output s o).pend.filter fun h => !(reached h.rev p h.target) } := output_updOut_same _ _ _ ho
    have hbar : phaseBarred (dropDue o p s) (output (dropDue o p s) o) = phaseBarred s (output s o) := bar_of_key (barKey_dropDue o p s)
    obtain ⟨hpend, hother, hfired, hbarred⟩ := fireHits_keeps ho ((output s o).pend.filter fun h => reached h.rev p h.target) (dropDue o p s)
    refine ⟨hpend.trans (congrArg Output.pend hz), fun i hi => (hother i hi).trans (output_updOut_ne _ _ _ _ (Ne.symm hi)), fun hb => ?_, fun hb => ?_⟩
    · exact (hfired (hbar.trans hb)).trans (by rw [hz])
    · have hsame := (hbarred (hbar.trans hb)).trans hz
      exact ⟨(congrArg Output.active hsame :), (congrArg Output.fired hsame :)⟩

end Sys2Proof.Machine


/-! The commands of outputs, generators and axes (02). -/
namespace Sys2Proof.Machine

/-! ### Outputs -/

/-- OUT_CFG as it stands after a write to an output without pending hits: at CFG_LOCK the level fields stay (R77). -/
def outCfgTaken (s : State) (o : Nat) (v : W32) : W32 :=
  if s.pte.cfgLock then setFld (v &&& 0x3FF) 2 0 (fld (output s o).cfg 2 0) else v &&& 0x3FF

/-- A write to OUT_CFG of an output without pending hits, EN kept or set. -/
theorem writeOutCfg_of_pend_nil {s : State} {o : Nat} {v : W32} (hp : (output s o).pend = []) :
    writeOutCfg o v s = updOut o (fun y => { y with cfg := outCfgTaken s o v, written := true })
      (if outEn (output s o) && !(bit (outCfgTaken s o v) 9) then discardHits o (if outCfgTaken s o v != v &&& 0x3FF then cfgIgnored s else s)
       else if outCfgTaken s o v != v &&& 0x3FF then cfgIgnored s else s) := by
  unfold writeOutCfg
  dsimp only
  rw [hp]
  rfl

/-- A write to OUT_CFG that is taken whole and keeps or sets EN. -/
theorem writeOutCfg_taken {s : State} {o : Nat} {v : W32} (hp : (output s o).pend = []) (ht : outCfgTaken s o v = v &&& 0x3FF) (h9 : bit v 9 = true) :
    writeOutCfg o v s = updOut o (fun y => { y with cfg := v &&& 0x3FF, written := true }) s := by
  have h9' : bit (v &&& 0x3FF) 9 = true := by rw [mask3FF, h9]; rfl
  rw [writeOutCfg_of_pend_nil hp, ht, h9', bne_self_eq_false, Bool.not_true, Bool.and_false]
  rfl

/-- A pulse whose end has come (R66). -/
theorem endPulse_due {now u : W64} {o : Output} (ha : o.active = true) (hu : o.until' = some u) (h : u.toNat ≤ now.toNat) :
    endPulse now o = { o with active := false } := by
  unfold endPulse
  rw [hu]
  exact if_pos (by simp [ha, h])

/-- Settles O24: each command is one of the output's operations; OUT_CFG by what CFG_LOCK leaves of the value. -/
theorem outputCommandsComplete : Obligations.OutputCommandsComplete := by
  intro s o t v
  refine ⟨by rw [exec_clear, execClear, done_eq]; rfl, by rw [exec_flush, execFlush, done_eq]; rfl, fun u ha hu hle => ?pulseEnd,
    by rw [exec_hitFire, execHitFire]; exact done_eq _, fun hl hp h9 => ?unlocked, fun hl hp hm hf h9 => ?same, fun hl hp hm hf => ?locked⟩
  case pulseEnd =>
    have hend : endPulse (s.at t).time (output (s.at t) o) = { output (s.at t) o with active := false } := endPulse_due ha hu hle
    rw [exec_pulseEnd, execPulseEnd, done_eq, updOut_congr _ _ (g := fun y => { y with active := false }) hend]
  case unlocked =>
    have ht : outCfgTaken s o v = v &&& 0x3FF := by rw [outCfgTaken, hl]; rfl
    rw [exec_outCfgWrite, execOutCfgWrite, done_eq, writeOutCfg_taken hp ht h9]
  case same =>
    have ht : outCfgTaken s o v = v &&& 0x3FF := by rw [outCfgTaken, if_pos hl, hm, ← hf, setFld_self]
    rw [exec_outCfgWrite, execOutCfgWrite, done_eq, writeOutCfg_taken hp ht h9, hm]
  case locked =>
    have ht : outCfgTaken s o v = setFld v 2 0 (fld (output s o).cfg 2 0) := by rw [outCfgTaken, if_pos hl, hm]
    have hlow : fld (outCfgTaken s o v) 2 0 = fld (output s o).cfg 2 0 := by
      rw [ht, fld_setFld _ _ _ _ (by decide)]
      exact Nat.mod_eq_of_lt (fld_lt _ _ _)
    have hne : outCfgTaken s o v ≠ v &&& 0x3FF := fun h => hf (by rw [← hlow, h, hm])
    have hout : ∀ z, (output (updOut o (fun y => { y with cfg := outCfgTaken s o v, written := true }) z) o).cfg = outCfgTaken s o v := fun z => by
      rw [output_updOut_same _ _ _ o.isLt]
    refine ⟨_, by rw [exec_outCfgWrite, execOutCfgWrite, done_eq, writeOutCfg_of_pend_nil hp], ?_⟩
    rw [output_icnSettle, hout, icnSettle_pte]
    refine ⟨hlow, ?_, fun i hi => by rw [ht, bit_setFld_out _ _ _ _ _ (.inr hi)]⟩
    rw [if_pos (bne_iff_ne.mpr hne)]
    split <;> exact bit_setBit_same _ _ (by decide)

/-! ### Trigger generators -/

section Generator
variable {s : State} {g : Nat}

/-- The pulse of a generator that fires; none on a barred output (R60). -/
def tgPulse (g : Nat) (s : State) : State :=
  if phaseBarred s (output s (32 + g)) then s
  else updOut (32 + g) (fun y => { actPulse s.time (max (tabD s.pte.tgs g {}).width.toNat 4) y with fired := y.fired + 1 }) s

/-- A generator after it has fired for `n` targets at position `p` and time `t` (R74-R76). -/
def tgAdvance (n : Nat) (p t : W64) (stop : Bool) (x : TrigGen) : TrigGen :=
  { x with k := x.k + n, seq := x.seq + BitVec.ofNat 32 n, skip := satAdd x.skip (n - 1), lastpos := p, lasttime := t, cfg := if stop then setBit x.cfg 0 false else x.cfg }

theorem tgPulse_tgs : (tgPulse g s).pte.tgs = s.pte.tgs := by
  unfold tgPulse
  split <;> rfl

theorem tgPulse_time : (tgPulse g s).time = s.time := by
  unfold tgPulse
  split <;> rfl

/-- A stamp, handed or not, leaves the timebase. -/
theorem ite_camStamp_pte (c : Bool) (a : Nat) (b : Stamp) (z : State) : (if c then camStamp a b z else z).pte = z.pte := by
  split
  · exact camStamp_pte _ _ _
  · rfl

/-- What a generator that fires does to the timebase: its pulse, then its counts and latches; the stamp is the camera's. -/
theorem tgRun_pte {x : TrigGen} (hx : x = tabD s.pte.tgs g {}) {p : W64} (hp : p = axPos (axis s (tgAxis x)) s.now) {n : Nat} (hen : tgEn x = true)
    (hn : n = tgReached x p) (hpos : n ≠ 0) :
    (tgRun g s).pte = (updTg g (tgAdvance n p s.time (x.count != 0 && decide (x.count.toNat ≤ x.k + n))) (tgPulse g s)).pte := by
  rw [← tgPulse_time (g := g)]
  subst hx hp hn
  unfold tgRun
  dsimp only
  rw [if_pos hen, if_neg hpos]
  exact ite_camStamp_pte _ _ _ _

end Generator

theorem execTgCountReached_stop {s : State} {g : Fin 4} (hen : tgEn (tabD s.pte.tgs g {}) = true) (hc : (tabD s.pte.tgs g {}).count ≠ 0)
    (hk : (tabD s.pte.tgs g {}).count.toNat ≤ (tabD s.pte.tgs g {}).k) :
    execTgCountReached g s = done (updTg g (fun x => { x with cfg := setBit x.cfg 0 false }) s) := by
  unfold execTgCountReached
  exact if_pos (Bool.and_eq_true_iff.mpr ⟨Bool.and_eq_true_iff.mpr ⟨hen, bne_iff_ne.mpr hc⟩, decide_eq_true hk⟩)

/-- A write to TG_CFG of a stopped generator (R77, R655). -/
theorem writeTgCfg_stopped {s : State} {g : Nat} {v : W32} (hen : tgEn (tabD s.pte.tgs g {}) = false) :
    writeTgCfg g v s = if bit (v &&& 0xFF) 0 then
        (if axEn (axis s (fld (v &&& 0xFF) 3 1)) then tgRun g (updTg g (fun y => { y with cfg := v &&& 0xFF, k := 0 }) s)
         else cfgIgnored (updTg g (fun y => { y with cfg := setBit (v &&& 0xFF) 0 false }) s))
      else updTg g (fun y => { y with cfg := v &&& 0xFF }) s := by
  unfold writeTgCfg
  exact if_neg (Bool.eq_false_iff.mp hen)

theorem bit_zero_maskFF (v : W32) : bit (v &&& 0xFF) 0 = bit v 0 := by
  rw [bit_and]
  exact Bool.and_true _

/-- Settles O25: a generator that fires by `tgRun_pte`, a write by EN of the value and of the axis. -/
theorem generatorCommandsComplete : Obligations.GeneratorCommandsComplete := by
  intro s g v t x hx
  refine ⟨by rw [exec_tgFire, execTgFire, done_eq], fun n hen hn hpos => ?fires, fun hen hc hk => ?count, fun hen hv => ?stop, fun hen hv ha => ?start,
    fun hen hv ha => ?ignored⟩
  case fires =>
    have hrun := tgRun_pte hx rfl hen hn hpos
    have htg : tabD (tgRun g s).pte.tgs g {} = tgAdvance n (axPos (axis s (tgAxis x)) s.now) s.time (x.count != 0 && decide (x.count.toNat ≤ x.k + n)) x := by
      rw [hrun, tg_updTg, if_pos ⟨rfl, g.isLt⟩, tgPulse_tgs, ← hx]
    refine ⟨by rw [htg]; rfl, by rw [htg]; rfl, by rw [htg]; rfl, by rw [htg]; rfl, by rw [htg]; rfl, fun hb => ?_⟩
    have hout : output (tgRun g s) (32 + g) = output (tgPulse g s) (32 + g) := (congrArg (fun p : Pte => tabD p.outs (32 + g) {}) hrun :)
    rw [hout, tgPulse, if_neg (by simp [hb]), output_updOut_same _ _ _ (by omega), ← hx]
  case count =>
    subst hx
    rw [exec_tgCountReached, execTgCountReached_stop hen hc hk, done_eq]
  case stop =>
    rw [exec_tgCfgWrite, execTgCfgWrite, done_eq, writeTgCfg_stopped (hx ▸ hen), if_neg (Bool.eq_false_iff.mp ((bit_zero_maskFF v).trans hv))]
  case start =>
    rw [exec_tgCfgWrite, execTgCfgWrite, done_eq, writeTgCfg_stopped (hx ▸ hen), if_pos ((bit_zero_maskFF v).trans hv), if_pos ha]
  case ignored =>
    rw [exec_tgCfgWrite, execTgCfgWrite, done_eq, writeTgCfg_stopped (hx ▸ hen), if_pos ((bit_zero_maskFF v).trans hv), if_neg (Bool.eq_false_iff.mp ha)]
    rfl

end Sys2Proof.Machine


/-! Axis events and the registers of axes (02). -/
namespace Sys2Proof.Machine

/-! ### Edges (R45-R51) -/

theorem toCoarse_c (n : Nat) (a : Axis) : (toCoarse n a).c = a.c := by
  unfold toCoarse
  split <;> rfl

/-- The start of an interval leaves C. -/
theorem ite_locked_c (p : Bool) (a : Axis) : (if p then { a with mode := .fine } else a).c = a.c := by
  split <;> rfl

/-- A counted edge moves C by one count (R46, R52). -/
theorem countEdge_c (rev : Bool) (t : W64) (a : Axis) : (countEdge rev t a).c = oneCount rev a.c := by
  unfold countEdge
  refine (ite_locked_c _ _).trans (congrArg (oneCount rev) ?_)
  dsimp only
  split
  · exact toCoarse_c _ _
  · split
    · rfl
    · split
      · exact toCoarse_c _ _
      · rfl

section Edge
variable {s : State} {ax : Fin 8} {a b rev : Bool} {t : W64}

/-- A qualified transition of an enabled encoder axis: its levels are noted; both lines at once are a fault, one is decoded. -/
theorem execQualifiedEdge_qualified (hm : (axis s ax).mode ≠ .disabled) (hsrc : axSrc (axis s ax) = 0) (hf : edgeFiltered (axis s ax) a b (timeMax s.time t) = true) :
    execQualifiedEdge ax a b t s =
      if (axis s ax).lvA != a && (axis s ax).lvB != b then
        done (settleAxis ax (pteAlarm 1 ax (updAxis ax (fun y => { breakRun (timeMax s.time t).toNat y with inputErr := satInc y.inputErr })
          (updAxis ax (noteEdge a b (timeMax s.time t)) (s.at t)))))
      else match decodeEdge (axDecode (axis s ax)) (axis s ax).lvA (axis s ax).lvB a b (axInvert (axis s ax)) with
        | none => done (updAxis ax (noteEdge a b (timeMax s.time t)) (s.at t))
        | some rev => done (settleAxis ax (updAxis ax (countEdge rev (timeMax s.time t)) (updAxis ax (noteEdge a b (timeMax s.time t)) (s.at t)))) := by
  unfold execQualifiedEdge
  have hf' : edgeFiltered (axis (s.at t) ax) a b (s.at t).time = true := hf
  have hoff : (axSrc (axis s ax) != 0 || (axis s ax).mode == .disabled) = false := by
    rw [hsrc, beq_eq_false_iff_ne.mpr hm]
    rfl
  have hoff' : (axSrc (axis (s.at t) ax) != 0 || (axis (s.at t) ax).mode == .disabled) = false := hoff
  dsimp only
  rw [hf', hoff']
  rfl

theorem execQualifiedEdge_unfiltered (hf : edgeFiltered (axis s ax) a b (timeMax s.time t) = false) : execQualifiedEdge ax a b t s = done (s.at t) := by
  have hf' : edgeFiltered (axis (s.at t) ax) a b (s.at t).time = false := hf
  unfold execQualifiedEdge
  dsimp only
  rw [hf']
  rfl

/-- A rising edge of Z at an encoder axis latches the position; with ZEN, on an enabled axis, it loads AX_ZLOAD (R48). -/
theorem execZEdge_qualified (hsrc : axSrc (axis s ax) = 0) (hf : filtered (axis s ax) 2 (axis s ax).qZ (timeMax s.time t) = true) :
    execZEdge ax t s =
      if axZen (axis s ax) && (axis s ax).mode != .disabled then
        done (settleAxis ax (updAxis ax (fun y => { y with c := y.zload, pos := y.zload, base := y.zload, te := timeMax s.time t })
          (updAxis ax (fun y => { y with zlatch := axPos y (timeMax s.time t).toNat, qZ := some (timeMax s.time t) }) (s.at t))))
      else done (updAxis ax (fun y => { y with zlatch := axPos y (timeMax s.time t).toNat, qZ := some (timeMax s.time t) }) (s.at t)) := by
  have hskip : (axSrc (axis s ax) != 0 || !(filtered (axis s ax) 2 (axis s ax).qZ (timeMax s.time t))) = false := by
    rw [hsrc, hf]
    rfl
  unfold execZEdge
  exact if_neg (Bool.eq_false_iff.mp hskip)

theorem execAxStallExpiry_due {l : W64} (hsrc : axSrc (axis s ax) = 0) (hm : (axis s ax).mode = .fine) (hl : (axis s ax).lastT = some l)
    (h : l.toNat + (axis s ax).stall.toNat ≤ (timeMax s.time t).toNat) :
    execAxStallExpiry ax t s = done (settleAxis ax (updAxis ax (fun y => toCoarse (timeMax s.time t).toNat y) (s.at t))) := by
  unfold execAxStallExpiry
  refine if_pos ?_
  show (axSrc (axis s ax) == 0 && (axis s ax).mode == .fine && (match (axis s ax).lastT with
    | some l => decide (l.toNat + (axis s ax).stall.toNat ≤ (timeMax s.time t).toNat) | none => false)) = true
  rw [hsrc, hm, hl]
  exact decide_eq_true h

theorem execMainsPulseMissing_due {l : W64} (hsrc : axSrc (axis s ax) = 1) (hm : (axis s ax).mode = .locked) (hl : (axis s ax).lastT = some l)
    (h : 3 * sumN (axis s ax).ivals ≤ 8 * ((timeMax s.time t).toNat - l.toNat)) :
    execMainsPulseMissing ax t s = done (settleAxis ax (unlockAxis ax (s.at t))) := by
  unfold execMainsPulseMissing
  refine if_pos ?_
  show (axSrc (axis s ax) == 1 && (axis s ax).mode == .locked && (match (axis s ax).lastT with
    | some l => decide (3 * sumN (axis s ax).ivals ≤ 8 * ((timeMax s.time t).toNat - l.toNat)) | none => false)) = true
  rw [hsrc, hm, hl]
  exact decide_eq_true h

/-- An edge of MPH that passes the filter at an enabled mains axis is noted; one that EDGE does not select does no more. -/
theorem execMainsPulse_other (hm : (axis s ax).mode ≠ .disabled) (hsrc : axSrc (axis s ax) = 1)
    (hf : filtered (axis s ax) 1 (axis s ax).qA (timeMax s.time t) = true) (hr : mphSelects (axis s ax) rev = false) :
    execMainsPulse ax { t := t, rise := rev } s = done (updAxis ax (fun y => { y with qA := some (timeMax s.time t) }) (s.at t)) := by
  have hskip : (axSrc (axis s ax) != 1 || (axis s ax).mode == .disabled || !(filtered (axis s ax) 1 (axis s ax).qA (timeMax s.time t))) = false := by
    rw [hsrc, hf, beq_eq_false_iff_ne.mpr hm]
    rfl
  have hsel : (!(mphSelects (axis s ax) rev)) = true := by rw [hr]; rfl
  unfold execMainsPulse
  exact (if_neg (Bool.eq_false_iff.mp hskip)).trans (if_pos hsel)

/-- The pulse by which a mains axis begins its next cycle (R55, R56). -/
def mainsBoundary (now : W64) (y : Axis) : Axis :=
  { y with lastT := some now, k := nextCycle y, pos := y.base + BitVec.ofNat 64 (nextCycle y * axCpc y), te := now - BitVec.ofNat 64 (fld y.moffs 19 0) }

/-- The first selected pulse of a coarse mains axis: no period can be judged yet. -/
theorem execMainsPulse_first (hm : (axis s ax).mode = .coarse) (hsrc : axSrc (axis s ax) = 1)
    (hf : filtered (axis s ax) 1 (axis s ax).qA (timeMax s.time t) = true) (hr : mphSelects (axis s ax) rev = true) (hl : (axis s ax).lastT = none) :
    execMainsPulse ax { t := t, rise := rev } s =
      done (updAxis ax (fun y => if y.mode == .coarse && mainsConsist y.ivals == 4 then { y with mode := .locked } else y)
        (settleAxis ax (updAxis ax (mainsBoundary (timeMax s.time t)) (updAxis ax (fun y => { y with qA := some (timeMax s.time t) }) (s.at t))))) := by
  have hskip : (axSrc (axis s ax) != 1 || (axis s ax).mode == .disabled || !(filtered (axis s ax) 1 (axis s ax).qA (timeMax s.time t))) = false := by
    rw [hsrc, hf, hm]
    rfl
  have hsel : (!(mphSelects (axis s ax) rev)) = false := by rw [hr]; rfl
  have hl' : (axis (s.at t) ax).lastT = none := hl
  unfold execMainsPulse
  refine (if_neg (Bool.eq_false_iff.mp hskip)).trans ((if_neg (Bool.eq_false_iff.mp hsel)).trans ?_)
  dsimp only
  rw [hl', Option.map_none, Option.any_none, Option.any_none, Bool.and_false]
  rfl

end Edge

/-- Settles O26: each event by the branch of its command that the conditions select. -/
theorem axisEventsComplete : Obligations.AxisEventsComplete := by
  intro s ax a b rev t now x hx hnow
  subst hx hnow
  refine ⟨fun hm hsrc hf hab hd => ⟨?counted, countEdge_c rev _ _⟩, fun hm hsrc hf ha hb => ?fault, fun hf => ?unfiltered, fun hsrc hf hz => ?latch,
    fun hm hsrc hf hz => ?load, fun l hsrc hm hl h => ?stall, fun hsrc hf hr hm hl _ => ⟨nextCycle (axis s ax), rfl, rfl, ?pulse⟩,
    fun hsrc hf hr hm => ?other, fun l hsrc hm hl h => ?missing⟩
  case counted =>
    have hone : ((axis s ax).lvA != a && (axis s ax).lvB != b) = false := by
      obtain h | h := hab <;> simp [h]
    rw [exec_qualifiedEdge, execQualifiedEdge_qualified hm hsrc hf, hone, hd]
    exact done_eq _
  case fault =>
    have hboth : ((axis s ax).lvA != a && (axis s ax).lvB != b) = true := Bool.and_eq_true_iff.mpr ⟨bne_iff_ne.mpr ha, bne_iff_ne.mpr hb⟩
    rw [exec_qualifiedEdge, execQualifiedEdge_qualified hm hsrc hf, if_pos hboth, done_eq]
  case unfiltered => rw [exec_qualifiedEdge, execQualifiedEdge_unfiltered hf, done_eq]
  case latch =>
    have hno : (axZen (axis s ax) && (axis s ax).mode != .disabled) = false := by
      obtain h | h := hz <;> simp [h]
    rw [exec_zEdge, execZEdge_qualified hsrc hf, if_neg (Bool.eq_false_iff.mp hno), done_eq]
  case load => rw [exec_zEdge, execZEdge_qualified hsrc hf, if_pos (Bool.and_eq_true_iff.mpr ⟨hz, bne_iff_ne.mpr hm⟩), done_eq]
  case stall => rw [exec_axStallExpiry, execAxStallExpiry_due hsrc hm hl h, done_eq]
  case pulse =>
    have hat : axis (updAxis ax (fun y => { y with qA := some (timeMax s.time t) }) (s.at t)) ax = { axis s ax with qA := some (timeMax s.time t) } :=
      axis_updAxis_same _ _ _ ax.isLt
    rw [exec_mainsPulse, execMainsPulse_first hm hsrc hf hr hl, done_eq, updAxis_congr _ _ (f := mainsBoundary _) (g := fun y =>
      { y with lastT := some (timeMax s.time t), k := nextCycle (axis s ax), pos := y.base + BitVec.ofNat 64 (nextCycle (axis s ax) * axCpc y)
               te := timeMax s.time t - BitVec.ofNat 64 (fld y.moffs 19 0) })]
    rw [hat]
    rfl
  case other => rw [exec_mainsPulse, execMainsPulse_other hm hsrc hf hr, done_eq]
  case missing => rw [exec_mainsPulseMissing, execMainsPulseMissing_due hsrc hm hl h, done_eq]

/-! ### Registers of axes (R40, R43, R44, R77, R79) -/

section AxisWrite
variable {s : State} {a : Nat} {v : W32}

/-- AX_CFG of an enabled axis takes EN alone; another field that differs is ignored and shown (R77). -/
theorem writeAxCfg_enabled (h : axEn (axis s a) = true) :
    writeAxCfg a v s = if bit (v &&& 0x3FF) 0 then (if (v &&& 0x3FF) ||| 1 != (axis s a).cfg then cfgIgnored s else s)
      else disableAxis a false (if (v &&& 0x3FF) ||| 1 != (axis s a).cfg then cfgIgnored s else s) := by
  unfold writeAxCfg
  exact if_pos h

/-- AX_CFG of a disabled axis takes every field, then EN enables it. -/
theorem writeAxCfg_disabled (h : axEn (axis s a) = false) :
    writeAxCfg a v s = if bit (v &&& 0x3FF) 0 then enableAxis a false (updAxis a (fun y => { y with cfg := setBit (v &&& 0x3FF) 0 false }) s)
      else updAxis a (fun y => { y with cfg := setBit (v &&& 0x3FF) 0 false }) s := by
  unfold writeAxCfg
  exact if_neg (Bool.eq_false_iff.mp h)

theorem hostPos_driven {p : W64} (hen : axEn (axis s a) = true) (hsrc : axSrc (axis s a) = 3) :
    hostPos a p s = settleAxis a (updAxis a (fun y => { y with pos := p, rev := if sdiff p y.pos = 0 then y.rev else decide (sdiff p y.pos < 0) }) s) := by
  unfold hostPos
  exact if_pos (by rw [hen, hsrc]; rfl)

theorem bit_zero_mask3FF (v : W32) : bit (v &&& 0x3FF) 0 = bit v 0 := mask3FF v 0

/-- SRC lies below the mask of AX_CFG. -/
theorem fld_src_mask3FF (v : W32) : fld (v &&& 0x3FF) 2 1 = fld v 2 1 := by
  apply Nat.eq_of_testBit_eq
  intro i
  rw [testBit_fld, testBit_fld, mask3FF]
  by_cases hi : i < 2
  · rw [decide_eq_true (show 1 + i < 10 by omega), Bool.true_and]
  · rw [decide_eq_false (show ¬ i < 2 + 1 - 1 by omega), Bool.false_and, Bool.false_and]

/-- A host-driven axis after EN is set: fine, at AX_ZLOAD (R40, R43). -/
def hostEnabled (cfg : W32) (now : W64) (y : Axis) : Axis :=
  { y with cfg := cfg, mode := .fine, pos := y.zload, c := y.zload, base := y.zload, te := now, tEn := now, k := 0, lastT := none, ivals := [] }

theorem enableAxis_host (h0 : bit (v &&& 0x3FF) 0 = true) (hsrc : fld (v &&& 0x3FF) 2 1 = 3) :
    enableAxis a false (updAxis a (fun y => { y with cfg := setBit (v &&& 0x3FF) 0 false }) s) = settleAxis a (updAxis a (hostEnabled (v &&& 0x3FF) s.time) s) := by
  have hsrc' : ∀ y : Axis, axSrc { y with cfg := setBit (v &&& 0x3FF) 0 false } = 3 := fun y => by
    refine Eq.trans ?_ hsrc
    apply Nat.eq_of_testBit_eq
    intro i
    show (fld (setBit (v &&& 0x3FF) 0 false) 2 1).testBit i = _
    rw [testBit_fld, testBit_fld, bit_setBit, if_neg (by omega)]
  unfold enableAxis
  dsimp only
  rw [updAxis_updAxis]
  refine congrArg (settleAxis a) (updAxis_congr _ _ ?_)
  dsimp only
  rw [hsrc', setBit_setBit, setBit_same _ _ _ h0]
  rfl

/-- A read of the lower word of PTE_TIME latches its upper word (R79). -/
theorem pteRead32_time (h : pairGet s.pte.latch 8 = none) :
    pteRead32 8 s = (half64 s.time false, { s with pte := { s.pte with latch := pairPut s.pte.latch 12 (some (half64 s.time true)) } }) := by
  unfold pteRead32
  rw [h]
  rfl

end AxisWrite

/-- Settles O27: AX_CFG by EN as it stands and as written; AX_HOSTPOS by its half; a lower word is read with its upper word latched. -/
theorem axisWritesComplete : Obligations.AxisWritesComplete := by
  intro s a v p x hx
  subst hx
  have hv0 := bit_zero_mask3FF v
  refine ⟨fun hen h0 => ?fields, fun hen h0 hc => ?kept, fun hen h0 hc => ?ignored, fun hen h0 hc => ?disables, fun hen h0 hsrc => ?enables,
    fun hen hsrc => ?host, ?lower, fun hl => ?latch⟩
  case fields => rw [exec_axCfgWrite, execAxCfgWrite, done_eq, writeAxCfg_disabled hen, if_neg (Bool.eq_false_iff.mp (hv0.trans h0))]
  case kept =>
    have hsame : ((v &&& 0x3FF) ||| 1 != (axis s a).cfg) = false := by
      rw [← hc]
      exact bne_eq_false_iff_eq.mpr (or_one _ (hv0.trans h0))
    rw [exec_axCfgWrite, execAxCfgWrite, done_eq, writeAxCfg_enabled hen, if_pos (hv0.trans h0), hsame]
    rfl
  case ignored =>
    have hdiff : ((v &&& 0x3FF) ||| 1 != (axis s a).cfg) = true := by
      refine bne_iff_ne.mpr ?_
      exact (or_one _ (hv0.trans h0)).trans_ne hc
    rw [exec_axCfgWrite, execAxCfgWrite, done_eq, writeAxCfg_enabled hen, if_pos (hv0.trans h0), if_pos hdiff]
    rfl
  case disables =>
    rw [exec_axCfgWrite, execAxCfgWrite, done_eq, writeAxCfg_enabled hen, if_neg (Bool.eq_false_iff.mp (hv0.trans h0)), hc, bne_self_eq_false]
    rfl
  case enables =>
    rw [exec_axCfgWrite, execAxCfgWrite, done_eq, writeAxCfg_disabled hen, if_pos (hv0.trans h0), enableAxis_host (hv0.trans h0) ((fld_src_mask3FF v).trans hsrc)]
    rfl
  case host => rw [exec_axHostposWrite, execAxHostposWrite, done_eq, writeHostpos, hostPos_driven hen hsrc]
  case lower => rw [exec_axHostposWrite, execAxHostposWrite, done_eq, writeHostpos]
  case latch =>
    have hlo : (half64 s.time false).toNat = s.time.toNat % 2 ^ 32 := BitVec.toNat_ofNat _ _
    rw [exec_lowerWordRead, execLowerWordRead, if_pos (by decide)]
    show (let (v, z) := pteRead32 8 s; done { z with readData := BitVec.ofNat 64 v.toNat }) = _
    rw [pteRead32_time (by rw [hl]; rfl)]
    dsimp only
    rw [hlo, done_eq, hl]
    rfl

end Sys2Proof.Machine


/-! The safety island (19): trips, monitors, arming. -/
namespace Sys2Proof.Machine

/-! ### Trips (R613, R614) -/

/-- The state in which the cause of a trip is logged and latched. -/
def tripNoted (code unit detail : Nat) (classA : Bool) (s : State) : State :=
  updSfi (fun x => { x with latchA := x.latchA || classA, powerOnly := x.powerOnly && code == causePower }) (sfiLog code unit detail s)

/-- What a trip from ARMING or ARMED makes of the safety island. -/
def sfiTripped (code : Nat) (x : Sfi) : Sfi :=
  { x with state := .hold, cmdA := true, cmdB := true, trips := satInc x.trips, cause := BitVec.ofNat 8 code, powerOnly := code == causePower }

section Trip
variable {s : State} {code unit detail : Nat} {classA : Bool}

theorem trip_of_active (h : s.sfi.state = .armed ∨ s.sfi.state = .arming) :
    trip code unit detail classA s = postAlarm 0x1E 0xFFFF code (updSfi (sfiTripped code) (pteSafe (tripNoted code unit detail classA s))) := by
  unfold trip
  obtain h | h := h <;> · dsimp only; rw [h]; rfl

theorem trip_of_hold (h : s.sfi.state = .hold) :
    trip code unit detail classA s =
      updSfi (fun x => { x with cause := if x.cause = 0 then BitVec.ofNat 8 code else x.cause }) (tripNoted code unit detail classA s) := by
  unfold trip
  dsimp only
  rw [h]
  rfl

end Trip

/-- Under the forced safe state no output is active and no hit pends (R69). -/
theorem outputsIdle_pteSafe (s : State) : OutputsIdle (pteSafe s) := by
  unfold OutputsIdle
  rw [List.all_eq_true]
  intro o ho
  obtain ⟨i, hi, rfl⟩ := mem_outs _ o ho
  rw [pteSafe_output _ _ hi]
  rfl

theorem hitsUsed_pteSafe (s : State) : hitsUsed (pteSafe s) = 0 := by
  unfold hitsUsed
  rw [sum_foldl_add, Nat.zero_add]
  refine sum_zero _ fun n hn => ?_
  obtain ⟨o, ho, rfl⟩ := List.mem_map.mp hn
  obtain ⟨i, hi, rfl⟩ := mem_outs _ o ho
  rw [pteSafe_output _ _ hi]
  rfl

/-- Settles O28: the trip is logged, then `pteSafe` forces the outputs and leaves everything else. -/
theorem tripForcesSafeState : Obligations.TripForcesSafeState := by
  intro s t code unit detail classA hact ht
  obtain ⟨z, hz⟩ : ∃ z, z = tripNoted code unit detail classA s := ⟨_, rfl⟩
  have honly : pteSafe z = { z with pte := (pteSafe z).pte } := pteSafe_only z
  have hsfi : (pteSafe z).sfi = z.sfi := by rw [honly]
  have hhi : (pteSafe z).hi = s.hi := by rw [honly, hz]; rfl
  have hmm : (pteSafe z).mm = s.mm := by rw [honly, hz]; rfl
  have hex : (pteSafe z).ex = s.ex := by rw [honly, hz]; rfl
  have hlog : tabD z.sfi.log (s.sfi.causeSeq.toNat % 16) {} = { code := BitVec.ofNat 8 code, unit := BitVec.ofNat 8 unit, detail := BitVec.ofNat 32 detail, time := s.time } := by
    rw [hz]
    exact tabD_tabUpd_same _ _ _ (Nat.mod_lt _ (by decide))
  have hgen : ∀ g, g < 4 → tgEn (tabD (pteSafe z).pte.tgs g {}) = false := fun g hg => by
    rw [pteSafe_tgs, tabD_map _ _ _ hg]
    show bit (setBit _ 0 false) 0 = false
    rw [bit_setBit, if_pos rfl, Bool.and_false]
  have hout : ∀ o, o < 36 → (output (pteSafe z) o).until' = some s.time := fun o ho => by
    rw [pteSafe_output _ _ ho, hz]
    rfl
  rw [trip_of_active hact, ← hz] at ht
  have htsfi : t.sfi = sfiTripped code z.sfi := by
    rw [ht, ← hsfi]
    rfl
  have htpte : t.pte = (pteSafe z).pte := by
    rw [ht]
    rfl
  have haxis : ∀ a, axis t a = axis (pteSafe z) a := fun a => by
    unfold axis
    rw [htpte]
  refine ⟨by rw [htsfi]; rfl, by rw [htsfi]; rfl, by rw [htsfi]; rfl, by rw [htpte]; rfl, ?idle, ?used, fun o ho => ?until', fun g hg => by rw [htpte]; exact hgen g hg,
    by rw [htsfi, hz]; rfl, by rw [htsfi, hz]; rfl, by rw [htsfi, hz]; rfl, by rw [htsfi]; rfl, ?log, ?alarm, fun a => ?axis, ?mm, ?ex⟩
  case idle =>
    have := outputsIdle_pteSafe z
    unfold OutputsIdle at this ⊢
    rwa [htpte]
  case used =>
    have := hitsUsed_pteSafe z
    unfold hitsUsed at this ⊢
    rwa [htpte]
  case until' =>
    have := hout o ho
    unfold output at this ⊢
    rwa [htpte]
  case log =>
    rw [htsfi]
    exact hlog
  case alarm =>
    rw [ht, ← hhi]
    rfl
  case axis =>
    rw [haxis, (pteSafe_axis z a).1, (pteSafe_axis z a).2, hz]
    exact ⟨rfl, rfl⟩
  case mm => rw [ht, ← hmm]; rfl
  case ex => rw [ht, ← hex]; rfl

/-- Settles O29: in HOLD a trip logs, latches and keeps the first cause. -/
theorem tripInHoldIsLogged : Obligations.TripInHoldIsLogged := by
  intro s t code unit detail classA hhold hcause ht
  subst ht
  rw [trip_of_hold hhold]
  refine ⟨hhold, ?_, rfl, rfl, rfl, rfl, rfl⟩
  exact if_neg hcause

/-! ### Monitors (R610, R611) -/

section Monitor
variable {s : State} {t : W64} (hon : sfiOn s = true)
include hon

theorem sfiOn_at : sfiOn (s.at t) = true := hon

theorem execReadbackMismatch_driven {o : Fin 36} {d : Bool} (hd : outDrive (s.at t) (output s o.val) = some d) :
    execReadbackMismatch o t s = done (trip 0x04 o 0 false (pteAlarm 4 o (updOut o (fun x => { x with force := some (!d) }) (s.at t)))) := by
  have hd' : outDrive (s.at t) (output (s.at t) o.val) = some d := hd
  have hon' : sfiOn (s.at t) = true := hon
  unfold execReadbackMismatch
  dsimp only
  rw [hd', hon']

theorem execSafeBall_on (chB : Bool) :
    execSafeBall chB t s = done (trip 0x0F 0 0 false (if chB then updSfi (fun x => { x with forceB := some (!x.cmdB) }) (s.at t)
      else updSfi (fun x => { x with forceA := some (!x.cmdA) }) (s.at t))) := by
  unfold execSafeBall
  exact if_pos hon

theorem execDisarm_active (h : s.sfi.state = .armed ∨ s.sfi.state = .arming) :
    execDisarm t s = done (trip 0x0D 0 0 false (updSfi (fun x => { x with armIn := false }) (s.at t))) := by
  have harmed : sfiArmed s = true := by
    unfold sfiArmed
    obtain h | h := h <;> rw [h] <;> rfl
  unfold execDisarm
  exact if_pos (Bool.and_eq_true_iff.mpr ⟨harmed, hon⟩)

/-- Without a configuration block the diagnostics find nothing but what the tests of RAM and hit entries bring (R611). -/
theorem execSoftwareAssistedDiagnostics_hold (hh : s.sfi.halted = false) (hs : s.sfi.state = .hold) (hc : s.sfi.scb = none) (ram hit : Option W32) :
    execSoftwareAssistedDiagnostics ram hit t s = done (match hit with
      | some w => trip 0x03 0 w.toNat true (match ram with | some w => trip 0x0B 0 w.toNat true (updSfi (fun x => { x with diag := [] }) (s.at t)) | none => updSfi (fun x => { x with diag := [] }) (s.at t))
      | none => match ram with | some w => trip 0x0B 0 w.toNat true (updSfi (fun x => { x with diag := [] }) (s.at t)) | none => updSfi (fun x => { x with diag := [] }) (s.at t)) := by
  have hrun : (sfiOn (s.at t) && !(s.at t).sfi.halted && (s.at t).sfi.state != .boot) = true := by
    show (sfiOn s && !s.sfi.halted && s.sfi.state != .boot) = true
    rw [hon, hh, hs]
    rfl
  have hfind : diagFind (s.at t) = [] := by
    unfold diagFind
    show (match s.sfi.scb with | none => [] | some c => _) = _
    rw [hc]
  unfold execSoftwareAssistedDiagnostics
  dsimp only
  rw [if_pos hrun, hfind]
  rfl

end Monitor

/-- Settles O30: each event is its trip while the safety island is on. -/
theorem monitorEventsTrip : Obligations.MonitorEventsTrip := by
  intro s t hon
  have hon' : sfiOn (s.at t) = true := hon
  refine ⟨?sfi, fun o => ?pte, fun o e => ?hit, fun o d hd => ?readback, fun c => ?clock, fun r => ?voltage, ?safeA, ?safeB, fun h => ?disarm,
    fun w hh hs hc => ⟨?ram, ?entry, ?clean⟩⟩
  case sfi => rw [exec_lockstepSfi, execLockstepSfi, if_pos hon', done_eq]
  case pte => rw [exec_lockstepPte, execLockstepPte, if_pos hon', done_eq]
  case hit => rw [exec_hitFire, execHitFire]; exact done_eq _
  case readback => rw [exec_readbackMismatch, execReadbackMismatch_driven hon hd, done_eq]
  case clock => rw [exec_clock, execClock, if_pos hon', done_eq]
  case voltage => rw [exec_voltage, execVoltage, if_pos hon', done_eq]
  case safeA => rw [exec_safeBall, execSafeBall_on hon, done_eq]; rfl
  case safeB => rw [exec_safeBall, execSafeBall_on hon, done_eq]; rfl
  case disarm => rw [exec_disarm, execDisarm_active hon h, done_eq]
  case ram => rw [exec_softwareAssistedDiagnostics, execSoftwareAssistedDiagnostics_hold hon hh hs hc, done_eq]
  case entry => rw [exec_softwareAssistedDiagnostics, execSoftwareAssistedDiagnostics_hold hon hh hs hc, done_eq]
  case clean => rw [exec_softwareAssistedDiagnostics, execSoftwareAssistedDiagnostics_hold hon hh hs hc, done_eq]

/-! ### Arming (R606, R608) -/

section Arming
variable {s : State}

theorem armBarred_eq_false (hs : s.sfi.state = .hold) (ha : s.sfi.latchA = false) (hh : s.sfi.halted = false) (hm : sfiMon s = 0) (hr : requiredRunning s = true) :
    armBarred s = false := by
  unfold armBarred
  rw [hs, ha, hh, hm, hr]
  rfl

theorem armBarred_eq_true (h : s.sfi.state ≠ .hold ∨ s.sfi.latchA = true ∨ sfiMon s ≠ 0 ∨ requiredRunning s = false) : armBarred s = true := by
  unfold armBarred
  simp only [Bool.or_eq_true, bne_iff_ne, Bool.not_eq_true']
  tauto

theorem armFinish_armed (hon : sfiOn s = true) (hs : s.sfi.state = .arming) (hh : s.sfi.halted = false) (hok : s.sfi.armOk = (true, true)) :
    armFinish s = updPte (fun p => { p with safeState := false }) (updSfi (fun x => { x with
      state := .armed, cmdA := false, cmdB := false, forceA := none, forceB := none, arms := satInc x.arms, cause := 0, powerOnly := false
      misses := Vector.replicate 16 [], lates := Vector.replicate 16 [], axLates := Vector.replicate 8 []
      armAx := Vector.ofFn fun i => (axis s i.val).cfg
      armOut := Vector.ofFn fun i => (output s i.val).cfg }) s) := by
  have hgo : (s.sfi.state != .arming || !(sfiOn s) || s.sfi.halted) = false := by rw [hs, hon, hh]; rfl
  have hballs : (!s.sfi.armOk.1 || !s.sfi.armOk.2) = false := by rw [hok]; rfl
  unfold armFinish
  rw [hgo, hballs]
  rfl

theorem armFinish_failed (hon : sfiOn s = true) (hs : s.sfi.state = .arming) (hh : s.sfi.halted = false) (hok : s.sfi.armOk ≠ (true, true)) :
    armFinish s = armFail s := by
  have hgo : (s.sfi.state != .arming || !(sfiOn s) || s.sfi.halted) = false := by rw [hs, hon, hh]; rfl
  have hballs : (!s.sfi.armOk.1 || !s.sfi.armOk.2) = true := by
    by_contra h
    simp only [Bool.or_eq_true, Bool.not_eq_true', not_or, Bool.not_eq_false] at h
    exact hok (Prod.ext h.1 h.2)
  unfold armFinish
  rw [hgo, hballs]
  rfl

end Arming

/-- An entry of a table of empty lists. -/
theorem tabD_replicate_nil {α : Type} (n b : Nat) : tabD (Vector.replicate n ([] : List α)) b [] = [] := by
  by_cases h : b < n
  · rw [tabD_lt _ _ h, Vector.getElem_replicate]
  · exact tabD_ge _ _ (Nat.le_of_not_lt h)

/-- Settles O31: the conditions of R606 are `armBarred`'s; ARMING ends by what the balls did. -/
theorem armingSequence : Obligations.ArmingSequence := by
  intro s t okA okB
  refine ⟨fun hon hs ha hh hm hr hA hB => ?begins, fun hon h => ?refused, fun hon hs hh hok => ?armed, fun hon hs hh hok => ?failed⟩
  case begins =>
    have hon' : (!(sfiOn (updSfi (fun x => { x with armIn := true }) (s.at t)))) = false := congrArg (!·) hon
    have hbar : armBarred (updSfi (fun x => { x with armIn := true }) (s.at t)) = false := armBarred_eq_false hs ha hh hm hr
    have hballs : (safeAAsserted (updSfi (fun x => { x with armIn := true }) (s.at t)) && safeBAsserted (updSfi (fun x => { x with armIn := true }) (s.at t))) = true :=
      Bool.and_eq_true_iff.mpr ⟨hA, hB⟩
    rw [exec_sfiArmNFallingEdge, execSfiArmNFallingEdge]
    rw [hon', hbar, arming, if_pos hballs]
    exact done_eq _
  case refused =>
    have hon' : (!(sfiOn (updSfi (fun x => { x with armIn := true }) (s.at t)))) = false := congrArg (!·) hon
    have hbar : armBarred (updSfi (fun x => { x with armIn := true }) (s.at t)) = true := armBarred_eq_true h
    rw [exec_sfiArmNFallingEdge, execSfiArmNFallingEdge]
    rw [hon', hbar]
    exact done_eq _
  case armed =>
    rw [armFinish_armed hon hs hh hok]
    exact ⟨rfl, rfl, rfl, rfl, rfl, fun b => ⟨tabD_replicate_nil _ _, tabD_replicate_nil _ _, tabD_replicate_nil _ _⟩⟩
  case failed =>
    rw [armFinish_failed hon hs hh hok]
    exact ⟨rfl, rfl, rfl, rfl, rfl, rfl, rfl, rfl⟩

/-! ### Deadlines (R225, R226) -/

section Deadline
variable {s : State} {b : Nat}

/-- Outside ARMED no missed deadline escalates (R615). -/
theorem escMiss_id (h : s.sfi.state ≠ .armed) : escMiss b s = s := by
  unfold escMiss
  split
  case h_1 hs _ => exact absurd hs h
  case h_2 => rfl

theorem braidMiss_of_not_armed (h : s.sfi.state ≠ .armed) :
    braidMiss b s = postAlarm 0x1A b 0 (icnPulse (32 + b) (updBraid b (fun x => { x with deadlineMiss := satInc x.deadlineMiss }) s)) := by
  unfold braidMiss
  exact escMiss_id h

theorem braidOf_noteKnot (o c : Nat) : braidOf (noteKnot b o s) c = braidOf s c := by
  unfold braidOf
  rw [(noteKnot_memOnly b o s).ob]

end Deadline

/-- Settles O32: conditions that end; a deadline by the unit's place against the result knot. -/
theorem monitorsAndDeadlines : Obligations.MonitorsAndDeadlines := by
  intro s n t b
  refine ⟨fun c => by rw [exec_clockInRange, execClockInRange, done_eq], fun r => by rw [exec_voltageInRange, execVoltageInRange, done_eq],
    fun o => by rw [exec_ballLevelRestored, execBallLevelRestored]; exact done_eq _, by rw [exec_ballLevelRestored, execBallLevelRestored]; exact done_eq _,
    by rw [exec_ballLevelRestored, execBallLevelRestored]; exact done_eq _, fun tn u hu hrun hdl hmem hle hres harm => ?missed, fun u hu hres => ?passed⟩
  case missed =>
    have hb : braidOf u b = braidOf s b := by rw [hu, braidOf_noteKnot]; rfl
    have hm := noteKnot_memOnly b 0x400 (s.at t)
    rw [← hu] at hm
    have hdue : ((braidOf u b).units ++ (braidOf u b).early).any (fun v => v.1 == n && !v.2.2 && decide (v.2.1.toNat + (braidOf u b).deadline.toNat ≤ u.now)) = true := by
      rw [hb]
      refine List.any_eq_true.mpr ⟨_, hmem, ?_⟩
      have hle' : tn.toNat + (braidOf s b).deadline.toNat ≤ u.now := by
        unfold State.now
        rw [hm.time]
        exact hle
      simp [hle']
    have hact : (bActive (braidOf u b) && (braidOf u b).deadline != 0) = true := by
      rw [hb, bActive, hrun]
      simpa using hdl
    rw [exec_deadlineMiss, execDeadlineMiss, ← hu]
    rw [hact, hdue, decide_eq_true hres]
    refine (if_pos rfl).trans ?_
    rw [fin_eq, braidMiss_of_not_armed (hm.sfi ▸ harm), updBraid_updBraid]
    rfl
  case passed =>
    rw [exec_deadlineMiss, execDeadlineMiss, ← hu]
    rw [decide_eq_false (by omega), Bool.and_false]
    exact fin_eq _

end Sys2Proof.Machine


/-! Integer arithmetic (04, R144) and signals to knots (10, R355). -/
namespace Sys2Proof.Machine

/-! ### Integer arithmetic -/

section Arithmetic
variable {w : W64} {rd : Nat → Nat → PV} {pr : Nat → Bool × Bool}

/-- ADD, SUB and MUL read two operands. -/
theorem arithRead_two (hop : iOp w ≤ 2) :
    arithRead w rd pr = (arithVal (iOp w) (iType w) (iMod w) (rd (iKa w) (iSa w)).1 (rd (iKb w) (iSb w)).1 0, (rd (iKa w) (iSa w)).2 || (rd (iKb w) (iSb w)).2) := by
  have hn : arithSrcs (iOp w) = 2 := by
    unfold arithSrcs
    rw [if_neg (by omega), if_neg (by omega)]
  unfold arithRead
  dsimp only
  rw [hn, if_pos (Nat.le_refl 2), if_neg (by decide : ¬ (2 = 3)), if_neg (by omega), Bool.or_false]

theorem arithVal_int {t : Nat} (ht : t = 3 ∨ t = 4) (op m : Nat) (a b c : W32) : ∃ sg, arithVal op t m a b c = intOp sg op a b c := by
  obtain rfl | rfl := ht
  · exact ⟨true, rfl⟩
  · exact ⟨false, rfl⟩

end Arithmetic

/-- Settles O59: each executing lane takes `intOp` of its operands; a write under a mask leaves the rest. -/
theorem integerArithmeticWraps : Obligations.IntegerArithmeticWraps := by
  intro s g w ext x b h hop hty
  have hgrp : valuGroup w ext (execMask x w) x =
      wrV (iDst w) (execMask x w) (fun l => arithRead w (fun k f => rdSrc x k f 0 l ext) (fun p => rdP x p l)) x := if_neg (by omega)
  have hkeep : ∀ f, let y := next w (wrV (iDst w) (execMask x w) f x)
      y.pc = x.pc + iLen w ∧ y.u = x.u ∧ y.uPoison = x.uPoison ∧ y.p = x.p ∧ y.pPoison = x.pPoison ∧ y.active = x.active ∧ y.stack = x.stack := fun f => by
    unfold wrV
    split <;> exact ⟨rfl, rfl, rfl, rfl, rfl, rfl, rfl⟩
  obtain ⟨hpc, hu, hup, hp, hpp, hact, hst⟩ := hkeep fun l => arithRead w (fun k f => rdSrc x k f 0 l ext) (fun p => rdP x p l)
  refine ⟨next w (wrV (iDst w) (execMask x w) (fun l => arithRead w (fun k f => rdSrc x k f 0 l ext) (fun p => rdP x p l)) x),
    by rw [exec_valu, execValu, issue_ok h, hgrp], hpc, hu, hup, hp, hpp, hact, hst, fun r l hr hl => ?_⟩
  have hrd : ∀ y, rdV (next w y) r l = rdV y r l := fun _ => rfl
  rw [hrd, rdV_wrV _ _ _ _ _ _ hr hl]
  refine ⟨fun a c ha hc hdst hne hm => ?lane, fun hout => if_neg fun ⟨hdst, _, hm⟩ => ?other⟩
  case lane =>
    rw [if_pos ⟨hdst, hne, hm⟩, arithRead_two hop, ← ha, ← hc]
    obtain ⟨sg, hval⟩ := arithVal_int hty (iOp w) (iMod w) a.1 c.1 0
    rw [hval]
    refine ⟨rfl, fun h0 => ?add, fun h1 => ?sub, fun h2 => ?mul⟩
    case add => rw [h0]; exact BitVec.toNat_add _ _
    case sub => rw [h1]; exact (BitVec.toNat_sub _ _).trans (by rw [Nat.add_comm])
    case mul => rw [h2]; exact BitVec.toNat_mul _ _
  case other =>
    obtain h | h := hout
    · exact h hdst
    · exact absurd hm (by simp [h])

/-! ### Signals -/

section Signal
variable {s : State} {fn a : Nat} {v w : W64}

/-- A signal to a clean device knot, by its value against VALUE (R355). -/
theorem signalNow_peat (hr : knotRead fn (.peat a) s = (w, false, s)) :
    signalNow fn (.peat a) v s = if bit v 63 then s
      else if v.toNat < knotVal w then knotWake (.peat a) w false (updHi (fun h => { h with knotStale := h.knotStale + 1 }) s)
      else if v.toNat = knotVal w then knotWake (.peat a) w false s
      else knotWake (.peat a) (setFld w 62 0 v.toNat) false (braidHook (.peat a) (knotVal w) v.toNat (knotStore fn (.peat a) (setFld w 62 0 v.toNat) s)) := by
  unfold signalNow
  rw [hr]
  rfl

theorem knotVal_lt (w : W64) : knotVal w < 2 ^ 63 := fld_lt w 62 0

theorem bit_of_lt (h : v.toNat < 2 ^ 63) : bit v 63 = false := Nat.testBit_lt_two_pow h

/-- A rise of a knot that is no braid's own sets nothing off. -/
theorem braidHook_none {pl : Place} (h : braidKnot s pl = none) (old new : Nat) : braidHook pl old new s = s := by
  unfold braidHook
  rw [h]

end Signal

/-- Settles O60: without a waiter nothing wakes; the word stored has the larger VALUE and the same ABANDON. -/
theorem knotSignalTakesMaximum : Obligations.KnotSignalTakesMaximum := by
  intro s fn a v w hr hw
  refine ⟨fun h63 => ?oversize, fun hlt => ?stale, fun heq => ?equal, fun h63 hlt => ⟨setFld w 62 0 v.toNat, ?value, ?abandon, fun hb => ?stored⟩⟩
  case oversize => rw [signalNow_peat hr, if_pos h63]
  case stale =>
    have h63 : bit v 63 = false := bit_of_lt (Nat.lt_trans hlt (knotVal_lt w))
    rw [signalNow_peat hr, h63, if_neg Bool.false_ne_true, if_pos hlt]
    exact knotWake_none (s := updHi (fun h => { h with knotStale := h.knotStale + 1 }) s) hw _ _
  case equal =>
    have h63 : bit v 63 = false := bit_of_lt (heq ▸ knotVal_lt w)
    rw [signalNow_peat hr, h63, if_neg Bool.false_ne_true, if_neg (by omega), if_pos heq]
    exact knotWake_none hw _ _
  case value => exact (fld_setFld _ _ _ _ (by decide)).trans (Nat.mod_eq_of_lt (lt63 v h63))
  case abandon => exact bit_setFld_out _ _ _ _ _ (.inr (by decide))
  case stored =>
    have hmem : MemOnly s (knotStore fn (.peat a) (setFld w 62 0 v.toNat) s) := writePlace_memOnly ..
    have hw' : hasWaiters (.peat a) (knotStore fn (.peat a) (setFld w 62 0 v.toNat) s) = false := by
      unfold hasWaiters
      rw [knotStore_ex]
      exact hw
    rw [signalNow_peat hr, h63, if_neg Bool.false_ne_true, if_neg (by omega), if_neg (by omega), braidHook_none ((braidKnot_memOnly hmem _).trans hb)]
    exact knotWake_none hw' _ _

end Sys2Proof.Machine


/-! Cameras: packets, frames and the admission of units (09, 06). -/
namespace Sys2Proof.Machine

/-! ### Packets of a sensor (R319-R322) -/

section Packet
variable {s u : State} {p : Fin 4} {vc : BitVec 5} {dt : BitVec 6} {bs : List Byte} {t : W64}

/-- A valid header leaves what a port accepts and where its unit stands. -/
theorem camOf_camHeader (p : Fin 4) (s : State) : camOf (camHeader p s) p = { camOf s p with rx := true, lastHdr := s.time } :=
  camOf_updCam _ _ _ p.isLt

theorem camOf_camCrcErr_frame (p : Nat) (s : State) : (camOf (camCrcErr p s) p).frame = (camOf s p).frame ∧ (camOf (camCrcErr p s) p).open' = (camOf s p).open' := by
  have hone : ∀ f : Cam → Cam, (∀ c, ((f c).frame, (f c).open') = (c.frame, c.open')) → ∀ z : State, ((camOf (updCam p f z) p).frame, (camOf (updCam p f z) p).open') =
      ((camOf z p).frame, (camOf z p).open') := fun f hf z =>
    tabD_tabUpd_keeps z.gx.cams f {} (fun c => (c.frame, c.open')) hf p p
  have htwo := (hone (fun c => { c with alarm := setBit c.alarm 1 true }) (fun _ => rfl) _).trans (hone (fun c => { c with cCrc := satInc c.cCrc }) (fun _ => rfl) s)
  exact Prod.mk.inj htwo

theorem camLong_line (h : (camOf s p).frame = false) : camLong p bs s = unitEnd p (unitBytes p bs (unitStart p s)) := by
  unfold camLong
  exact if_neg (Bool.eq_false_iff.mp h)

theorem camLong_open (h : (camOf s p).frame = true) (ho : (camOf s p).open'.isSome = true) : camLong p bs s = unitBytes p bs s := by
  unfold camLong
  exact (if_pos h).trans (if_neg (Bool.eq_false_iff.mp (Option.isNone_eq_false_iff.mpr ho)))

theorem camLong_closed (h : (camOf s p).frame = true) (ho : (camOf s p).open' = none) : camLong p bs s = camFrameErr p s := by
  unfold camLong
  exact (if_pos h).trans (if_pos (by rw [ho]; rfl))

/-- A long packet with a good header at an enabled port. -/
theorem execLongPacket_header (hen : (camOf s p).en = true) (crcOk : Bool) :
    execLongPacket p vc dt bs true crcOk t s =
      if !(camAccepts (camOf (camHeader p (s.at t)) p) vc dt) then fin (camHeader p (s.at t))
      else fin (camLong p bs (if crcOk then camHeader p (s.at t) else camCrcErr p (camHeader p (s.at t)))) := by
  have hen' : (!(camOf (s.at t) p).en) = false := congrArg (!·) hen
  unfold execLongPacket
  dsimp only
  rw [hen']
  rfl

/-- A long packet that the port accepts (R319). -/
theorem execLongPacket_accepted (hen : (camOf s p).en = true) (hvc : vc = (camOf s p).vc)
    (hdt : (if (camOf s p).dt = 0 then decide (0x18 ≤ dt.toNat) else dt == (camOf s p).dt) = true) (crcOk : Bool) :
    execLongPacket p vc dt bs true crcOk t s = fin (camLong p bs (if crcOk then camHeader p (s.at t) else camCrcErr p (camHeader p (s.at t)))) := by
  have hacc : camAccepts (camOf (camHeader p (s.at t)) p) vc dt = true := by
    rw [camOf_camHeader]
    show ((camOf s p).en && vc == (camOf s p).vc && _) = true
    rw [hen, hvc, beq_self_eq_true]
    exact hdt
  rw [execLongPacket_header hen, hacc]
  rfl

theorem execLongPacket_other (hen : (camOf s p).en = true) (hvc : vc ≠ (camOf s p).vc) (crcOk : Bool) :
    execLongPacket p vc dt bs true crcOk t s = fin (camHeader p (s.at t)) := by
  have hacc : camAccepts (camOf (camHeader p (s.at t)) p) vc dt = false := by
    rw [camOf_camHeader]
    show ((camOf s p).en && vc == (camOf s p).vc && _) = false
    rw [beq_eq_false_iff_ne.mpr hvc, Bool.and_false, Bool.false_and]
  rw [execLongPacket_header hen, hacc]
  rfl

theorem execLongPacket_badHeader (hen : (camOf s p).en = true) (crcOk : Bool) : execLongPacket p vc dt bs false crcOk t s = fin (camEccErr p (s.at t)) := by
  have hen' : (!(camOf (s.at t) p).en) = false := congrArg (!·) hen
  unfold execLongPacket
  dsimp only
  rw [hen']
  rfl

/-- Start and end of frame at an enabled port in frame mode, on its own channel (R322). -/
theorem execFrameStart_own (hen : (camOf s p).en = true) (hf : (camOf s p).frame = true) (hvc : vc = (camOf s p).vc) (ho : (camOf s p).open' = none) :
    execFrameStart p vc t s = fin (unitStart p (camHeader p (s.at t))) := by
  have hat : camOf (s.at t) p = camOf s p := rfl
  unfold execFrameStart
  dsimp only
  rw [hat, hen, hf, hvc, ho, bne_self_eq_false]
  rfl

theorem execFrameEnd_own (hen : (camOf s p).en = true) (hf : (camOf s p).frame = true) (hvc : vc = (camOf s p).vc) (ho : (camOf s p).open'.isSome = true) :
    execFrameEnd p vc t s = fin (unitEnd p (camHeader p (s.at t))) := by
  have hat : camOf (s.at t) p = camOf s p := rfl
  unfold execFrameEnd
  dsimp only
  rw [hat, hen, hf, hvc, bne_self_eq_false, if_neg (by decide), if_neg (Bool.eq_false_iff.mp (Option.isNone_eq_false_iff.mpr ho))]
  rfl

end Packet

/-- Settles O33: what the port accepts, then its mode and its open unit, pick the branch. -/
theorem cameraCommandsComplete : Obligations.CameraCommandsComplete := by
  intro s u p vc dt bs t c hc hen hu
  subst hc
  obtain rfl : u = camHeader p (s.at t) := hu
  have hcam : camOf (camHeader p (s.at t)) p = { camOf s p with rx := true, lastHdr := timeMax s.time t } := camOf_camHeader p (s.at t)
  have hframe : (camOf (camHeader p (s.at t)) p).frame = (camOf s p).frame := (congrArg Cam.frame hcam :)
  have hopen : (camOf (camHeader p (s.at t)) p).open' = (camOf s p).open' := (congrArg Cam.open' hcam :)
  have hdt : dt = (camOf s p).dt → (camOf s p).dt ≠ 0 → (if (camOf s p).dt = 0 then decide (0x18 ≤ dt.toNat) else dt == (camOf s p).dt) = true := fun h h0 => by
    rw [if_neg h0, h, beq_self_eq_true]
  refine ⟨fun hvc h h0 hf => ?line, fun hvc h h0 hf ho => ?any, fun hvc h h0 hf ho => ?outside, fun hvc h h0 hf ho => ?badCrc, fun hvc => ?channel, ?badHeader,
    fun hvc hf ho => ?start, fun hvc hf ho => ?stop, fun hl => ?loss⟩
  case line => rw [exec_longPacket, execLongPacket_accepted hen hvc (hdt h h0), fin_eq, if_pos rfl, camLong_line (hframe.trans hf)]
  case any =>
    rw [exec_longPacket, execLongPacket_accepted hen hvc (by rw [if_pos h0]; exact decide_eq_true h), fin_eq, if_pos rfl,
      camLong_open (hframe.trans hf) (hopen ▸ ho)]
  case outside =>
    rw [exec_longPacket, execLongPacket_accepted hen hvc (hdt h h0), fin_eq, if_pos rfl, camLong_closed (hframe.trans hf) (hopen.trans ho)]
    rfl
  case badCrc =>
    obtain ⟨hf', ho'⟩ := camOf_camCrcErr_frame p (camHeader p (s.at t))
    rw [exec_longPacket, execLongPacket_accepted hen hvc (hdt h h0), fin_eq, if_neg Bool.false_ne_true,
      camLong_open (hf'.trans (hframe.trans hf)) (by rw [ho', hopen]; exact ho)]
    rfl
  case channel => rw [exec_longPacket, execLongPacket_other hen hvc, fin_eq]
  case badHeader =>
    rw [exec_longPacket, execLongPacket_badHeader hen, fin_eq]
    rfl
  case start => rw [exec_frameStart, execFrameStart_own hen hf hvc ho, fin_eq]
  case stop => rw [exec_frameEnd, execFrameEnd_own hen hf hvc ho, fin_eq]
  case loss =>
    rw [exec_camRxLoss, execCamRxLoss, if_pos (show (camOf (s.at t) p).lastHdr.toNat + 100000000 ≤ (s.at t).now from hl), fin_eq]

/-! ### Admission to a capture ring (R217, R218, R329) -/

section Admission
variable {s u : State} {p : Fin 4}

/-- Without stamps waiting none is taken, and nothing changes. -/
theorem takeStamp_of_nil (h : (camOf s p).fifo = []) : takeStamp p s = (none, s) := by
  have hkeep : updCam p (fun c => { c with fifo := [] }) s = s := by
    have hid : tabUpd s.gx.cams p (fun c => { c with fifo := [] }) = s.gx.cams :=
      (tabUpd_congr s.gx.cams _ (g := fun c => c) {} (by show ({ camOf s p with fifo := [] } : Cam) = camOf s p; rw [← h])).trans (tabUpd_id ..)
    unfold updCam
    rw [hid]
  unfold takeStamp
  dsimp only
  rw [h]
  exact Prod.ext rfl hkeep

/-- A unit starts at a port whose destination is a ring and that takes no stamps. -/
theorem unitStart_ring {f : Nat} (hd : (camOf s p).dest = 2) (hf : (camOf s p).fifo = [])
    (hk : knotValRq (camRq p) (camOf s p).ctx (camOf s p).freed.toNat s = (some f, u)) :
    unitStart p s =
      if f + (camOf s p).ring.slots < (camOf s p).units.toNat + 1 then
        refuseUnit p { ctx := (camOf s p).ctx.val, ch := (camOf s p).ring, braid := none } (unitStamp s (camOf s p).axis none) u
      else admitOpen p { ctx := (camOf s p).ctx.val, ch := (camOf s p).ring, braid := none } (unitStamp s (camOf s p).axis none) u := by
  have hdest : destOf s p (sourceBraid s p) = some { ctx := (camOf s p).ctx.val, ch := (camOf s p).ring, braid := none } := by
    unfold destOf
    dsimp only
    rw [hd]
    rfl
  have hfreed : destFreed p { ctx := (camOf s p).ctx.val, ch := (camOf s p).ring, braid := none } s = (f, u) := by
    unfold destFreed
    dsimp only
    rw [hk]
    rfl
  unfold unitStart
  rw [takeStamp_of_nil hf]
  dsimp only
  rw [hdest]
  dsimp only
  rw [hfreed]
  simp only [destNext, Bool.false_or]
  by_cases hlt : f + (camOf s p).ring.slots < (camOf s p).units.toNat + 1
  · rw [if_pos hlt]
    exact if_pos (decide_eq_true hlt)
  · rw [if_neg hlt]
    exact if_neg fun h => hlt (of_decide_eq_true h)

theorem camOf_camAlarm (b : Nat) (p : Fin 4) (s : State) : camOf (camAlarm b p s) p = { camOf s p with alarm := setBit (camOf s p).alarm b true } :=
  camOf_updCam _ _ _ p.isLt

/-- A port after a unit for its ring is refused (R329). -/
theorem camOf_refuseUnit_ring {d : Dest} (hd : d.braid = none) (v : OpenUnit) :
    camOf (refuseUnit p d v s) p = { camOf s p with
      cOverrun := satInc (camOf s p).cOverrun, alarm := setBit (camOf s p).alarm 0 true, drops := satInc (camOf s p).drops
      open' := some { v with admitted := false, counted := true, braid := none } } := by
  unfold refuseUnit
  rw [hd]
  dsimp only
  rw [camOf_updCam _ _ _ p.isLt, camOf_updCam _ _ _ p.isLt, camOverrun, camOf_camAlarm, camOf_updCam _ _ _ p.isLt]
  rfl

/-- A port after a unit for its ring is admitted (R217, R218). -/
theorem camOf_admitOpen_ring {d : Dest} (hd : d.braid = none) (v : OpenUnit) :
    camOf (admitOpen p d v s) p = { camOf s p with
      units := (camOf s p).units + 1, cUnits := (camOf s p).cUnits + 1, drops := 0, open' := some { v with n := (camOf s p).units, drops := (camOf s p).drops } } := by
  unfold admitOpen
  rw [hd]
  exact camOf_updCam _ _ _ p.isLt

end Admission

/-- An unstamped unit shows NOSTAMP (R217). -/
theorem bit_nostamp (fine rev : Bool) : bit (BitVec.ofNat 32 (b2n fine + 2 * b2n rev + 4)) 2 = true := by
  revert fine rev
  decide

/-- Settles O34: the free slots of the ring pick refusal or admission; an unstamped unit takes the axis as it stands. -/
theorem captureRingAdmission : Obligations.CaptureRingAdmission := by
  intro s u p f c hc hd hf hk hu _ _
  subst hc
  have hstart := unitStart_ring hd hf hk
  refine ⟨fun hfull => ⟨_, hstart.trans (if_pos hfull), ?_⟩, fun hfree =>
    ⟨_, { unitStamp s (camOf s p).axis none with n := (camOf s p).units, drops := (camOf s p).drops }, hstart.trans (if_neg (Nat.not_lt.mpr hfree)), ?_⟩⟩
  · rw [camOf_refuseUnit_ring rfl, hu]
    exact ⟨rfl, rfl, rfl, rfl, bit_setBit_same _ _ (by decide)⟩
  · rw [camOf_admitOpen_ring rfl, hu]
    exact ⟨rfl, rfl, rfl, rfl, rfl, rfl, rfl, bit_nostamp _ _, rfl, rfl, rfl⟩

end Sys2Proof.Machine


/-! Displays: latch points, DPO_CTRL, training and messages (09, R333-R345). -/
namespace Sys2Proof.Machine

section Display
variable {s : State} {d : Nat}

/-- A write of DPO_CTRL while EN = 0 (R342, R343). -/
theorem writeDpoCtrl_off {v : W32} (h : bit (dpoOf s d).ctrl 0 = false) :
    writeDpoCtrl d v s = if !(bit v 0) then updDpo d (fun x => { x with ctrl := v &&& 0xFFE }) s
      else if modeOk d (v &&& 0xFFE) (dpoOf s d) then
        settlePd (updDpo d (fun x => { x with ctrl := v &&& 0xFFE ||| 1, modeErr := false, line := 0, lineT := s.time }) s)
      else updDpo d (fun x => { x with ctrl := v &&& 0xFFE, modeErr := true }) s := by
  unfold writeDpoCtrl
  exact if_neg (Bool.eq_false_iff.mp h)

theorem writeDpoCtrl_on {v : W32} (h : bit (dpoOf s d).ctrl 0 = true) (hv : bit v 0 = true) : writeDpoCtrl d v s = s := by
  unfold writeDpoCtrl
  exact (if_pos h).trans (if_pos hv)

/-- DPO0 trains at its rate (R344): a rate of eDP alone needs EDP. -/
theorem startTrain_zero (hd : d = 0) : startTrain d s =
    if ([1, 2, 4, 5] : List Nat).contains (fld (dpoOf s d).ctrl 7 5) && !(bit (dpoOf s d).ctrl 8) then updDpo d (fun x => { x with link := false, trainErr := true }) s
    else updDpo d (fun x => { x with training := true, link := false, trainErr := false }) s := by
  unfold startTrain
  exact if_neg (not_not_intro hd)

/-- No rate but 1, 2, 4 and 5 is eDP's alone. -/
theorem contains_edp_eq_false {r : Nat} (h : r = 0 ∨ r = 3 ∨ 5 < r) : ([1, 2, 4, 5] : List Nat).contains r = false := by
  rw [Bool.eq_false_iff, ne_eq, List.contains_iff_mem]
  simp only [List.mem_cons, List.not_mem_nil, or_false]
  omega

/-- A message that is not held ends with its outcome (R345). -/
theorem execMessageDone_ends {e : Fin 2} {o : MsgOutcome} {bs : List Byte} (hb : (dpoOf s e).busy = true) (hh : (dpoOf s e).msgHeld = false) :
    execMessageDone e o bs s = fin (updDpo e (fun x =>
      { x with busy := false, done' := o == .done, nack := o == .nack, timeout := o == .timeout, rlen := BitVec.ofNat 5 (bs.take 16).length,
               data := BitVec.ofNat 128 (leVal (putB (leBytes 16 x.data.toNat) 0 (bs.take 16))) }) s) := by
  unfold execMessageDone
  exact if_neg (by rw [hb, hh]; decide)

theorem execMessageDone_held {e : Fin 2} {o : MsgOutcome} {bs : List Byte} (hh : (dpoOf s e).msgHeld = true) : execMessageDone e o bs s = fin s := by
  unfold execMessageDone
  exact if_pos (by rw [hh, Bool.or_true])

end Display

/-- Settles O35: each command by EN, by the rate or by the message that the output holds. -/
theorem displayCommandsComplete : Obligations.DisplayCommandsComplete := by
  intro s d v t ok o bs x hx
  subst hx
  refine ⟨fun a b hon htime ha hb => ?latch, fun hoff hv => ?fields, fun hoff hv hm => ?enables, fun hoff hv hm => ?modeErr, fun hon hv => ?kept, fun hr hd => ?trains,
    fun hr h8 hd => ?trainErr, fun ht => ?trained, fun hb => ?message, fun hb => ?busy, fun _ hh => ?held, fun hb hh => ?done, by rw [exec_hpd, execHpd, fin_eq]⟩
  case latch =>
    have hon' : (!(dpoOn (dpoOf (s.at t) d))) = false := congrArg (!·) hon
    rw [exec_latchPoint, execLatchPoint, hon', if_neg Bool.false_ne_true]
    dsimp only
    rw [htime, ← ha, ← hb, fin_eq]
  case fields => rw [exec_dpoCtrlWrite, execDpoCtrlWrite, fin_eq, writeDpoCtrl_off hoff, hv]; rfl
  case enables => rw [exec_dpoCtrlWrite, execDpoCtrlWrite, fin_eq, writeDpoCtrl_off hoff, hv, hm]; rfl
  case modeErr => rw [exec_dpoCtrlWrite, execDpoCtrlWrite, fin_eq, writeDpoCtrl_off hoff, hv, hm]; rfl
  case kept => rw [exec_dpoCtrlWrite, execDpoCtrlWrite, fin_eq, writeDpoCtrl_on hon hv]
  case trains =>
    have hno : (([1, 2, 4, 5] : List Nat).contains (fld (dpoOf s d).ctrl 7 5) && !(bit (dpoOf s d).ctrl 8)) = false := by
      obtain h | h | h | h := hr
      · rw [contains_edp_eq_false (.inl h), Bool.false_and]
      · rw [contains_edp_eq_false (.inr (.inl h)), Bool.false_and]
      · rw [contains_edp_eq_false (.inr (.inr h)), Bool.false_and]
      · rw [h, Bool.not_true, Bool.and_false]
    rw [exec_train, execTrain, fin_eq, startTrain_zero (congrArg Fin.val hd), if_neg (Bool.eq_false_iff.mp hno)]
  case trainErr =>
    rw [exec_train, execTrain, fin_eq, startTrain_zero (congrArg Fin.val hd), hr, h8, if_pos (by decide)]
  case trained => rw [exec_trainComplete, execTrainComplete, if_pos ht, fin_eq]
  case message => rw [exec_dpoMsggo, execDpoMsggo, msgGo, if_neg (Bool.eq_false_iff.mp hb), fin_eq]; rfl
  case busy => rw [exec_dpoMsggo, execDpoMsggo, msgGo, if_pos hb, fin_eq]
  case held => rw [exec_messageDone, execMessageDone_held hh, fin_eq]
  case done => rw [exec_messageDone, execMessageDone_ends hb hh, fin_eq]

end Sys2Proof.Machine


/-! Braids that drain, models that are evicted, steps (06, 07). -/
namespace Sys2Proof.Machine

section Drain
variable {s u : State} {b : Fin 16} {t : W64}

theorem execDrainResultReached_passed (hu : u = noteKnot b 0x400 s) (hs : (braidOf s b).state = .draining) (hd : (braidOf s b).drained = false)
    (hr : (braidOf s b).admitted.toNat ≤ resolved b u) :
    execDrainResultReached b s = fin (abandonKnots b (chanKnots (braidOf s b)) (updBraid b (fun x => { x with drained := true }) u)) := by
  have hb : braidOf u b = braidOf s b := by rw [hu, braidOf_noteKnot]
  have hall : allResolved u b = true := decide_eq_true (by rwa [hb])
  unfold execDrainResultReached
  rw [← hu]
  dsimp only
  rw [hb, hs, hd, hall]
  rfl

theorem execDrainBlocksEnded_ended (hu : u = noteKnot b 0x400 s) (hs : (braidOf s b).state = .draining) (hr : (braidOf s b).admitted.toNat ≤ resolved b u)
    (hk : strandBlocks s b = []) (hd : (braidOf s b).drained = true) (hf : (braidOf s b).flush = false) :
    execDrainBlocksEnded b s = fin (endDrains b 0x0000 (icnPulse (32 + b) (updBraid b (fun x => { x with state := .stopped })
      (updBraid b (fun x => { x with status := 0, units := [], early := [] }) u)))) := by
  have hb : braidOf u b = braidOf s b := by rw [hu, braidOf_noteKnot]
  have hall : allResolved u b = true := decide_eq_true (by rwa [hb])
  have hk' : strandBlocks u b = [] := by
    rw [← hk, hu]
    unfold strandBlocks
    rw [(noteKnot_memOnly b 0x400 s).ex]
  have hstop : (braidOf (updBraid b (fun x => { x with status := 0, units := [], early := [] }) u) b).state = .draining := by
    rw [← hs, ← hb]
    refine tabD_tabUpd_keeps _ _ _ Braid.state (fun _ => ?_) _ _
    rfl
  unfold execDrainBlocksEnded
  rw [← hu]
  dsimp only
  rw [hb, hs, hall, hk', hd, hf, if_pos (by rfl), if_pos rfl, if_neg Bool.false_ne_true, setBState, if_neg (by rw [hstop]; decide)]
  rfl

theorem execBraidDrainTimeout_over (hs : (braidOf s b).state = .draining) (hf : (braidOf s b).flush = false)
    (ht : (braidOf s b).drainEnd.toNat ≤ (timeMax s.time t).toNat) :
    execBraidDrainTimeout b t s = fin (endDrains b 0x0302 (updBraid b (fun x => { x with status := 0x0302 }) (haltBraid b .stopped (s.at t)))) := by
  have hb : braidOf (s.at t) b = braidOf s b := rfl
  have ht' : decide ((braidOf s b).drainEnd.toNat ≤ (s.at t).now) = true := decide_eq_true ht
  unfold execBraidDrainTimeout
  dsimp only
  rw [hb, hs, hf, ht', if_pos (by rfl), if_neg Bool.false_ne_true]
  rfl

end Drain

section Step
variable {s v w : State} {c : Nat} {y : Cmd} {m : Fin 1024} {k : Nat} {es : List StepEntry} {sc : W64} {d : Dispatching}

theorem execMixedStepStageEnd_ended (hy : findCmd s c = some y) (hw : y.work = .step m k es sc d) (hp : y.phase = .running) (he : stageEnded s c d = true)
    (h0 : k = 0 → stepsPast s m < 4) :
    execMixedStepStageEnd c s = fin (advanceSteps (updCmd c (fun y => { y with work := .step m (k + 1) es sc noDispatch }) s)) := by
  have hfour : (k == 0 && decide (4 ≤ stepsPast s m)) = false := by
    by_cases hk : k = 0
    · rw [decide_eq_false (Nat.not_le.mpr (h0 hk)), Bool.and_false]
    · rw [beq_eq_false_iff_ne.mpr hk, Bool.false_and]
  unfold execMixedStepStageEnd
  rw [hy]
  dsimp only
  rw [hw]
  dsimp only
  rw [hp, he, hfour]
  rfl

/-- A step past its last stage whose pages can be written ends (R270, R272). -/
theorem endStep_ok (ha : acksDue s y.id = false)
    (hv : writablePieces (cmdCtx y) y.who.rq ((es.filter fun e => !e.excluded).map fun e => (e.seq.toNat, 64)) s = (.ok, v))
    (hw : putLengths y (es.filter fun e => !e.excluded) v = (.ok, w)) :
    endStep y es s = finish y.id (if es.any (·.excluded) then 0x0001 else 0x0000) w := by
  unfold endStep
  rw [if_neg (Bool.eq_false_iff.mp ha)]
  dsimp only
  rw [hv]
  dsimp only
  rw [hw]
  rfl

end Step

/-- Settles O36: each event by the conditions that its command reads. -/
theorem braidModelEventsComplete : Obligations.BraidModelEventsComplete := by
  intro s u b m t x hx hu
  subst hx
  refine ⟨fun hs hd hr => ?reached, fun hs hr hk hd hf => ?blocks, fun hs hf ht => ?timeout, by rw [exec_selectionRecordRetired, execSelectionRecordRetired, fin_eq],
    fun hs hz => ?uses, fun y c k es sc d hy hw hp he h0 => ?stage, fun y es v w ha hv hw => endStep_ok ha hv hw⟩
  case reached => rw [exec_drainResultReached, execDrainResultReached_passed hu hs hd hr, fin_eq]
  case blocks => rw [exec_drainBlocksEnded, execDrainBlocksEnded_ended hu hs hr hk hd hf, fin_eq]
  case timeout => rw [exec_braidDrainTimeout, execBraidDrainTimeout_over hs hf ht, fin_eq]
  case uses =>
    have hgo : ((modelOf s m).state == .evicting && modelUses m s == 0) = true := by
      rw [hs, hz]
      rfl
    rw [exec_usesZero, execUsesZero, settleEvict, if_pos hgo, fin_eq]
    rfl
  case stage => rw [exec_mixedStepStageEnd, execMixedStepStageEnd_ended hy hw hp he h0, fin_eq]

end Sys2Proof.Machine


/-! The host interface: doorbells, root queues, register accesses and BAR2 (11). -/
namespace Sys2Proof.Machine

section Doorbell
variable {s : State} {fn : Fin 9} {q : Fin 256} {v : W32}

/-- A TAIL to a queue of the function in RUN, by whether it fits (R399). -/
theorem writeTail_run (hrun : s.pwr.state = .run) (ha : queueActive s q = true) (hm : queueMine s fn q = true) :
    writeTail fn q v s = if tailOk (queueOf s q) v then kick (updQueue q (fun x => { x with tail := v }) s) else doorbellBad fn s := by
  unfold writeTail
  rw [doorbellWake_run q s hrun]
  dsimp only
  rw [ha, hm]
  rfl

/-- A CHEAD to a queue of the function in RUN, by whether it fits (R400). -/
theorem writeChead_run (hrun : s.pwr.state = .run) (ha : queueActive s q = true) (hm : queueMine s fn q = true) :
    writeChead fn q v s = if cheadOk (queueOf s q) v then kick (flushRec q (updQueue q (fun x => { x with chead := v }) s)) else doorbellBad fn s := by
  have hdr : queueDrains s q = true := (Bool.and_eq_true_iff.mp ha).1
  unfold writeChead
  rw [doorbellWake_run q s hrun]
  dsimp only
  rw [hdr, hm]
  rfl

end Doorbell

/-- Settles O37: the two rooms of the rings decide. -/
theorem doorbellsComplete : Obligations.DoorbellsComplete := by
  intro s fn q v x hx hon hrun ha hm
  subst hx
  refine ⟨fun hfit => ?tail, fun hover => ⟨doorbellBad fn s, ?tailBad, doorbellBad_spec fn s⟩, fun hfit => ?chead, fun hover => ⟨doorbellBad fn s, ?cheadBad, doorbellBad_spec fn s⟩⟩
  case tail => rw [exec_tail, execTail, if_pos hon, fin_eq, writeTail_run hrun ha hm, tailOk, if_pos (decide_eq_true hfit)]
  case tailBad =>
    have hno : tailOk (queueOf s q) v = false := decide_eq_false (Nat.not_le.mpr hover)
    rw [exec_tail, execTail, if_pos hon, fin_eq, writeTail_run hrun ha hm, if_neg (Bool.eq_false_iff.mp hno)]
  case chead => rw [exec_chead, execChead, if_pos hon, fin_eq, writeChead_run hrun ha hm, cheadOk, if_pos (decide_eq_true hfit)]
  case cheadBad =>
    have hno : cheadOk (queueOf s q) v = false := decide_eq_false (Nat.not_le.mpr hover)
    rw [exec_chead, execChead, if_pos hon, fin_eq, writeChead_run hrun ha hm, if_neg (Bool.eq_false_iff.mp hno)]

/-! ### Root queues (R394) and the mirror (R409) -/

section RootQueue
variable {s : State} {fn : Fin 9} {v : W32}

theorem rootQ_lt (fn : Fin 9) : rootQ fn < 256 := by
  unfold rootQ
  split
  · decide
  · have := fn.isLt
    omega

/-- A write of EN = 1 to a root queue that is off. -/
theorem writeRootq_enable (hv : bit v 0 = true) (hoff : (funcOf s fn).rootqOn = false) :
    writeRootq fn v s = if hifReady s fn && ringSizeOk (fld (funcOf s fn).rootqCfg 4 0) && ringSizeOk (fld (funcOf s fn).rootqCfg 12 8) then
        updQueue (rootQ fn) (fun _ => rootQueue fn (funcOf s fn)) (updFunc fn (fun f => { f with rootqOn := true }) s)
      else hifAlarm 2 fn s := by
  unfold writeRootq
  exact (if_pos hv).trans (if_neg (Bool.eq_false_iff.mp hoff))

/-- A disabled root queue without commands and waiting records is FREE. -/
theorem settleRoot_free (hroot : (queueOf s (rootQ fn)).root = true) (hoff : (funcOf s fn).rootqOn = false) (hc : ∀ c ∈ s.ex.cmds, c.q.val ≠ rootQ fn)
    (hw : (queueOf s (rootQ fn)).waitRecs = []) : settleRoot fn s = updQueue (rootQ fn) (fun _ => {}) s := by
  have hany : (s.ex.cmds.any fun c => c.q.val == rootQ fn) = false := by
    rw [Bool.eq_false_iff, ne_eq, List.any_eq_true]
    rintro ⟨c, hmem, hq⟩
    exact hc c hmem (eq_of_beq hq)
  unfold settleRoot
  dsimp only
  rw [hroot, hoff, hany, hw]
  rfl

theorem funcOf_updFunc (f : Func → Func) (s : State) (fn : Fin 9) : funcOf (updFunc fn f s) fn = f (funcOf s fn) := tabD_tabUpd_same _ _ _ fn.isLt

/-- A root queue whose ring is left, with EN = 0. -/
def rootStopped (fn : Nat) (s : State) : State := updQueue (rootQ fn) (fun x => { x with slots := [] }) (updFunc fn (fun f => { f with rootqOn := false }) s)

theorem queueOf_rootStopped (fn : Fin 9) (s : State) : queueOf (rootStopped fn s) (rootQ fn) = { queueOf s (rootQ fn) with slots := [] } :=
  queueOf_upd ⟨rootQ fn, rootQ_lt fn⟩ _ _

theorem rootqOn_rootStopped (fn : Fin 9) (s : State) : (funcOf (rootStopped fn s) fn).rootqOn = false := congrArg Func.rootqOn (funcOf_updFunc (fun f => { f with rootqOn := false }) s fn)

/-- EN = 0: the ring is left and the queue ends. -/
theorem writeRootq_disable (hv : bit v 0 = false) (hroot : (queueOf s (rootQ fn)).root = true) (hc : ∀ c ∈ s.ex.cmds, c.q.val ≠ rootQ fn)
    (hw : (queueOf s (rootQ fn)).waitRecs = []) :
    writeRootq fn v s = updQueue (rootQ fn) (fun _ => {}) (updFunc fn (fun f => { f with rootqOn := false }) s) := by
  have hq := queueOf_rootStopped fn s
  have hfree : settleRoot fn (rootStopped fn s) = updQueue (rootQ fn) (fun _ => {}) (rootStopped fn s) :=
    settleRoot_free (by rw [hq]; exact hroot) (rootqOn_rootStopped fn s) hc (by rw [hq]; exact hw)
  unfold writeRootq
  exact (if_neg (Bool.eq_false_iff.mp hv)).trans (hfree.trans (updQueue_updQueue ..))

end RootQueue

/-- Settles O38: EN by what it was and by READY and the ring sizes. -/
theorem rootQueueAndMirrorComplete : Obligations.RootQueueAndMirrorComplete := by
  intro s fn v w f hf hon
  subst hf
  refine ⟨fun hv hoff hr h1 h2 h3 h4 => ⟨rootQueue fn (funcOf s fn), _, ?enable, rfl, rfl, rfl, ?own, rfl, rfl, rfl, rfl, rfl, rfl, rfl, rfl, rfl, rfl⟩,
    fun hv hoff hr => ?notReady, fun hv hroot hc hw => ?disable, ?mirror⟩
  case enable =>
    have hok : (hifReady s fn && ringSizeOk (fld (funcOf s fn).rootqCfg 4 0) && ringSizeOk (fld (funcOf s fn).rootqCfg 12 8)) = true := by
      unfold ringSizeOk
      rw [hr, decide_eq_true h1, decide_eq_true h2, decide_eq_true h3, decide_eq_true h4]
      rfl
    rw [exec_rootqCtrl, execRootqCtrl, if_pos hon, fin_eq, writeRootq_enable hv hoff, if_pos hok]
  case own => exact Fin.ofNat_val_eq_self fn
  case notReady =>
    rw [exec_rootqCtrl, execRootqCtrl, if_pos hon, fin_eq, writeRootq_enable hv hoff, hr]
    rfl
  case disable => rw [exec_rootqCtrl, execRootqCtrl, if_pos hon, fin_eq, writeRootq_disable hv hroot hc hw]
  case mirror =>
    rw [exec_mirrorBaseWrite, execMirrorBaseWrite, if_pos hon, done_eq]
    rfl

/-! ### Registers and BAR2 (R386-R389, R587) -/

section Access
variable {s u : State} {fn : Fin 9} {off len : Nat} {v : W64}

/-- An access of another size, unaligned or outside the window (R386). -/
theorem access_refused (h : len = 4 ∨ len = 8 → accessOk fn off len = false) : (sizeOk len && accessOk fn off len) = false := by
  by_cases hl : len = 4 ∨ len = 8
  · rw [h hl, Bool.and_false]
  · rw [not_or] at hl
    unfold sizeOk
    rw [beq_eq_false_iff_ne.mpr hl.1, beq_eq_false_iff_ne.mpr hl.2]
    rfl

theorem access_passed (hl : len = 4 ∨ len = 8) (h : accessOk fn off len = true) : (sizeOk len && accessOk fn off len) = true := by
  rw [h, Bool.and_true]
  unfold sizeOk
  obtain rfl | rfl := hl <;> rfl

theorem hostReadReg_refused (h : (sizeOk len && accessOk fn off len) = false) : hostReadReg fn off len s = { s with readData := 0 } := by
  unfold hostReadReg
  rw [h]
  rfl

theorem hostWriteReg_refused (h : (sizeOk len && accessOk fn off len) = false) : hostWriteReg fn off len v s = s := by
  unfold hostWriteReg
  rw [h]
  rfl

/-- A read that passes: a block that is off counts it; else 8 bytes or 4. -/
theorem hostReadReg_passed (h : (sizeOk len && accessOk fn off len) = true) :
    hostReadReg fn off len s = if blockOff s off then offAccess { s with readData := 0 }
      else if len = 8 then { (regReadWide fn off s).2 with readData := (regReadWide fn off s).1 }
      else { (regRead fn off s).2 with readData := BitVec.ofNat 64 (regRead fn off s).1.toNat } := by
  unfold hostReadReg
  rw [h]
  rfl

theorem hostWriteReg_passed (h : (sizeOk len && accessOk fn off len) = true) :
    hostWriteReg fn off len v s = if blockOff s off then offAccess s else if len = 8 then regWriteWide fn off v s else regWrite fn off (half64 v false) s := by
  unfold hostWriteReg
  rw [h]
  rfl

/-- In RUN an access to a block that is off only counts (R587). -/
theorem offAccess_run (h : s.pwr.state = .run) : offAccess s = { s with pwr := { s.pwr with offacc := satInc s.pwr.offacc } } := wakeBy_run _ _ h

/-- An 8-byte write below the first 64-bit register takes its halves in turn. -/
theorem regWriteWide_halves (h : off < 0x50000) :
    regWriteWide fn off v s = regWrite fn (off + 4) (half64 v true) (regWrite fn off (half64 v false) s) := by
  unfold regWriteWide
  dsimp only
  rw [if_neg (by omega), if_neg (by omega), if_neg (by omega), if_neg (by omega), if_neg (by omega), if_neg (by omega)]

/-- AX_ZLOAD takes an 8-byte write whole (R79). -/
theorem regWriteWide_zload {a : Fin 8} (h : off = 0x101028 + 0x100 * a) : regWriteWide fn off v s = writeZload a v s := by
  have ha := a.isLt
  unfold regWriteWide
  dsimp only
  rw [if_neg (by omega), if_neg (by omega), if_neg (by omega), if_pos (by omega), show (off - 0x101000) / 0x100 = a by omega]

/-- A BAR2 read whose pieces all pass (R388). -/
theorem bar2Read_passed {n : Nat} {d : List Byte} {p : Bool} (h : bar2Get fn (pagePieces (bar2Va (funcOf s fn) off) n) s = (d, false, p, u)) :
    bar2Read fn off n s = { u with readData := BitVec.ofNat 64 (leAt d 0 8), readBytes := d, readPoison := p } := by
  unfold bar2Read
  rw [h]
  rfl

/-- A BAR2 write, by whether a piece was dropped. -/
theorem bar2Write_put {bs : PB} {w : State} (hw : w = (if anyPoison bs then updFunc fn (fun f => { f with aer := setBit f.aer 12 true }) s else s)) {bad : Bool}
    (h : bar2Put fn (pagePieces (bar2Va (funcOf w fn) off) bs.length) bs w = (bad, u)) : bar2Write fn off bs s = if bad then bar2Bad fn u else u := by
  unfold bar2Write
  rw [← hw]
  dsimp only
  rw [h]

end Access

/-- Settles O39: each access by its size, its window, the block's domain and what BAR2 lets through. -/
theorem hostAccessesComplete : Obligations.HostAccessesComplete := by
  intro s u fn off o v r bs w hon hw
  have hrd : ∀ len, exec (.hostaccRead fn ⟨off, len⟩) s = .next (after (hostReadReg fn off.toNat len s)) := fun len => by
    rw [exec_hostaccRead, execHostaccRead, if_pos hon, fin_eq]
  have hwr : ∀ len, exec (.registerWrite fn off len v) s = .next (after (hostWriteReg fn off.toNat len v s)) := fun len => by
    rw [exec_registerWrite, execRegisterWrite, if_pos hon, fin_eq]
  have hput : bs ≠ [] → s.pwr.state = .run → bar2In s fn (o.toNat + bs.length - 1) = true → exec (.bar2Write fn o bs) s = .next (after (bar2Write fn o.toNat bs s)) := fun hne hrun hin => by
    have hgo : (barOn s fn && !bs.isEmpty && bar2In s fn (o.toNat + bs.length - 1)) = true := by
      rw [hon, hin, List.isEmpty_eq_false_iff.mpr hne]
      rfl
    rw [exec_bar2Write, execBar2Write, if_pos hgo, wakeBy_run _ _ hrun, fin_eq]
  refine ⟨fun hok hb hr => ?read, fun d hok hb hr => ?readWide, fun len hbad => ⟨?readBad, ?writeBad⟩, fun len hl hok hb hrun => ⟨?readOff, ?writeOff⟩, fun hok hb => ?write,
    fun hok hb hlt => ?writeWide, fun a hok hb ha => ?zload, fun d p hlen hrun hin hg => ?bar2Read, fun hne hrun hin hg => ?bar2Write, fun hne hrun hin hg => ?bar2Dropped⟩
  case read => rw [hrd, hostReadReg_passed (access_passed (.inl rfl) hok), if_neg (Bool.eq_false_iff.mp hb), if_neg (by decide), hr]
  case readWide => rw [hrd, hostReadReg_passed (access_passed (.inr rfl) hok), if_neg (Bool.eq_false_iff.mp hb), if_pos rfl, hr]
  case readBad => rw [hrd, hostReadReg_refused (access_refused hbad)]
  case writeBad => rw [hwr, hostWriteReg_refused (access_refused hbad)]
  case readOff => rw [hrd, hostReadReg_passed (access_passed hl hok), if_pos hb, offAccess_run (s := { s with readData := 0 }) hrun]
  case writeOff => rw [hwr, hostWriteReg_passed (access_passed hl hok), if_pos hb, offAccess_run hrun]
  case write =>
    rw [hwr, hostWriteReg_passed (access_passed (.inl rfl) hok), if_neg (Bool.eq_false_iff.mp hb), if_neg (by decide)]
    rfl
  case writeWide =>
    rw [hwr, hostWriteReg_passed (access_passed (.inr rfl) hok), if_neg (Bool.eq_false_iff.mp hb), if_pos rfl, regWriteWide_halves hlt]
    rfl
  case zload => rw [hwr, hostWriteReg_passed (access_passed (.inr rfl) hok), if_neg (Bool.eq_false_iff.mp hb), if_pos rfl, regWriteWide_zload ha]
  case bar2Read =>
    have hgo : (barOn s fn && decide (0 < bs.length) && bar2In s fn (o.toNat + bs.length - 1)) = true := by
      rw [hon, hin, decide_eq_true hlen]
      rfl
    rw [exec_bar2Read, execBar2Read, if_pos hgo, wakeBy_run _ _ hrun, fin_eq, bar2Read_passed hg]
  case bar2Write => rw [hput hne hrun hin, bar2Write_put hw hg, if_neg Bool.false_ne_true]
  case bar2Dropped =>
    rw [hput hne hrun hin, bar2Write_put hw hg]
    rfl

end Sys2Proof.Machine


/-! The PCI Express link, the configuration space and the resets of the functions (11, R379-R383). -/
namespace Sys2Proof.Machine

section Link
variable {s : State} {fn : Fin 9} {v : W32}

/-- A write of the configuration space that the link and the function let through. -/
theorem cfgWrite_open (hup : s.hi.pcie.up = true) (hen : (funcOf s fn).enabled = true) : (!s.hi.pcie.up || !(funcOf s fn).enabled) = false := by
  rw [hup, hen]
  rfl

/-- A function after link loss (R382). -/
theorem funcOf_linkLost (s : State) {i : Nat} (hi : i < 9) : funcOf (linkLost s) i = cfgReset (i == 0) (funcOf s i) := by
  refine (tabD_lt _ _ hi).trans ?_
  exact Vector.getElem_ofFn hi

/-- A Function Level Reset of the PF leaves the link as it is (R382). -/
theorem pfReset_flr (s : State) :
    pfReset .flr s = publish (updHi (fun h => { h with
      funcs := Vector.ofFn (fun i => { Func.reset (i.val == 0) with enabled := i.val == 0 }), icn := { srcs := h.icn.srcs.map (fun c => { input := c.input }) } })
        ((List.range 9).foldl (fun s fn => dropRoot fn s) ((List.range 64).foldl (fun s c => destroyNow c s) s))) := by
  unfold pfReset
  dsimp only
  refine congrArg publish ?_
  simp only [icnReset]

theorem execPfReset_flr (s : State) : execPfReset .flr s = fin (pfReset .flr s) := rfl

end Link

/-- Settles O41: each event is its update; BAR2 takes a size of a VF while memory decode is off. -/
theorem linkAndResetsComplete : Obligations.LinkAndResetsComplete := by
  intro s fn v vf rate width
  refine ⟨fun hst hp => ?up, ⟨linkLost s, by rw [exec_pcieLinkDown, execPcieLinkDown, done_eq], rfl, rfl, rfl, fun i hi => ?down⟩,
    fun hup hen => ⟨?busMaster, ?memDecode, fun hm hlo hhi => ?bar2Size⟩, ?pf, fun hpart => ?vf⟩
  case up =>
    have hgo : (decide (2 ≤ s.boot.stage.toNat) && s.pwr.state != .dormant) = true := Bool.and_eq_true_iff.mpr ⟨decide_eq_true hst, bne_iff_ne.mpr hp⟩
    rw [exec_pcieLinkUp, execPcieLinkUp, if_pos hgo]
    exact done_eq _
  case down =>
    rw [funcOf_linkLost s hi]
    exact ⟨rfl, rfl, rfl, rfl⟩
  case busMaster =>
    rw [exec_configurationSpaceWrite, execConfigurationSpaceWrite, cfgWrite_open hup hen]
    exact done_eq _
  case memDecode =>
    rw [exec_configurationSpaceWrite, execConfigurationSpaceWrite, cfgWrite_open hup hen]
    exact done_eq _
  case bar2Size =>
    have hok : ((funcOf s fn).memDecode || decide (v.toNat < 8) || decide ((if fn.val = 0 then 15 else 12) < v.toNat)) = false := by
      rw [hm, decide_eq_false (by omega), decide_eq_false (by split <;> omega)]
      rfl
    rw [exec_configurationSpaceWrite, execConfigurationSpaceWrite, cfgWrite_open hup hen]
    dsimp only
    rw [hok]
    exact done_eq _
  case pf =>
    rw [exec_pfReset, execPfReset_flr, fin_eq, pfReset_flr]
  case vf =>
    rw [exec_vfFunctionLevelReset, execVfFunctionLevelReset, fin_eq, vfReset, hpart]

end Sys2Proof.Machine


/-! Packets: the front end, acceptance and start (10, 11, 12). -/
namespace Sys2Proof.Machine

/-! ### The start of a packet (R374, R422) -/

section Start
variable {c d : Cmd} {b : State}

theorem startCmd_refused {st : Status} (hg : contextGone b d = false) (hb : bodyBad b d.q d.pkt = some st) : startCmd d b = (.ended st, b) := by
  unfold startCmd
  rw [if_neg (Bool.eq_false_iff.mp hg), hb]

theorem startCmd_passed (hg : contextGone b d = false) (hb : bodyBad b d.q d.pkt = none) (hs : statusOk d.status = true) :
    startCmd d b = match checkCknot d b with | (.running, u) => startOp d u | r => r := by
  have hs' : (!(statusOk d.status)) = false := by rw [hs]; rfl
  unfold startCmd
  rw [if_neg (Bool.eq_false_iff.mp hg), hb]
  dsimp only
  rw [hs']
  rfl

/-- Without SIGNAL there is no completion knot to check. -/
theorem checkCknot_of_no_signal (h : pktSignal d.pkt = false) : checkCknot d b = (.running, b) := by
  unfold checkCknot
  split
  · rfl
  · unfold checkKnot
    rw [h]
    rfl

end Start

theorem feRun_of_feNext_none {s : State} (h : feNext s = none) (n : Nat) : feRun n s = s := by
  cases n with
  | zero => rfl
  | succ n =>
    have hstep : feStep s = none := by
      unfold feStep
      rw [h, Option.bind_none]
    unfold feRun
    rw [hstep]

/-- Settles O42: the packet stands in its ring, the front end takes it, and its command starts as the only one. -/
theorem packetsStart : Obligations.PacketsStart := by
  intro i q p s z hi hl hh hz
  have hexec := packetRow_exec i q p s hi hl hh
  refine ⟨fun a b c d h1 hn hp ha hc hw hha hfw hring hfault hmiss hd hb => ?takes, fun hn => ?waits⟩
  case takes =>
    have hkick : kick (placePkt q { pkt := p } s) = schedSettle (graphsGo (advanceDraws (advanceSteps (advanceLoads (applyStart c.id (startCmd d b)))))) := by
      rw [kick_takes _ z q _ hz h1 hn hp, ← ha, goOn_only a c hc hw hha hfw hring hfault hmiss d hd, ← hb]
    rw [hexec, hkick]
    refine ⟨fun st hg hbad => ?refused, fun hg hbad hs hsig => ?starts, fun hg hbad hs hsig => ?signals⟩
    case refused =>
      rw [startCmd_refused hg hbad]
      rfl
    case starts => rw [startCmd_passed hg hbad hs, checkCknot_of_no_signal hsig]
    case signals =>
      rw [startCmd_passed hg hbad hs] <;> rfl
  case waits => rw [hexec, kick, ← hz, feRun_of_feNext_none hn]

/-! ### The order of the front end (R510) -/

section FrontEnd
variable {s : State} {k t : Nat}

theorem queueTier_le (x : Queue) : queueTier x ≤ 2 := by
  unfold queueTier
  split
  · decide
  · split <;> decide

theorem feTier_some (h : feTier s t = some k) : queueTier (queueOf s k) = t ∧ doorbellPending s k = true := by
  obtain ⟨htier, hpend⟩ := Bool.and_eq_true_iff.mp (List.find?_some (p := fun q => queueTier (queueOf s q) == t && doorbellPending s q) h)
  exact ⟨eq_of_beq htier, hpend⟩

/-- A tier without a pending doorbell: round-robin visits every queue. -/
theorem feTier_none (h : feTier s t = none) {j : Nat} (hj : j < 256) (hp : doorbellPending s j = true) : queueTier (queueOf s j) ≠ t := by
  intro ht
  have hno := List.find?_eq_none.mp h j (List.mem_map.mpr ⟨(j + (256 - tabD s.ex.feFrom t 0 % 256)) % 256, List.mem_range.mpr (Nat.mod_lt _ (by decide)), by omega⟩)
  exact hno (Bool.and_eq_true_iff.mpr ⟨beq_iff_eq.mpr ht, hp⟩)

/-- The queue that the front end turns to is of the lowest tier with a pending doorbell. -/
theorem feNext_lowest (h : feNext s = some k) : doorbellPending s k = true ∧ ∀ j, j < 256 → doorbellPending s j = true → queueTier (queueOf s k) ≤ queueTier (queueOf s j) := by
  unfold feNext at h
  cases h0 : feTier s 0 with
  | some k0 =>
    rw [h0] at h
    obtain rfl : k0 = k := Option.some.inj h
    obtain ⟨ht, hp⟩ := feTier_some h0
    exact ⟨hp, fun j _ _ => by omega⟩
  | none =>
    rw [h0] at h
    cases h1 : feTier s 1 with
    | some k1 =>
      rw [h1] at h
      obtain rfl : k1 = k := Option.some.inj h
      obtain ⟨ht, hp⟩ := feTier_some h1
      exact ⟨hp, fun j hj hpj => by have := feTier_none h0 hj hpj; omega⟩
    | none =>
      rw [h1] at h
      obtain ⟨ht, hp⟩ := feTier_some (show feTier s 2 = some k from h)
      exact ⟨hp, fun j hj hpj => by have := feTier_none h0 hj hpj; have := feTier_none h1 hj hpj; omega⟩

theorem takesPkt_of_doorbellPending (h : doorbellPending s k = true) : takesPkt s k = true := by
  unfold doorbellPending at h
  simp only [Bool.and_eq_true] at h
  exact h.1.1

/-- The packet at the head of a ring lies whole below TAIL (R399). -/
theorem headPkt_some {r : RingPkt} (h : headPkt s k = some r) : (queueOf s k).slots.head? = some r ∧
    pktSlots (2 ^ (queueOf s k).size) r.pkt ≤ ((queueOf s k).tail - BitVec.ofNat 32 (queueOf s k).fetch.toNat).toNat := by
  unfold headPkt at h
  dsimp only at h
  split at h
  case h_1 => exact absurd h (by simp)
  case h_2 p l hp =>
    split at h
    case isTrue hle =>
      obtain rfl := Option.some.inj h
      exact ⟨by rw [hp]; rfl, hle⟩
    case isFalse => exact absurd h (by simp)

end FrontEnd

/-! ### Acceptance and framing (R397-R402) -/

section Accept
variable {q : Fin 256} {p : Pkt} {s v : State}

theorem pktSlots_eq (room : Nat) (p : Pkt) : pktSlots room p = if pktLength p = 0 ∨ room < pktLength p then 1 else pktLength p := by
  unfold pktSlots
  refine if_congr ?_ rfl rfl
  rw [Bool.or_eq_true, decide_eq_true_eq, decide_eq_true_eq]

/-- What is left as it was by the fetch of a root queue's slots: it only draws free values and marks AER (R395, R656). -/
def FetchKeeps (s t : State) : Prop := t.ex = s.ex ∧ t.mm = s.mm ∧ t.pte = s.pte

theorem FetchKeeps.trans {a b c : State} (h : FetchKeeps a b) (k : FetchKeeps b c) : FetchKeeps a c :=
  ⟨k.1.trans h.1, k.2.1.trans h.2.1, k.2.2.trans h.2.2⟩

theorem slotPoison_host_keeps (fn a : Nat) (s : State) : FetchKeeps s (slotPoison fn (.host a) s).2 := by
  show FetchKeeps s (hostReadP fn a 64 s).2
  unfold hostReadP
  dsimp only
  split <;> exact ⟨rfl, rfl, rfl⟩

theorem fetchBus_keeps (x : Queue) (first : Bool) (l : List Nat) (s : State) : FetchKeeps s (fetchBus x first l s).2 := by
  induction l generalizing first s with
  | nil => exact ⟨rfl, rfl, rfl⟩
  | cons n r ih =>
    have hslot := slotPoison_host_keeps x.fn (ringSlotVa x n) s
    have hrest := hslot.trans (ih false (slotPoison x.fn (.host (ringSlotVa x n)) s).2)
    unfold fetchBus
    dsimp only
    split
    · exact hslot
    · split
      case h_1 heq =>
        rw [heq] at hrest
        exact hrest
      case h_2 => exact hrest

/-- The slots of a root queue lie at bus addresses: their fetch leaves the queues (R395). -/
theorem fetchSlots_root {f : Fetch} {n : Nat} (hroot : (queueOf s q).root = true) (habort : (queueOf s q).abortFetch = none) (h : fetchSlots q n s = (f, v)) : FetchKeeps s v := by
  have hkeep := fetchBus_keeps (queueOf s q) true ((List.range n).map ((queueOf s q).fetch.toNat + ·)) s
  unfold fetchSlots at h
  dsimp only at h
  rw [habort] at h
  dsimp only at h
  rw [if_pos hroot] at h
  rwa [h] at hkeep

/-- A packet whose slots arrive and that fails framing (R398). -/
theorem acceptPkt_refused {st : Status} (hf : fetchSlots q (pktSlots (2 ^ (queueOf s q).size) p) s = (.ok, v))
    (hb : framingBad (2 ^ (queueOf s q).size) (contextOk v q (pktContext p)) p = some st) :
    acceptPkt q p false false s = refusePkt q false (pktSlots (2 ^ (queueOf s q).size) p) st p v := by
  unfold acceptPkt
  dsimp only
  rw [hf]
  dsimp only
  rw [if_neg Bool.false_ne_true, if_neg Bool.false_ne_true, hb]

/-- A packet whose slots arrive and that passes framing is the newest command and waits (R397, R399). -/
theorem acceptPkt_waits (hf : fetchSlots q (pktSlots (2 ^ (queueOf s q).size) p) s = (.ok, v))
    (hb : framingBad (2 ^ (queueOf s q).size) (contextOk v q (pktContext p)) p = none) :
    acceptPkt q p false false s = atAcceptance v.ex.nextCmd (noteSigs v.ex.nextCmd
      (pushCmd q p .waiting St.success (countFetch q (pktSlots (2 ^ (queueOf s q).size) p) v)).2) := by
  unfold acceptPkt
  dsimp only
  rw [hf]
  dsimp only
  rw [if_neg Bool.false_ne_true, if_neg Bool.false_ne_true, hb]
  rfl

/-- Acceptance itself does nothing for a packet that is no GRAPH_LAUNCH, KNOT_WAIT or destroy packet. -/
theorem atAcceptance_none {id : Nat} {k : Cmd} (hk : findCmd s id = some k) (h41 : pktOpcode k.pkt ≠ 0x41) (h51 : pktOpcode k.pkt ≠ 0x51) (hA1 : pktOpcode k.pkt ≠ 0xA1)
    (hA3 : pktOpcode k.pkt ≠ 0xA3) : atAcceptance id s = s := by
  unfold atAcceptance
  rw [hk]
  dsimp only
  split
  case h_1 h => exact absurd h h41
  case h_2 h => exact absurd h h51
  case h_3 h => exact absurd h hA1
  case h_4 h => exact absurd h hA3
  case h_5 => rfl

theorem updCtx_append_nil (c : Nat) (s : State) : updCtx c (fun x => { x with sigset := x.sigset ++ [] }) s = s := by
  have hid : tabUpd s.ex.ctxs c (fun x => { x with sigset := x.sigset ++ [] }) = s.ex.ctxs :=
    (tabUpd_congr s.ex.ctxs _ (g := fun x => x) {} (by rw [List.append_nil])).trans (tabUpd_id ..)
  exact congrArg (fun v => updEx (fun e => { e with ctxs := v }) s) hid

/-- A packet that names no knot to signal adds none (R360). -/
theorem noteSigs_none {id : Nat} {k : Cmd} (hk : findCmd s id = some k) (h : pktContext k.pkt = 0xFF ∨ (namedKnots k.pkt = [] ∧ sigCount s ≤ 65536)) : noteSigs id s = s := by
  unfold noteSigs
  rw [hk]
  dsimp only
  split
  case isFalse => rfl
  case isTrue hc =>
    have hlt : cmdCtx k < 64 := of_decide_eq_true (Bool.and_eq_true_iff.mp hc).1
    obtain h | ⟨hn, hs⟩ := h
    · unfold cmdCtx at hlt
      omega
    · have hadd : addSigs (cmdCtx k) [] s = some (updCtx (cmdCtx k) (fun x => { x with sigset := x.sigset ++ [] }) s) := by
        unfold addSigs
        exact if_neg (Nat.not_lt.mpr hs)
      rw [hn]
      unfold realKnots
      dsimp only
      rw [hadd, updCtx_append_nil]

/-- The newest command is found where no older one has its number. -/
theorem findCmd_pushCmd (hnew : ∀ z ∈ s.ex.cmds, z.id ≠ s.ex.nextCmd) (ph : Phase) (st : Status) :
    findCmd (pushCmd q p ph st s).2 s.ex.nextCmd = some { id := s.ex.nextCmd, q := fin' 255 q, pkt := p, phase := ph, status := st } := by
  unfold findCmd
  rw [pushCmd_cmds, List.find?_append, List.find?_eq_none.mpr (fun z hz => by simpa using hnew z hz), Option.none_or, List.find?_cons_of_pos (by simp)]

end Accept

/-- Settles O43: what framing finds, then whether the packet names knots; the fetch and the front end by their own rules. -/
theorem acceptanceAndFraming : Obligations.AcceptanceAndFraming := by
  intro q p s v x y n k hx hy hn
  subst hx hy
  rw [← pktSlots_eq] at hn
  subst hn
  refine ⟨fun st hf hb => ⟨_, acceptPkt_refused hf hb, rfl, countFetch_fetch q _ v, countFetch_accepted q _ v, rfl, rfl⟩,
    fun hf hb h41 h51 hA1 hA3 hkn hk hnew =>
      ⟨(pushCmd q p .waiting St.success (countFetch q (pktSlots (2 ^ (queueOf s q).size) p) v)).2, ?accepted, by rw [hk]; rfl, countFetch_fetch q _ v, countFetch_accepted q _ v, rfl, rfl⟩, fun f hroot habort hf => ?fetch,
    fun hp ap hbad hl hh => ?failure, fun j r hj hr => ?front⟩
  case accepted =>
    subst hk
    have hfind : findCmd (pushCmd q p .waiting St.success (countFetch q (pktSlots (2 ^ (queueOf s q).size) p) v)).2 v.ex.nextCmd =
        some { id := v.ex.nextCmd, q := fin' 255 q, pkt := p, phase := .waiting, status := 0 } :=
      findCmd_pushCmd (q := q) (p := p) (s := countFetch q (pktSlots (2 ^ (queueOf s q).size) p) v) hnew .waiting St.success
    rw [acceptPkt_waits hf hb, noteSigs_none hfind hkn, atAcceptance_none hfind h41 h51 hA1 hA3]
  case fetch =>
    obtain ⟨hex, hmm, hpte⟩ := fetchSlots_root hroot habort hf
    refine ⟨hex, hmm, hpte, ?_⟩
    unfold queueOf
    rw [hex]
  case failure =>
    rw [exec_framingFailure, execFramingFailure]
    rw [hbad, Bool.or_true, acceptRow_live q _ s hl hh, fin_eq]
  case front =>
    obtain ⟨hpend, hlow⟩ := feNext_lowest hj
    obtain ⟨hhead, hroom⟩ := headPkt_some hr
    exact ⟨feStep_takes s j r hj hr, hhead, hroom, takesPkt_of_doorbellPending hpend, hlow⟩

end Sys2Proof.Machine


/-! Completion: the order of R352. -/
namespace Sys2Proof.Machine

/-! ### The only command of the block (R352, R403) -/

section OnlyCommand
variable {c : Cmd} {s : State}

/-- A command does not wait for itself. -/
theorem orderWaits_of_only (hc : s.ex.cmds = [c]) (hp : c.parent = none) : orderWaits s c = false := by
  unfold orderWaits
  rw [hc, hp]
  simp [hp]

theorem completes_of_only (hc : s.ex.cmds = [c]) (hd : c.phase = .done) (ht : c.startT.isSome = true) (hp : c.parent = none)
    (ha : acksDue s c.id = false) : completes s c = true := by
  unfold completes
  rw [orderWaits_of_only hc hp, hd, ht, hp, ha]
  rfl

theorem cknotGo_of_no_signal (h : pktSignal c.pkt = false) : cknotGo c s = (some c, s) := by
  unfold cknotGo signalsCknot
  rw [h]
  rfl

theorem signalCknot_of_no_signal (h : pktSignal c.pkt = false) : signalCknot c s = s := by
  unfold signalCknot signalsCknot
  rw [h]
  rfl

theorem children_of_only (hc : s.ex.cmds = [c]) (hp : c.parent = none) : children s c.id = [] := by
  unfold children
  rw [hc]
  simp [hp]

theorem findCmd_of_only (hc : s.ex.cmds = [c]) : findCmd s c.id = some c := by
  unfold findCmd
  rw [hc]
  simp

theorem publish_of_running (hf : fwOn s = true) (hh : holding s = false) : publish s = publishNow s := by
  unfold publish
  rw [hf, hh]
  rfl

theorem startNext_of_idle (q : Nat) (hc : s.ex.cmds = []) : startNext q s = s := by
  unfold startNext
  rw [hc]
  split <;> rfl

/-- The completion of the only command is `complete1` of it: it has no children, no knot and no load to end. -/
theorem completionNow_of_only {q : Fin 256} (hc : s.ex.cmds = [c]) (hq : c.q = q) (hd : c.phase = .done) (ht : c.startT.isSome = true)
    (hp : c.parent = none) (hs : pktSignal c.pkt = false) (ha : acksDue s c.id = false) :
    completionNow true q.val s = complete1 true c s := by
  have hfind : (s.ex.cmds.find? fun k => k.q.val == q.val && completes s k) = some c := by
    rw [hc]
    exact List.find?_cons_of_pos (by rw [completes_of_only hc hd ht hp ha, hq]; simp)
  unfold completionNow
  rw [hfind]
  dsimp only
  rw [cknotGo_of_no_signal hs]
  dsimp only
  rw [hd, if_neg (c := (Phase.done == Phase.running) = true) (by decide), children_of_only hc hp]
  dsimp only [List.foldl_nil]
  simp only [findCmd_of_only hc, Option.getD_some, ite_self]

end OnlyCommand

/-! ### The state with the command counted and published, and its record (R352, R404, R405) -/

section Record
variable {c : Cmd} {s : State} {q : Fin 256}

/-- The command is gone and counted in its queue: before the publication. -/
def countedOut (c : Cmd) (q : Nat) (s : State) : State :=
  updQueue q (fun z => { z with completed := z.completed + 1, lastStatus := c.status, lastTag := pktTag c.pkt }) (updEx (fun e => { e with cmds := [] }) s)

/-- Step 4 of R352 for a command without IRQ: the record is written, or waits behind a full ring. -/
def recordOut (q : Nat) (dws : List W32) (w : State) : State :=
  if ringFullQ (queueOf w q) then updQueue q (fun z => { z with waitRecs := z.waitRecs ++ [{ dws := dws, irq := false }] }) w else writeRec q dws w

theorem complete1_of_only (hc : s.ex.cmds = [c]) (hq : c.q = q) (hs : pktSignal c.pkt = false) (hi : pktIrq c.pkt = false)
    (ho : pktOpcode c.pkt ≠ 0xF0) (hf : fwOn s = true) (hh : holding s = false) :
    complete1 true c s = settleRoot (queueOf (publishNow (countedOut c q s)) q).fn
      (recordOut q (recordWords q c (queueOf (publishNow (countedOut c q s)) q).completed) (publishNow (countedOut c q s))) := by
  have hnone : s.ex.cmds.filter (·.id != c.id) = [] := by
    rw [hc]
    simp
  have hout : updEx (fun e => { e with cmds := e.cmds.filter (·.id != c.id) }) s = updEx (fun e => { e with cmds := [] }) s :=
    congrArg (fun l => updEx (fun e => { e with cmds := l }) s) hnone
  have hw : (publishNow (countedOut c q s)).ex.cmds = [] := congrArg Exec.cmds (publishNow_keeps _).1
  subst hq
  have hpub : publish (updQueue c.q.val (fun x => { x with completed := x.completed + 1, lastStatus := c.status, lastTag := pktTag c.pkt })
      (updEx (fun e => { e with cmds := [] }) s)) = publishNow (countedOut c c.q s) := publish_of_running (s := countedOut c c.q s) hf hh
  unfold complete1
  dsimp only
  rw [hout, hpub, signalCknot_of_no_signal hs, if_pos rfl, startNext_of_idle _ hw, hi, if_neg (fun h => ho (of_decide_eq_true (Bool.and_eq_true_iff.mp h).1))]
  rfl

theorem exec_commandCompletion_of_only (hc : s.ex.cmds = [c]) (hq : c.q = q) (hd : c.phase = .done) (ht : c.startT.isSome = true)
    (hp : c.parent = none) (hs : pktSignal c.pkt = false) (hi : pktIrq c.pkt = false) (ho : pktOpcode c.pkt ≠ 0xF0)
    (hf : fwOn s = true) (hh : holding s = false) (ha : acksDue s c.id = false) :
    exec (.commandCompletion q) s = .next (after (kick (settleRoot (queueOf (publishNow (countedOut c q s)) q).fn
      (recordOut q (recordWords q c (queueOf (publishNow (countedOut c q s)) q).completed) (publishNow (countedOut c q s)))))) := by
  have hexec : exec (.commandCompletion q) s = fin (completion q.val s) := by
    change execCommandCompletion q s = _
    unfold execCommandCompletion
    rw [hf, hh]
    rfl
  rw [hexec, completion, completionNow_of_only hc hq hd ht hp hs ha, complete1_of_only hc hq hs hi ho hf hh, fin_eq]

/-- What the publication finds and leaves in the queue of the command. -/
theorem queueOf_publishNow_countedOut : queueOf (publishNow (countedOut c q s)) q =
    { queueOf s q with completed := (queueOf s q).completed + 1, lastStatus := c.status, lastTag := pktTag c.pkt } := by
  have h : queueOf (publishNow (countedOut c q s)) q = queueOf (countedOut c q s) q :=
    congrArg (fun e : Exec => tabD e.queues q ({} : Queue)) (publishNow_keeps _).1
  rw [h]
  exact queueOf_upd q _ _

theorem dataOf_clean (bs : List Byte) : dataOf (clean bs) = bs := by
  unfold dataOf clean
  rw [List.map_map]
  exact List.map_id bs

/-- A host write stores its bytes where the bus takes it. -/
theorem hostWriteP_cells {fn : Nat} (a : Nat) (bs : List Byte) (w : State) (hb : busOn w fn = true) :
    (hostWriteP fn a (clean bs) w).mm.host.cells = (w.mm.host.putBytes a bs).cells := by
  unfold hostWriteP
  rw [if_pos hb]
  dsimp only
  rw [noteGrans_cells, dataOf_clean]

/-- The record of a root queue goes to its ring in host memory. -/
theorem writeRec_root {w : State} (dws : List W32) (hr : (queueOf w q).root = true) (hb : busOn w (queueOf w q).fn = true) :
    writeRec q dws w = updQueue q (fun x => { x with written := x.written + 1 })
      (writePlace (queueOf w q).fn (.host ((queueOf w q).cring.toNat + 32 * ((queueOf w q).written.toNat % 2 ^ (queueOf w q).csize)))
        (clean (wordsBytes (setBit (dws.getD 0 0) 31 (((queueOf w q).written.toNat / 2 ^ (queueOf w q).csize) % 2 = 0) :: dws.drop 1))) w) := by
  unfold writeRec
  dsimp only
  rw [if_pos hr, if_pos hb]

end Record

/-- Settles O44: completion in the order of R352; count and publication come before the record, which is written or waits. -/
theorem completionComplete : Obligations.CompletionComplete := by
  unfold Obligations.CompletionComplete
  intro q s w u c x y hc hq hd ht hp hs hi ho hx hf hh ha hw hy
  subst hx
  have hexec := exec_commandCompletion_of_only hc hq hd ht hp hs hi ho hf hh ha
  have hqueue := queueOf_publishNow_countedOut (c := c) (q := q) (s := s)
  have hkeeps := publishNow_keeps (countedOut c q s)
  have hw' : publishNow (countedOut c q s) = w := hw.symm
  rw [hw'] at hexec hqueue hkeeps
  obtain ⟨hex, hpte, -, -, hpage⟩ := hkeeps
  rw [← hy] at hexec hqueue
  rw [show y.completed = (queueOf s q).completed + 1 by rw [hqueue], recordOut, ← hy] at hexec
  refine ⟨?written, ?waits, ?counted, ?root, ?epoch⟩
  case written =>
    intro hr hu
    rw [hexec, hr, hu]
    rfl
  case waits =>
    intro hr hu
    rw [hexec, hr, hu]
    rfl
  case counted =>
    refine ⟨by rw [hqueue], by rw [hqueue], by rw [hqueue], by rw [hex]; rfl, hpte, ?_, ?_⟩
    · exact congrArg Page.epoch hpage
    · exact congrArg Page.pubtime hpage
  case root =>
    intro hr hb hu
    subst hy
    rw [writeRec_root _ hr hb] at hu
    constructor
    · rw [hu, queueOf_upd]
      have hsame : queueOf (writePlace (queueOf w q).fn _ _ w) q = queueOf w q :=
        congrArg (fun e : Exec => tabD e.queues q ({} : Queue)) (writePlace_memOnly (queueOf w q).fn
          (.host ((queueOf w q).cring.toNat + 32 * ((queueOf w q).written.toNat % 2 ^ (queueOf w q).csize)))
          (clean (wordsBytes (setBit ((recordWords q c ((queueOf s q).completed + 1)).getD 0 0) 31
            (((queueOf w q).written.toNat / 2 ^ (queueOf w q).csize) % 2 = 0) :: (recordWords q c ((queueOf s q).completed + 1)).drop 1))) w).ex
      rw [hsame, hqueue]
    · rw [hu]
      exact hostWriteP_cells _ _ w hb
  case epoch =>
    change fin (publish s) = _
    rw [publish_of_running hf hh, fin_eq]

end Sys2Proof.Machine


/-! Timeouts: the classes of Table 12.3 (R424-R426). -/
namespace Sys2Proof.Machine

section Timeout
variable {c : Nat} {t : W64} {s : State} {y : Cmd}

theorem exec_commandTimeout_elapsed (hy : findCmd (s.at t) c = some y) (hf : fwOn (s.at t) = true) (ht : timedOut (s.at t) y = true) :
    exec (.commandTimeout c t) s = .next (after (kick (timeoutOf y (s.at t)))) := by
  change execCommandTimeout c t s = _
  unfold execCommandTimeout
  dsimp only
  rw [hy]
  dsimp only
  rw [ht, hf]
  exact fin_eq _

theorem exec_commandTimeout_early (hy : findCmd (s.at t) c = some y) (ht : timedOut (s.at t) y = false) :
    exec (.commandTimeout c t) s = .next (after (s.at t)) := by
  change execCommandTimeout c t s = _
  unfold execCommandTimeout
  dsimp only
  rw [hy]
  dsimp only
  rw [ht]
  exact fin_eq _

/-- The packets of the class "waits": 0x10, 0x11, 0x12, 0x3B and 0x61. -/
theorem timeoutOf_waits (u : State) (h : pktOpcode y.pkt ∈ [0x10, 0x11, 0x12, 0x3B, 0x61]) : timeoutOf y u = waitsOnly y u := by
  unfold timeoutOf
  simp only [List.mem_cons, List.not_mem_nil, or_false] at h
  rcases h with h | h | h | h | h <;> rw [h] <;> rfl

/-- The packets of the class "drain or kill": 0x20, 0x3A, 0x41, 0x60 and 0x62. -/
theorem timeoutOf_drainOrKill (u : State) (h : pktOpcode y.pkt ∈ [0x20, 0x3A, 0x41, 0x60, 0x62]) : timeoutOf y u = drainOrKill y u := by
  unfold timeoutOf
  simp only [List.mem_cons, List.not_mem_nil, or_false] at h
  rcases h with h | h | h | h | h <;> rw [h] <;> rfl

theorem waitsOnly_waiting (u : State) (h : y.phase = .waiting) : waitsOnly y u = finish y.id 0x0303 u := by
  unfold waitsOnly
  rw [h]
  rfl

theorem waitsOnly_begun (u : State) (h : y.phase ≠ .waiting) : waitsOnly y u = u := by
  unfold waitsOnly
  rw [beq_eq_false_iff_ne.mpr h]
  rfl

theorem drainOrKill_kill (u : State) (h : pktKill y.pkt = true) : drainOrKill y u = killCmd y 0x0302 u := by
  unfold drainOrKill
  rw [h]
  rfl

theorem drainOrKill_waiting (u : State) (hk : pktKill y.pkt = false) (h : y.phase = .waiting) : drainOrKill y u = finish y.id 0x0301 u := by
  unfold drainOrKill
  rw [hk, h]
  rfl

end Timeout

/-! ### The allowance of a drain (R425) -/

section Allowance
variable {c : Nat} {t e : W64} {s : State} {y : Cmd}

theorem exec_timeoutDrainAllowance_over (hy : findCmd (s.at t) c = some y) (hf : fwOn (s.at t) = true) (hd : y.drainEnd = some e)
    (hp : y.phase ≠ .done) (he : e.toNat ≤ (s.at t).now) (hk : ∀ z ∈ (s.at t).ex.cmds, z.parent ≠ some c) (hr : ∀ p, y.work ≠ .render p) :
    exec (.timeoutDrainAllowance c t) s =
      .next (after (kick (killCmd y (if ownedBy (s.at t) c then St.timeoutKilled else St.timeoutDrained) (s.at t)))) := by
  have hkids : children (s.at t) c = [] := List.filter_eq_nil_iff.mpr fun z hz => by simpa using hk z hz
  change execTimeoutDrainAllowance c t s = _
  unfold execTimeoutDrainAllowance
  dsimp only
  rw [hy]
  dsimp only
  rw [hd]
  dsimp only
  rw [beq_eq_false_iff_ne.mpr hp, hf, if_neg (by simpa using he), hkids, List.any_nil, Bool.or_false]
  split
  case h_1 p hw => exact absurd hw (hr p)
  case h_2 => rw [Bool.or_false, fin_eq]

theorem exec_timeoutDrainAllowance_early (hy : findCmd (s.at t) c = some y) (hd : y.drainEnd = some e) (he : (s.at t).now < e.toNat) :
    exec (.timeoutDrainAllowance c t) s = .next (after (s.at t)) := by
  change execTimeoutDrainAllowance c t s = _
  unfold execTimeoutDrainAllowance
  dsimp only
  rw [hy]
  dsimp only
  rw [hd]
  dsimp only
  rw [decide_eq_true he]
  exact fin_eq _

end Allowance

/-- Settles O45: what COMMAND_TIMEOUT does for the class of each command, and the end of a drain's allowance. -/
theorem timeoutsComplete : Obligations.TimeoutsComplete := by
  unfold Obligations.TimeoutsComplete
  intro c t s u y e hu hy hid hf
  subst hu hid
  refine ⟨?early, ?waiting, ?begun, ?kill, ?drained, ?owned, ?unowned, ?allowed⟩
  case early => exact exec_commandTimeout_early hy
  case waiting =>
    intro ht ho hp
    rw [exec_commandTimeout_elapsed hy hf ht, timeoutOf_waits _ ho, waitsOnly_waiting _ hp]
  case begun =>
    intro ht ho hp
    rw [exec_commandTimeout_elapsed hy hf ht, timeoutOf_waits _ ho, waitsOnly_begun _ hp]
  case kill =>
    intro ht ho hk
    rw [exec_commandTimeout_elapsed hy hf ht, timeoutOf_drainOrKill _ ho, drainOrKill_kill _ hk]
  case drained =>
    intro ht ho hk hp
    rw [exec_commandTimeout_elapsed hy hf ht, timeoutOf_drainOrKill _ ho, drainOrKill_waiting _ hk hp]
  case owned =>
    intro hd hp he hk hr ho
    rw [exec_timeoutDrainAllowance_over hy hf hd hp he hk hr, ho]
    rfl
  case unowned =>
    intro hd hp he hk hr ho
    rw [exec_timeoutDrainAllowance_over hy hf hd hp he hk hr, ho]
    rfl
  case allowed => exact fun hd he => exec_timeoutDrainAllowance_early hy hd he

end Sys2Proof.Machine


/-! The scheduler: BLOCK_DISPATCH, CORE_CLAIM and TURN_END (R508-R520). -/
namespace Sys2Proof.Machine

section Scheduler
variable {s : State} {part : Fin 8} {t : W64}

theorem exec_blockDispatch_off (h : (partOf (reserveTiles (schedPart part s)) part).en = false) :
    exec (.blockDispatch part) s = .next (after (reserveTiles (schedPart part s))) := by
  change execBlockDispatch part s = _
  unfold execBlockDispatch
  dsimp only
  rw [h, if_neg Bool.false_ne_true, fin_eq]

theorem exec_blockDispatch_on (h : (partOf (reserveTiles (schedPart part s)) part).en = true) :
    exec (.blockDispatch part) s = .next (after (schedPart part (tryCands part (candidates (reserveTiles (schedPart part s)) part) (reserveTiles (schedPart part s))))) := by
  change execBlockDispatch part s = _
  unfold execBlockDispatch
  dsimp only
  rw [h, if_pos rfl, fin_eq]

/-- A first candidate that finds cores is served there. -/
theorem tryCands_served {c : Cmd} {r : List Cand} {d : Dispatching} {u : State} {p : Nat} {ks : List Nat} (hd : nextNeeds c = some d)
    (hk : chooseCores u c (candSource u p (.cmd c)) d = ks) (hne : ks ≠ []) :
    tryCands p (.cmd c :: r) u = dispatched c.id ks.length (placeDispatch c d 0 ks u) := by
  cases ks with
  | nil => exact absurd rfl hne
  | cons k l =>
    unfold tryCands
    rw [hd]
    dsimp only
    rw [hk]

/-- No core in the table is claimed by the command when none of the 32 is. -/
theorem none_claimed {u : State} {n : Nat} (h : ∀ i, i < 32 → (coreOf u i).claim ≠ some (.cmd n)) :
    (u.ex.cores.toList.any fun k => k.claim == some (.cmd n)) = false := by
  rw [List.any_eq_false]
  intro k hk
  obtain ⟨i, hi, hik⟩ := Vector.mem_iff_getElem.mp (Vector.mem_toList_iff.mp hk)
  have hcore : coreOf u i = k := by
    rw [← hik]
    unfold coreOf tabD
    simp [hi]
  have := h i hi
  rw [hcore] at this
  simpa using this

/-- A command without a bound place that has waited 1 ms claims the first core that would take its block (R509). -/
theorem exec_coreClaim_due {n k : Nat} {u : State} {y : Cmd} {d : Dispatching} {f : W64} (hu : u = s.at t) (hy : findCmd u n = some y)
    (hd : nextNeeds y = some d) (hp : y.phase = .running) (hb : d.bound = []) (hf : d.noCoreSince = some f) (hdue : f.toNat + 1000000 ≤ u.now)
    (hclaim : ∀ i, i < 32 → (coreOf u i).claim ≠ some (.cmd n)) (hk : (partCores u (cmdPart u y)).find? (claimable u (cmdPart u y) d) = some k) :
    exec (.coreClaim n t) s = .next (after (updCore k (fun x => { x with claim := some (.cmd n) }) u)) := by
  subst hu
  change execCoreClaim n t s = _
  unfold execCoreClaim
  dsimp only
  rw [hy]
  dsimp only
  rw [hd]
  dsimp only
  rw [hb, List.isEmpty_nil, if_pos rfl, hk, hf, none_claimed hclaim, hp]
  have hdue' : decide (f.toNat + 1000000 ≤ (s.at t).now) = true := decide_eq_true hdue
  simp only [hdue', beq_self_eq_true, Bool.not_false, Bool.and_self, if_true, fin_eq]

end Scheduler

/-- Settles O46: dispatch, claim and turn of the scheduler; a block goes only to cores that take it. -/
theorem schedulerComplete : Obligations.SchedulerComplete := by
  unfold Obligations.SchedulerComplete
  intro s part n t
  refine ⟨?dispatch, exec_blockDispatch_off, ?claim, ?turn⟩
  case dispatch =>
    intro u c r d ks hu hen hcand hd hks hne
    subst hu
    refine ⟨?_, fun k hk => chooseCores_takes _ _ _ _ k (hks ▸ hk)⟩
    rw [exec_blockDispatch_on hen, hcand, tryCands_served hd hks hne]
  case claim =>
    intro u y d f k hu hy hd hp hb hf hdue hclaim hk
    exact exec_coreClaim_due hu hy hd hp hb hf hdue hclaim hk
  case turn =>
    intro u c hu hc
    subst hu
    constructor <;> intro ho
    · change execTurnEnd part t s = _
      unfold execTurnEnd
      dsimp only
      rw [hc]
      dsimp only
      rw [ho]
      exact fin_eq _
    · change execTurnEnd part t s = _
      unfold execTurnEnd
      dsimp only
      rw [hc]
      dsimp only
      rw [ho]
      exact fin_eq _

end Sys2Proof.Machine


/-! The packets that manage the device, at their start (Table 12.3). -/
namespace Sys2Proof.Machine

/-- An index that a field names is the field. -/
theorem fin'_val_of_lt {n i : Nat} (h : i < n + 1) : (fin' n i).val = i := Nat.mod_eq_of_lt h

theorem life_ne_free {l : Life} (h : l ≠ .free) : (l == Life.free) = false := beq_eq_false_iff_ne.mpr h

/-! ### CONTEXT_CREATE (R448, R449) -/

section ContextCreate
variable {c : Cmd} {s : State}

/-- The context that CONTEXT_CREATE makes of a FREE one. -/
def createdCtx (c : Cmd) (s : State) (x : Ctx) : Ctx :=
  { life := .live, part := fin' 7 (fld (dw c.pkt 8) 2 0), fn := fin' 8 (rootFn s c), generation := x.generation + 1, root := BitVec.ofNat 64 (dq c.pkt 10) }

/-- The host chooses the partition; it must be enabled, and ROOT a page below 2^36. -/
theorem startContextCreate_host (hf : rootFn s c = 0) : startContextCreate c s =
    if !(partOf s (fld (dw c.pkt 8) 2 0)).en || dq c.pkt 10 % 4096 != 0 || decide (2 ^ 36 ≤ dq c.pkt 10) then (.ended St.paramRange, s)
    else match (List.range 64).find? fun i => (ctxOf s i).life == .free with
      | none => (.ended St.contextLimit, s)
      | some i => (.ended St.success, setRes0 c.id i (updCtx i (createdCtx c s) s)) := by
  unfold startContextCreate
  dsimp only
  rw [if_pos hf]
  rfl

theorem startContextCreate_bad (hf : rootFn s c = 0)
    (h : (partOf s (fld (dw c.pkt 8) 2 0)).en = false ∨ dq c.pkt 10 % 4096 ≠ 0 ∨ 2 ^ 36 ≤ dq c.pkt 10) : startContextCreate c s = (.ended St.paramRange, s) := by
  rw [startContextCreate_host hf]
  refine if_pos ?_
  rcases h with h | h | h
  · rw [h]
    rfl
  · rw [bne_iff_ne.mpr h, Bool.or_true, Bool.true_or]
  · rw [decide_eq_true h, Bool.or_true]

theorem startContextCreate_good (hf : rootFn s c = 0) (he : (partOf s (fld (dw c.pkt 8) 2 0)).en = true) (ha : dq c.pkt 10 % 4096 = 0)
    (hr : dq c.pkt 10 < 2 ^ 36) : startContextCreate c s =
    match (List.range 64).find? fun i => (ctxOf s i).life == .free with
      | none => (.ended St.contextLimit, s)
      | some i => (.ended St.success, setRes0 c.id i (updCtx i (createdCtx c s) s)) := by
  rw [startContextCreate_host hf]
  refine if_neg ?_
  rw [he, ha, decide_eq_false (Nat.not_le.mpr hr)]
  exact Bool.false_ne_true

theorem startContextCreate_free {i : Nat} (hf : rootFn s c = 0) (he : (partOf s (fld (dw c.pkt 8) 2 0)).en = true) (ha : dq c.pkt 10 % 4096 = 0)
    (hr : dq c.pkt 10 < 2 ^ 36) (hi : i < 64) (hfree : (ctxOf s i).life = .free) (hlow : ∀ j, j < i → (ctxOf s j).life ≠ .free) :
    startContextCreate c s = (.ended St.success, setRes0 c.id i (updCtx i (createdCtx c s) s)) := by
  rw [startContextCreate_good hf he ha hr, find_lowest (fun i => (ctxOf s i).life == .free) _ i hi (beq_iff_eq.mpr hfree) fun j hj => life_ne_free (hlow j hj)]

theorem startContextCreate_full (hf : rootFn s c = 0) (he : (partOf s (fld (dw c.pkt 8) 2 0)).en = true) (ha : dq c.pkt 10 % 4096 = 0)
    (hr : dq c.pkt 10 < 2 ^ 36) (hfull : ∀ j, j < 64 → (ctxOf s j).life ≠ .free) : startContextCreate c s = (.ended St.contextLimit, s) := by
  have hnone : ((List.range 64).find? fun i => (ctxOf s i).life == .free) = none :=
    List.find?_eq_none.mpr fun j hj => by simpa using hfull j (List.mem_range.mp hj)
  rw [startContextCreate_good hf he ha hr, hnone]

theorem ctxOf_updCtx_same {i : Nat} (f : Ctx → Ctx) (u : State) (h : i < 64) : ctxOf (updCtx i f u) i = f (ctxOf u i) := tabD_tabUpd_same _ _ _ h
theorem ctxOf_updCtx_ne {i j : Nat} (f : Ctx → Ctx) (u : State) (h : j ≠ i) : ctxOf (updCtx i f u) j = ctxOf u j := tabD_tabUpd_ne _ _ _ h.symm

end ContextCreate

/-! ### CONTEXT_DESTROY, QUEUE_CREATE and QUEUE_DESTROY (R450-R453) -/

section Queues
variable {c : Cmd} {s : State}

/-- Destroying a FREE context only notes the command's work. -/
theorem startContextDestroy_free (hx : cmdCtx c < 64) (hf : (ctxOf s (cmdCtx c)).life = .free) :
    startContextDestroy c s = (.ended St.success, updCmd c.id (fun y => { y with work := .destroy (fin' 63 (cmdCtx c)) }) s) := by
  unfold startContextDestroy
  dsimp only
  rw [if_neg (Nat.not_le.mpr hx)]
  exact if_pos (beq_iff_eq.mpr hf)

/-- The queue that QUEUE_CREATE makes. -/
def createdQueue (c : Cmd) (s : State) : Queue :=
  { life := .live, fn := fin' 8 (rootFn s c), ctx := fin' 63 (cmdCtx c), kind := BitVec.ofNat 2 (fld (dw c.pkt 8) 1 0), share := BitVec.ofNat 4 (fld (dw c.pkt 8) 7 4)
    size := fld (dw c.pkt 8) 12 8, csize := fld (dw c.pkt 8) 20 16, vector := fld (dw c.pkt 8) 29 24
    ring := BitVec.ofNat 64 (dq c.pkt 10), cring := BitVec.ofNat 64 (dq c.pkt 12) }

theorem startQueueCreate_bad (h : fld (dw c.pkt 8) 1 0 = 3 ∨ fld (dw c.pkt 8) 12 8 < 4 ∨ 16 < fld (dw c.pkt 8) 12 8 ∨ fld (dw c.pkt 8) 20 16 < 4 ∨
    16 < fld (dw c.pkt 8) 20 16 ∨ vectors (rootFn s c) ≤ fld (dw c.pkt 8) 29 24 ∨ dq c.pkt 10 % 4096 ≠ 0 ∨ dq c.pkt 12 % 4096 ≠ 0) :
    startQueueCreate c s = (.ended St.paramRange, s) := by
  unfold startQueueCreate
  dsimp only
  refine if_pos ?_
  simp only [Bool.or_eq_true, Bool.not_eq_true', beq_iff_eq, bne_iff_ne, Bool.and_eq_false_iff, decide_eq_true_eq, decide_eq_false_iff_not, Nat.not_le]
  tauto

theorem startQueueCreate_free {i : Nat} (hl : namedLive s c = true) (hk : fld (dw c.pkt 8) 1 0 ≠ 3) (hs : 4 ≤ fld (dw c.pkt 8) 12 8) (hs' : fld (dw c.pkt 8) 12 8 ≤ 16)
    (hc : 4 ≤ fld (dw c.pkt 8) 20 16) (hc' : fld (dw c.pkt 8) 20 16 ≤ 16) (hv : fld (dw c.pkt 8) 29 24 < vectors (rootFn s c)) (hr : dq c.pkt 10 % 4096 = 0)
    (hcr : dq c.pkt 12 % 4096 = 0) (hi : 1 ≤ i) (hi' : i < 248) (hfree : (queueOf s i).life = .free) (hlow : ∀ j, 1 ≤ j → j < i → (queueOf s j).life ≠ .free) :
    startQueueCreate c s = (.ended St.success, setRes0 c.id i (updQueue i (fun _ => createdQueue c s) s)) := by
  have hfind : ((List.range 248).find? fun i => i != 0 && (queueOf s i).life == .free) = some i := by
    refine find_lowest _ _ i hi' ?_ fun j hj => ?_
    · rw [hfree, bne_iff_ne.mpr (Nat.one_le_iff_ne_zero.mp hi)]
      rfl
    · cases j with
      | zero => rfl
      | succ j => rw [life_ne_free (hlow _ (Nat.succ_pos j) hj), Bool.and_false]
  unfold startQueueCreate
  dsimp only
  refine (if_neg ?_).trans ?_
  · simp only [Bool.or_eq_true, Bool.not_eq_true', beq_iff_eq, bne_iff_ne, Bool.and_eq_false_iff, decide_eq_true_eq, decide_eq_false_iff_not, Nat.not_le, hl, hr, hcr,
      reduceCtorEq, false_or, ne_eq, not_true_eq_false, or_false]
    omega
  · rw [hfind]
    rfl

/-- A queue of the context that the packet names may be destroyed through the host's root queue. -/
theorem startQueueDestroy_named (hf : rootFn s c = 0) (hl : (queueOf s (fld (dw c.pkt 8) 7 0)).life = .live)
    (hr : (queueOf s (fld (dw c.pkt 8) 7 0)).root = false) (hx : (queueOf s (fld (dw c.pkt 8) 7 0)).ctx.val = cmdCtx c) :
    startQueueDestroy c s = (.ended St.success, updQueue (fld (dw c.pkt 8) 7 0) (fun _ => {}) (endQueue (fld (dw c.pkt 8) 7 0) St.queueDestroyed s)) := by
  have hgood : queueDestroyBad c s = none := by
    unfold queueDestroyBad
    simp [hf, hl, hr, hx]
  unfold startQueueDestroy
  rw [hgood]

end Queues

/-! ### PARTITION_CONFIG, OUT_CONFIG and GRAPH_FREE -/

section Others
variable {c : Cmd} {s : State}

/-- VF names a function below 8, or none (15). -/
theorem startPartitionConfig_badVf (h : 8 ≤ fld (dw c.pkt 8) 11 8) (h' : fld (dw c.pkt 8) 11 8 ≠ 15) : startPartitionConfig c s = (.ended St.paramRange, s) := by
  have hlt : fld (dw c.pkt 8) 11 8 < 16 := fld_lt _ _ _
  unfold startPartitionConfig
  dsimp only
  refine if_pos ?_
  change (decide (8 ≤ (BitVec.ofNat 4 (fld (dw c.pkt 8) 11 8)).toNat) && BitVec.ofNat 4 (fld (dw c.pkt 8) 11 8) != 0xF) = true
  rw [Bool.and_eq_true, decide_eq_true_eq, bne_iff_ne]
  constructor <;> bv_omega

theorem startOutConfig_unarmed (h : sfiArmed s = false) : startOutConfig c s =
    (.ended St.success, ((List.range 36).filter fun o => (dq c.pkt 8).testBit o).foldl
      (fun s o => updOut o (fun x => { x with defw := dw c.pkt 11 }) (writeOutCfg o (dw c.pkt 10) s)) s) := by
  unfold startOutConfig
  dsimp only
  rw [h]
  rfl

theorem startGraphFree_other (h : graphMine s (fld (dw c.pkt 8) 7 0) (cmdCtx c) = false) : startGraphFree c s = (.ended St.graphState, s) := by
  unfold startGraphFree
  dsimp only
  rw [h]
  rfl

theorem startGraphFree_mine (h : graphMine s (fld (dw c.pkt 8) 7 0) (cmdCtx c) = true) : startGraphFree c s =
    (.ended St.success, settleGraph (fld (dw c.pkt 8) 7 0) (updGraph (fld (dw c.pkt 8) 7 0) (fun x => { x with live := false }) s)) := by
  unfold startGraphFree
  dsimp only
  rw [h]
  rfl

end Others

/-- Settles O48: what the packets that manage the device do at their start, packet by packet. -/
theorem managementPackets : Obligations.ManagementPackets := by
  unfold Obligations.ManagementPackets
  intro s c d hd
  subst hd
  refine ⟨?nop, ?create, ?full, ?badCreate, ?badQueue, ?queue, ?destroy, ?endQueue, ?budget, ?log, ?trace, ?partition, ?outputs, ?noGraph, ?graph⟩
  case nop => exact fun h => startOp_00 c s h
  case create =>
    intro i ho hf he ha hr hi hfree hlow
    refine ⟨updCtx i (createdCtx c s) s, ?_, rfl, ?_, ?_, ?_, ?_, fun j hj => ctxOf_updCtx_ne _ _ hj⟩
    · rw [startOp_A0 c s ho]
      exact startContextCreate_free hf he ha hr hi hfree hlow
    · rw [ctxOf_updCtx_same _ _ hi]
      rfl
    · rw [ctxOf_updCtx_same _ _ hi]
      exact fin'_val_of_lt (fld_lt _ _ _)
    · rw [ctxOf_updCtx_same _ _ hi]
      rfl
    · rw [ctxOf_updCtx_same _ _ hi]
      exact Nat.mod_eq_of_lt (hr.trans (by norm_num))
  case full =>
    intro ho hf he ha hr hfull
    exact (startOp_A0 c s ho).trans (startContextCreate_full hf he ha hr hfull)
  case badCreate => exact fun ho hf h => (startOp_A0 c s ho).trans (startContextCreate_bad hf h)
  case badQueue => exact fun ho h => (startOp_A2 c s ho).trans (startQueueCreate_bad h)
  case queue =>
    intro i ho hl hk hs hs' hc hc' hv hr hcr hi hi' hfree hlow
    exact ⟨createdQueue c s, (startOp_A2 c s ho).trans (startQueueCreate_free hl hk hs hs' hc hc' hv hr hcr hi hi' hfree hlow),
      rfl, rfl, rfl, rfl, rfl, rfl, rfl, rfl, rfl, rfl, rfl, rfl⟩
  case destroy => exact fun ho hx hf => ⟨_, (startOp_A1 c s ho).trans (startContextDestroy_free hx hf), rfl, rfl, rfl⟩
  case endQueue => exact fun ho hf hl hr hx => (startOp_A3 c s ho).trans (startQueueDestroy_named hf hl hr hx)
  case budget => exact fun ho => startOp_80 c s ho
  case log => exact fun ho => ⟨_, startOp_91 c s ho, rfl, rfl, rfl, rfl⟩
  case trace => exact fun ho => ⟨_, startOp_92 c s ho, rfl, rfl, rfl, rfl⟩
  case partition => exact fun ho h h' => (startOp_A8 c s ho).trans (startPartitionConfig_badVf h h')
  case outputs => exact fun ho h => (startOp_72 c s ho).trans (startOutConfig_unarmed h)
  case noGraph => exact fun ho h => (startOp_43 c s ho).trans (startGraphFree_other h)
  case graph => exact fun ho h => (startOp_43 c s ho).trans (startGraphFree_mine h)

end Sys2Proof.Machine


/-! The packets that do work, at their start. -/
namespace Sys2Proof.Machine

/-! ### Knots (R354-R361) -/

section Knots
variable {c : Cmd} {s u v : State} {pl : Place}

theorem startKnotSignal_bad (h : dq c.pkt 8 % 8 ≠ 0) : startKnotSignal c s = (.ended St.knotAddress, s) := by
  unfold startKnotSignal knotGo
  dsimp only
  rw [knotAddr_bad _ _ _ _ _ h]

theorem startKnotWait_bad (h : dq c.pkt 8 % 8 ≠ 0) : startKnotWait c s = (.ended St.knotAddress, s) := by
  unfold startKnotWait knotGo
  dsimp only
  rw [knotAddr_bad _ _ _ _ _ h]

theorem startKnotReset_bad (h : dq c.pkt 8 % 8 ≠ 0) : startKnotReset c s = (.ended St.knotAddress, s) := by
  unfold startKnotReset
  dsimp only
  rw [knotAddr_bad _ _ _ _ _ h]

/-- A signal over a route that is up, with room in the signal set. -/
theorem startKnotSignal_up (hk : knotAddr (cmdCtx c) (dq c.pkt 8) .store c.who.rq s = (.ok pl, u)) (hs : addSigs (cmdCtx c) [dq c.pkt 8] u = some v)
    (hr : routeDown v pl = false) : startKnotSignal c s = (.ended St.success, signal (ctxFn v (cmdCtx c)) pl (BitVec.ofNat 64 (dq c.pkt 10)) v) := by
  have hk' : knotAddr c.who.ctx (dq c.pkt 8) .store c.who.rq s = (.ok pl, u) := hk
  unfold startKnotSignal knotGo
  dsimp only
  rw [hk']
  dsimp only
  rw [hs]
  dsimp only
  rw [hr]
  rfl

theorem routeDown_here (h : ∀ dv f o, pl ≠ .remote dv f o) (w : State) : routeDown w pl = false := by
  cases pl with
  | remote dv f o => exact absurd rfl (h dv f o)
  | peat _ => rfl
  | lpddr _ => rfl
  | host _ => rfl

theorem knotLink_here (h : ∀ dv f o, pl ≠ .remote dv f o) (w : State) : knotLink pl w = w := by
  cases pl with
  | remote dv f o => exact absurd rfl (h dv f o)
  | peat _ => rfl
  | lpddr _ => rfl
  | host _ => rfl

theorem remoteWaiters_here (h : ∀ dv f o, pl ≠ .remote dv f o) (w : State) : remoteWaiters pl w = (false, w) := by
  cases pl with
  | remote dv f o => exact absurd rfl (h dv f o)
  | peat _ => rfl
  | lpddr _ => rfl
  | host _ => rfl

/-- A KNOT_RESET of a knot of this device is decided by the waiters on it. -/
theorem startKnotReset_here (hk : knotAddr (cmdCtx c) (dq c.pkt 8) .store c.who.rq s = (.ok pl, u)) (hl : ∀ dv f o, pl ≠ .remote dv f o) :
    startKnotReset c s = (.ended (if (knotResetNow (ctxFn u (cmdCtx c)) pl (BitVec.ofNat 64 (dq c.pkt 10)) u).1 then St.success else St.knotWaiters),
      (knotResetNow (ctxFn u (cmdCtx c)) pl (BitVec.ofNat 64 (dq c.pkt 10)) u).2) := by
  have hk' : knotAddr c.who.ctx (dq c.pkt 8) .store c.who.rq s = (.ok pl, u) := hk
  unfold startKnotReset
  dsimp only
  rw [hk']
  dsimp only
  rw [routeDown_here hl, remoteWaiters_here hl]
  rfl

theorem knotResetNow_waited {fn : Nat} {z : W64} (h : hasWaiters pl u = true) :
    knotResetNow fn pl z u = (false, knotWake pl (knotRead fn pl u).1 (knotRead fn pl u).2.1 (knotRead fn pl u).2.2) := by
  unfold knotResetNow
  rw [h]
  rfl

theorem part_of_memOnly {t : State} (h : MemOnly u t) : t.part = u.part := by rw [h]

/-- Without waiters the word is written; only a result knot resolves units. -/
theorem knotResetNow_free {fn : Nat} {z : W64} (h : hasWaiters pl u = false) (hl : ∀ dv f o, pl ≠ .remote dv f o)
    (hb : ∀ b, braidKnot u pl ≠ some (b, 0x400)) : knotResetNow fn pl z u = (true, knotStore fn pl (setBit z 63 false) u) := by
  have hsame : braidKnot (knotStore fn pl (setBit z 63 false) u) pl = braidKnot u pl := by
    unfold braidKnot knotFrame
    rw [show (knotStore fn pl (setBit z 63 false) u).part = u.part from part_of_memOnly (writePlace_memOnly ..)]
  unfold knotResetNow
  rw [h, knotLink_here hl]
  dsimp only
  rw [if_neg Bool.false_ne_true, hsame]
  split
  · exact absurd ‹_› (hb _)
  · rfl

end Knots

/-! ### Copies, queries and translation (R423, R430, R484, R499, R501) -/

section Memory
variable {c : Cmd} {s u : State}

theorem startCopy_overlap (h : copyOverlap c.pkt = true) : startCopy c s = (.ended St.copyOverlap, s) := by
  unfold startCopy
  rw [h]
  rfl

theorem startCopy_apart (h : copyOverlap c.pkt = false) : startCopy c s = runXfer c (copyXfer c.pkt) (copyEngine c s) s := by
  unfold startCopy
  rw [h]
  rfl

theorem startQuery_written {bs : List Byte} (hq : queryReply c s = .ok bs)
    (hw : writablePieces c.who.ctx c.who.rq (pagePieces (dq c.pkt 10) (bs.take (dw c.pkt 12).toNat).length) s = (.ok, u)) :
    startQuery c s = (.ended St.success, setRes0 c.id (bs.take (dw c.pkt 12).toNat).length
      (writeVa c.who.ctx (dq c.pkt 10) (clean (bs.take (dw c.pkt 12).toNat)) c.who.rq u).2.2) := by
  unfold startQuery
  rw [hq]
  dsimp only
  rw [hw]

/-- CACHE and CLASS have no value 3. -/
theorem startMemMap_badField (h : fld (dw c.pkt 11) 10 9 = 3 ∨ fld (dw c.pkt 11) 12 11 = 3) : startMemMap c s = (.ended St.paramRange, s) := by
  unfold startMemMap
  dsimp only
  exact if_pos (h.imp_right Or.inl)

theorem startXlInvalidate_begun {i : Nat} (h : invalStart (cmdCtx c) (dq c.pkt 8 / 65536) (dw c.pkt 10).toNat [] [] (some c.id) s = (i, u)) :
    startXlInvalidate c s = invalWait c [i] [] false u := by
  unfold startXlInvalidate
  rw [h]

/-- A reply to a record that no posted entry carries does nothing. -/
theorem startFaultResume_unknown (h : ∀ e ∈ s.mm.xl.pmt, (e.posted && e.recId.toNat == fld (dw c.pkt 8) 15 0) = false) :
    startFaultResume c s = (.ended St.success, s) := by
  have hnone : (s.mm.xl.pmt.find? fun e => e.posted && e.recId.toNat == fld (dw c.pkt 8) 15 0) = none :=
    List.find?_eq_none.mpr fun e he => Bool.eq_false_iff.mp (h e he)
  unfold startFaultResume
  dsimp only
  rw [hnone]

end Memory

/-! ### Braids, models, graphs and passes (R203, R227-R231, R260, R273, R433) -/

section Braids
variable {c : Cmd} {s : State}

theorem startBraidStart_other (hf : (braidOf s (fld (dw c.pkt 8) 3 0)).state ≠ .free) (hx : (braidOf s (fld (dw c.pkt 8) 3 0)).ctx.val ≠ cmdCtx c) :
    startBraidStart c s = (.ended 0x0123, s) := by
  unfold startBraidStart
  exact if_pos (Bool.and_eq_true_iff.mpr ⟨bne_iff_ne.mpr hf, bne_iff_ne.mpr hx⟩)

theorem startBraidStart_running (hf : (braidOf s (fld (dw c.pkt 8) 3 0)).state = .running) (hx : (braidOf s (fld (dw c.pkt 8) 3 0)).ctx.val = cmdCtx c) :
    startBraidStart c s = (.ended 0x0120, s) := by
  unfold startBraidStart
  dsimp only
  rw [hf, hx, if_neg (by simp)]
  exact if_pos rfl

/-- MODE 2 is RELEASE. -/
theorem startBraidStop_release (h : fld (dw c.pkt 8) 5 4 = 2) : startBraidStop c s = startRelease c s := by
  unfold startBraidStop
  rw [h]
  rfl

theorem startRelease_active (hk : stopChecks c s = none) (ha : bActive (braidOf s (fld (dw c.pkt 8) 3 0)) = true) : startRelease c s = (.ended 0x0120, s) := by
  unfold startRelease
  dsimp only
  rw [hk]
  exact if_pos ha

theorem startRelease_idle (hk : stopChecks c s = none) (ha : bActive (braidOf s (fld (dw c.pkt 8) 3 0)) = false) :
    startRelease c s = (.ended St.success, settleOrphans (freeBraid (fld (dw c.pkt 8) 3 0) s)) := by
  unfold startRelease
  dsimp only
  rw [hk]
  exact if_neg (Bool.eq_false_iff.mp ha)

theorem startModelEvict_selected (hm : modelRef s (cmdCtx c) (fld (dw c.pkt 8) 9 0) = none) (hu : 0 < selUses (fld (dw c.pkt 8) 9 0) s) :
    startModelEvict c s = (.ended 0x0230, s) := by
  unfold startModelEvict
  dsimp only
  rw [hm]
  exact if_pos hu

theorem startGraphRecord_live (h : (graphOf s (fld (dw c.pkt 8) 7 0)).live = true) : startGraphRecord c s = (.ended St.graphState, s) := by
  unfold startGraphRecord
  dsimp only
  exact if_pos (Bool.or_eq_true_iff.mpr (Or.inl h))

theorem startDraw_noPass (h : openPass s c.q = none) : startDraw c s = (.ended 0x0140, s) := by
  unfold startDraw
  rw [h]

theorem startDirect_openPass (h : (openPass s c.q).isSome = true) : startDirect c s = (.ended 0x0140, s) := by
  unfold startDirect
  exact if_pos h

/-- A snapshot takes at most 256 knots (R371). -/
theorem startSnapshot_tooMany (hc : s.snap.cur = none) (hn : 256 < fld (dw c.pkt 8) 15 7) : startSnapshot c s = (.ended St.snapshotParam, s) := by
  unfold startSnapshot
  dsimp only
  rw [hc]
  exact if_pos hn

theorem startTestSlice_absent (h : presentCores s.part ≤ fld (dw c.pkt 8) 4 0) : startTestSlice c s = (.ended St.resourceAbsent, s) := by
  unfold startTestSlice
  exact if_pos h

theorem startShutdown_noBist (h : bit (dw c.pkt 8) 0 = false) : startShutdown c s = (.ended St.success, s) := by
  unfold startShutdown
  rw [h]
  rfl

end Braids

/-- Settles O49: what the packets that do work meet at their start, packet by packet. -/
theorem workPackets : Obligations.WorkPackets := by
  unfold Obligations.WorkPackets
  intro s u c d pl hd
  subst hd
  refine ⟨?signal, ?badSignal, ?badWait, ?badReset, ?waited, ?reset, ?overlap, ?copy, ?query, ?map, ?invalidate, ?resume, ?otherBraid, ?running,
    ?active, ?release, ?evict, ?record, ?draw, ?direct, ?snapshot, ?slice, ?shutdown⟩
  case signal => exact fun v ho hk hs hr => (startOp_50 c s ho).trans (startKnotSignal_up hk hs hr)
  case badSignal => exact fun ho h => (startOp_50 c s ho).trans (startKnotSignal_bad h)
  case badWait => exact fun ho h => (startOp_51 c s ho).trans (startKnotWait_bad h)
  case badReset => exact fun ho h => (startOp_52 c s ho).trans (startKnotReset_bad h)
  case waited =>
    intro ho hk hl hw
    rw [startOp_52 c s ho, startKnotReset_here hk hl, knotResetNow_waited hw]
    rfl
  case reset =>
    intro ho hk hl hw hb
    rw [startOp_52 c s ho, startKnotReset_here hk hl, knotResetNow_free hw hl hb]
    rfl
  case overlap => exact fun ho h => (startOp_18 c s ho).trans (startCopy_overlap h)
  case copy => exact fun ho h => (startOp_18 c s ho).trans (startCopy_apart h)
  case query => exact fun bs ho hq hw => (startOp_01 c s ho).trans (startQuery_written hq hw)
  case map => exact fun ho h => (startOp_10 c s ho).trans (startMemMap_badField h)
  case invalidate => exact fun i v ho h => (startOp_12 c s ho).trans (startXlInvalidate_begun h)
  case resume => exact fun ho h => (startOp_13 c s ho).trans (startFaultResume_unknown h)
  case otherBraid => exact fun ho hf hx => (startOp_31 c s ho).trans (startBraidStart_other hf hx)
  case running => exact fun ho hf hx => (startOp_31 c s ho).trans (startBraidStart_running hf hx)
  case active => exact fun ho hm hk ha => ((startOp_32 c s ho).trans (startBraidStop_release hm)).trans (startRelease_active hk ha)
  case release => exact fun ho hm hk ha => ((startOp_32 c s ho).trans (startBraidStop_release hm)).trans (startRelease_idle hk ha)
  case evict => exact fun ho hm hu => (startOp_39 c s ho).trans (startModelEvict_selected hm hu)
  case record => exact fun ho h => (startOp_40 c s ho).trans (startGraphRecord_live h)
  case draw => exact fun ho h => (startOp_61 c s ho).trans (startDraw_noPass h)
  case direct => exact fun ho h => (startOp_62 c s ho).trans (startDirect_openPass h)
  case snapshot => exact fun ho hc hn => (startOp_90 c s ho).trans (startSnapshot_tooMany hc hn)
  case slice => exact fun ho h => (startOp_C0 c s ho).trans (startTestSlice_absent h)
  case shutdown => exact fun ho h => (startOp_F0 c s ho).trans (startShutdown_noBist h)

end Sys2Proof.Machine


/-! Address translation: walks, the fault queue's registers, scans and release walks (R461-R463, R479-R504). -/
namespace Sys2Proof.Machine

/-! ### A walk and its answer (R479-R493) -/

section Walk
variable {e : Fin 46} {c : Fin 64} {va : W64} {k : Access} {s u : State} {q : PmtReq} {en : W64} {pl : Place}

/-- The miss of an engine's own access. -/
def engineMiss (e : Fin 46) (c : Fin 64) (va : W64) (k : Access) : PmtReq := { who := .engine e, ctx := c, eng := some e, va := va.toNat, kind := k }

theorem engineMiss_eq : missOf c.val va.toNat k (engRq e) (.engine (fin' 45 e.val)) = engineMiss e c va k := by
  unfold missOf engineMiss engRq
  rw [show fin' 45 e.val = e from Fin.ofNat_val_eq_self e, show fin' 63 c.val = c from Fin.ofNat_val_eq_self c]
  dsimp only [Option.map_some]
  rw [show fin' 45 e.val = e from Fin.ofNat_val_eq_self e]

theorem engRq_who_waits (h : neverWaits e = false) : (engRq e).who = some (.engine (fin' 45 e.val)) := by
  unfold engRq
  rw [h]
  rfl

theorem engRq_who_never (h : neverWaits e = true) : (engRq e).who = none := by
  unfold engRq
  rw [h]
  rfl

/-- Nothing keeps an engine's walk back: it never waits, or no miss is ahead of it. -/
theorem xl_engine (h : neverWaits e = false → missAhead (engineMiss e c va k) s = none) :
    xl c va.toNat k (engRq e) s = xlAnswer c va.toNat k (engRq e) (translate c va.toNat k s) := by
  cases hn : neverWaits e with
  | true => exact xl_none _ _ _ _ _ (engRq_who_never hn)
  | false =>
    have hmiss : ((engRq e).who.bind fun who => missAhead (missOf c va.toNat k (engRq e) who) s) = none := by
      rw [engRq_who_waits hn, Option.bind_some, engineMiss_eq]
      exact h hn
    unfold missOf at hmiss
    unfold xl
    rw [hmiss]

theorem xl_engine_ahead (hn : neverWaits e = false) (h : missAhead (engineMiss e c va k) s = some u) : xl c va.toNat k (engRq e) s = (.stall, u) := by
  have hmiss : ((engRq e).who.bind fun who => missAhead (missOf c va.toNat k (engRq e) who) s) = some u := by
    rw [engRq_who_waits hn, Option.bind_some, engineMiss_eq]
    exact h
  unfold missOf at hmiss
  unfold xl
  rw [hmiss]

/-- An address in no cache and not in the knot area is walked. -/
theorem translate_miss (hva : va.toNat < 2 ^ 40) (hk : va.toNat / 65536 ≠ knotPage) (ht : tlbFind s.mm.xl.tlb c (va.toNat / 65536) = none) :
    translate c va.toNat k s = walk c va.toNat k s := by
  unfold translate
  rw [if_neg (Nat.not_le.mpr hva), if_neg hk, ht]

theorem xlAnswer_fail {kind cls : Nat} {dir : Bool} (h : cls = 1 ∨ neverWaits e = true) :
    xlAnswer c va.toNat k (engRq e) (.fault kind cls dir en, u) =
      (.fail (failStatus kind), fqInfo (faultWords 0xFFFF kind 1 c va.toNat true dir k (engRq e) en u.time) u) := by
  have hany : (engRq e).eng.any neverWaits = neverWaits e := rfl
  have hone : (if (engRq e).who.isNone && (engRq e).eng.any neverWaits then 1 else cls) = 1 := by
    rcases h with h | h
    · rw [h, ite_self]
    · rw [engRq_who_never h, hany, h]
      rfl
  unfold xlAnswer
  dsimp only
  rw [hone]
  cases (engRq e).who <;> rfl

theorem xlAnswer_stall {kind : Nat} {dir : Bool} (h : neverWaits e = false) : xlAnswer c va.toNat k (engRq e) (.fault kind 0 dir en, u) =
    (.stall, stallFault kind dir en none (engineMiss e c va k) u) := by
  unfold xlAnswer
  rw [← engineMiss_eq]
  dsimp only
  rw [engRq_who_waits h]
  rfl

theorem xlAnswer_zero {kind : Nat} {dir : Bool} (h : neverWaits e = false) : xlAnswer c va.toNat k (engRq e) (.fault kind 2 dir en, u) =
    (.zero, xlUpd (fun y => { y with zeroed := satInc y.zeroed }) u) := by
  unfold xlAnswer
  dsimp only
  rw [engRq_who_waits h]
  rfl

/-- An entry put at the end of the cache is found where the cache held none. -/
theorem tlbFind_append {l : List TlbEntry} {c page : Nat} {x : TlbEntry} (h : tlbFind l c page = none) (hc : x.ctx.val = c) (hp : x.page = page) :
    tlbFind (l ++ [x]) c page = some x.entry := by
  unfold tlbFind at *
  rw [Option.map_eq_none_iff] at h
  rw [List.find?_append, h, Option.none_or, List.find?_cons_of_pos (by rw [hc, hp]; simp)]
  rfl

/-- A walk that succeeds leaves its entry in the cache (R482). -/
theorem walk_ok (ht : tlbFind s.mm.xl.tlb c (va.toNat / 65536) = none) (h : walk c va.toNat k s = (.ok en pl, u)) :
    tlbFind u.mm.xl.tlb c (va.toNat / 65536) = some en ∧ leafAllows en k = true ∧ pl = leafPlace en (va.toNat % 65536) := by
  unfold walk at h
  dsimp only at h
  split at h
  · cases h
  next d t hd =>
  have htlb : t.mm.xl.tlb = s.mm.xl.tlb := (congrArg (fun z : (Bool × W64) × State => z.2.mm.xl.tlb) hd).symm.trans (dirEntry_tlb ..)
  split at h
  · cases h
  split at h
  · cases h
  split at h
  · cases h
  next x w hw =>
  have htlb' : w.mm.xl.tlb = s.mm.xl.tlb := ((congrArg (fun z : (Bool × W64) × State => z.2.mm.xl.tlb) hw).symm.trans (walkRead_tlb ..)).trans htlb
  split at h
  · cases h
  split at h
  · cases h
  split at h
  · cases h
  split at h
  · rename_i hallow
    cases h
    refine ⟨?_, hallow, rfl⟩
    refine tlbFind_append (x := { ctx := fin' 63 c, page := va.toNat / 65536, entry := en }) ?_ (congrArg Fin.val (Fin.ofNat_val_eq_self c)) rfl
    rw [htlb']
    exact ht
  · cases h

end Walk

/-! ### WALK_COMPLETE -/

section WalkComplete
variable {e : Fin 46} {c : Fin 64} {va : W64} {k : Access} {s u : State}

theorem exec_walkComplete_absent (h : engPresent s.part e = false ∨ (ctxOf s c).life = .free) : exec (.walkComplete e c va k) s = .next (icnSettle s) := by
  have hgone : ((ctxOf s c).life == .free || !(engPresent s.part e)) = true := by
    rcases h with h | h <;> rw [h]
    · exact Bool.or_true _
    · rfl
  change execWalkComplete e c va k s = _
  unfold execWalkComplete
  rw [hgone]
  exact done_eq _

theorem exec_walkComplete_present (hp : engPresent s.part e = true) (hl : (ctxOf s c).life ≠ .free) : exec (.walkComplete e c va k) s =
    match xl c va.toNat k (engRq e) s with
    | (.fail _, s) => done (walkOutcome e c va.toNat s)
    | (_, s) => done s := by
  change execWalkComplete e c va k s = _
  unfold execWalkComplete
  rw [hp, life_ne_free hl]
  rfl

/-- An access that no miss of its page keeps back is answered by its own walk. -/
theorem exec_walkComplete_walk (hp : engPresent s.part e = true) (hl : (ctxOf s c).life ≠ .free) (hva : va.toNat < 2 ^ 40)
    (hk : va.toNat / 65536 ≠ knotPage) (ht : tlbFind s.mm.xl.tlb c (va.toNat / 65536) = none)
    (hm : neverWaits e = false → missAhead (engineMiss e c va k) s = none) : exec (.walkComplete e c va k) s =
    match xlAnswer c va.toNat k (engRq e) (walk c va.toNat k s) with
    | (.fail _, s) => done (walkOutcome e c va.toNat s)
    | (_, s) => done s := by
  rw [exec_walkComplete_present hp hl, xl_engine hm, translate_miss hva hk ht]

end WalkComplete

/-! ### Invalidations and the fault queue's registers (R495-R504) -/

section Registers
variable {s : State}

theorem exec_invalidationComplete_now {i : Inval} {n : Nat} (hi : s.mm.xl.invals.find? (·.id == n) = some i) (hh : holding s = false) :
    exec (.invalidationComplete n) s = .next (icnSettle (invalAfter i (invalEffect i s))) := by
  change execInvalidationComplete n s = _
  unfold execInvalidationComplete invalHeld
  rw [hi, hh]
  exact done_eq _

/-- Setting EN takes the BASE written and zeroes the counts. -/
theorem writeFqbase_enable {v : W64} (h : bit s.mm.xl.fqbase 0 = false) (hv : bit v 0 = true) :
    writeFqbase v s = fqDrain 256 (xlUpd (fun y => { y with fqbase := BitVec.ofNat 64 (4096 * fld v 63 12 + 1), tail := 0, head := 0 }) s) := by
  unfold writeFqbase
  dsimp only
  rw [h, hv]
  rfl

/-- An enabled queue keeps its BASE. -/
theorem writeFqbase_enabled {v : W64} (h : bit s.mm.xl.fqbase 0 = true) (hv : bit v 0 = true) :
    writeFqbase v s = fqDrain 256 (xlUpd (fun y => { y with fqbase := BitVec.ofNat 64 (4096 * fld s.mm.xl.fqbase 63 12 + 1) }) s) := by
  unfold writeFqbase
  dsimp only
  rw [h, hv]
  rfl

theorem writeFqhead_taken {w : W32} (h : (s.mm.xl.tail - w).toNat ≤ 2 ^ fqSize s.mm.xl) : writeFqhead w s = fqDrain 256 (xlUpd (fun y => { y with head := w }) s) :=
  if_pos h

theorem writeFqhead_ignored {w : W32} (h : 2 ^ fqSize s.mm.xl < (s.mm.xl.tail - w).toNat) : writeFqhead w s = xlUpd (fun y => { y with headErr := true }) s :=
  if_neg (Nat.not_le.mpr h)

theorem writeRefq_idle {v : W64} (h : s.mm.xl.scanning = true ∨ bit v 63 = false) : writeRefq v s = xlUpd (fun y => { y with refq := v &&& 0x0000FFFF1FFFFFFF }) s := by
  unfold writeRefq
  dsimp only
  refine if_neg ?_
  rcases h with h | h
  · rw [show (xlUpd (fun y => { y with refq := v &&& 0x0000FFFF1FFFFFFF }) s).mm.xl.scanning = true from h, Bool.not_true, Bool.and_false]
    exact Bool.false_ne_true
  · rw [h]
    exact Bool.false_ne_true

/-- A scan starts at once where no release walk is pending. -/
theorem writeRefq_start {v : W64} (h : s.mm.xl.scanning = false) (hv : bit v 63 = true) (hw : s.mm.xl.walksPend = []) : writeRefq v s =
    xlUpd (fun y => { y with refq := v &&& 0x0000FFFF1FFFFFFF, scanQ := v &&& 0x0000FFFF1FFFFFFF, scanning := true, scanPending := false }) s := by
  unfold writeRefq scanStart xlUpd
  dsimp only
  rw [h, hv, hw]
  rfl

theorem exec_scanComplete_reports (h : s.mm.xl.scanning = true) (hh : s.mm.xl.heldCnt = []) (hc : s.ex.cmds = []) : exec .scanComplete s =
    .next (icnSettle (xlUpd (fun y => { y with
      scanning := false, scanErr := (scanResult s).1, nonzero := (scanResult s).2.1, maxcount := BitVec.ofNat 32 (scanResult s).2.2, heldCnt := [] }) s)) := by
  change execScanComplete s = _
  unfold execScanComplete
  rw [h, hh, if_neg (c := (!true) = true) Bool.false_ne_true]
  dsimp only [List.foldl_nil]
  rw [show (xlUpd _ s).ex.cmds = [] from hc, done_eq]
  rfl

end Registers

/-! ### Release walks (R461-R463, R487) -/

section ReleaseWalk
variable {s : State}

/-- Flits to other devices leave the translation unit. -/
theorem countFar_xl (es : List W64) (s : State) : (countFar es s).mm.xl = s.mm.xl := by
  unfold countFar
  refine foldl_same (fun u : State => u.mm.xl) _ (fun u d => ?_) _ _
  split <;> rfl

theorem putCount_scanPending (i v : Nat) (s : State) : (putCount i v s).mm.xl.scanPending = s.mm.xl.scanPending := by
  unfold putCount
  dsimp only
  split <;> rfl

theorem putCountWord_scanPending (g : Nat) (d : W64) (s : State) : (putCountWord g d s).mm.xl.scanPending = s.mm.xl.scanPending :=
  (putCount_scanPending ..).trans (putCount_scanPending ..)

theorem countTouch_scanPending (lp : Bool) (f : Nat) (s : State) : (countTouch lp f s).mm.xl.scanPending = s.mm.xl.scanPending := by
  unfold countTouch
  dsimp only
  split
  · rfl
  · exact (congrArg Xlu.scanPending (eccNote_xl ..)).trans (putCountWord_scanPending ..)

/-- A change of a frame count neither begins a scan nor makes one wait. -/
theorem frameCount_scanPending (lp : Bool) (f : Nat) (up : Bool) (s : State) : (frameCount lp f up s).mm.xl.scanPending = s.mm.xl.scanPending := by
  have htouch := countTouch_scanPending lp f s
  unfold frameCount
  split
  · rfl
  · dsimp only
    split <;> exact htouch

/-- The last release walk counts its entries down; no scan waits for it. -/
theorem walkEnd_last {l : List W64} {u : State} (h : u.mm.xl.scanPending = false) : walkEnd [] (l, u) =
    xlUpd (fun y => { y with walksPend := [] }) ((l.filterMap countedFrame).foldl (fun s x => frameCount x.1 x.2 false s) (countFar l u)) := by
  have hpend : ((l.filterMap countedFrame).foldl (fun s x => frameCount x.1 x.2 false s) (countFar l u)).mm.xl.scanPending = false :=
    (foldl_same (fun z : State => z.mm.xl.scanPending) _ (fun z (x : Bool × Nat) => frameCount_scanPending x.1 x.2 false z) _ _).trans
      ((congrArg Xlu.scanPending (countFar_xl l u)).trans h)
  unfold walkEnd
  dsimp only
  have hpend' : (xlUpd (fun y => { y with walksPend := [] })
      ((l.filterMap countedFrame).foldl (fun s x => frameCount x.1 x.2 false s) (countFar l u))).mm.xl.scanPending = false := hpend
  rw [hpend', Bool.and_false, if_neg Bool.false_ne_true]

theorem exec_releaseWalk_last {root : W64} {part : Partition} {l : List W64} {u : State} (hw : s.mm.xl.walksPend = [(root, part)])
    (hs : s.mm.xl.scanning = false) (hp : s.mm.xl.scanPending = false) (ht : treeEntries root part 4096 s = (l, u)) :
    exec .releaseWalk s = .next (icnSettle (xlUpd (fun y => { y with walksPend := [] })
      ((l.filterMap countedFrame).foldl (fun s x => frameCount x.1 x.2 false s) (countFar l u)))) := by
  have hpend : u.mm.xl.scanPending = false :=
    ((congrArg (fun z : List W64 × State => z.2.mm.xl.scanPending) ht).symm.trans (congrArg Xlu.scanPending (treeEntries_xl ..))).trans hp
  change execReleaseWalk s = _
  unfold execReleaseWalk
  rw [hw]
  dsimp only
  rw [hs, ht, walkEnd_last hpend]
  exact done_eq _

theorem exec_releaseWalk_none (hw : s.mm.xl.walksPend = []) : exec .releaseWalk s = .next (icnSettle s) := by
  change execReleaseWalk s = _
  unfold execReleaseWalk
  rw [hw]
  exact done_eq _

end ReleaseWalk

/-- Settles O50: walks by the class of their outcome, invalidations, the fault queue's registers, scans and release walks. -/
theorem translationEventsComplete : Obligations.TranslationEventsComplete := by
  unfold Obligations.TranslationEventsComplete
  intro s e c va k v w x q hx hq
  subst hx hq
  refine ⟨?walked, ?failed, ?stalled, ?zeroed, ?ahead, ?invalidated, ?enable, ?enabled, ?head, ?badHead, exec_walkComplete_absent, ?refq, ?scanned, ?released, exec_releaseWalk_none⟩
  case walked =>
    intro en pl u hp hl hva hk ht hm hw
    refine ⟨?_, walk_ok ht hw⟩
    rw [exec_walkComplete_walk hp hl hva hk ht hm, hw]
    exact done_eq _
  case failed =>
    intro kind cls dir en u hp hl hva hk ht hm hw hf
    rw [exec_walkComplete_walk hp hl hva hk ht hm, hw, xlAnswer_fail hf]
    exact done_eq _
  case stalled =>
    intro kind dir en u hp hl hva hk ht hm hw hn
    rw [exec_walkComplete_walk hp hl hva hk ht (fun _ => hm), hw, xlAnswer_stall hn]
    exact done_eq _
  case zeroed =>
    intro kind dir en u hp hl hva hk ht hm hw hn
    rw [exec_walkComplete_walk hp hl hva hk ht (fun _ => hm), hw, xlAnswer_zero hn]
    exact done_eq _
  case ahead =>
    intro u hp hl hn hm
    rw [exec_walkComplete_present hp hl, xl_engine_ahead hn hm]
    exact done_eq _
  case invalidated => exact fun i n hi hh => exec_invalidationComplete_now hi hh
  case enable => exact fun h hv => ⟨_, rfl, congrArg done (writeFqbase_enable h hv)⟩
  case enabled => exact fun h hv => ⟨_, rfl, congrArg done (writeFqbase_enabled h hv)⟩
  case head => exact fun h => congrArg done (writeFqhead_taken h)
  case badHead => exact fun h => congrArg done (writeFqhead_ignored h)
  case refq => exact ⟨_, rfl, fun h => congrArg done (writeRefq_idle h), fun h hv hw => congrArg done (writeRefq_start h hv hw)⟩
  case scanned => exact exec_scanComplete_reports
  case released => exact fun root part l u hw hs hp ht => ⟨_, exec_releaseWalk_last hw hs hp ht, rfl⟩

end Sys2Proof.Machine


/-! Memory maintenance: scrubbers, their laps, test mode and zeroed bank groups (R537, R548-R550). -/
namespace Sys2Proof.Machine

section Scrub
variable {s : State} {u : Fin 36}

theorem exec_scrub_off (h : unitOn s u = false) : exec (.scrub u) s = .next (icnSettle s) := by
  change execScrub u s = _
  unfold execScrub
  refine if_pos ?_
  rw [h, Bool.not_false, Bool.or_true]
  rfl

/-- The scrubber of a unit has moved on to its next word. -/
def scrubbed (u : Fin 36) (s : State) : State :=
  ctlUpd (fun c => { c with scrubPos := tabUpd c.scrubPos u fun _ => (tabD s.mm.ctl.scrubPos u 0 + 1) % unitWords s u, scrubCnt := tabUpd c.scrubCnt u (· + 1) }) s

theorem exec_scrub_on (hc : bit s.mm.ctl.ctrl (b2n (decide (32 ≤ u.val))) = true) (hu : unitOn s u = true) (hn : 0 < unitWords s u) :
    exec (.scrub u) s = done (scrubWord (decide (32 ≤ u.val)) (unitAddr s u (tabD s.mm.ctl.scrubPos u 0) / 8) (scrubbed u s)) := by
  change execScrub u s = _
  unfold execScrub
  refine if_neg ?_
  rw [hc, hu, decide_eq_false (Nat.ne_of_gt hn)]
  exact Bool.false_ne_true

variable {lp : Bool} {g : Nat} {d : W64} {v : State}

/-- A good word, and stored poison, stay. -/
theorem scrubWord_stays {f : Found} (h : wordFound (storedData lp g v) (pairGet (devMem lp v).marks g) = (d, f)) (hf : f = .good ∨ f = .stored) :
    scrubWord lp g v = v := by
  unfold scrubWord
  rw [h]
  rcases hf with rfl | rfl <;> rfl

theorem scrubWord_corrected (h : wordFound (storedData lp g v) (pairGet (devMem lp v).marks g) = (d, .corrected)) :
    scrubWord lp g v = eccCount lp (8 * g) (fun u => { u with scrubFix := satInc u.scrubFix }) (eccCe lp (8 * g) (storeData lp g d none v)) := by
  unfold scrubWord
  rw [h]
  rfl

theorem scrubWord_uncorrectable (h : wordFound (storedData lp g v) (pairGet (devMem lp v).marks g) = (d, .uncorrectable)) :
    scrubWord lp g v = eccUe lp (8 * g) (storeData lp g d (some .poison) v) := by
  unfold scrubWord
  rw [h]
  rfl

end Scrub

/-! ### The end of a lap (R548, R549) -/

section Lap
variable {s : State} {lp : Bool} {t : W64}

/-- A lap is counted, and the words of its units start from 0 again. -/
def lapCounted (lp : Bool) (s : State) : State :=
  ctlUpd (fun c => { c with
    scrub := tabUpd c.scrub (b2n lp) fun x => { laps := x.laps + 1, lastLap := BitVec.ofNat 32 ((s.now - x.lapStart.toNat) / 1000), lapStart := s.time }
    scrubCnt := (lapUnits lp s).foldl (fun v u => tabUpd v u fun _ => 0) c.scrubCnt }) s

theorem exec_scrubLapEnd_full (hne : lapUnits lp (s.at t) ≠ []) (hall : ∀ i ∈ lapUnits lp (s.at t), unitWords (s.at t) i ≤ tabD (s.at t).mm.ctl.scrubCnt i 0) :
    exec (.scrubLapEnd lp t) s = .next (icnSettle (lapCounted lp (s.at t))) := by
  have hempty : (lapUnits lp (s.at t)).isEmpty = false := by simpa using hne
  have hnone : ((lapUnits lp (s.at t)).any fun u => decide (tabD (s.at t).mm.ctl.scrubCnt u 0 < unitWords (s.at t) u)) = false := by
    rw [List.any_eq_false]
    intro i hi
    rw [decide_eq_true_eq]
    exact Nat.not_lt.mpr (hall i hi)
  change execScrubLapEnd lp t s = _
  unfold execScrubLapEnd
  dsimp only
  rw [hempty, hnone]
  exact done_eq _

theorem b2n_lt (b : Bool) : b2n b < 2 := by cases b <;> decide

theorem lapCounted_scrub (v : State) : tabD (lapCounted lp v).mm.ctl.scrub (b2n lp) {} =
    { laps := (tabD v.mm.ctl.scrub (b2n lp) {}).laps + 1, lastLap := BitVec.ofNat 32 ((v.now - (tabD v.mm.ctl.scrub (b2n lp) {}).lapStart.toNat) / 1000), lapStart := v.time } :=
  tabD_tabUpd_same _ _ _ (b2n_lt lp)

end Lap

/-! ### Check-bit test mode (R550) -/

section TestMode
variable {s : State} {lp : Bool} {g : Nat}

theorem testWrite_none (h : testWord s = none) : testWrite s = ctlUpd (fun c => { c with testErr := true }) s := by
  unfold testWrite
  rw [h]

theorem testWrite_some (h : testWord s = some (lp, g)) : testWrite s = ctlUpd (fun c => { c with testErr := false })
    (storeData lp g s.mm.ctl.testData (if secdedCheck s.mm.ctl.testData = s.mm.ctl.testCheck then none else some (.raw s.mm.ctl.testCheck)) s) := by
  unfold testWrite
  rw [h]

theorem testRead_none (h : testWord s = none) : testRead s = ctlUpd (fun c => { c with testErr := true }) s := by
  unfold testRead
  rw [h]

theorem testRead_some (h : testWord s = some (lp, g)) : testRead s = ctlUpd (fun c =>
    { c with testErr := false, testData := storedData lp g s, testCheck := rawCheck (storedData lp g s) (pairGet (devMem lp s).marks g) }) s := by
  unfold testRead
  rw [h]

end TestMode

/-- Settles O51: what a scrubber makes of each kind of word, the end of a lap, the test registers and a zeroed bank group. -/
theorem memoryMaintenanceComplete : Obligations.MemoryMaintenanceComplete := by
  unfold Obligations.MemoryMaintenanceComplete
  intro s u t k lp m hm
  subst hm
  refine ⟨?scrub, exec_scrub_off, ?lap, ?write, ?noWord, ?read, ?zeroed⟩
  case scrub =>
    intro v g d hlp hc hu hn hv hg
    subst hlp
    have hexec : exec (.scrub u) s = .next (icnSettle (scrubWord (decide (32 ≤ u.val)) g v)) := by
      rw [exec_scrub_on hc hu hn, done_eq, hv, hg]
      rfl
    refine ⟨fun h => ?_, fun h => ?_, fun h => ?_, fun h => ?_⟩
    · rw [hexec, scrubWord_stays h (Or.inl rfl)]
    · rw [hexec, scrubWord_corrected h]
    · rw [hexec, scrubWord_stays h (Or.inr rfl)]
    · rw [hexec, scrubWord_uncorrectable h]
  case lap =>
    intro v hv hne hall
    subst hv
    exact ⟨_, exec_scrubLapEnd_full hne hall, rfl, rfl, congrArg _ (lapCounted_scrub (s.at t)), congrArg _ (lapCounted_scrub (s.at t))⟩
  case write => exact fun g h => congrArg done (testWrite_some h)
  case noWord => exact fun h => ⟨congrArg done (testWrite_none h), congrArg done (testRead_none h)⟩
  case read => exact fun g h => congrArg done (testRead_some h)
  case zeroed => exact ⟨_, fin_eq _, rfl, rfl, rfl⟩

end Sys2Proof.Machine


/-! Links between devices: flits, replays and the ends of a link (R559-R562). -/
namespace Sys2Proof.Machine

/-! ### What sending the flits whose turn has come leaves of a link (R559, R560) -/

section Sending
variable {now n : Nat} {l : Link}

/-- What is known of the receiving side of a link. -/
def Link.received (l : Link) (last : W64) (run : Nat) (rx : W32) : Link := { l with lastFlit := last, failRun := run, rxflits := rx }

theorem sendFlits_received (now n : Nat) (l : Link) (last : W64) (run : Nat) (rx : W32) :
    sendFlits now n (l.received last run rx) = (sendFlits now n l).received last run rx := by
  induction n generalizing l with
  | zero => rfl
  | succ n ih =>
    unfold sendFlits
    change (match l.txq with | [] => _ | _ :: r => _) = _
    cases l.txq with
    | nil => rfl
    | cons c r =>
      dsimp only
      change (if l.busy ≤ now then _ else _) = _
      split
      · exact ih { l with txq := r, txflits := l.txflits + 1, replayBuf := l.replayBuf + 1, busy := l.busy + flitHalf l }
      · rfl

theorem linkNow_received (t : W64) (l : Link) (last : W64) (run : Nat) (rx : W32) : linkNow t (l.received last run rx) = (linkNow t l).received last run rx :=
  sendFlits_received ..

theorem sendFlits_againRun (now n : Nat) (l : Link) : (sendFlits now n l).againRun = l.againRun := by
  induction n generalizing l with
  | zero => rfl
  | succ n ih =>
    unfold sendFlits
    split
    · rfl
    · split
      · exact ih _
      · rfl

/-- While a flit is being sent, no other leaves. -/
theorem sendFlits_busy (n : Nat) (h : now < l.busy) : sendFlits now n l = l := by
  cases n with
  | zero => rfl
  | succ n =>
    unfold sendFlits
    split
    · rfl
    · exact if_neg (Nat.not_le.mpr h)

end Sending

/-! ### What a valid flit tells its receiver (R559) -/

section Replay
variable {now : W64} {f : FlitInfo} {l : Link} {last : W64} {rx : W32}

theorem replayOf_keeps (now : W64) (f : FlitInfo) (l : Link) (last : W64) (rx : W32) :
    (replayOf now f (l.received last 0 rx)).lastFlit = last ∧ (replayOf now f (l.received last 0 rx)).failRun = 0 ∧
    (replayOf now f (l.received last 0 rx)).rxflits = rx ∧ (replayOf now f (l.received last 0 rx)).replayBuf = (linkNow now l).replayBuf - f.taken := by
  unfold replayOf
  rw [linkNow_received]
  dsimp only
  split
  · exact ⟨rfl, rfl, rfl, rfl⟩
  · split <;> exact ⟨rfl, rfl, rfl, rfl⟩

/-- The run of replays of one flit: it goes on where the sender asks again, and ends where a flit has been taken. -/
theorem replayOf_againRun (now : W64) (f : FlitInfo) (l : Link) (last : W64) (rx : W32) : (replayOf now f (l.received last 0 rx)).againRun =
    if f.again = true ∧ (linkNow now l).replayBuf - f.taken ≠ 0 then (if f.taken = 0 then l.againRun else 0) + 1 else if f.taken = 0 then l.againRun else 0 := by
  have hrun : (linkNow now l).againRun = l.againRun := sendFlits_againRun ..
  have hcond : ((f.again && (linkNow now l).replayBuf - f.taken != 0) = true) = (f.again = true ∧ (linkNow now l).replayBuf - f.taken ≠ 0) := by
    rw [Bool.and_eq_true, bne_iff_ne]
  unfold replayOf
  rw [linkNow_received]
  dsimp only [Link.received]
  rw [hrun]
  simp only [hcond]
  split
  · rfl
  · split
    · rfl
    · rfl

end Replay

/-! ### The order of waiting flits (R560) -/

section Queue
variable {s : State} {k : Fin 4}

/-- While a link sends a flit and others wait, a new one is queued by its class. -/
theorem txq_linkSend (c : FlitClass) (hb : 2 * s.now < (linkOf s k).busy) (hq : (linkOf s k).txq ≠ []) :
    (linkOf (linkSend k c s) k).txq = queueFlit c (linkOf s k).txq := by
  have hempty : (linkOf s k).txq.isEmpty = false := by simpa using hq
  have hnow : linkNow s.time (linkOf s k) = linkOf s k := sendFlits_busy _ hb
  unfold linkSend
  rw [linkOf_upd]
  dsimp only
  rw [hnow, hempty, if_neg Bool.false_ne_true]
  exact congrArg Link.txq (sendFlits_busy (l := { linkOf s k with txq := queueFlit c (linkOf s k).txq }) _ hb)

/-- A GLOBAL flit stands behind the GLOBAL ones and ahead of every DATA one. -/
theorem queueFlit_global (q : List FlitClass) :
    ∃ a b, queueFlit .global q = a ++ .global :: b ∧ (∀ x ∈ a, x = .global) ∧ ∀ x ∈ b, x = .data :=
  ⟨_, _, rfl, fun _ h => beq_iff_eq.mp (List.mem_filter.mp h).2, fun _ h => beq_iff_eq.mp (List.mem_filter.mp h).2⟩

end Queue

/-! ### The commands of a link -/

section Commands
variable {s : State} {k : Fin 4} {t : W64}

theorem exec_flitReceipt_good {f : FlitInfo} (hu : (linkOf (s.at t) k).up = true) : exec (.flitReceipt k true f t) s =
    .next (after (updLink k (fun l => replayOf (s.at t).time f (l.received (s.at t).time 0 (if f.idle then l.rxflits else l.rxflits + 1))) (s.at t))) := by
  change execFlitReceipt k true f t s = _
  unfold execFlitReceipt
  dsimp only
  rw [hu]
  exact fin_eq _

theorem exec_flitReceipt_broken {f : FlitInfo} (hu : (linkOf (s.at t) k).up = true) : exec (.flitReceipt k false f t) s =
    .next (after (updLink k (fun l => { l with replays := satInc l.replays, failRun := l.failRun + 1 }) (s.at t))) := by
  change execFlitReceipt k false f t s = _
  unfold execFlitReceipt
  dsimp only
  rw [hu]
  exact fin_eq _

theorem exec_replayLimit_over (h : 17 ≤ (linkOf (s.at t) k).failRun ∨ 17 ≤ (linkOf (s.at t) k).againRun) :
    exec (.replayLimit k t) s = .next (after (linkGoesDown k (s.at t))) := by
  change execReplayLimit k t s = _
  unfold execReplayLimit
  dsimp only
  rw [if_pos (by rcases h with h | h <;> simp [h]), fin_eq]

theorem exec_replayLimit_under (h : (linkOf (s.at t) k).failRun < 17) (h' : (linkOf (s.at t) k).againRun < 17) :
    exec (.replayLimit k t) s = .next (after (s.at t)) := by
  change execReplayLimit k t s = _
  unfold execReplayLimit
  dsimp only
  rw [decide_eq_false (Nat.not_le.mpr h), decide_eq_false (Nat.not_le.mpr h'), if_neg (by decide), fin_eq]

theorem exec_linkFlitTimeout_over (h : (linkOf (s.at t) k).lastFlit.toNat + 10000 ≤ (s.at t).now) :
    exec (.linkFlitTimeout k t) s = .next (after (linkGoesDown k (s.at t))) := by
  change execLinkFlitTimeout k t s = _
  unfold execLinkFlitTimeout
  dsimp only
  rw [if_pos h, fin_eq]

theorem exec_linkFlitTimeout_under (h : (s.at t).now < (linkOf (s.at t) k).lastFlit.toNat + 10000) :
    exec (.linkFlitTimeout k t) s = .next (after (s.at t)) := by
  change execLinkFlitTimeout k t s = _
  unfold execLinkFlitTimeout
  dsimp only
  rw [if_neg (Nat.not_le.mpr h), fin_eq]

theorem exec_retrain_present (h : linksPresent s.part = true) : exec (.retrain k) s = .next (after (linkGoesDown k s)) := by
  change execRetrain k s = _
  unfold execRetrain
  rw [h, if_pos rfl, fin_eq]

theorem exec_hlCtrl_enable {v : W32} (h : linksPresent s.part = true) (h0 : bit v 0 = true) (h1 : bit v 1 = false) :
    exec (.hlCtrl k v) s = .next (after (settlePd (updLink k (fun l => { l with en := true }) s))) := by
  change execHlCtrl k v s = _
  unfold execHlCtrl writeHlCtrl
  rw [h, h0, h1]
  exact fin_eq _

theorem exec_hlCtrl_down {v : W32} (h : linksPresent s.part = true) (hv : bit v 0 = false ∨ bit v 1 = true) :
    exec (.hlCtrl k v) s = .next (after (linkGoesDown k (settlePd (updLink k (fun l => { l with en := bit v 0 }) s)))) := by
  have hdown : (!(bit v 0) || bit v 1) = true := by rcases hv with hv | hv <;> simp [hv]
  change execHlCtrl k v s = _
  unfold execHlCtrl writeHlCtrl
  dsimp only
  rw [h, hdown]
  exact fin_eq _

/-- A link that has trained in a powered domain finds its peer right or wrong. -/
theorem exec_linkUp_trained {width : BitVec 3} {peer : Fin 16} (hp : linksPresent s.part = true) (he : (linkOf s k).en = true)
    (hd : pdOf s (58 + k) = .on) (hu : (linkOf s k).up = false) (hw : width = 1 ∨ width = 2 ∨ width = 4) : exec (.linkUp k width peer) s =
    if !(peerOk s k peer) then
      fin (updLink k (fun l => { l with peer := BitVec.ofNat 4 peer, peerErr := true, alarm := setBit l.alarm 3 true }) s)
    else fin (settleJoin (recomputeDegraded (linkEvent k 1 (updLink k (fun l => { l with
      up := true, width := width, peer := BitVec.ofNat 4 peer, peerErr := false, lastFlit := s.time, failRun := 0, againRun := 0, alarm := if width = 4 then l.alarm else setBit l.alarm 2 true }) s)))) := by
  change execLinkUp k width peer s = _
  unfold execLinkUp
  refine if_neg ?_
  rw [hp, he, hu, hd]
  rcases hw with rfl | rfl | rfl <;> exact Bool.false_ne_true

/-- An unexpected peer is noted, and the link stays down (R562). -/
theorem exec_linkUp_stranger {width : BitVec 3} {peer : Fin 16} (hp : linksPresent s.part = true) (he : (linkOf s k).en = true)
    (hd : pdOf s (58 + k) = .on) (hu : (linkOf s k).up = false) (hw : width = 1 ∨ width = 2 ∨ width = 4) (h : peerOk s k peer = false) :
    exec (.linkUp k width peer) s =
      .next (after (updLink k (fun l => { l with peer := BitVec.ofNat 4 peer, peerErr := true, alarm := setBit l.alarm 3 true }) s)) := by
  rw [exec_linkUp_trained hp he hd hu hw, h, if_pos (by rfl), fin_eq]

/-- A link that is down goes down no further. -/
theorem linkGoesDown_down (h : (linkOf s k).up = false) : linkGoesDown k s = s := by
  unfold linkGoesDown
  rw [h]
  rfl

end Commands

/-- Settles O52: what a flit tells, the ends of a link, its controls, the link that trains, and the order of waiting flits. -/
theorem linkEventsComplete : Obligations.LinkEventsComplete := by
  unfold Obligations.LinkEventsComplete
  intro s u k t f width peer v l hu hl
  subst hu hl
  refine ⟨?good, ?broken, exec_replayLimit_over, exec_replayLimit_under, exec_linkFlitTimeout_over, exec_linkFlitTimeout_under,
    exec_retrain_present, exec_hlCtrl_enable, exec_hlCtrl_down, ?stranger, ?neighbour, linkGoesDown_down, ?order⟩
  case good =>
    intro hup
    refine ⟨_, exec_flitReceipt_good hup, rfl, rfl, ?_⟩
    rw [linkOf_upd]
    obtain ⟨hlast, hrun, hrx, hbuf⟩ := replayOf_keeps (s.at t).time f (linkOf (s.at t) k) (s.at t).time
      (if f.idle then (linkOf (s.at t) k).rxflits else (linkOf (s.at t) k).rxflits + 1)
    exact ⟨hlast, hrun, hrx, replayOf_againRun .., hbuf⟩
  case broken =>
    intro hup
    refine ⟨_, exec_flitReceipt_broken hup, rfl, rfl, ?_⟩
    rw [linkOf_upd]
    exact ⟨rfl, rfl, rfl⟩
  case stranger =>
    intro hp he hd hup hw hpeer
    refine ⟨_, exec_linkUp_stranger hp he hd hup hw hpeer, ?_⟩
    rw [linkOf_upd]
    exact ⟨hup, rfl, rfl, bit_setBit_same _ 3 (by decide), fun i hi => tabD_tabUpd_ne _ _ _ (Ne.symm hi)⟩
  case neighbour =>
    intro hp he hd hup hw hpeer
    refine ⟨_, rfl, (exec_linkUp_trained hp he hd hup hw).trans ?_⟩
    rw [hpeer, if_neg (by decide), fin_eq]
  case order =>
    intro hb hq
    obtain ⟨a, b, hqueue, ha, hb'⟩ := queueFlit_global (linkOf s k).txq
    exact ⟨a, b, (txq_linkSend .global hb hq).trans hqueue, ha, hb', txq_linkSend .data hb hq⟩

end Sys2Proof.Machine


/-! Remote operations, barriers and the domain's reset (R568-R577). -/
namespace Sys2Proof.Machine

/-! ### An access of another device (R568) -/

section Arrival
variable {s : State} {k : Fin 4} {part : Fin 8} {lp : Bool} {frame : BitVec 27} {off : BitVec 16} {op : RemoteOp}

/-- May the access at an address be performed: inside the enabled partition, or on a knot kept for the other device? -/
def remoteAllowed (s : State) (part : Fin 8) (lp : Bool) (a : Nat) (op : RemoteOp) : Bool :=
  (partOf s part).en && (inPartition s part lp a (opBytes op) || (!lp && (guestKnots s a || spanKnots s part a)))

/-- An access that changes no frame count is performed, and its bytes are counted, only where it is allowed; it is answered either way. -/
theorem exec_remoteAccessArrival_access (hop : ∀ x, op ≠ .frameCount x) (hu : (linkOf s k).up = true) :
    exec (.remoteAccessArrival k part lp frame off op) s = .next (after (linkTx k
      (if remoteAllowed s part lp (frame.toNat * 65536 + off.toNat) op then
        remotePerform lp (frame.toNat * 65536 + off.toNat) op (bulkDebt part
          (bulkNeeds none (if lp then .lpddr (frame.toNat * 65536 + off.toNat) else .peat (frame.toNat * 65536 + off.toNat)) (opBytes op)) s)
        else s))) := by
  change execRemoteAccessArrival k part lp frame off op s = _
  unfold execRemoteAccessArrival
  dsimp only
  rw [hu]
  cases op with
  | frameCount x => exact absurd rfl (hop x)
  | _ => exact fin_eq _

theorem exec_remoteAccessArrival_count {x : Bool} (hu : (linkOf s k).up = true) :
    exec (.remoteAccessArrival k part lp frame off (.frameCount x)) s =
      .next (after (linkTx k (remoteCount lp ((frame.toNat * 65536 + off.toNat) / 65536) x (bulkDebt part [0, 0, 0] s)))) := by
  change execRemoteAccessArrival k part lp frame off (.frameCount x) s = _
  unfold execRemoteAccessArrival
  dsimp only
  rw [hu]
  exact fin_eq _

end Arrival

/-! ### Answers and timeouts (R569-R571) -/

section Answers
variable {s : State} {i : Nat} {r : RemoteReq} {d t : W64} {p : Bool}

theorem exec_remoteResponse_unknown (h : findReq s i = none) : exec (.remoteResponse i d p false) s = .next (after s) := by
  change execRemoteResponse i d p false s = _
  unfold execRemoteResponse
  rw [h]
  exact fin_eq _

theorem exec_remoteResponse_load {refused : Bool} (h : findReq s i = some r) (hl : r.isStore = false) :
    exec (.remoteResponse i d p refused) s = .next (after (if refused then refusedReq r s else endReq r d p s)) := by
  change execRemoteResponse i d p refused s = _
  unfold execRemoteResponse
  rw [h]
  dsimp only
  rw [hl, if_neg Bool.false_ne_true]
  split <;> exact fin_eq _

theorem exec_remoteStoreAck_store {refused : Bool} (h : findReq s i = some r) (hst : r.isStore = true) :
    exec (.remoteStoreAck i refused) s = .next (after (if refused then refusedReq r s else endReq r 0 false s)) := by
  change execRemoteStoreAck i refused s = _
  unfold execRemoteStoreAck
  rw [h]
  dsimp only
  rw [hst, if_neg (by decide)]
  split <;> exact fin_eq _

/-- 50 us without an answer. -/
theorem remoteLate_over {u : State} (h : r.issued.toNat + 50000 ≤ u.now) : remoteLate u r = true := decide_eq_true h
theorem remoteLate_under {u : State} (h : u.now < r.issued.toNat + 50000) : remoteLate u r = false := decide_eq_false (Nat.not_le.mpr h)

theorem exec_remoteLoadTimeout_late (h : findReq (s.at t) i = some r) (hl : r.isStore = false) (ht : r.issued.toNat + 50000 ≤ (s.at t).now) :
    exec (.remoteLoadTimeout i t) s = .next (after (remoteFailed r 0x0802 false (linkTimeout r.link (endReq r 0 true (s.at t))))) := by
  change execRemoteLoadTimeout i t s = _
  unfold execRemoteLoadTimeout
  dsimp only
  rw [h]
  dsimp only
  rw [hl, remoteLate_over ht]
  exact fin_eq _

theorem exec_remoteStoreTimeout_late (h : findReq (s.at t) i = some r) (hst : r.isStore = true) (ht : r.issued.toNat + 50000 ≤ (s.at t).now) :
    exec (.remoteStoreTimeout i t) s = .next (after (remoteFailed r 0x0802 true (linkDrop r.link (endReq r 0 false (s.at t))))) := by
  change execRemoteStoreTimeout i t s = _
  unfold execRemoteStoreTimeout
  dsimp only
  rw [h]
  dsimp only
  rw [hst, remoteLate_over ht]
  exact fin_eq _

theorem exec_remoteLoadTimeout_early (h : findReq (s.at t) i = some r) (ht : (s.at t).now < r.issued.toNat + 50000) :
    exec (.remoteLoadTimeout i t) s = .next (after (s.at t)) := by
  change execRemoteLoadTimeout i t s = _
  unfold execRemoteLoadTimeout
  dsimp only
  rw [h]
  dsimp only
  rw [remoteLate_under ht, Bool.not_false, Bool.or_true]
  exact fin_eq _

theorem exec_remoteStoreTimeout_early (h : findReq (s.at t) i = some r) (ht : (s.at t).now < r.issued.toNat + 50000) :
    exec (.remoteStoreTimeout i t) s = .next (after (s.at t)) := by
  change execRemoteStoreTimeout i t s = _
  unfold execRemoteStoreTimeout
  dsimp only
  rw [h]
  dsimp only
  rw [remoteLate_under ht, Bool.not_false, Bool.or_true]
  exact fin_eq _

end Answers

/-! ### Barriers and the domain's reset (R574, R575, R577) -/

section Barriers
variable {s : State} {b : BitVec 8}

theorem exec_barrierRelease_arrived (h : b ∈ s.dom.arrived) : exec (.barrierRelease b) s = .next (after (endBarrier (· == b) 0
    (updDom (fun x => { x with arrived := x.arrived.erase b, withdrawn := x.withdrawn.filter (· != b), barriers := x.barriers + 1 }) s))) := by
  change execBarrierRelease b s = _
  unfold execBarrierRelease
  rw [List.contains_iff_mem.mpr h]
  exact fin_eq _

theorem exec_barrierWithdrawalAnswer_removed (h : b ∈ s.dom.withdrawn) : exec (.barrierWithdrawalAnswer b true) s = .next (after (endBarrier (· == b) 0x0303
    (updDom (fun x => { x with arrived := x.arrived.erase b, withdrawn := x.withdrawn.filter (· != b) }) s))) := by
  change execBarrierWithdrawalAnswer b true s = _
  unfold execBarrierWithdrawalAnswer
  rw [List.contains_iff_mem.mpr h]
  exact fin_eq _

theorem exec_barrierWithdrawalAnswer_kept (h : b ∈ s.dom.withdrawn) : exec (.barrierWithdrawalAnswer b false) s =
    .next (after (updDom (fun x => { x with withdrawn := x.withdrawn.filter (· != b) }) s)) := by
  change execBarrierWithdrawalAnswer b false s = _
  unfold execBarrierWithdrawalAnswer
  rw [List.contains_iff_mem.mpr h]
  exact fin_eq _

theorem exec_domainResetArrival_eq : exec .domainResetArrival s = .next (after (if s.dom.member then domainReset s else s)) := fin_eq _

end Barriers

/-- Settles O53: accesses of another device, their answers and timeouts, barriers and the domain's reset. -/
theorem remoteAndBarrierEventsComplete : Obligations.RemoteAndBarrierEventsComplete := by
  unfold Obligations.RemoteAndBarrierEventsComplete
  intro s u k part lp frame off op i r d t p b a hu ha
  subst hu ha
  refine ⟨?performed, ?denied, ?counted, exec_remoteResponse_load, exec_remoteResponse_load, exec_remoteResponse_unknown, exec_remoteStoreAck_store,
    exec_remoteStoreAck_store, exec_remoteLoadTimeout_late, exec_remoteStoreTimeout_late, ?early, exec_barrierRelease_arrived,
    exec_barrierWithdrawalAnswer_removed, exec_barrierWithdrawalAnswer_kept, ?member, ?alone, rfl, rfl⟩
  case performed =>
    intro hop hup hen hin
    have hok : remoteAllowed s part lp (frame.toNat * 65536 + off.toNat) op = true := by
      unfold remoteAllowed
      rw [hen]
      rcases hin with hin | ⟨rfl, hin | hin⟩ <;> simp [hin]
    rw [exec_remoteAccessArrival_access hop hup, hok]
    rfl
  case denied =>
    intro hop hup hout
    have hno : remoteAllowed s part lp (frame.toNat * 65536 + off.toNat) op = false := by
      unfold remoteAllowed
      rcases hout with hout | ⟨hin, rfl | ⟨hg, hs⟩⟩
      · rw [hout]
        rfl
      · simp [hin]
      · simp [hin, hg, hs]
    refine ⟨_, exec_remoteAccessArrival_access hop hup, ?_⟩
    rw [hno]
    exact ⟨rfl, rfl, rfl⟩
  case counted =>
    intro x hx hup
    subst hx
    exact exec_remoteAccessArrival_count hup
  case early => exact fun h ht => ⟨exec_remoteLoadTimeout_early h ht, exec_remoteStoreTimeout_early h ht⟩
  case member =>
    intro h
    rw [exec_domainResetArrival_eq, h]
    rfl
  case alone =>
    intro h
    rw [exec_domainResetArrival_eq, h]
    rfl

end Sys2Proof.Machine


/-! Device states, wake events and the Wisp (R581-R598). -/
namespace Sys2Proof.Machine

/-! ### Entry and wake (R584, R586) -/

section Power
variable {s : State} {p : PState} {t : W64} {c : Nat}

theorem settlePd_state (u : State) : (settlePd u).pwr.state = u.pwr.state := by
  obtain ⟨pd, m, h, -⟩ := settlePd_keeps u
  rw [h]

theorem powerDown_state (p : PState) (s : State) : (powerDown p s).pwr.state = p := settlePd_state _

theorem exec_powerStateEntry_target (h : p = pwrTarget s) (hd : pwrCode s.pwr.state < pwrCode p) (h2 : pwrCode s.pwr.state ≤ 2) :
    exec (.powerStateEntry p) s = .next (icnSettle (powerDown p s)) := by
  change execPowerStateEntry p s = _
  unfold execPowerStateEntry
  rw [decide_eq_true hd, decide_eq_true h2, if_pos (by rw [h, beq_self_eq_true]; rfl), done_eq]

theorem exec_powerStateEntry_other (h : p ≠ pwrTarget s) : exec (.powerStateEntry p) s = .next (icnSettle s) := by
  change execPowerStateEntry p s = _
  unfold execPowerStateEntry
  rw [beq_eq_false_iff_ne.mpr h, if_neg (by exact Bool.false_ne_true), done_eq]

/-- Wake events that can occur in the state bring the device up, and WAKE_SRC records them. -/
theorem wakeUp_some {codes r : List Nat} {a b : Bool} (h : codes.filter (wakeIn s.pwr.state) = c :: r) : wakeUp codes a b s =
    powerUp a b (updPwr (fun x => { x with wakeLast := BitVec.ofNat 4 (r.foldl min c), wakeMask := maskOf 7 ((c :: r).map (· - 1)) }) s) := by
  unfold wakeUp
  rw [h]

/-- One wake event: LAST is its code, MASK its bit. -/
theorem wakeBy_in (h : wakeIn s.pwr.state c = true) : wakeBy c s =
    powerUp (ballFree s.sfi.forceA) (ballFree s.sfi.forceB)
      (updPwr (fun x => { x with wakeLast := BitVec.ofNat 4 (([] : List Nat).foldl min c), wakeMask := maskOf 7 ([c].map (· - 1)) }) s) := by
  unfold wakeBy
  exact wakeUp_some (List.filter_cons_of_pos h)

/-- HWAKE_N wakes every state but RUN and IDLE. -/
theorem wakeIn_hwake {st : PState} (h : st ≠ .run) (h' : st ≠ .idle) : wakeIn st 4 = true := by
  cases st with
  | run => exact absurd rfl h
  | idle => exact absurd rfl h'
  | _ => rfl

theorem wakeIn_timer {st : PState} (h : st = .doze ∨ st = .sleep) : wakeIn st 5 = true := by
  rcases h with rfl | rfl <;> rfl

theorem exec_hwakeN_wakes (h : s.pwr.state ≠ .run) (h' : s.pwr.state ≠ .idle) : exec (.hwakeN t) s =
    .next (after (powerUp (ballFree s.sfi.forceA) (ballFree s.sfi.forceB) (updPwr (fun x => { x with wakeLast := 4, wakeMask := 8 }) (s.at t)))) := by
  change fin (wakeBy 4 (s.at t)) = _
  rw [wakeBy_in (s := s.at t) (wakeIn_hwake h h'), fin_eq, show maskOf 7 ([4].map (· - 1)) = 8 by decide]
  rfl

theorem exec_wakeTimer_due (h : s.pwr.state = .doze ∨ s.pwr.state = .sleep) (hw : s.pwr.wakeTimer.toNat ≤ (s.at t).now) : exec (.wakeTimer t) s =
    .next (after (powerUp (ballFree s.sfi.forceA) (ballFree s.sfi.forceB) (updPwr (fun x => { x with wakeLast := 5, wakeMask := 16 }) (s.at t)))) := by
  change execWakeTimer t s = _
  unfold execWakeTimer
  dsimp only
  rw [wakeBy_in (s := s.at t) (wakeIn_timer h), if_pos (by exact hw), fin_eq, show maskOf 7 ([5].map (· - 1)) = 16 by decide]
  rfl

theorem exec_wakeTimer_early (hw : (s.at t).now < s.pwr.wakeTimer.toNat) : exec (.wakeTimer t) s = .next (after (s.at t)) := by
  change execWakeTimer t s = _
  unfold execWakeTimer
  exact (if_neg (Nat.not_le.mpr hw)).trans (fin_eq _)

end Power

/-! ### The Wisp off, and its inputs (R594, R595) -/

section WispInputs
variable {s : State} {t : W64} {i : Fin 8} {px : List Byte} {level : Bool}

theorem exec_debouncedLevel_off (h : bit s.wisp.ctrl 0 = false) : exec (.debouncedLevel i level t) s = .next (icnSettle (s.at t)) := by
  have hoff : wispOn (s.at t).wisp = false := h
  change execDebouncedLevel i level t s = _
  unfold execDebouncedLevel
  dsimp only
  rw [hoff]
  exact done_eq _

theorem exec_wcamFrame_off (h : bit s.wisp.ctrl 0 = false) : exec (.wcamFrame px t) s = .next (icnSettle (s.at t)) := by
  have hoff : wispOn (s.at t).wisp = false := h
  change execWcamFrame px t s = _
  unfold execWcamFrame
  dsimp only
  rw [hoff]
  exact done_eq _

theorem exec_ruleEvaluation_off (h : bit s.wisp.ctrl 0 = false) : exec (.ruleEvaluation t) s = .next (icnSettle (s.at t)) := by
  have hoff : wispOn (s.at t).wisp = false := h
  change execRuleEvaluation t s = _
  unfold execRuleEvaluation
  dsimp only
  rw [hoff]
  exact done_eq _

/-- What a filter makes of a debounced level of pin `i`. -/
def pinLevel (i : Fin 8) (level rise : Bool) (now : W64) (f : WispFilter) : WispFilter :=
  if filtInput f != i.val then f
  else if filtKind f = 1 then produce (b2n level) 1 f
  else if filtKind f = 2 && rise then { f with edges := f.edges ++ [now] }
  else f

theorem pinLevel_levelFilter {f : WispFilter} {rise : Bool} {now : W64} (hi : filtInput f = i.val) (hk : filtKind f = 1) :
    pinLevel i level rise now f = produce (b2n level) 1 f := by
  unfold pinLevel
  rw [hi, bne_self_eq_false, if_neg Bool.false_ne_true, if_pos hk]

theorem exec_debouncedLevel_on (h : bit s.wisp.ctrl 0 = true) (hp : bit (tabD s.wisp.pins i 0) 0 = true) : exec (.debouncedLevel i level t) s =
    .next (icnSettle (updWisp (fun w => updFilts (pinLevel i level (level && !(tabD s.wisp.levels i true)) (s.at t).time)
      { w with levels := tabUpd w.levels i fun _ => level }) (s.at t))) := by
  have hon : wispOn (s.at t).wisp = true := h
  have hpin : bit (tabD (s.at t).wisp.pins i 0) 0 = true := hp
  change execDebouncedLevel i level t s = _
  unfold execDebouncedLevel
  dsimp only
  rw [hon, hpin]
  exact done_eq _

theorem tabD_updFilts (g : WispFilter → WispFilter) (w : Wisp) {f : Nat} (hf : f < 8) : tabD (updFilts g w).filts f {} = g (tabD w.filts f {}) := tabD_map _ _ _ hf

/-- The mean of a frame: rounded down or up, as a free value says, where it is not whole. -/
def frameMean (px : List Byte) (r : W64) : Nat :=
  if sumN (px.map BitVec.toNat) % 19200 = 0 then sumN (px.map BitVec.toNat) / 19200 else sumN (px.map BitVec.toNat) / 19200 + b2n (bit r 0)

/-- What a filter makes of a frame. -/
def frameFilter (px : List Byte) (r : W64) (f : WispFilter) : WispFilter :=
  match filtKind f with
  | 3 => motion (blockSums px) f
  | 4 => produce (frameMean px r) 1 f
  | _ => f

/-- The state after a frame of the camera. -/
def framed (px : List Byte) (s : State) : State :=
  updWisp (fun w => updFilts (frameFilter (sliceB px 0 19200) s.draw.1) { w with frame := sliceB px 0 19200 }) s.draw.2

theorem exec_wcamFrame_on (h : bit s.wisp.ctrl 0 = true) (hc : bit s.wisp.ctrl 1 = true) : exec (.wcamFrame px t) s =
    .next (icnSettle (framed px (s.at t))) := by
  have hon : wispOn (s.at t).wisp = true := h
  have hcam : bit (s.at t).wisp.ctrl 1 = true := hc
  change execWcamFrame px t s = _
  unfold execWcamFrame
  dsimp only
  rw [hon, hcam]
  exact done_eq _

end WispInputs

/-! ### The rules (R595-R597) -/

section Rules
variable {s : State} {t : W64}

/-- Bits of a mask of rules. -/
theorem bit_maskOf_rules (f : Nat → Bool) {k : Nat} (hk : k < 4) : bit (maskOf 4 ((List.range 4).filter f)) k = f k := by
  have hfilter : (List.range 4).filter f = (List.range 32).filter fun i => f i && decide (i < 4) := by
    rw [← List.filter_filter, show (List.range 32).filter (fun i => decide (i < 4)) = List.range 4 by decide]
  have hbits : ∀ l, bit (maskOf 4 l) k = bit (maskOf 32 l) k := fun l => by
    unfold bit maskOf
    rw [BitVec.toNat_ofNat, BitVec.toNat_ofNat, Nat.testBit_mod_two_pow, Nat.testBit_mod_two_pow, decide_eq_true hk, decide_eq_true (by omega : k < 32)]
  rw [hfilter, hbits, maskOf_bit _ k (by omega), decide_eq_true hk, Bool.and_true]

/-- The mask of the rules that fire is zero exactly where none does. -/
theorem maskOf_rules_eq_zero (f : Nat → Bool) : maskOf 4 ((List.range 4).filter f) = 0 ↔ (List.range 4).any f = false := by
  constructor
  · intro h
    rw [List.any_eq_false]
    intro k hk
    rw [← bit_maskOf_rules f (List.mem_range.mp hk), h, show bit (0 : BitVec 4) k = false from Nat.zero_testBit k]
    exact Bool.false_ne_true
  · intro h
    rw [List.filter_eq_nil_iff.mpr (List.any_eq_false.mp h)]
    rfl

/-- The filters of the Wisp after the millisecond's pin filters. -/
def wispFiltered (s : State) : Wisp := updFilts (pinFilter s.wisp.levels s.now) s.wisp

/-- Does rule `k` fire in this millisecond? -/
def ruleFires (s : State) (k : Nat) : Bool := (ruleStep (wispFiltered s) k).2

/-- The Wisp after a millisecond. -/
def wispEvaluated (s : State) : Wisp :=
  { wispFiltered s with
    runs := Vector.ofFn fun i => (ruleStep (wispFiltered s) i.val).1
    fired := s.wisp.fired ||| maskOf 4 ((List.range 4).filter (ruleFires s)) }

theorem exec_ruleEvaluation_on (h : bit s.wisp.ctrl 0 = true) : exec (.ruleEvaluation t) s =
    .next (if (List.range 4).any (ruleFires (s.at t)) then after (wakeBy 3 { s.at t with wisp := wispEvaluated (s.at t) })
      else icnSettle { s.at t with wisp := wispEvaluated (s.at t) }) := by
  have hon : wispOn (s.at t).wisp = true := h
  have hexec : exec (.ruleEvaluation t) s = if maskOf 4 ((List.range 4).filter (ruleFires (s.at t))) = 0 then done { s.at t with wisp := wispEvaluated (s.at t) }
      else fin (wakeBy 3 { s.at t with wisp := wispEvaluated (s.at t) }) := by
    change execRuleEvaluation t s = _
    unfold execRuleEvaluation
    dsimp only
    rw [hon]
    rfl
  rw [hexec]
  cases hany : (List.range 4).any (ruleFires (s.at t)) with
  | true =>
    rw [if_neg fun hz => absurd ((maskOf_rules_eq_zero _).mp hz) (by rw [hany]; exact Bool.true_eq_false.mp), fin_eq]
    rfl
  | false =>
    rw [if_pos ((maskOf_rules_eq_zero _).mpr hany), done_eq]
    rfl

/-- A rule fires where it is enabled, true, and has been true often enough. -/
theorem ruleStep_snd (w : Wisp) (k : Nat) : (ruleStep w k).2 = (bit (tabD w.rules k 0) 31 && ruleTrue w (tabD w.rules k 0) &&
    decide (orOne (fld (tabD w.rules k 0) 23 16) ≤ tabD w.runs k 0 + 1)) := by
  unfold ruleStep
  dsimp only
  split
  next h => rw [h, Bool.true_and]
  next h => rw [Bool.eq_false_iff.mpr h, Bool.false_and]

theorem ruleStep_fst (w : Wisp) (k : Nat) : (ruleStep w k).1 = if bit (tabD w.rules k 0) 31 && ruleTrue w (tabD w.rules k 0) then tabD w.runs k 0 + 1 else 0 := by
  unfold ruleStep
  dsimp only
  split <;> rfl

theorem tabD_ofFn {α : Type} {n : Nat} (f : Fin n → α) (d : α) {k : Nat} (hk : k < n) : tabD (Vector.ofFn f) k d = f ⟨k, hk⟩ := by
  rw [tabD_lt _ _ hk, Vector.getElem_ofFn]

/-- With every rule disabled none fires. -/
theorem ruleFires_of_disabled (h : ∀ k, k < 4 → bit (tabD s.wisp.rules k 0) 31 = false) : (List.range 4).any (ruleFires s) = false := by
  rw [List.any_eq_false]
  intro k hk
  rw [ruleFires, ruleStep_snd, show bit (tabD (wispFiltered s).rules k 0) 31 = false from h k (List.mem_range.mp hk), Bool.false_and, Bool.false_and]
  exact Bool.false_ne_true

theorem wispEvaluated_fired_of_none (h : (List.range 4).any (ruleFires s) = false) : (wispEvaluated s).fired = s.wisp.fired := by
  change s.wisp.fired ||| maskOf 4 ((List.range 4).filter (ruleFires s)) = _
  rw [(maskOf_rules_eq_zero _).mpr h]
  exact BitVec.or_zero

end Rules

/-! ### WISP_CTRL (R598) -/

section WispControl
variable {s : State} {v : W32}

theorem exec_wispCtrlWrite_reached (hb : barOn s 0 = true) : exec (.wispCtrlWrite v) s = .next (icnSettle (writeWispCtrl v s)) := by
  change execWispCtrlWrite v s = _
  unfold execWispCtrlWrite
  rw [if_pos hb, done_eq]

theorem writeWispCtrl_on (h : bit s.wisp.ctrl 0 = true) : writeWispCtrl v s = updWisp (fun w => { w with ctrl := setBit w.ctrl 0 (bit v 0) }) s := if_pos h

theorem writeWispCtrl_off (h : bit s.wisp.ctrl 0 = false) (hv : bit v 0 = false) : writeWispCtrl v s = updWisp (fun w => { w with ctrl := v &&& 0x3F }) s := by
  have hoff : wispOn s.wisp = false := h
  unfold writeWispCtrl
  dsimp only
  rw [hoff, hv]
  rfl

end WispControl

/-! ### Each clause as the obligation states it -/

section Clauses
variable {s : State} {t : W64}

theorem debouncedLevel_clause {i : Fin 8} {level : Bool} (h : bit s.wisp.ctrl 0 = true) (hp : bit (tabD s.wisp.pins i 0) 0 = true) :
    ∃ w, exec (.debouncedLevel i level t) s = .next (icnSettle w) ∧ w.pwr = s.pwr ∧ w.ex = s.ex ∧ tabD w.wisp.levels i true = level ∧
      ∀ f, f < 8 → filtInput (tabD s.wisp.filts f {}) = i.val → filtKind (tabD s.wisp.filts f {}) = 1 →
        (tabD w.wisp.filts f {}).value = BitVec.ofNat 32 (b2n level) ∧ (tabD w.wisp.filts f {}).produced = (tabD s.wisp.filts f {}).produced + 1 := by
  refine ⟨_, exec_debouncedLevel_on h hp, rfl, rfl, tabD_tabUpd_same _ _ _ i.isLt, fun f hf hi hk => ?_⟩
  have hfilt := (tabD_updFilts (pinLevel i level (level && !(tabD s.wisp.levels i true)) (s.at t).time)
    { s.wisp with levels := tabUpd s.wisp.levels i fun _ => level } hf).trans (pinLevel_levelFilter (f := tabD s.wisp.filts f {}) hi hk)
  exact ⟨congrArg WispFilter.value hfilt, congrArg WispFilter.produced hfilt⟩

theorem wcamFrame_clause {px : List Byte} (h : bit s.wisp.ctrl 0 = true) (hc : bit s.wisp.ctrl 1 = true) :
    ∃ w, exec (.wcamFrame px t) s = .next (icnSettle w) ∧ w.pwr = s.pwr ∧ w.ex = s.ex ∧ w.wisp.frame = sliceB px 0 19200 ∧ w.wisp.ctrl = s.wisp.ctrl :=
  ⟨framed px (s.at t), exec_wcamFrame_on h hc, rfl, rfl, rfl, rfl⟩

theorem ruleEvaluation_disabled_clause (h : bit s.wisp.ctrl 0 = true) (hr : ∀ k, k < 4 → bit (tabD s.wisp.rules k 0) 31 = false) :
    ∃ w, exec (.ruleEvaluation t) s = .next (icnSettle w) ∧ w.pwr = s.pwr ∧ w.wisp.fired = s.wisp.fired := by
  have hnone : (List.range 4).any (ruleFires (s.at t)) = false := ruleFires_of_disabled hr
  have hexec := exec_ruleEvaluation_on (t := t) h
  rw [hnone, if_neg Bool.false_ne_true] at hexec
  exact ⟨_, hexec, rfl, wispEvaluated_fired_of_none hnone⟩

theorem wispEvaluated_run {k : Nat} (hk : k < 4) : tabD (wispEvaluated s).runs k 0 =
    if bit (tabD s.wisp.rules k 0) 31 && ruleTrue (wispEvaluated s) (tabD s.wisp.rules k 0) then tabD s.wisp.runs k 0 + 1 else 0 :=
  (tabD_ofFn _ _ hk).trans (ruleStep_fst (wispFiltered s) k)

theorem wispEvaluated_fired {k : Nat} (hk : k < 4) : bit (wispEvaluated s).fired k = (bit s.wisp.fired k || ruleFires s k) := by
  change bit (s.wisp.fired ||| maskOf 4 ((List.range 4).filter (ruleFires s))) k = _
  rw [bit_or, bit_maskOf_rules _ hk]

theorem ruleFires_eq (k : Nat) : ruleFires s k = (bit (tabD s.wisp.rules k 0) 31 && ruleTrue (wispEvaluated s) (tabD s.wisp.rules k 0) &&
    decide (orOne (fld (tabD s.wisp.rules k 0) 23 16) ≤ tabD s.wisp.runs k 0 + 1)) := ruleStep_snd (wispFiltered s) k

theorem exec_powerStateExit_wakes {codes : BitVec 7} {a b : Bool} {cs r : List Nat} {c : Nat} (hcs : cs = ((setBits codes).map (· + 1)).filter (wakeIn s.pwr.state))
    (hr : cs = c :: r) : exec (.powerStateExit codes a b t) s = .next (after (powerUp a b (updPwr (fun x =>
      { x with wakeLast := BitVec.ofNat 4 (r.foldl min c), wakeMask := maskOf 7 (cs.map (· - 1)) }) (s.at t)))) := by
  change fin (wakeUp ((setBits codes).map (· + 1)) a b (s.at t)) = _
  rw [wakeUp_some (s := s.at t) (hcs.symm.trans hr), hr, fin_eq]

theorem exec_wake_run {codes : BitVec 7} {a b : Bool} (h : s.pwr.state = .run) :
    exec (.powerStateExit codes a b t) s = .next (after (s.at t)) ∧ exec (.hwakeN t) s = .next (after (s.at t)) := by
  constructor
  · change fin (wakeUp ((setBits codes).map (· + 1)) a b (s.at t)) = _
    rw [wakeUp_none _ _ _ (s.at t) h, fin_eq]
  · change fin (wakeBy 4 (s.at t)) = _
    rw [wakeBy_run 4 (s.at t) h, fin_eq]

end Clauses

/-- Settles O54: entry into and wake from the device states, the Wisp's inputs, its rules and its control register. -/
theorem powerAndWakeComplete : Obligations.PowerAndWakeComplete := by
  unfold Obligations.PowerAndWakeComplete
  intro s u p codes okA okB t i px v hu
  subst hu
  refine ⟨fun h hd h2 => ⟨exec_powerStateEntry_target h hd h2, powerDown_state p s⟩, exec_powerStateEntry_other, fun _ _ _ => exec_powerStateExit_wakes,
    exec_wake_run, exec_hwakeN_wakes, exec_wakeTimer_due, exec_wakeTimer_early,
    fun h => ⟨exec_debouncedLevel_off h, exec_wcamFrame_off h, exec_ruleEvaluation_off h⟩, debouncedLevel_clause, wcamFrame_clause,
    ruleEvaluation_disabled_clause, ?rules, ?ctrlOn, ?ctrlOff⟩
  case rules =>
    intro h
    exact ⟨wispEvaluated (s.at t), ruleFires (s.at t), ruleFires_eq, rfl, fun i hi => tabD_updFilts _ _ hi,
      fun k hk => wispEvaluated_run hk, fun k hk => wispEvaluated_fired hk, exec_ruleEvaluation_on h⟩
  case ctrlOn =>
    intro hb h
    rw [exec_wispCtrlWrite_reached hb, writeWispCtrl_on h]
  case ctrlOff =>
    intro hb h hv
    rw [exec_wispCtrlWrite_reached hb, writeWispCtrl_off h hv]

end Sys2Proof.Machine


/-! Voltage requests and heat (R592, R593, R650-R653). -/
namespace Sys2Proof.Machine

/-! ### Voltage requests (R592, R593) -/

section Voltage
variable {s : State} {rail : Fin 2} {mv : BitVec 16} {n : Nat}

theorem allowStep_lt (m : Nat) : allowStep m < 5 := by
  unfold allowStep
  cases h : (List.range 5).find? fun k => decide (stepMv k ≤ m) with
  | none => decide
  | some k => exact List.mem_range.mp (List.mem_of_find?_eq_some h)

/-- The state of a rail whose request has been acknowledged. -/
def ackedRail (rail : Fin 2) (mv : BitVec 16) (s : State) : State :=
  updAvs (fun a => { a with vout := tabUpd a.vout rail (fun _ => mv), req := tabUpd a.req rail fun _ => .settling mv }) s

/-- A lower voltage of VDD_ARITH bounds the clock at once. -/
def ackedClock (rail : Fin 2) (mv : BitVec 16) (s : State) : State :=
  if rail = 0 then updTherm (fun t => reclock { t with vstep := fin' 4 (max t.vstep.val (allowStep mv.toNat)) }) s else s

/-- After SETTLE the clock rises to what the voltage allows. -/
def settledClock (rail : Fin 2) (mv : BitVec 16) (s : State) : State :=
  if rail = 0 then updTherm (fun t => reclock { t with vstep := fin' 4 (allowStep mv.toNat) }) s else s

/-- A rail has no request. -/
def idleRail (rail : Fin 2) (s : State) : State := updAvs (fun a => { a with req := tabUpd a.req rail fun _ => .idle }) s

theorem exec_avsAcknowledge_sent (h : tabD s.avs.req rail .idle = .sent mv n) :
    exec (.avsAcknowledge rail mv) s = .next (icnSettle (ackedClock rail mv (ackedRail rail mv s))) := by
  change execAvsAcknowledge rail mv s = _
  unfold execAvsAcknowledge ackedClock
  rw [h]
  dsimp only
  rw [bne_self_eq_false, if_neg Bool.false_ne_true]
  split <;> exact done_eq _

theorem exec_settleExpiry_settling (h : tabD s.avs.req rail .idle = .settling mv) :
    exec (.settleExpiry rail) s = .next (icnSettle (settledClock rail mv (idleRail rail s))) := by
  change execSettleExpiry rail s = _
  unfold execSettleExpiry settledClock
  rw [h]
  dsimp only
  split <;> exact done_eq _

/-- The clock in force is the deepest of the thermal step and the one that the voltage allows (R650). -/
theorem reclock_clk (t : Therm) : (reclock t).clk.val = max t.step.val t.vstep.val := fin'_val_of_lt (by omega)

theorem ackedClock_clk (u : State) : (ackedClock rail mv u).therm.clk.val =
    if rail = 0 then max u.therm.step.val (max u.therm.vstep.val (allowStep mv.toNat)) else u.therm.clk.val := by
  have hlt := allowStep_lt mv.toNat
  unfold ackedClock
  split
  · exact (reclock_clk _).trans (congrArg (max _) (fin'_val_of_lt (by omega)))
  · rfl

theorem settledClock_clk (u : State) : (settledClock rail mv u).therm.clk.val =
    if rail = 0 then max u.therm.step.val (allowStep mv.toNat) else u.therm.clk.val := by
  have hlt := allowStep_lt mv.toNat
  unfold settledClock
  split
  · exact (reclock_clk _).trans (congrArg (max _) (fin'_val_of_lt hlt))
  · rfl

/-- The clock's change leaves all but the thermal state. -/
theorem ackedClock_keeps (u : State) : (ackedClock rail mv u).ex = u.ex ∧ (ackedClock rail mv u).mm = u.mm ∧ (ackedClock rail mv u).avs = u.avs := by
  unfold ackedClock
  split <;> exact ⟨rfl, rfl, rfl⟩

theorem settledClock_keeps (u : State) : (settledClock rail mv u).ex = u.ex ∧ (settledClock rail mv u).mm = u.mm ∧ (settledClock rail mv u).avs = u.avs := by
  unfold settledClock
  split <;> exact ⟨rfl, rfl, rfl⟩

theorem avsAcknowledge_clause (h : tabD s.avs.req rail .idle = .sent mv n) : ∃ w, exec (.avsAcknowledge rail mv) s = .next (icnSettle w) ∧ w.ex = s.ex ∧ w.mm = s.mm ∧
    tabD w.avs.req rail .idle = .settling mv ∧ tabD w.avs.vout rail 0 = mv ∧
    w.therm.clk.val = (if rail = 0 then max s.therm.step.val (max s.therm.vstep.val (allowStep mv.toNat)) else s.therm.clk.val) := by
  obtain ⟨hex, hmm, havs⟩ := ackedClock_keeps (rail := rail) (mv := mv) (ackedRail rail mv s)
  refine ⟨_, exec_avsAcknowledge_sent h, hex, hmm, ?_, ?_, ackedClock_clk _⟩
  · rw [havs]
    exact tabD_tabUpd_same _ _ _ rail.isLt
  · rw [havs]
    exact tabD_tabUpd_same _ _ _ rail.isLt

theorem settleExpiry_clause (h : tabD s.avs.req rail .idle = .settling mv) : ∃ w, exec (.settleExpiry rail) s = .next (icnSettle w) ∧ w.ex = s.ex ∧ w.mm = s.mm ∧
    tabD w.avs.req rail .idle = .idle ∧ w.therm.clk.val = (if rail = 0 then max s.therm.step.val (allowStep mv.toNat) else s.therm.clk.val) := by
  obtain ⟨hex, hmm, havs⟩ := settledClock_keeps (rail := rail) (mv := mv) (idleRail rail s)
  refine ⟨_, exec_settleExpiry_settling h, hex, hmm, ?_, settledClock_clk _⟩
  rw [havs]
  exact tabD_tabUpd_same _ _ _ rail.isLt

theorem exec_avsNoackTimeout_again (h : tabD s.avs.req rail .idle = .sent mv n) (hn : n < 4) : exec (.avsNoackTimeout rail) s =
    .next (icnSettle (updAvs (fun a => { a with req := tabUpd a.req rail fun _ => .sent mv (n + 1) }) s)) := by
  change execAvsNoackTimeout rail s = _
  unfold execAvsNoackTimeout
  rw [h]
  dsimp only
  rw [if_pos hn, done_eq]

theorem exec_avsNoackTimeout_last (h : tabD s.avs.req rail .idle = .sent mv n) (hn : 4 ≤ n) : exec (.avsNoackTimeout rail) s =
    .next (icnSettle (updAvs (fun a => { a with req := tabUpd a.req rail (fun _ => .idle), alarm := setBit a.alarm rail.val true }) s)) := by
  change execAvsNoackTimeout rail s = _
  unfold execAvsNoackTimeout
  rw [h]
  dsimp only
  rw [if_neg (Nat.not_lt.mpr hn), done_eq]

/-- A rail without a request answers none. -/
theorem exec_avs_idle (h : tabD s.avs.req rail .idle = .idle) : exec (.avsAcknowledge rail mv) s = .next (icnSettle s) ∧
    exec (.settleExpiry rail) s = .next (icnSettle s) ∧ exec (.avsNoackTimeout rail) s = .next (icnSettle s) := by
  refine ⟨?_, ?_, ?_⟩
  · change execAvsAcknowledge rail mv s = _
    unfold execAvsAcknowledge
    rw [h]
    exact done_eq _
  · change execSettleExpiry rail s = _
    unfold execSettleExpiry
    rw [h]
    exact done_eq _
  · change execAvsNoackTimeout rail s = _
    unfold execAvsNoackTimeout
    rw [h]
    exact done_eq _

end Voltage

/-! ### Heat (R651-R653) -/

section Heat
variable {s : State} {t : W64}

theorem exec_tjSample_readings {x : Int} {r : List Int} : exec (.tjSample (x :: r) t) s = .next (icnSettle (updTherm (fun h =>
    { h with tj := r.foldl max x, thermN := decide (110 ≤ r.foldl max x) || (h.thermN && decide (100 < r.foldl max x)) }) (s.at t))) := done_eq _

theorem exec_thermalStep_deeper (h : 100 ≤ s.therm.tj) (hk : s.therm.step.val < 4) :
    exec (.thermalStep t) s = .next (icnSettle (setThermStep (s.therm.step.val + 1) (s.at t))) := by
  change execThermalStep t s = _
  unfold execThermalStep
  exact (if_pos (Bool.and_eq_true_iff.mpr ⟨decide_eq_true h, decide_eq_true hk⟩)).trans (done_eq _)

theorem exec_thermalStep_up (h : s.therm.tj ≤ 95) (hk : 0 < s.therm.step.val) :
    exec (.thermalStep t) s = .next (icnSettle (setThermStep (s.therm.step.val - 1) (s.at t))) := by
  change execThermalStep t s = _
  unfold execThermalStep
  refine (if_neg ?_).trans ((if_pos (Bool.and_eq_true_iff.mpr ⟨decide_eq_true h, decide_eq_true hk⟩)).trans (done_eq _))
  rw [show decide (100 ≤ (s.at t).therm.tj) = false from decide_eq_false (by change ¬ 100 ≤ s.therm.tj; omega)]
  exact Bool.false_ne_true

theorem exec_thermalStep_stays (h : 95 < s.therm.tj) (h' : s.therm.tj < 100) : exec (.thermalStep t) s = .next (icnSettle (s.at t)) := by
  change execThermalStep t s = _
  unfold execThermalStep
  refine (if_neg ?_).trans ((if_neg ?_).trans (done_eq _))
  · rw [show decide (100 ≤ (s.at t).therm.tj) = false from decide_eq_false (by change ¬ 100 ≤ s.therm.tj; omega)]
    exact Bool.false_ne_true
  · rw [show decide ((s.at t).therm.tj ≤ 95) = false from decide_eq_false (by change ¬ s.therm.tj ≤ 95; omega)]
    exact Bool.false_ne_true

theorem setThermStep_step {k : Nat} (hk : k < 5) (u : State) : (setThermStep k u).therm.step.val = k := fin'_val_of_lt hk
theorem setThermStep_req (k : Nat) (u : State) : tabD (setThermStep k u).avs.req 0 .idle = .sent (BitVec.ofNat 16 (stepMv k)) 1 :=
  tabD_tabUpd_same _ _ _ (by decide)

end Heat

/-- Settles O55: the voltage requests, the junction temperature and the thermal step. -/
theorem railsAndThermalComplete : Obligations.RailsAndThermalComplete := by
  unfold Obligations.RailsAndThermalComplete
  intro s u rail mv n x r t hu
  subst hu
  refine ⟨avsAcknowledge_clause, settleExpiry_clause, exec_avsNoackTimeout_again, exec_avsNoackTimeout_last, exec_avs_idle, ?sample,
    exec_thermalStep_deeper, exec_thermalStep_up, exec_thermalStep_stays, fun k hk => ⟨setThermStep_step hk _, setThermStep_req k _⟩⟩
  obtain ⟨hmax, hmem⟩ := foldl_max r x
  refine ⟨_, exec_tjSample_readings, rfl, rfl, hmax, hmem, ?_⟩
  change (decide (110 ≤ r.foldl max x) || (s.therm.thermN && decide (100 < r.foldl max x))) = true ↔ 110 ≤ r.foldl max x ∨ (s.therm.thermN = true ∧ 100 < r.foldl max x)
  rw [Bool.or_eq_true, Bool.and_eq_true, decide_eq_true_eq, decide_eq_true_eq]

end Sys2Proof.Machine


/-! Resets, the start-up test, GO and the self-tests (R617-R648). -/
namespace Sys2Proof.Machine

/-! ### Resets (R642, R643, R648) -/

section Resets
variable {s : State} {n : Nat}

theorem exec_rstN_short (h : n < 10000) : exec (.rstN n) s = .next (icnSettle s) := by
  change execRstN n s = _
  unfold execRstN
  rw [if_pos h, done_eq]

theorem exec_rstN_long (h : 10000 ≤ n) : exec (.rstN n) s = .next (icnSettle (deviceReset 2 true s)) := by
  change execRstN n s = _
  unfold execRstN
  rw [if_neg (Nat.not_lt.mpr h), done_eq]

end Resets

/-! ### The start-up test (R619-R621) -/

section StartUp
variable {s : State} {pass : Bool} {pd : W64} {fs : List MemFail} {r : TestRec}

theorem exec_railMonitorsInRange_late (h : s.boot.stage ≠ 0) : exec (.railMonitorsInRange pass pd fs) s = .next (icnSettle s) := by
  change execRailMonitorsInRange pass pd fs s = _
  unfold execRailMonitorsInRange
  rw [bne_iff_ne.mpr h, Bool.true_or, if_pos rfl, done_eq]

/-- In STAGE 0 with no keeper, the record of the last shutdown decides, or the start-up test. -/
theorem exec_railMonitorsInRange_first (h : s.boot.stage = 0) (hk : s.sfi.keeper = false) : exec (.railMonitorsInRange pass pd fs) s =
    match s.st.shutRec.filter (·.pass) with
    | some r => done (updBoot (fun b => { b with stage := 2 }) (showTest 1 r (updSt (fun x => { x with shutRec := none }) s)))
    | none =>
      if (testRec pass pd fs).pass then done (updBoot (fun b => { b with stage := 2 }) (showTest 2 (testRec pass pd fs) (updSt (fun x => { x with shutRec := none }) s)))
      else done (updBoot (fun b => { b with stage := 1 }) (updSfi (fun x => { x with state := .hold }) (updSt (fun x => { x with shutRec := some (testRec pass pd fs) })
        (trip 0x0C 0 0 true (showTest 2 (testRec pass pd fs) (updSt (fun x => { x with shutRec := none }) s)))))) := by
  change execRailMonitorsInRange pass pd fs s = _
  unfold execRailMonitorsInRange
  refine if_neg ?_
  rw [h, hk]
  exact Bool.false_ne_true

theorem exec_railMonitorsInRange_record (h : s.boot.stage = 0) (hk : s.sfi.keeper = false) (hr : s.st.shutRec = some r) (hp : r.pass = true) :
    exec (.railMonitorsInRange pass pd fs) s = .next (icnSettle (updBoot (fun b => { b with stage := 2 }) (showTest 1 r (updSt (fun x => { x with shutRec := none }) s)))) := by
  rw [exec_railMonitorsInRange_first h hk, hr, Option.filter_some_pos hp]
  exact done_eq _

theorem exec_railMonitorsInRange_pass (h : s.boot.stage = 0) (hk : s.sfi.keeper = false) (hr : s.st.shutRec = none) (hp : (testRec pass pd fs).pass = true) :
    exec (.railMonitorsInRange pass pd fs) s =
      .next (icnSettle (updBoot (fun b => { b with stage := 2 }) (showTest 2 (testRec pass pd fs) (updSt (fun x => { x with shutRec := none }) s)))) := by
  rw [exec_railMonitorsInRange_first h hk, hr, Option.filter_none]
  dsimp only
  rw [if_pos hp, done_eq]

theorem exec_railMonitorsInRange_fail (h : s.boot.stage = 0) (hk : s.sfi.keeper = false) (hr : s.st.shutRec = none) (hp : (testRec pass pd fs).pass = false) :
    exec (.railMonitorsInRange pass pd fs) s = .next (icnSettle (updBoot (fun b => { b with stage := 1 }) (updSfi (fun x => { x with state := .hold })
      (updSt (fun x => { x with shutRec := some (testRec pass pd fs) })
        (trip 0x0C 0 0 true (showTest 2 (testRec pass pd fs) (updSt (fun x => { x with shutRec := none }) s))))))) := by
  rw [exec_railMonitorsInRange_first h hk, hr, Option.filter_none]
  dsimp only
  rw [if_neg (Bool.eq_false_iff.mp hp), done_eq]

end StartUp

/-! ### GO (R628-R631) -/

section Boot
variable {s : State} {v : W32}

theorem exec_bootCtrl_go (hb : barOn s 0 = true) (hv : bit v 0 = true) (hs : s.boot.stage = 2) : exec (.bootCtrl v) s = .next (icnSettle (bootGo s)) := by
  change execBootCtrl v s = _
  unfold execBootCtrl writeBootCtrl
  rw [if_pos hb, hv, hs]
  exact done_eq _

theorem exec_bootCtrl_early (hs : s.boot.stage ≠ 2) : exec (.bootCtrl v) s = .next (icnSettle s) := by
  change execBootCtrl v s = _
  unfold execBootCtrl writeBootCtrl
  rw [beq_eq_false_iff_ne.mpr hs, Bool.and_false, if_neg Bool.false_ne_true, ite_self, done_eq]

/-- A read of host memory leaves the fuses, the boot state and the SFI. -/
theorem hostReadP_keeps (fn a n : Nat) (s : State) : (hostReadP fn a n s).2.fuses = s.fuses ∧ (hostReadP fn a n s).2.boot = s.boot ∧ (hostReadP fn a n s).2.sfi = s.sfi := by
  unfold hostReadP
  dsimp only
  split <;> exact ⟨rfl, rfl, rfl⟩

/-- An image that fails a check is not run. -/
theorem bootGo_failed {raw : PB} {w : State} (hr : hostReadP 0 s.boot.img.toNat (min s.boot.size.toNat imageMax) s = (raw, w))
    (he : imageErr s.fuses s.boot.size.toNat (dataOf raw) (anyPoison raw) ≠ 0) :
    bootGo s = loadFailed (imageErr s.fuses s.boot.size.toNat (dataOf raw) (anyPoison raw)) w := by
  obtain ⟨hf, -, -⟩ := hostReadP_keeps 0 s.boot.img.toNat (min s.boot.size.toNat imageMax) s
  rw [hr] at hf
  unfold bootGo
  dsimp only
  rw [hr]
  dsimp only at hf ⊢
  rw [hf]
  split
  · exact absurd ‹_› he
  · rfl

end Boot

/-! ### The self-tests (R617, R618, R622, R623) -/

section SelfTests
variable {s : State} {pd : W64} {fs : List MemFail} {t : W64} {core : Fin 32} {pass : Bool} {c k : Nat}

theorem exec_shutdownTestComplete_testing (h : s.st.testing = true) : exec (.shutdownTestComplete pd fs t) s =
    .next (icnSettle (updSt (fun x => { x with testing := false, shutRec := some (testRec true pd fs) }) (s.at t))) := by
  change execShutdownTestComplete pd fs t s = _
  unfold execShutdownTestComplete
  exact (if_pos h).trans (done_eq _)

theorem exec_shutdownTestComplete_none (h : s.st.testing = false) : exec (.shutdownTestComplete pd fs t) s = .next (icnSettle (s.at t)) := by
  change execShutdownTestComplete pd fs t s = _
  unfold execShutdownTestComplete
  exact (if_neg (Bool.eq_false_iff.mp h)).trans (done_eq _)

theorem exec_sliceComplete_none (h : sliceOf (s.at t) core = none) : exec (.sliceComplete core pass t) s = .next (after (s.at t)) := by
  change execSliceComplete core pass t s = _
  unfold execSliceComplete
  dsimp only
  rw [h]
  exact fin_eq _

/-- The core of a slice is cleared and released. -/
def clearedCore (core : Fin 32) (s : State) : State := updCore core (fun x => { ageCtr := x.ageCtr, cycles := x.cycles }) s

/-- A slice ends on a core that nothing else uses. -/
theorem exec_sliceComplete_ran (h : sliceOf (s.at t) core = some (c, k)) (hb : blocksOn (s.at t) core = []) (hp : (s.at t).gx.passes.any (keptBy · core.val) = false) :
    exec (.sliceComplete core pass t) s =
      if pass then fin (finish c St.success (updSt (fun x => { x with slices := tabUpd x.slices core fun w => setBit w k true }) (clearedCore core (s.at t))))
      else fin (finish c St.safeStateActive (trip 0x0C 0 0 true (updSt (fun x => { x with sliceFail := BitVec.ofNat 32 (core.val + 32 * k + 2048) }) (clearedCore core (s.at t))))) := by
  change execSliceComplete core pass t s = _
  unfold execSliceComplete
  dsimp only
  rw [h]
  dsimp only
  rw [hb, hp]
  rfl

theorem exec_sliceComplete_failed (h : sliceOf (s.at t) core = some (c, k)) (hb : blocksOn (s.at t) core = []) (hp : (s.at t).gx.passes.any (keptBy · core.val) = false) :
    exec (.sliceComplete core false t) s = .next (after (finish c St.safeStateActive
      (trip 0x0C 0 0 true (updSt (fun x => { x with sliceFail := BitVec.ofNat 32 (core.val + 32 * k + 2048) }) (clearedCore core (s.at t)))))) := by
  rw [exec_sliceComplete_ran h hb hp, if_neg Bool.false_ne_true, fin_eq]

theorem coreOf_clearedCore (u : State) : coreOf (clearedCore core u) core = { ageCtr := (coreOf u core).ageCtr, cycles := (coreOf u core).cycles } :=
  tabD_tabUpd_same _ _ _ core.isLt

theorem coreOf_updSt_clearedCore (f : SelfTest → SelfTest) (u : State) :
    coreOf (updSt f (clearedCore core u)) core = { ageCtr := (coreOf u core).ageCtr, cycles := (coreOf u core).cycles } := coreOf_clearedCore u

end SelfTests

/-! ### Each clause as the obligation states it -/

section Clauses
variable {s : State} {ex0 : Exec}

theorem powerOnReset_clause (hx : ex0 = (updPart 0 (fun p => { p with cores := p.cores &&& coreMask s.part, peat := p.peat &&& coreMask s.part }) State.reset).ex) :
    ∃ w, exec .powerOnReset s = .next (icnSettle w) ∧ w.fuses = s.fuses ∧ w.part = s.part ∧ w.mm.host = s.mm.host ∧ w.mm.peat = {} ∧ w.mm.lpddr = {} ∧ w.ex = ex0 ∧
      w.sfi.state = .boot ∧ w.pte.safeState = true ∧ w.boot.stage = 0 ∧ w.boot.rstsrc = 1 ∧ w.st.shutRec = none :=
  ⟨_, done_eq _, deviceReset_keeps 1 false s ex0 hx⟩

theorem rstN_clause {n : Nat} (hx : ex0 = (updPart 0 (fun p => { p with cores := p.cores &&& coreMask s.part, peat := p.peat &&& coreMask s.part }) State.reset).ex)
    (hn : 10000 ≤ n) : ∃ w, exec (.rstN n) s = .next (icnSettle w) ∧ w.fuses = s.fuses ∧ w.ex = ex0 ∧ w.sfi.state = .boot ∧ w.boot.stage = 0 ∧ w.boot.rstsrc = 2 ∧
      w.st.shutRec = s.st.shutRec := by
  obtain ⟨hf, -, -, -, -, he, hs, -, hb, hr, hrec⟩ := deviceReset_keeps 2 true s ex0 hx
  exact ⟨_, exec_rstN_long hn, hf, he, hs, hb, hr, hrec⟩

theorem vddSafeLoss_clause (hx : ex0 = (updPart 0 (fun p => { p with cores := p.cores &&& coreMask s.part, peat := p.peat &&& coreMask s.part }) State.reset).ex) :
    ∃ w, exec .vddSafeLoss s = .next (icnSettle w) ∧ w.sfi.keeper = true ∧ w.sfi.state = .boot ∧ w.pte.safeState = true ∧ w.ex = ex0 ∧ w.st.shutRec = none := by
  obtain ⟨-, -, -, -, -, he, hs, hp, -, -, hrec⟩ := deviceReset_keeps 1 false s ex0 hx
  exact ⟨_, done_eq _, rfl, hs, hp, he, hrec⟩

theorem bootGo_clause {size : Nat} {raw : PB} {w : State} (hz : size = s.boot.size.toNat) (hr : hostReadP 0 s.boot.img.toNat (min size imageMax) s = (raw, w))
    (he : imageErr s.fuses size (dataOf raw) (anyPoison raw) ≠ 0) : (bootGo s).boot.stage = 2 ∧ (bootGo s).boot.fails = satInc s.boot.fails ∧
      (bootGo s).boot.err = BitVec.ofNat 4 (imageErr s.fuses size (dataOf raw) (anyPoison raw)) ∧ (bootGo s).fuses = s.fuses ∧ (bootGo s).sfi = s.sfi := by
  subst hz
  obtain ⟨hf, hb, hs⟩ := hostReadP_keeps 0 s.boot.img.toNat (min s.boot.size.toNat imageMax) s
  rw [hr] at hf hb hs
  rw [bootGo_failed hr he]
  exact ⟨rfl, congrArg (fun b : Boot => satInc b.fails) hb, rfl, hf, hs⟩

theorem sliceComplete_fail_clause {core : Fin 32} {t : W64} {c k : Nat} (h : sliceOf (s.at t) core = some (c, k)) (hb : blocksOn (s.at t) core = [])
    (hp : (s.at t).gx.passes.any (keptBy · core.val) = false) : ∃ w, exec (.sliceComplete core false t) s = .next (after (finish c 0x0701 (trip 0x0C 0 0 true w))) ∧
      w.st.sliceFail = BitVec.ofNat 32 (core.val + 32 * k + 2048) ∧ (coreOf w core).claim = none ∧ (coreOf w core).lm = {} :=
  ⟨updSt (fun x => { x with sliceFail := BitVec.ofNat 32 (core.val + 32 * k + 2048) }) (clearedCore core (s.at t)),
    exec_sliceComplete_failed h hb hp, rfl,
    congrArg Core.claim (coreOf_updSt_clearedCore _ (s.at t)), congrArg Core.lm (coreOf_updSt_clearedCore _ (s.at t))⟩

end Clauses

/-- Settles O56: what each reset leaves, the start-up test by its record, GO, and the self-tests. -/
theorem bootAndSelfTestComplete : Obligations.BootAndSelfTestComplete := by
  unfold Obligations.BootAndSelfTestComplete
  intro s u n pass pd fs v t core r ex0 hu hx
  subst hu
  refine ⟨powerOnReset_clause hx, exec_rstN_short, rstN_clause hx, vddSafeLoss_clause hx, ⟨_, done_eq _, rfl, rfl, rfl, rfl⟩, ?record, ?pass, ?fail,
    exec_railMonitorsInRange_late, exec_bootCtrl_go, exec_bootCtrl_early, fun _ _ _ => bootGo_clause, exec_shutdownTestComplete_testing,
    exec_shutdownTestComplete_none, ?slice, fun _ _ => sliceComplete_fail_clause, exec_sliceComplete_none⟩
  case record => exact fun h hk hr hp => ⟨_, exec_railMonitorsInRange_record h hk hr hp, rfl, rfl, hp, rfl, rfl⟩
  case pass => exact fun h hk hr hp => ⟨_, exec_railMonitorsInRange_pass h hk hr hp, rfl, rfl, hp, rfl⟩
  case fail => exact fun h hk hr hp => ⟨_, exec_railMonitorsInRange_fail h hk hr hp, rfl, rfl, rfl⟩
  case slice =>
    intro c k h hb hp
    rw [exec_sliceComplete_ran h hb hp, if_pos rfl, fin_eq]
    rfl

end Sys2Proof.Machine


/-! Snapshots: the trigger cycle, the hold and its end (R367-R373, R573). -/
namespace Sys2Proof.Machine

section Trigger
variable {s : State} {t : W64} {c : Snap}

theorem exec_snapshotTrigger_due (hc : s.snap.cur = some c) (ht : c.triggered = false) (hd : snapDue (s.at t) c = true) :
    exec (.snapshotTrigger t) s = .next (after (snapTrigger false (s.at t))) := by
  have hc' : (s.at t).snap.cur = some c := hc
  change execSnapshotTrigger t s = _
  unfold execSnapshotTrigger
  dsimp only
  rw [hc']
  dsimp only
  rw [ht, hd]
  exact fin_eq _

theorem exec_snapshotTrigger_early (hc : s.snap.cur = some c) (ht : c.triggered = false) (hd : snapDue (s.at t) c = false) :
    exec (.snapshotTrigger t) s = .next (after (s.at t)) := by
  have hc' : (s.at t).snap.cur = some c := hc
  change execSnapshotTrigger t s = _
  unfold execSnapshotTrigger
  dsimp only
  rw [hc']
  dsimp only
  rw [ht, hd]
  exact fin_eq _

theorem exec_snapshotTrigger_none (hc : s.snap.cur = none) : exec (.snapshotTrigger t) s = .next (after (s.at t)) := by
  have hc' : (s.at t).snap.cur = none := hc
  change execSnapshotTrigger t s = _
  unfold execSnapshotTrigger
  dsimp only
  rw [hc']
  exact fin_eq _

/-- Telling the members of a domain only sends flits. -/
theorem toMembers_keeps {α : Type} (p : State → α) (hp : ∀ k z, p (linkGlobal k z) = p z) (u : State) : p (toMembers u) = p u := by
  unfold toMembers
  refine foldl_same p _ (fun z k => ?_) _ _
  split
  · exact hp k z
  · rfl

theorem snapTell_updSnap (f : SnapSt → SnapSt) (u : State) :
    (snapTell (updSnap f u)).ex = u.ex ∧ (snapTell (updSnap f u)).mm = u.mm ∧ (snapTell (updSnap f u)).snap = f u.snap := by
  unfold snapTell
  split
  · exact ⟨toMembers_keeps State.ex (fun _ _ => rfl) _, toMembers_keeps State.mm (fun _ _ => rfl) _, toMembers_keeps State.snap (fun _ _ => rfl) _⟩
  · exact ⟨rfl, rfl, rfl⟩

/-- The snapshot after its trigger cycle. -/
def triggeredSnap (u : State) (c : Snap) : Snap := { c with triggered := true, lateCut := false, trigTime := u.time, latched := (snapSection u).1 }

theorem snapTrigger_keeps {u : State} (hc : u.snap.cur = some c) : (snapTrigger false u).ex = u.ex ∧ (snapTrigger false u).mm = u.mm ∧
    (snapTrigger false u).snap.cur = some (triggeredSnap u c) := by
  obtain ⟨hex, hmm, hsnap, -⟩ := snapSection_keeps u
  have hstep : snapTrigger false u = snapTell (updSnap (fun x => { x with cur := x.cur.map fun c =>
    { c with triggered := true, lateCut := false, trigTime := u.time, latched := (snapSection u).1 } }) (snapSection u).2) := rfl
  obtain ⟨tex, tmm, tsnap⟩ := snapTell_updSnap (fun x => { x with cur := x.cur.map fun c =>
    { c with triggered := true, lateCut := false, trigTime := u.time, latched := (snapSection u).1 } }) (snapSection u).2
  rw [hstep, tex, tmm, tsnap, hsnap]
  exact ⟨hex, hmm, congrArg (Option.map _) hc⟩

theorem holding_of_triggered {u : State} (hc : u.snap.cur = some c) (ht : c.triggered = true) : holding u = true := by
  unfold holding
  rw [hc]
  exact ht

end Trigger

/-! ### The end of a hold, and a cut that another member started (R368, R372, R573) -/

section HoldEnd
variable {s : State} {t : W64} {c : Snap} {ctx : Fin 64} {buf kn seq : W64}

theorem exec_holdEnd_triggered (hc : s.snap.cur = some c) (ht : c.triggered = true) : exec (.holdEnd t) s =
    .next (after (kick (s.snap.held.foldl (fun s h => release h s) (updSnap (fun x => { x with held := [] }) (snapCapture c (s.at t)))))) := by
  have hc' : (s.at t).snap.cur = some c := hc
  change execHoldEnd t s = _
  unfold execHoldEnd
  dsimp only
  rw [hc']
  dsimp only
  rw [ht]
  exact fin_eq _

theorem exec_holdEnd_waiting (hc : s.snap.cur = some c) (ht : c.triggered = false) : exec (.holdEnd t) s = .next (after (s.at t)) := by
  have hc' : (s.at t).snap.cur = some c := hc
  change execHoldEnd t s = _
  unfold execHoldEnd
  dsimp only
  rw [hc']
  dsimp only
  rw [ht]
  exact fin_eq _

theorem exec_holdEnd_none (hc : s.snap.cur = none) : exec (.holdEnd t) s = .next (after (s.at t)) := by
  have hc' : (s.at t).snap.cur = none := hc
  change execHoldEnd t s = _
  unfold execHoldEnd
  dsimp only
  rw [hc']
  exact fin_eq _

/-- The snapshot of a cut that another member started, without knots. -/
def memberSnap (ctx : Fin 64) (buf : W64) (s : State) : Snap :=
  { cmd := none, ctx := ctx, trigger := 0, axis := 0, rev := false, tp := 0, domain := true, buf := buf, knots := [], exec := s.time }

theorem exec_domainSnapshotStart_member (hm : s.dom.member = true) (hc : s.snap.cur = none) (hl : (ctxOf s ctx).life = .live) :
    exec (.domainSnapshotStart ctx buf kn 0 seq t) s =
      .next (after (snapTrigger false (updSnap (fun y => { y with cur := some (memberSnap ctx buf (s.at t)), seq := seq - 1 }) (s.at t)))) := by
  have hgo : ((s.at t).dom.member && (s.at t).snap.cur.isNone && (ctxOf (s.at t) ctx).life == .live) = true := by
    change (s.dom.member && s.snap.cur.isNone && (ctxOf s ctx).life == .live) = true
    rw [hm, hc, hl]
    rfl
  change execDomainSnapshotStart ctx buf kn 0 seq t s = _
  unfold execDomainSnapshotStart
  dsimp only
  rw [if_pos hgo, fin_eq]
  rfl

theorem exec_domainSnapshotStart_other (hm : s.dom.member = false) : exec (.domainSnapshotStart ctx buf kn 0 seq t) s = .next (after (s.at t)) := by
  have hno : ((s.at t).dom.member && (s.at t).snap.cur.isNone && (ctxOf (s.at t) ctx).life == .live) = false := by
    change (s.dom.member && s.snap.cur.isNone && (ctxOf s ctx).life == .live) = false
    rw [hm]
    rfl
  change execDomainSnapshotStart ctx buf kn 0 seq t s = _
  unfold execDomainSnapshotStart
  dsimp only
  rw [if_neg (Bool.eq_false_iff.mp hno), fin_eq]

/-- A publication waits in a hold. -/
theorem exec_epochPublication_held (hh : holding s = true) (hf : fwOn s = true) :
    exec .epochPublication s = .next (after { s with snap := { s.snap with held := s.snap.held ++ [.publish] } }) := by
  change fin (publish s) = _
  unfold publish
  rw [hf, hh]
  exact fin_eq _

end HoldEnd

/-- Settles O57: the trigger cycle, the hold with the publication that waits in it, its end, and a cut of the domain. -/
theorem snapshotEventsComplete : Obligations.SnapshotEventsComplete := by
  unfold Obligations.SnapshotEventsComplete
  intro s u t seq buf kn c ctx hu
  subst hu
  refine ⟨?trigger, exec_snapshotTrigger_early, fun h => ⟨exec_snapshotTrigger_none h, exec_holdEnd_none h⟩, exec_holdEnd_triggered, exec_holdEnd_waiting,
    ?member, exec_domainSnapshotStart_other, exec_epochPublication_held⟩
  case trigger =>
    intro hc ht hd
    obtain ⟨hex, hmm, hcur⟩ := snapTrigger_keeps (u := s.at t) hc
    exact ⟨exec_snapshotTrigger_due hc ht hd, holding_of_triggered hcur rfl, hex, hmm, hcur⟩
  case member => exact fun hm hc hl => ⟨_, _, exec_domainSnapshotStart_member hm hc hl, rfl, rfl, rfl, rfl, rfl, rfl⟩

end Sys2Proof.Machine


/-! Every command answers a next state. -/
namespace Sys2Proof.Machine

/-- The command answers a next state: it neither stops the block nor is refused. -/
def Answers (o : Res) : Prop := ∃ t, o = .next t

/-! ### Commands and their timeouts, the scheduler -/

theorem execCommandTimeout_answers (c : Nat) (t : W64) (s : State) : Answers (execCommandTimeout c t s) := by
  unfold execCommandTimeout
  dsimp only
  repeat' split
  all_goals exact ⟨_, rfl⟩

theorem execTimeoutDrainAllowance_answers (c : Nat) (t : W64) (s : State) : Answers (execTimeoutDrainAllowance c t s) := by
  unfold execTimeoutDrainAllowance
  dsimp only
  repeat' split
  all_goals exact ⟨_, rfl⟩

theorem execCommandCompletion_answers (q : Fin 256) (s : State) : Answers (execCommandCompletion q s) := by
  unfold execCommandCompletion
  repeat' split
  all_goals exact ⟨_, rfl⟩

theorem execBlockDispatch_answers (part : Fin 8) (s : State) : Answers (execBlockDispatch part s) := by
  unfold execBlockDispatch
  dsimp only
  repeat' split
  all_goals exact ⟨_, rfl⟩

theorem execCoreClaim_answers (c : Nat) (t : W64) (s : State) : Answers (execCoreClaim c t s) := by
  unfold execCoreClaim
  dsimp only
  repeat' split
  all_goals exact ⟨_, rfl⟩

theorem execTurnEnd_answers (part : Fin 8) (t : W64) (s : State) : Answers (execTurnEnd part t s) := by
  unfold execTurnEnd
  dsimp only
  repeat' split
  all_goals exact ⟨_, rfl⟩

theorem execKwaitTimeout_answers (g : Nat) (t : W64) (s : State) : Answers (execKwaitTimeout g t s) := by
  unfold execKwaitTimeout
  dsimp only
  repeat' split
  all_goals exact ⟨_, rfl⟩

/-! ### Axes and outputs -/

theorem execQualifiedEdge_answers (ax : Fin 8) (a b : Bool) (t : W64) (s : State) : Answers (execQualifiedEdge ax a b t s) := by
  unfold execQualifiedEdge
  dsimp only
  repeat' split
  all_goals exact ⟨_, rfl⟩

theorem execZEdge_answers (ax : Fin 8) (t : W64) (s : State) : Answers (execZEdge ax t s) := by
  unfold execZEdge
  dsimp only
  repeat' split
  all_goals exact ⟨_, rfl⟩

theorem execAxStallExpiry_answers (a : Fin 8) (t : W64) (s : State) : Answers (execAxStallExpiry a t s) := by
  unfold execAxStallExpiry
  dsimp only
  repeat' split
  all_goals exact ⟨_, rfl⟩

theorem execMainsPulse_answers (ax : Fin 8) (e : MphEdge) (s : State) : Answers (execMainsPulse ax e s) := by
  unfold execMainsPulse
  dsimp only
  repeat' split
  all_goals exact ⟨_, rfl⟩

theorem execMainsPulseMissing_answers (a : Fin 8) (t : W64) (s : State) : Answers (execMainsPulseMissing a t s) := by
  unfold execMainsPulseMissing
  dsimp only
  repeat' split
  all_goals exact ⟨_, rfl⟩

theorem execHitFire_answers (o : Fin 36) (bad : Option W32) (t : W64) (s : State) : Answers (execHitFire o bad t s) := by
  unfold execHitFire
  dsimp only
  repeat' split
  all_goals exact ⟨_, rfl⟩

theorem execTgCountReached_answers (g : Fin 4) (s : State) : Answers (execTgCountReached g s) := by
  unfold execTgCountReached
  dsimp only
  repeat' split
  all_goals exact ⟨_, rfl⟩

theorem execLowerWordRead_answers (off : W32) (s : State) : Answers (execLowerWordRead off s) := by
  unfold execLowerWordRead
  dsimp only
  repeat' split
  all_goals exact ⟨_, rfl⟩

/-! ### The safety island -/

theorem execReadbackMismatch_answers (o : Fin 36) (t : W64) (s : State) : Answers (execReadbackMismatch o t s) := by
  unfold execReadbackMismatch
  dsimp only
  repeat' split
  all_goals exact ⟨_, rfl⟩

theorem execSafeBall_answers (chB : Bool) (t : W64) (s : State) : Answers (execSafeBall chB t s) := by
  unfold execSafeBall
  dsimp only
  repeat' split
  all_goals exact ⟨_, rfl⟩

theorem execLockstepSfi_answers (t : W64) (s : State) : Answers (execLockstepSfi t s) := by
  unfold execLockstepSfi
  dsimp only
  repeat' split
  all_goals exact ⟨_, rfl⟩

theorem execLockstepPte_answers (o : Fin 36) (t : W64) (s : State) : Answers (execLockstepPte o t s) := by
  unfold execLockstepPte
  dsimp only
  repeat' split
  all_goals exact ⟨_, rfl⟩

theorem execClock_answers (c : Fin 4) (t : W64) (s : State) : Answers (execClock c t s) := by
  unfold execClock
  dsimp only
  repeat' split
  all_goals exact ⟨_, rfl⟩

theorem execVoltage_answers (rail : Fin 2) (t : W64) (s : State) : Answers (execVoltage rail t s) := by
  unfold execVoltage
  dsimp only
  repeat' split
  all_goals exact ⟨_, rfl⟩

theorem execBallLevelRestored_answers (b : MonBall) (s : State) : Answers (execBallLevelRestored b s) := by
  unfold execBallLevelRestored
  repeat' split
  all_goals exact ⟨_, rfl⟩

theorem execDeadlineMiss_answers (b : Fin 16) (n t : W64) (s : State) : Answers (execDeadlineMiss b n t s) := by
  unfold execDeadlineMiss
  dsimp only
  repeat' split
  all_goals exact ⟨_, rfl⟩

theorem execSoftwareAssistedDiagnostics_answers (ramFault hitFault : Option W32) (t : W64) (s : State) : Answers (execSoftwareAssistedDiagnostics ramFault hitFault t s) := by
  unfold execSoftwareAssistedDiagnostics
  dsimp only
  repeat' split
  all_goals exact ⟨_, rfl⟩

theorem execSfiArmNFallingEdge_answers (okA okB : Bool) (t : W64) (s : State) : Answers (execSfiArmNFallingEdge okA okB t s) := by
  unfold execSfiArmNFallingEdge
  dsimp only
  repeat' split
  all_goals exact ⟨_, rfl⟩

theorem execDisarm_answers (t : W64) (s : State) : Answers (execDisarm t s) := by
  unfold execDisarm
  dsimp only
  repeat' split
  all_goals exact ⟨_, rfl⟩

/-! ### Cameras and displays -/

theorem execLongPacket_answers (p : Fin 4) (vc : BitVec 5) (dt : BitVec 6) (payload : List Byte) (hdrOk crcOk : Bool) (t : W64) (s : State) : Answers (execLongPacket p vc dt payload hdrOk crcOk t s) := by
  unfold execLongPacket
  dsimp only
  repeat' split
  all_goals exact ⟨_, rfl⟩

theorem execFrameStart_answers (p : Fin 4) (vc : BitVec 5) (t : W64) (s : State) : Answers (execFrameStart p vc t s) := by
  unfold execFrameStart
  dsimp only
  repeat' split
  all_goals exact ⟨_, rfl⟩

theorem execFrameEnd_answers (p : Fin 4) (vc : BitVec 5) (t : W64) (s : State) : Answers (execFrameEnd p vc t s) := by
  unfold execFrameEnd
  dsimp only
  repeat' split
  all_goals exact ⟨_, rfl⟩

theorem execCamRxLoss_answers (p : Fin 4) (t : W64) (s : State) : Answers (execCamRxLoss p t s) := by
  unfold execCamRxLoss
  dsimp only
  repeat' split
  all_goals exact ⟨_, rfl⟩

theorem execLatchPoint_answers (d : Fin 2) (t : W64) (s : State) : Answers (execLatchPoint d t s) := by
  unfold execLatchPoint
  dsimp only
  repeat' split
  all_goals exact ⟨_, rfl⟩

theorem execTrainComplete_answers (d : Fin 2) (ok : Bool) (s : State) : Answers (execTrainComplete d ok s) := by
  unfold execTrainComplete
  repeat' split
  all_goals exact ⟨_, rfl⟩

theorem execMessageDone_answers (d : Fin 2) (o : MsgOutcome) (data : List Byte) (s : State) : Answers (execMessageDone d o data s) := by
  unfold execMessageDone
  dsimp only
  repeat' split
  all_goals exact ⟨_, rfl⟩

/-! ### Braids -/

theorem execDrainResultReached_answers (b : Fin 16) (s : State) : Answers (execDrainResultReached b s) := by
  unfold execDrainResultReached
  dsimp only
  repeat' split
  all_goals exact ⟨_, rfl⟩

theorem execDrainBlocksEnded_answers (b : Fin 16) (s : State) : Answers (execDrainBlocksEnded b s) := by
  unfold execDrainBlocksEnded
  dsimp only
  repeat' split
  all_goals exact ⟨_, rfl⟩

theorem execBraidDrainTimeout_answers (b : Fin 16) (t : W64) (s : State) : Answers (execBraidDrainTimeout b t s) := by
  unfold execBraidDrainTimeout
  dsimp only
  repeat' split
  all_goals exact ⟨_, rfl⟩

theorem execMixedStepStageEnd_answers (c : Nat) (s : State) : Answers (execMixedStepStageEnd c s) := by
  unfold execMixedStepStageEnd
  repeat' split
  all_goals exact ⟨_, rfl⟩

/-! ### The host interface -/

theorem execTail_answers (fn : Fin 9) (q : Fin 256) (v : W32) (s : State) : Answers (execTail fn q v s) := by
  unfold execTail
  repeat' split
  all_goals exact ⟨_, rfl⟩

theorem execChead_answers (fn : Fin 9) (q : Fin 256) (v : W32) (s : State) : Answers (execChead fn q v s) := by
  unfold execChead
  repeat' split
  all_goals exact ⟨_, rfl⟩

theorem execBar2Read_answers (fn : Fin 9) (off : W64) (len : Nat) (s : State) : Answers (execBar2Read fn off len s) := by
  unfold execBar2Read
  repeat' split
  all_goals exact ⟨_, rfl⟩

theorem execBar2Write_answers (fn : Fin 9) (off : W64) (data : List (Byte × Bool)) (s : State) : Answers (execBar2Write fn off data s) := by
  unfold execBar2Write
  repeat' split
  all_goals exact ⟨_, rfl⟩

theorem execHostaccRead_answers (fn : Fin 9) (a : RegAcc) (s : State) : Answers (execHostaccRead fn a s) := by
  unfold execHostaccRead
  repeat' split
  all_goals exact ⟨_, rfl⟩

theorem execRootqCtrl_answers (fn : Fin 9) (v : W32) (s : State) : Answers (execRootqCtrl fn v s) := by
  unfold execRootqCtrl
  repeat' split
  all_goals exact ⟨_, rfl⟩

theorem execMirrorBaseWrite_answers (fn : Fin 9) (v : W64) (s : State) : Answers (execMirrorBaseWrite fn v s) := by
  unfold execMirrorBaseWrite
  repeat' split
  all_goals exact ⟨_, rfl⟩

theorem execIcnClaim_answers (t : Fin 9) (s : State) : Answers (execIcnClaim t s) := by
  unfold execIcnClaim
  repeat' split
  all_goals exact ⟨_, rfl⟩

theorem execIcnComplete_answers (t : Fin 9) (v : W32) (s : State) : Answers (execIcnComplete t v s) := by
  unfold execIcnComplete
  repeat' split
  all_goals exact ⟨_, rfl⟩

theorem execRegisterWrite_answers (fn : Fin 9) (off : W32) (len : Nat) (v : W64) (s : State) : Answers (execRegisterWrite fn off len v s) := by
  unfold execRegisterWrite
  repeat' split
  all_goals exact ⟨_, rfl⟩

theorem execPcieLinkUp_answers (rate : Fin 5) (width : Fin 4) (s : State) : Answers (execPcieLinkUp rate width s) := by
  unfold execPcieLinkUp
  repeat' split
  all_goals exact ⟨_, rfl⟩

theorem execConfigurationSpaceWrite_answers (fn : Fin 9) (f : CfgField) (v : W32) (s : State) : Answers (execConfigurationSpaceWrite fn f v s) := by
  unfold execConfigurationSpaceWrite
  dsimp only
  repeat' split
  all_goals exact ⟨_, rfl⟩

/-! ### Translation and memory -/

theorem execWalkComplete_answers (e : Fin 46) (c : Fin 64) (va : W64) (k : Access) (s : State) : Answers (execWalkComplete e c va k s) := by
  unfold execWalkComplete
  repeat' split
  all_goals exact ⟨_, rfl⟩

theorem execInvalidationComplete_answers (i : Nat) (s : State) : Answers (execInvalidationComplete i s) := by
  unfold execInvalidationComplete
  repeat' split
  all_goals exact ⟨_, rfl⟩

theorem execScanComplete_answers (s : State) : Answers (execScanComplete s) := by
  unfold execScanComplete
  dsimp only
  repeat' split
  all_goals exact ⟨_, rfl⟩

theorem execReleaseWalk_answers (s : State) : Answers (execReleaseWalk s) := by
  unfold execReleaseWalk
  repeat' split
  all_goals exact ⟨_, rfl⟩

theorem execScrub_answers (u : Fin 36) (s : State) : Answers (execScrub u s) := by
  unfold execScrub
  dsimp only
  repeat' split
  all_goals exact ⟨_, rfl⟩

theorem execScrubLapEnd_answers (lp : Bool) (t : W64) (s : State) : Answers (execScrubLapEnd lp t s) := by
  unfold execScrubLapEnd
  dsimp only
  repeat' split
  all_goals exact ⟨_, rfl⟩

/-! ### Links and the domain -/

theorem execFlitReceipt_answers (k : Fin 4) (crcOk : Bool) (f : FlitInfo) (t : W64) (s : State) : Answers (execFlitReceipt k crcOk f t s) := by
  unfold execFlitReceipt
  dsimp only
  repeat' split
  all_goals exact ⟨_, rfl⟩

theorem execReplayLimit_answers (k : Fin 4) (t : W64) (s : State) : Answers (execReplayLimit k t s) := by
  unfold execReplayLimit
  dsimp only
  repeat' split
  all_goals exact ⟨_, rfl⟩

theorem execLinkFlitTimeout_answers (k : Fin 4) (t : W64) (s : State) : Answers (execLinkFlitTimeout k t s) := by
  unfold execLinkFlitTimeout
  dsimp only
  repeat' split
  all_goals exact ⟨_, rfl⟩

theorem execLinkUp_answers (k : Fin 4) (width : BitVec 3) (peer : Fin 16) (s : State) : Answers (execLinkUp k width peer s) := by
  unfold execLinkUp
  dsimp only
  repeat' split
  all_goals exact ⟨_, rfl⟩

theorem execRemoteAccessArrival_answers (k : Fin 4) (part : Fin 8) (lp : Bool) (frame : BitVec 27) (off : BitVec 16) (op : RemoteOp) (s : State) : Answers (execRemoteAccessArrival k part lp frame off op s) := by
  unfold execRemoteAccessArrival
  dsimp only
  repeat' split
  all_goals exact ⟨_, rfl⟩

theorem execRemoteResponse_answers (i : Nat) (data : W64) (poison refused : Bool) (s : State) : Answers (execRemoteResponse i data poison refused s) := by
  unfold execRemoteResponse
  repeat' split
  all_goals exact ⟨_, rfl⟩

theorem execRemoteStoreAck_answers (i : Nat) (refused : Bool) (s : State) : Answers (execRemoteStoreAck i refused s) := by
  unfold execRemoteStoreAck
  repeat' split
  all_goals exact ⟨_, rfl⟩

theorem execRemoteLoadTimeout_answers (i : Nat) (t : W64) (s : State) : Answers (execRemoteLoadTimeout i t s) := by
  unfold execRemoteLoadTimeout
  dsimp only
  repeat' split
  all_goals exact ⟨_, rfl⟩

theorem execRemoteStoreTimeout_answers (i : Nat) (t : W64) (s : State) : Answers (execRemoteStoreTimeout i t s) := by
  unfold execRemoteStoreTimeout
  dsimp only
  repeat' split
  all_goals exact ⟨_, rfl⟩

theorem execBarrierRelease_answers (b : BitVec 8) (s : State) : Answers (execBarrierRelease b s) := by
  unfold execBarrierRelease
  dsimp only
  repeat' split
  all_goals exact ⟨_, rfl⟩

theorem execBarrierWithdrawalAnswer_answers (b : BitVec 8) (removed : Bool) (s : State) : Answers (execBarrierWithdrawalAnswer b removed s) := by
  unfold execBarrierWithdrawalAnswer
  dsimp only
  repeat' split
  all_goals exact ⟨_, rfl⟩

/-! ### Power, rails and the Wisp -/

theorem execPowerStateEntry_answers (p : PState) (s : State) : Answers (execPowerStateEntry p s) := by
  unfold execPowerStateEntry
  repeat' split
  all_goals exact ⟨_, rfl⟩

theorem execWakeTimer_answers (t : W64) (s : State) : Answers (execWakeTimer t s) := by
  unfold execWakeTimer
  dsimp only
  repeat' split
  all_goals exact ⟨_, rfl⟩

theorem execDebouncedLevel_answers (i : Fin 8) (level : Bool) (t : W64) (s : State) : Answers (execDebouncedLevel i level t s) := by
  unfold execDebouncedLevel
  dsimp only
  repeat' split
  all_goals exact ⟨_, rfl⟩

theorem execWcamFrame_answers (px : List Byte) (t : W64) (s : State) : Answers (execWcamFrame px t s) := by
  unfold execWcamFrame
  dsimp only
  repeat' split
  all_goals exact ⟨_, rfl⟩

theorem execRuleEvaluation_answers (t : W64) (s : State) : Answers (execRuleEvaluation t s) := by
  unfold execRuleEvaluation
  dsimp only
  repeat' split
  all_goals exact ⟨_, rfl⟩

theorem execWispCtrlWrite_answers (v : W32) (s : State) : Answers (execWispCtrlWrite v s) := by
  unfold execWispCtrlWrite
  repeat' split
  all_goals exact ⟨_, rfl⟩

theorem execAvsAcknowledge_answers (rail : Fin 2) (mv : BitVec 16) (s : State) : Answers (execAvsAcknowledge rail mv s) := by
  unfold execAvsAcknowledge
  dsimp only
  repeat' split
  all_goals exact ⟨_, rfl⟩

theorem execSettleExpiry_answers (rail : Fin 2) (s : State) : Answers (execSettleExpiry rail s) := by
  unfold execSettleExpiry
  dsimp only
  repeat' split
  all_goals exact ⟨_, rfl⟩

theorem execAvsNoackTimeout_answers (rail : Fin 2) (s : State) : Answers (execAvsNoackTimeout rail s) := by
  unfold execAvsNoackTimeout
  repeat' split
  all_goals exact ⟨_, rfl⟩

theorem execTjSample_answers (readings : List Int) (t : W64) (s : State) : Answers (execTjSample readings t s) := by
  unfold execTjSample
  dsimp only
  repeat' split
  all_goals exact ⟨_, rfl⟩

theorem execThermalStep_answers (t : W64) (s : State) : Answers (execThermalStep t s) := by
  unfold execThermalStep
  dsimp only
  repeat' split
  all_goals exact ⟨_, rfl⟩

/-! ### Resets, tests and snapshots -/

theorem execRstN_answers (lowNs : Nat) (s : State) : Answers (execRstN lowNs s) := by
  unfold execRstN
  repeat' split
  all_goals exact ⟨_, rfl⟩

theorem execBootCtrl_answers (v : W32) (s : State) : Answers (execBootCtrl v s) := by
  unfold execBootCtrl
  repeat' split
  all_goals exact ⟨_, rfl⟩

theorem execRailMonitorsInRange_answers (pass : Bool) (failPd : W64) (fails : List MemFail) (s : State) : Answers (execRailMonitorsInRange pass failPd fails s) := by
  unfold execRailMonitorsInRange
  dsimp only
  repeat' split
  all_goals exact ⟨_, rfl⟩

theorem execShutdownTestComplete_answers (failPd : W64) (fails : List MemFail) (t : W64) (s : State) : Answers (execShutdownTestComplete failPd fails t s) := by
  unfold execShutdownTestComplete
  dsimp only
  repeat' split
  all_goals exact ⟨_, rfl⟩

theorem execSliceComplete_answers (core : Fin 32) (ok : Bool) (t : W64) (s : State) : Answers (execSliceComplete core ok t s) := by
  unfold execSliceComplete
  dsimp only
  repeat' split
  all_goals exact ⟨_, rfl⟩

theorem execSnapshotTrigger_answers (t : W64) (s : State) : Answers (execSnapshotTrigger t s) := by
  unfold execSnapshotTrigger
  dsimp only
  repeat' split
  all_goals exact ⟨_, rfl⟩

theorem execHoldEnd_answers (t : W64) (s : State) : Answers (execHoldEnd t s) := by
  unfold execHoldEnd
  dsimp only
  repeat' split
  all_goals exact ⟨_, rfl⟩

theorem execDomainSnapshotStart_answers (ctx : Fin 64) (buf knots : W64) (nknot : Nat) (seq t : W64) (s : State) : Answers (execDomainSnapshotStart ctx buf knots nknot seq t s) := by
  unfold execDomainSnapshotStart
  dsimp only
  repeat' split
  all_goals exact ⟨_, rfl⟩

/-! ### Instructions: each answers whether or not it issues -/

section Instructions
variable (g : Nat) (w ext : W64) (s : State)

theorem execBra_answers : Answers (execBra g w ext s) := issue_answers ..
theorem execSplit_answers : Answers (execSplit g w ext s) := issue_answers ..
theorem execJoin_answers : Answers (execJoin g w ext s) := issue_answers ..
theorem execExit_answers : Answers (execExit g w ext s) := issue_answers ..
theorem execCall_answers : Answers (execCall g w ext s) := issue_answers ..
theorem execRet_answers : Answers (execRet g w ext s) := issue_answers ..
theorem execValu_answers : Answers (execValu g w ext s) := issue_answers ..
theorem execVsfu_answers : Answers (execVsfu g w ext s) := issue_answers ..
theorem execUalu_answers : Answers (execUalu g w ext s) := issue_answers ..
theorem execMov_answers : Answers (execMov g w ext s) := issue_answers ..
theorem execUmov_answers : Answers (execUmov g w ext s) := issue_answers ..
theorem execCvt_answers : Answers (execCvt g w ext s) := issue_answers ..
theorem execS2r_answers : Answers (execS2r g w ext s) := issue_answers ..
theorem execS2u_answers : Answers (execS2u g w ext s) := issue_answers ..
theorem execLdl_answers : Answers (execLdl g w ext s) := issue_answers ..
theorem execStl_answers : Answers (execStl g w ext s) := issue_answers ..
theorem execLdg_answers : Answers (execLdg g w ext s) := issue_answers ..
theorem execStg_answers : Answers (execStg g w ext s) := issue_answers ..
theorem execLdc_answers : Answers (execLdc g w ext s) := issue_answers ..
theorem execTex_answers : Answers (execTex g w ext s) := issue_answers ..
theorem execTld_answers : Answers (execTld g w ext s) := issue_answers ..
theorem execTres_answers : Answers (execTres g w ext s) := issue_answers ..
theorem execMld_answers : Answers (execMld g w ext s) := issue_answers ..
theorem execMma_answers : Answers (execMma g w ext s) := issue_answers ..
theorem execMst_answers : Answers (execMst g w ext s) := issue_answers ..
theorem execShfl_answers : Answers (execShfl g w ext s) := issue_answers ..
theorem execVote_answers : Answers (execVote g w ext s) := issue_answers ..
theorem execMatchLanes_answers : Answers (execMatchLanes g w ext s) := issue_answers ..
theorem execRed_answers : Answers (execRed g w ext s) := issue_answers ..
theorem execBar_answers : Answers (execBar g w ext s) := issue_answers ..
theorem execCbar_answers : Answers (execCbar g w ext s) := issue_answers ..
theorem execFence_answers : Answers (execFence g w ext s) := issue_answers ..
theorem execAtom_answers : Answers (execAtom g w ext s) := issue_answers ..
theorem execKsig_answers : Answers (execKsig g w ext s) := issue_answers ..
theorem execKwait_answers : Answers (execKwait g w ext s) := issue_answers ..
theorem execHit_answers : Answers (execHit g w ext s) := issue_answers ..

end Instructions

/-- Settles O2: each command's effect ends in a next state, in every branch of its definition. -/
theorem everyCommandAnswers : Obligations.EveryCommandAnswers := by
  unfold Obligations.EveryCommandAnswers
  intro c s
  cases c with
  | commandTimeout c t => exact execCommandTimeout_answers c t s
  | timeoutDrainAllowance c t => exact execTimeoutDrainAllowance_answers c t s
  | commandCompletion q => exact execCommandCompletion_answers q s
  | blockDispatch part => exact execBlockDispatch_answers part s
  | coreClaim c t => exact execCoreClaim_answers c t s
  | turnEnd part t => exact execTurnEnd_answers part t s
  | kwaitTimeout g t => exact execKwaitTimeout_answers g t s
  | qualifiedEdge ax a b t => exact execQualifiedEdge_answers ax a b t s
  | zEdge ax t => exact execZEdge_answers ax t s
  | axStallExpiry a t => exact execAxStallExpiry_answers a t s
  | mainsPulse ax e => exact execMainsPulse_answers ax e s
  | mainsPulseMissing a t => exact execMainsPulseMissing_answers a t s
  | hitFire o bad t => exact execHitFire_answers o bad t s
  | tgCountReached g => exact execTgCountReached_answers g s
  | lowerWordRead off => exact execLowerWordRead_answers off s
  | readbackMismatch o t => exact execReadbackMismatch_answers o t s
  | safeBall chB t => exact execSafeBall_answers chB t s
  | lockstepSfi t => exact execLockstepSfi_answers t s
  | lockstepPte o t => exact execLockstepPte_answers o t s
  | clock c t => exact execClock_answers c t s
  | voltage rail t => exact execVoltage_answers rail t s
  | ballLevelRestored b => exact execBallLevelRestored_answers b s
  | deadlineMiss b n t => exact execDeadlineMiss_answers b n t s
  | softwareAssistedDiagnostics ramFault hitFault t => exact execSoftwareAssistedDiagnostics_answers ramFault hitFault t s
  | sfiArmNFallingEdge okA okB t => exact execSfiArmNFallingEdge_answers okA okB t s
  | disarm t => exact execDisarm_answers t s
  | longPacket p vc dt payload hdrOk crcOk t => exact execLongPacket_answers p vc dt payload hdrOk crcOk t s
  | frameStart p vc t => exact execFrameStart_answers p vc t s
  | frameEnd p vc t => exact execFrameEnd_answers p vc t s
  | camRxLoss p t => exact execCamRxLoss_answers p t s
  | latchPoint d t => exact execLatchPoint_answers d t s
  | trainComplete d ok => exact execTrainComplete_answers d ok s
  | messageDone d o data => exact execMessageDone_answers d o data s
  | drainResultReached b => exact execDrainResultReached_answers b s
  | drainBlocksEnded b => exact execDrainBlocksEnded_answers b s
  | braidDrainTimeout b t => exact execBraidDrainTimeout_answers b t s
  | mixedStepStageEnd c => exact execMixedStepStageEnd_answers c s
  | tail fn q v => exact execTail_answers fn q v s
  | chead fn q v => exact execChead_answers fn q v s
  | bar2Read fn off len => exact execBar2Read_answers fn off len s
  | bar2Write fn off data => exact execBar2Write_answers fn off data s
  | hostaccRead fn a => exact execHostaccRead_answers fn a s
  | rootqCtrl fn v => exact execRootqCtrl_answers fn v s
  | mirrorBaseWrite fn v => exact execMirrorBaseWrite_answers fn v s
  | icnClaim t => exact execIcnClaim_answers t s
  | icnComplete t v => exact execIcnComplete_answers t v s
  | registerWrite fn off len v => exact execRegisterWrite_answers fn off len v s
  | pcieLinkUp rate width => exact execPcieLinkUp_answers rate width s
  | configurationSpaceWrite fn f v => exact execConfigurationSpaceWrite_answers fn f v s
  | walkComplete e c va k => exact execWalkComplete_answers e c va k s
  | invalidationComplete i => exact execInvalidationComplete_answers i s
  | scanComplete => exact execScanComplete_answers s
  | releaseWalk => exact execReleaseWalk_answers s
  | scrub u => exact execScrub_answers u s
  | scrubLapEnd lp t => exact execScrubLapEnd_answers lp t s
  | flitReceipt k crcOk f t => exact execFlitReceipt_answers k crcOk f t s
  | replayLimit k t => exact execReplayLimit_answers k t s
  | linkFlitTimeout k t => exact execLinkFlitTimeout_answers k t s
  | linkUp k width peer => exact execLinkUp_answers k width peer s
  | remoteAccessArrival k part lp frame off op => exact execRemoteAccessArrival_answers k part lp frame off op s
  | remoteResponse i data poison refused => exact execRemoteResponse_answers i data poison refused s
  | remoteStoreAck i refused => exact execRemoteStoreAck_answers i refused s
  | remoteLoadTimeout i t => exact execRemoteLoadTimeout_answers i t s
  | remoteStoreTimeout i t => exact execRemoteStoreTimeout_answers i t s
  | barrierRelease b => exact execBarrierRelease_answers b s
  | barrierWithdrawalAnswer b removed => exact execBarrierWithdrawalAnswer_answers b removed s
  | powerStateEntry p => exact execPowerStateEntry_answers p s
  | wakeTimer t => exact execWakeTimer_answers t s
  | debouncedLevel i level t => exact execDebouncedLevel_answers i level t s
  | wcamFrame px t => exact execWcamFrame_answers px t s
  | ruleEvaluation t => exact execRuleEvaluation_answers t s
  | wispCtrlWrite v => exact execWispCtrlWrite_answers v s
  | avsAcknowledge rail mv => exact execAvsAcknowledge_answers rail mv s
  | settleExpiry rail => exact execSettleExpiry_answers rail s
  | avsNoackTimeout rail => exact execAvsNoackTimeout_answers rail s
  | tjSample readings t => exact execTjSample_answers readings t s
  | thermalStep t => exact execThermalStep_answers t s
  | rstN lowNs => exact execRstN_answers lowNs s
  | bootCtrl v => exact execBootCtrl_answers v s
  | railMonitorsInRange pass failPd fails => exact execRailMonitorsInRange_answers pass failPd fails s
  | shutdownTestComplete failPd fails t => exact execShutdownTestComplete_answers failPd fails t s
  | sliceComplete core ok t => exact execSliceComplete_answers core ok t s
  | snapshotTrigger t => exact execSnapshotTrigger_answers t s
  | holdEnd t => exact execHoldEnd_answers t s
  | domainSnapshotStart ctx buf knots nknot seq t => exact execDomainSnapshotStart_answers ctx buf knots nknot seq t s
  | bra g w ext => exact execBra_answers g w ext s
  | split g w ext => exact execSplit_answers g w ext s
  | join g w ext => exact execJoin_answers g w ext s
  | exit g w ext => exact execExit_answers g w ext s
  | call g w ext => exact execCall_answers g w ext s
  | ret g w ext => exact execRet_answers g w ext s
  | valu g w ext => exact execValu_answers g w ext s
  | vsfu g w ext => exact execVsfu_answers g w ext s
  | ualu g w ext => exact execUalu_answers g w ext s
  | mov g w ext => exact execMov_answers g w ext s
  | umov g w ext => exact execUmov_answers g w ext s
  | cvt g w ext => exact execCvt_answers g w ext s
  | s2r g w ext => exact execS2r_answers g w ext s
  | s2u g w ext => exact execS2u_answers g w ext s
  | ldl g w ext => exact execLdl_answers g w ext s
  | stl g w ext => exact execStl_answers g w ext s
  | ldg g w ext => exact execLdg_answers g w ext s
  | stg g w ext => exact execStg_answers g w ext s
  | ldc g w ext => exact execLdc_answers g w ext s
  | tex g w ext => exact execTex_answers g w ext s
  | tld g w ext => exact execTld_answers g w ext s
  | tres g w ext => exact execTres_answers g w ext s
  | mld g w ext => exact execMld_answers g w ext s
  | mma g w ext => exact execMma_answers g w ext s
  | mst g w ext => exact execMst_answers g w ext s
  | shfl g w ext => exact execShfl_answers g w ext s
  | vote g w ext => exact execVote_answers g w ext s
  | matchLanes g w ext => exact execMatchLanes_answers g w ext s
  | red g w ext => exact execRed_answers g w ext s
  | bar g w ext => exact execBar_answers g w ext s
  | cbar g w ext => exact execCbar_answers g w ext s
  | fence g w ext => exact execFence_answers g w ext s
  | atom g w ext => exact execAtom_answers g w ext s
  | ksig g w ext => exact execKsig_answers g w ext s
  | kwait g w ext => exact execKwait_answers g w ext s
  | hit g w ext => exact execHit_answers g w ext s
  | _ => exact ⟨_, rfl⟩

end Sys2Proof.Machine


/-! What every step keeps, stated once for the two claims: the memories stay canonical (log 7), and the outputs stay under the forced safe
state unless the SFI is ARMED (19 R608, R613). Every function of the model that answers a state keeps them; a function that touches none of
what they read keeps them whatever the claim. -/
namespace Sys2Proof.Machine

/-- The claims: every memory is canonical; host memory and the cores' memories are (what holds while a scan reads device memory as of an
older line); the outputs are safe unless the SFI is ARMED. -/
inductive KeptClaim where
  | memory | hostAndCores | outputs

/-- A claim, as far as it reads a state: the three byte memories, the cores, the SFI's state and SAFE_STATE. -/
def KeptClaim.On (k : KeptClaim) (peat lpddr host : Mem) (cores : Tab Core 32) (sfi : SfiState) (safe : Bool) : Prop :=
  match k with
  | .memory => peat.wf = true ∧ lpddr.wf = true ∧ host.wf = true ∧ cores.toList.all (fun c => c.lm.wf) = true
  | .hostAndCores => host.wf = true ∧ cores.toList.all (fun c => c.lm.wf) = true
  | .outputs => sfi = .armed ∨ safe = true

/-- The claim holds of a state. -/
def Holds (k : KeptClaim) (s : State) : Prop := k.On s.mm.peat s.mm.lpddr s.mm.host s.ex.cores s.sfi.state s.pte.safeState

theorem holds_iff (k : KeptClaim) (s : State) : Holds k s ↔ k.On s.mm.peat s.mm.lpddr s.mm.host s.ex.cores s.sfi.state s.pte.safeState := Iff.rfl

theorem holds_memory (s : State) : Holds .memory s ↔ MemWf s := Iff.rfl

theorem holds_outputs (s : State) : Holds .outputs s ↔ OutputsSafe s := Iff.rfl

/-- The claim holds of the state that a command answers with. -/
def AnswerHolds (k : KeptClaim) (o : Res) : Prop := ∀ t, o = .next t → Holds k t

theorem answerHolds_next {k : KeptClaim} {s : State} (h : Holds k s) : AnswerHolds k (.next s) := by
  intro t e
  cases e
  exact h

end Sys2Proof.Machine

namespace Sys2Proof.Machine

/-! ### Updates that leave what a claim reads, and folds -/
section Primitives
variable {k : KeptClaim} {s : State}

theorem updEx_holds (f : Exec → Exec) (hf : (f s.ex).cores = s.ex.cores) (h : Holds k s) : Holds k (updEx f s) := by
  unfold Holds updEx
  dsimp only
  rw [hf]
  exact h

/-- The same for an update that leaves the cores of every `Exec`. -/
theorem updEx_frame_holds (f : Exec → Exec) (hf : ∀ e, (f e).cores = e.cores) (h : Holds k s) : Holds k (updEx f s) := updEx_holds f (hf s.ex) h

theorem updPte_holds (f : Pte → Pte) (hf : (f s.pte).safeState = s.pte.safeState) (h : Holds k s) : Holds k (updPte f s) := by
  unfold Holds updPte
  dsimp only
  rw [hf]
  exact h

theorem updSfi_holds (f : Sfi → Sfi) (hf : (f s.sfi).state = s.sfi.state) (h : Holds k s) : Holds k (updSfi f s) := by
  unfold Holds updSfi
  dsimp only
  rw [hf]
  exact h

/-- A state that is not ARMED and of which the outputs' claim holds has SAFE_STATE set, so its SFI may take any state. -/
theorem updSfi_notArmed_holds (f : Sfi → Sfi) (hs : s.sfi.state ≠ .armed) (h : Holds k s) : Holds k (updSfi f s) := by
  cases k with
  | memory => exact h
  | hostAndCores => exact h
  | outputs => exact .inr (h.resolve_left hs)

theorem updPte_safe_holds (f : Pte → Pte) (hf : (f s.pte).safeState = true) (h : Holds k s) : Holds k (updPte f s) := by
  cases k with
  | memory => exact h
  | hostAndCores => exact h
  | outputs => exact .inr hf

theorem updSfi_safe_holds (f : Sfi → Sfi) (hs : s.pte.safeState = true) (h : Holds k s) : Holds k (updSfi f s) := by
  cases k with
  | memory => exact h
  | hostAndCores => exact h
  | outputs => exact .inr hs

/-- The outputs' claim holds of every state with SAFE_STATE set, whatever the SFI's state. -/
theorem holds_of_safe {t : State} (hm : t.mm = s.mm) (hx : t.ex = s.ex) (hp : t.pte.safeState = true) (h : Holds k s) : Holds k t := by
  cases k with
  | memory => unfold Holds; rw [hm, hx]; exact h
  | hostAndCores => unfold Holds; rw [hm, hx]; exact h
  | outputs => exact .inr hp

end Primitives

section Folds
variable {k : KeptClaim} {s : State} {α β : Type}

theorem foldl_holds (f : State → α → State) (hf : ∀ u x, Holds k u → Holds k (f u x)) (l : List α) (h : Holds k s) : Holds k (l.foldl f s) :=
  foldl_keeps (Holds k) f (fun u x hu => hf u x hu) l s h

theorem foldl_snd_holds (f : β × State → α → β × State) (hf : ∀ r x, Holds k r.2 → Holds k (f r x).2) (l : List α) (r : β × State) (h : Holds k r.2) :
    Holds k (l.foldl f r).2 :=
  foldl_keeps (fun r => Holds k r.2) f (fun r x hr => hf r x hr) l r h

end Folds

/-! ### The cores -/
section Cores
variable {k : KeptClaim} {s : State}

theorem tabUpd_coresWf (cs : Tab Core 32) (i : Nat) (f : Core → Core) (hf : ∀ c : Core, c.lm.wf = true → (f c).lm.wf = true)
    (h : cs.toList.all (fun c => c.lm.wf) = true) : (tabUpd cs i f).toList.all (fun c => c.lm.wf) = true := by
  rw [List.all_eq_true] at *
  intro x hx
  obtain ⟨j, hj, rfl⟩ := List.mem_iff_getElem.mp hx
  rw [Vector.getElem_toList]
  have hj' : j < 32 := by simpa using hj
  have hc : cs[j].lm.wf = true := h _ (by simp)
  unfold tabUpd
  split
  · rw [Vector.getElem_set]
    split
    · next e => subst e; exact hf _ hc
    · exact hc
  · exact hc

theorem map_coresWf (cs : Tab Core 32) (f : Core → Core) (hf : ∀ c : Core, c.lm.wf = true → (f c).lm.wf = true)
    (h : cs.toList.all (fun c => c.lm.wf) = true) : (cs.map f).toList.all (fun c => c.lm.wf) = true := by
  rw [List.all_eq_true] at *
  intro x hx
  rw [Vector.toList_map] at hx
  obtain ⟨c, hc, rfl⟩ := List.mem_map.mp hx
  exact hf c (h c hc)

/-- A claim reads the cores only through the form of their local memories. -/
theorem updEx_cores_holds (f : Exec → Exec)
    (hf : s.ex.cores.toList.all (fun c => c.lm.wf) = true → (f s.ex).cores.toList.all (fun c => c.lm.wf) = true)
    (h : Holds k s) : Holds k (updEx f s) := by
  cases k with
  | memory =>
    obtain ⟨hp, hl, hh, hc⟩ := h
    exact ⟨hp, hl, hh, hf hc⟩
  | hostAndCores => exact ⟨h.1, hf h.2⟩
  | outputs => exact h

theorem updCore_wf_holds (c : Nat) (f : Core → Core) (hf : ∀ x : Core, x.lm.wf = true → (f x).lm.wf = true) (h : Holds k s) :
    Holds k (updCore c f s) :=
  updEx_cores_holds _ (tabUpd_coresWf _ c f hf) h

theorem updCore_holds (c : Nat) (f : Core → Core) (hf : ∀ x, (f x).lm = x.lm) (h : Holds k s) : Holds k (updCore c f s) :=
  updCore_wf_holds c f (fun x hx => (congrArg Mem.wf (hf x)).trans hx) h

/-- An update of every core that leaves the local memories, beside others of `Exec`. -/
theorem updEx_mapCores_holds (f : Exec → Exec) (g : Core → Core) (hf : (f s.ex).cores = s.ex.cores.map g) (hg : ∀ c, (g c).lm = c.lm)
    (h : Holds k s) : Holds k (updEx f s) := by
  refine updEx_cores_holds f (fun hc => ?_) h
  rw [hf]
  exact map_coresWf _ g (fun c hx => (congrArg Mem.wf (hg c)).trans hx) hc

end Cores

/-! ### Device and host memory -/
section Memories
variable {k : KeptClaim} {s : State}

theorem setDevMem_holds (lp : Bool) (m : Mem) (hm : (devMem lp s).wf = true → m.wf = true) (h : Holds k s) : Holds k (setDevMem lp m s) := by
  cases k with
  | memory =>
    obtain ⟨hd, hc⟩ := (memWf_iff s).mp h
    exact memWf_of_memOnly h (setDevMem_memOnly lp m s) (setDevMem_wf hd lp (hm (devMem_wf hd lp)))
  | hostAndCores => unfold setDevMem; split <;> exact h
  | outputs => unfold setDevMem; split <;> exact h

theorem putMark_lpddr_holds (g : Nat) (m : Option Mark) (h : Holds k s) : Holds k (setDevMem true (s.mm.lpddr.putMark g m) s) :=
  setDevMem_holds true _ (fun hm => Mem.putMark_wf g m hm) h

/-- Host memory changed, in canonical form. -/
theorem setHost_holds (m : Mem) (hm : s.mm.host.wf = true → m.wf = true) (h : Holds k s) : Holds k { s with mm := { s.mm with host := m } } := by
  cases k with
  | memory =>
    obtain ⟨hp, hl, hh, hc⟩ := h
    exact ⟨hp, hl, hm hh, hc⟩
  | hostAndCores => exact ⟨hm h.1, h.2⟩
  | outputs => exact h

/-- LPDDR changed, in canonical form, beside its controller. -/
theorem setLpddr_holds (m : Mem) (c : MemCtl) (hm : m.wf = true) (h : Holds k s) : Holds k { s with mm := { s.mm with lpddr := m, ctl := c } } := by
  cases k with
  | memory =>
    obtain ⟨hp, hl, hh, hc⟩ := h
    exact ⟨hp, hm, hh, hc⟩
  | hostAndCores => exact h
  | outputs => exact h

/-- Peat changed, in canonical form, beside its controller. -/
theorem setPeat_holds (m : Mem) (c : MemCtl) (hm : s.mm.peat.wf = true → m.wf = true) (h : Holds k s) :
    Holds k { s with mm := { s.mm with peat := m, ctl := c } } := by
  cases k with
  | memory =>
    obtain ⟨hp, hl, hh, hc⟩ := h
    exact ⟨hm hp, hl, hh, hc⟩
  | hostAndCores => exact h
  | outputs => exact h

end Memories
end Sys2Proof.Machine

namespace Sys2Proof.Machine

/-! ### The state that a pair carries -/
section Pairs
variable {k : KeptClaim} {s : State} {α β : Type}

theorem holds_of_pair {r : α × State} {a : α} (h : Holds k r.2) (e : r = (a, s)) : Holds k s := by rw [e] at h; exact h

theorem holds_of_triple {r : α × β × State} {a : α} {b : β} (h : Holds k r.2.2) (e : r = (a, b, s)) : Holds k s := by rw [e] at h; exact h

end Pairs

/-! ### Parts of the state that no claim reads -/
section Others
variable {k : KeptClaim} {s : State}

theorem setHi_holds (x : HostIf) (h : Holds k s) : Holds k { s with hi := x } := h

theorem setCtl_holds (c : MemCtl) (h : Holds k s) : Holds k { s with mm := { s.mm with ctl := c } } := h

theorem setPwr_holds (p : Pwr) (h : Holds k s) : Holds k { s with pwr := p } := h

theorem setLinks_holds (l : Tab Link 4) (h : Holds k s) : Holds k { s with links := l } := h

theorem setFuses_holds (f : Fuses) (h : Holds k s) : Holds k { s with fuses := f } := h

theorem setWakeN_holds (b : Bool) (h : Holds k s) : Holds k { s with wakeN := b } := h

theorem setReadP_holds (v : W64) (p : Bool) (h : Holds k s) : Holds k { s with readData := v, readPoison := p } := h

theorem setRead_holds (v : W64) (l : List Byte) (p : Bool) (h : Holds k s) : Holds k { s with readData := v, readBytes := l, readPoison := p } := h

theorem setBoot_holds (b : Boot) (h : Holds k s) : Holds k { s with boot := b } := h

theorem setWisp_holds (w : Wisp) (h : Holds k s) : Holds k { s with wisp := w } := h

theorem setFreeCtr_holds (n : Nat) (h : Holds k s) : Holds k { s with freeCtr := n } := h

theorem setReadData_holds (v : W64) (h : Holds k s) : Holds k { s with readData := v } := h

end Others
end Sys2Proof.Machine


/-! What every step keeps: the functions of State, Bits, Ops, Axis, Sfi, Pte, Remote. -/
namespace Sys2Proof.Machine
section
variable {k : KeptClaim} {s : State}

/-! ### Machine/State.lean -/

theorem State.reset_holds : Holds k State.reset := by
  cases k with
  | memory => exact ⟨rfl, rfl, rfl, by decide⟩
  | hostAndCores => exact ⟨rfl, by decide⟩
  | outputs => exact .inr rfl

/-! ### Machine/Bits.lean -/

theorem State.at_holds (t) (h : Holds k s) : Holds k (State.at s t) := h

theorem State.draw_holds (h : Holds k s) : Holds k (State.draw s).2 := h

/-! ### Machine/Ops.lean -/

theorem hostWriteP_holds (fn a bs) (h : Holds k s) : Holds k (hostWriteP fn a bs s) := by
  unfold hostWriteP
  split
  · exact setHost_holds _ (fun hh => noteGrans_wf _ _ _ _ (Mem.putBytes_wf _ _ hh)) h
  · exact h

theorem hostWrite_holds (fn a bs) (h : Holds k s) : Holds k (hostWrite fn a bs s) := hostWriteP_holds _ _ _ h

theorem hostReadP_holds (fn a n) (h : Holds k s) : Holds k (hostReadP fn a n s).2 := by
  unfold hostReadP
  dsimp only
  split <;> exact h

theorem postAlarm_holds (code unit detail) (h : Holds k s) : Holds k (postAlarm code unit detail s) := h

theorem msiSend_holds (fn vec) (h : Holds k s) : Holds k (msiSend fn vec s) := by
  unfold msiSend
  dsimp only
  split
  · exact h
  · split
    · exact h
    · split
      · exact h
      · exact hostWrite_holds _ _ _ h

theorem icnPulse_holds (n) (h : Holds k s) : Holds k (icnPulse n s) := h

theorem icnNotify_holds (t) (h : Holds k s) : Holds k (icnNotify t s) := by
  unfold icnNotify
  dsimp only
  split
  · exact msiSend_holds _ _ h
  · exact h

theorem icnSettle_holds (h : Holds k s) : Holds k (icnSettle s) := foldl_holds _ (fun _ _ hu => icnNotify_holds _ hu) _ h

theorem done_holds (h : Holds k s) : AnswerHolds k (done s) := answerHolds_next (icnSettle_holds h)

theorem eccCount_holds (lp a f) (h : Holds k s) : Holds k (eccCount lp a f s) := h

theorem eccAlarm_holds (b) (h : Holds k s) : Holds k (eccAlarm b s) := h

theorem eccCe_holds (lp a) (h : Holds k s) : Holds k (eccCe lp a s) := postAlarm_holds _ _ _ (icnPulse_holds _ (eccAlarm_holds _ (eccCount_holds _ _ _ h)))

theorem eccUe_holds (lp a) (h : Holds k s) : Holds k (eccUe lp a s) := by
  unfold eccUe
  exact postAlarm_holds _ _ _ (icnPulse_holds _ (setCtl_holds _ (eccAlarm_holds _ (eccCount_holds lp a _ h))))

theorem eccPoison_holds (lp a) (h : Holds k s) : Holds k (eccPoison lp a s) := icnPulse_holds _ (eccAlarm_holds _ (eccCount_holds _ _ _ h))

theorem eccNote_holds (lp g f) (h : Holds k s) : Holds k (eccNote lp g f s) := by
  unfold eccNote
  split
  · exact h
  · exact eccCe_holds _ _ h
  · exact eccUe_holds _ _ h
  · exact eccPoison_holds _ _ h

theorem readGran_holds (lp g) (h : Holds k s) : Holds k (readGran lp g s).2 := by
  unfold readGran
  split
  · exact eccNote_holds _ _ _ h

theorem readGrans_holds (lp b c) (h : Holds k s) : Holds k (readGrans lp b c s).2 := by
  fun_induction readGrans lp b c s <;> grind [readGran_holds]

theorem portWait_holds (lp a n) (h : Holds k s) : Holds k (portWait lp a n s) := by
  unfold portWait
  dsimp only
  split <;> exact h

theorem readDev_holds (lp a n) (h : Holds k s) : Holds k (readDev lp a n s).2 := by
  unfold readDev
  dsimp only
  split
  · exact h
  · exact readGrans_holds _ _ _ (portWait_holds _ _ _ h)

theorem writeGran_holds (lp g new) (h : Holds k s) : Holds k (writeGran lp g new s) := by
  unfold writeGran
  dsimp only
  split
  · exact setDevMem_holds _ _ (Mem.putWord_wf _ _ _) h
  · exact setDevMem_holds _ _ (Mem.putWord_wf _ _ _) (readGran_holds _ _ h)

theorem writeGrans_holds (lp b c d e) (h : Holds k s) : Holds k (writeGrans lp b c d e s) := by
  fun_induction writeGrans lp b c d e s <;> grind [writeGran_holds]

theorem keepOld_holds (h : Holds k s) : Holds k (keepOld s) := by
  unfold keepOld
  dsimp only
  split <;> exact h

theorem writeDev_holds (lp a bs) (h : Holds k s) : Holds k (writeDev lp a bs s) := by
  unfold writeDev
  split
  · exact h
  · exact writeGrans_holds _ _ _ _ _ (portWait_holds _ _ _ (keepOld_holds h))

theorem readPlace_holds (fn pl n) (h : Holds k s) : Holds k (readPlace fn pl n s).2 := by
  unfold readPlace
  dsimp only
  split
  · exact readDev_holds _ _ _ h
  · exact readDev_holds _ _ _ h
  · exact hostReadP_holds _ _ _ h
  · exact h

theorem writePlace_holds (fn pl bs) (h : Holds k s) : Holds k (writePlace fn pl bs s) := by
  unfold writePlace
  split
  · exact writeDev_holds _ _ _ h
  · exact writeDev_holds _ _ _ h
  · exact hostWriteP_holds _ _ _ h
  · exact h

/-! ### Machine/Axis.lean -/

theorem updAxis_holds (a f) (h : Holds k s) : Holds k (updAxis a f s) := updPte_holds _ rfl h

theorem updOut_holds (o f) (h : Holds k s) : Holds k (updOut o f s) := updPte_holds _ rfl h

theorem updTg_holds (g f) (h : Holds k s) : Holds k (updTg g f s) := updPte_holds _ rfl h

theorem pteAlarm_holds (b unit) (h : Holds k s) : Holds k (pteAlarm b unit s) := postAlarm_holds _ _ _ (updPte_holds _ rfl h)

theorem countDrops_holds (a n) (h : Holds k s) : Holds k (countDrops a n s) := updAxis_holds _ _ h

theorem discardHits_holds (o) (h : Holds k s) : Holds k (discardHits o s) := countDrops_holds _ _ (updOut_holds _ _ h)

theorem pteSafe_holds (h : Holds k s) : Holds k (pteSafe s) := by
  unfold pteSafe
  exact updPte_safe_holds _ rfl (foldl_holds _ (fun u o hu => updOut_holds o _ (discardHits_holds o hu)) _ h)

/-! ### Machine/Sfi.lean -/

theorem sfiLog_holds (code unit detail) (h : Holds k s) : Holds k (sfiLog code unit detail s) := updSfi_holds _ rfl h

theorem trip_holds (code unit detail classA) (h : Holds k s) : Holds k (trip code unit detail classA s) := by
  have hl := updSfi_holds (fun x => { x with latchA := x.latchA || classA, powerOnly := x.powerOnly && code == causePower }) rfl
    (sfiLog_holds code unit detail h)
  unfold trip
  dsimp only
  split
  · exact updSfi_holds _ rfl hl
  · exact updSfi_holds _ rfl hl
  · exact postAlarm_holds _ _ _ (updSfi_safe_holds _ rfl (pteSafe_holds hl))

theorem applyLevels_holds (c) (h : Holds k s) : Holds k (applyLevels c s) := updPte_holds _ rfl (foldl_holds _ (fun _ _ hu => updOut_holds _ _ hu) _ h)

theorem escMiss_holds (b) (h : Holds k s) : Holds k (escMiss b s) := by
  unfold escMiss
  split
  · split
    · exact h
    · split
      · split
        · exact trip_holds _ _ _ _ (updSfi_holds _ rfl h)
        · exact updSfi_holds _ rfl h
  · exact h

theorem escLateBraid_holds (b) (h : Holds k s) : Holds k (escLateBraid b s) := by
  unfold escLateBraid
  split
  · split
    · exact h
    · split
      · split
        · exact trip_holds _ _ _ _ (updSfi_holds _ rfl h)
        · exact updSfi_holds _ rfl h
  · exact h

theorem escLateAxis_holds (a) (h : Holds k s) : Holds k (escLateAxis a s) := by
  unfold escLateAxis
  split
  · split
    · exact h
    · split
      · split
        · exact trip_holds _ _ _ _ (updSfi_holds _ rfl h)
        · exact updSfi_holds _ rfl h
  · exact h

theorem execReadbackMismatch_holds (o t) (h : Holds k s) : AnswerHolds k (execReadbackMismatch o t s) := by
  unfold execReadbackMismatch
  dsimp only
  split
  · exact done_holds (trip_holds _ _ _ _ (pteAlarm_holds _ _ (updOut_holds _ _ (State.at_holds _ h))))
  · exact done_holds (State.at_holds _ h)

theorem execSafeBall_holds (chB t) (h : Holds k s) : AnswerHolds k (execSafeBall chB t s) := by
  unfold execSafeBall
  dsimp only
  split
  · refine done_holds ?_
    refine trip_holds _ _ _ _ ?_
    split <;> exact updSfi_holds _ rfl (State.at_holds _ h)
  · exact done_holds (State.at_holds _ h)

theorem execLockstepSfi_holds (t) (h : Holds k s) : AnswerHolds k (execLockstepSfi t s) := by
  unfold execLockstepSfi
  dsimp only
  split
  · exact done_holds (trip_holds _ _ _ _ (updSfi_holds _ rfl (State.at_holds _ h)))
  · exact done_holds (State.at_holds _ h)

theorem execLockstepPte_holds (o t) (h : Holds k s) : AnswerHolds k (execLockstepPte o t s) := by
  unfold execLockstepPte
  dsimp only
  split
  · exact done_holds (trip_holds _ _ _ _ (State.at_holds _ h))
  · exact done_holds (State.at_holds _ h)

theorem execClock_holds (c t) (h : Holds k s) : AnswerHolds k (execClock c t s) := by
  unfold execClock
  dsimp only
  split
  · exact done_holds (trip_holds _ _ _ _ (updSfi_holds _ rfl (State.at_holds _ h)))
  · exact done_holds (State.at_holds _ h)

theorem execVoltage_holds (rail t) (h : Holds k s) : AnswerHolds k (execVoltage rail t s) := by
  unfold execVoltage
  dsimp only
  split
  · exact done_holds (trip_holds _ _ _ _ (updSfi_holds _ rfl (State.at_holds _ h)))
  · exact done_holds (State.at_holds _ h)

theorem execClockInRange_holds (c) (h : Holds k s) : AnswerHolds k (execClockInRange c s) := done_holds (updSfi_holds _ rfl h)

theorem execVoltageInRange_holds (rail) (h : Holds k s) : AnswerHolds k (execVoltageInRange rail s) := done_holds (updSfi_holds _ rfl h)

theorem execBallLevelRestored_holds (b) (h : Holds k s) : AnswerHolds k (execBallLevelRestored b s) := by
  unfold execBallLevelRestored
  split
  · exact done_holds (updOut_holds _ _ h)
  · exact done_holds (updSfi_holds _ rfl h)
  · exact done_holds (updSfi_holds _ rfl h)

theorem execSoftwareAssistedDiagnostics_holds (ramFault hitFault t) (h : Holds k s) :
    AnswerHolds k (execSoftwareAssistedDiagnostics ramFault hitFault t s) := by
  unfold execSoftwareAssistedDiagnostics
  dsimp only
  split
  · refine done_holds ?_
    split
    · refine trip_holds _ _ _ _ ?_
      split
      · exact trip_holds _ _ _ _ (foldl_holds _ (fun _ _ hu => trip_holds _ _ _ _ hu) _ (updSfi_holds _ rfl (State.at_holds _ h)))
      · exact foldl_holds _ (fun _ _ hu => trip_holds _ _ _ _ hu) _ (updSfi_holds _ rfl (State.at_holds _ h))
    · split
      · exact trip_holds _ _ _ _ (foldl_holds _ (fun _ _ hu => trip_holds _ _ _ _ hu) _ (updSfi_holds _ rfl (State.at_holds _ h)))
      · exact foldl_holds _ (fun _ _ hu => trip_holds _ _ _ _ hu) _ (updSfi_holds _ rfl (State.at_holds _ h))
  · exact done_holds (State.at_holds _ h)

/-- Arming is barred in every state but HOLD. -/
theorem not_armed_of_unbarred (hb : armBarred s = false) : s.sfi.state ≠ .armed := by
  intro hs
  unfold armBarred at hb
  rw [hs] at hb
  exact absurd hb (by simp)

theorem armFail_holds (hs : s.sfi.state ≠ .armed) (h : Holds k s) : Holds k (armFail s) := by
  unfold armFail
  exact updSfi_notArmed_holds _ hs (sfiLog_holds _ _ _ h)

theorem arming_holds (okA okB) (hs : s.sfi.state ≠ .armed) (h : Holds k s) : Holds k (arming okA okB s) := by
  unfold arming
  split
  · exact updSfi_notArmed_holds _ hs h
  · exact armFail_holds hs h

theorem armFinish_holds (h : Holds k s) : Holds k (armFinish s) := by
  unfold armFinish
  split
  · exact h
  next hs =>
  have hst : s.sfi.state = .arming := by
    rw [Bool.not_eq_true, Bool.or_eq_false_iff, Bool.or_eq_false_iff, bne_eq_false_iff_eq] at hs
    exact hs.1.1
  have hna : s.sfi.state ≠ .armed := by rw [hst]; exact SfiState.noConfusion
  split
  · exact armFail_holds hna h
  · cases k with
    | memory => exact h
    | hostAndCores => exact h
    | outputs => exact .inl rfl

theorem execSfiArmNFallingEdge_holds (okA okB t) (h : Holds k s) : AnswerHolds k (execSfiArmNFallingEdge okA okB t s) := by
  have hs := updSfi_holds (fun x => { x with armIn := true }) rfl (State.at_holds t h)
  unfold execSfiArmNFallingEdge
  dsimp only
  split
  · exact done_holds hs
  split
  · exact done_holds (updSfi_holds _ rfl hs)
  · next hb => exact done_holds (arming_holds _ _ (not_armed_of_unbarred (Bool.eq_false_iff.mpr hb)) hs)

theorem execDisarm_holds (t) (h : Holds k s) : AnswerHolds k (execDisarm t s) := by
  unfold execDisarm
  dsimp only
  split
  · exact done_holds (trip_holds _ _ _ _ (updSfi_holds _ rfl (State.at_holds _ h)))
  · exact done_holds (updSfi_holds _ rfl (State.at_holds _ h))

/-! ### Machine/Pte.lean -/

theorem hitAct_holds (code w tag o) (h : Holds k s) : Holds k (hitAct code w tag o s) := updOut_holds _ _ h

theorem fireHit_holds (o hh) (h : Holds k s) : Holds k (fireHit o hh s) := by
  unfold fireHit
  dsimp only
  split
  · exact countDrops_holds _ _ h
  · exact hitAct_holds _ _ _ _ h

theorem fireDue_holds (o) (h : Holds k s) : Holds k (fireDue o s) := by
  unfold fireDue
  dsimp only
  split
  · exact h
  · exact foldl_holds _ (fun _ _ hu => fireHit_holds _ _ hu) _ (updOut_holds _ _ h)

theorem updCam_holds (p f) (h : Holds k s) : Holds k (updCam p f s) := h

theorem camAlarm_holds (b p) (h : Holds k s) : Holds k (camAlarm b p s) := postAlarm_holds _ _ _ (updCam_holds _ _ h)

theorem camStamp_holds (p st) (h : Holds k s) : Holds k (camStamp p st s) := by
  unfold camStamp
  dsimp only
  split
  · exact updCam_holds _ _ h
  · exact camAlarm_holds _ _ (updCam_holds _ _ h)

theorem tgRun_holds (g) (h : Holds k s) : Holds k (tgRun g s) := by
  grind [tgRun, updTg_holds, updOut_holds, camStamp_holds]

theorem settleAxis_holds (a) (h : Holds k s) : Holds k (settleAxis a s) := by
  grind [settleAxis, tgRun_holds, fireDue_holds, foldl_holds]

theorem endPulses_holds (h : Holds k s) : Holds k (endPulses s) := updPte_holds _ rfl h

theorem pteTick_holds (h : Holds k s) : Holds k (pteTick s) := by
  unfold pteTick
  dsimp only
  split
  · exact foldl_holds _ (fun _ _ hu => settleAxis_holds _ hu) _ (endPulses_holds h)
  · exact h

theorem lateHit_holds (r) (h : Holds k s) : Holds k (lateHit r s) := by
  unfold lateHit
  dsimp only
  refine escLateAxis_holds _ ?_
  split
  · exact countDrops_holds _ _ (pteAlarm_holds _ _ (updAxis_holds _ _ h))
  · split
    · exact hitAct_holds _ _ _ _ (pteAlarm_holds _ _ (updAxis_holds _ _ h))
    · exact pteAlarm_holds _ _ (updAxis_holds _ _ h)
    · split
      · exact pteAlarm_holds _ _ (updAxis_holds _ _ h)
      · exact hitAct_holds _ _ _ _ (pteAlarm_holds _ _ (updAxis_holds _ _ h))
      · exact hitAct_holds _ _ _ _ (pteAlarm_holds _ _ (updAxis_holds _ _ h))

theorem hitArrive_holds (r) (h : Holds k s) : Holds k (hitArrive r s).2 := by
  unfold hitArrive
  dsimp only
  split
  · exact h
  · split
    · exact h
    · split
      · exact h
      · split
        · exact lateHit_holds _ h
        · split
          · exact pteAlarm_holds _ _ (updPte_holds _ rfl h)
          · exact updPte_holds _ rfl (updOut_holds _ _ h)

theorem execQualifiedEdge_holds (ax a b t) (h : Holds k s) : AnswerHolds k (execQualifiedEdge ax a b t s) := by
  have ht := State.at_holds t h
  have hn := updAxis_holds ax (noteEdge a b (s.at t).time) ht
  unfold execQualifiedEdge
  dsimp only
  split
  · exact done_holds ht
  split
  · exact done_holds hn
  split
  · exact done_holds (settleAxis_holds _ (pteAlarm_holds _ _ (updAxis_holds _ _ hn)))
  split
  · exact done_holds hn
  · exact done_holds (settleAxis_holds _ (updAxis_holds _ _ hn))

theorem execZEdge_holds (ax t) (h : Holds k s) : AnswerHolds k (execZEdge ax t s) := by
  unfold execZEdge
  dsimp only
  split
  · exact done_holds (State.at_holds _ h)
  · split
    · exact done_holds (settleAxis_holds _ (updAxis_holds _ _ (updAxis_holds _ _ (State.at_holds _ h))))
    · exact done_holds (updAxis_holds _ _ (State.at_holds _ h))

theorem execAxStallExpiry_holds (a t) (h : Holds k s) : AnswerHolds k (execAxStallExpiry a t s) := by
  grind [execAxStallExpiry, settleAxis_holds, done_holds, State.at_holds, updAxis_holds]

theorem unlockAxis_holds (a) (h : Holds k s) : Holds k (unlockAxis a s) := by
  unfold unlockAxis
  refine pteAlarm_holds _ _ ?_
  refine foldl_holds _ (fun _ _ hu => ?_) _ (updAxis_holds _ _ h)
  dsimp only
  split
  · exact updOut_holds _ _ hu
  · exact hu

theorem execMainsPulse_holds (ax e) (h : Holds k s) : AnswerHolds k (execMainsPulse ax e s) := by
  unfold execMainsPulse
  dsimp only
  split
  · exact done_holds (State.at_holds _ h)
  · split
    · exact done_holds (updAxis_holds _ _ (State.at_holds _ h))
    · split
      · exact done_holds (pteAlarm_holds _ _ (updAxis_holds _ _ (updAxis_holds _ _ (State.at_holds _ h))))
      · refine done_holds ?_
        refine updAxis_holds _ _ ?_
        refine settleAxis_holds _ ?_
        refine updAxis_holds _ _ ?_
        split
        · exact unlockAxis_holds _ (updAxis_holds _ _ (State.at_holds _ h))
        · exact updAxis_holds _ _ (State.at_holds _ h)

theorem execMainsPulseMissing_holds (a t) (h : Holds k s) : AnswerHolds k (execMainsPulseMissing a t s) := by
  grind [execMainsPulseMissing, settleAxis_holds, done_holds, unlockAxis_holds, State.at_holds]

theorem execHitFire_holds (o bad t) (h : Holds k s) : AnswerHolds k (execHitFire o bad t s) := by
  unfold execHitFire
  dsimp only
  split
  · exact done_holds (trip_holds _ _ _ _ (State.at_holds _ h))
  · exact done_holds (fireDue_holds _ (endPulses_holds (State.at_holds _ h)))

theorem execPulseEnd_holds (o t) (h : Holds k s) : AnswerHolds k (execPulseEnd o t s) := done_holds (updOut_holds _ _ (State.at_holds _ h))

theorem execTgFire_holds (g t) (h : Holds k s) : AnswerHolds k (execTgFire g t s) := done_holds (tgRun_holds _ (endPulses_holds (State.at_holds _ h)))

theorem execTgCountReached_holds (g) (h : Holds k s) : AnswerHolds k (execTgCountReached g s) := by
  unfold execTgCountReached
  dsimp only
  split
  · exact done_holds (updTg_holds _ _ h)
  · exact done_holds h

theorem cfgIgnored_holds (h : Holds k s) : Holds k (cfgIgnored s) := pteAlarm_holds _ _ h

theorem enableAxis_holds (a keep) (h : Holds k s) : Holds k (enableAxis a keep s) := by
  unfold enableAxis
  exact settleAxis_holds _ (updAxis_holds _ _ h)

theorem disableAxis_holds (a keep) (h : Holds k s) : Holds k (disableAxis a keep s) := by
  unfold disableAxis
  dsimp only
  split
  · exact updAxis_holds _ _ h
  · refine foldl_holds _ (fun _ _ hu => ?_) _ (foldl_holds _ (fun _ _ hu => updTg_holds _ _ hu) _ (updAxis_holds _ _ h))
    split
    · exact discardHits_holds _ hu
    · exact hu

theorem writeAxCfg_holds (a v) (h : Holds k s) : Holds k (writeAxCfg a v s) := by
  unfold writeAxCfg
  dsimp only
  split
  · split
    · split
      · exact cfgIgnored_holds h
      · exact h
    · refine disableAxis_holds _ _ ?_
      split
      · exact cfgIgnored_holds h
      · exact h
  · split
    · exact enableAxis_holds _ _ (updAxis_holds _ _ h)
    · exact updAxis_holds _ _ h

theorem writeAxReg_holds (a changed f) (h : Holds k s) : Holds k (writeAxReg a changed f s) := by
  unfold writeAxReg
  dsimp only
  split
  · split
    · exact cfgIgnored_holds h
    · exact h
  · exact updAxis_holds _ _ h

theorem writeOutCfg_holds (o v) (h : Holds k s) : Holds k (writeOutCfg o v s) := by
  grind [writeOutCfg, discardHits_holds, cfgIgnored_holds, updOut_holds]

theorem writeTgCfg_holds (g v) (h : Holds k s) : Holds k (writeTgCfg g v s) := by
  unfold writeTgCfg
  dsimp only
  split
  · split
    · split
      · exact cfgIgnored_holds h
      · exact h
    · refine updTg_holds _ _ ?_
      split
      · exact cfgIgnored_holds h
      · exact h
  · split
    · split
      · exact tgRun_holds _ (updTg_holds _ _ h)
      · exact cfgIgnored_holds (updTg_holds _ _ h)
    · exact updTg_holds _ _ h

theorem writeTgReg_holds (g changed f) (h : Holds k s) : Holds k (writeTgReg g changed f s) := by
  unfold writeTgReg
  dsimp only
  split
  · split
    · exact cfgIgnored_holds h
    · exact h
  · exact updTg_holds _ _ h

theorem writeZload_holds (a v) (h : Holds k s) : Holds k (writeZload a v s) := writeAxReg_holds _ _ _ h

theorem writeTgWide_holds (g start v) (h : Holds k s) : Holds k (writeTgWide g start v s) := by
  unfold writeTgWide
  split <;> exact writeTgReg_holds _ _ _ h

theorem hostPos_holds (a v) (h : Holds k s) : Holds k (hostPos a v s) := by
  unfold hostPos
  dsimp only
  split
  · exact settleAxis_holds _ (updAxis_holds _ _ h)
  · exact h

theorem writeHostpos_holds (a half v) (h : Holds k s) : Holds k (writeHostpos a half v s) := by
  unfold writeHostpos
  split
  · exact hostPos_holds _ _ h
  · exact updAxis_holds _ _ h
  · exact hostPos_holds _ _ h

theorem execAxCfgWrite_holds (a v) (h : Holds k s) : AnswerHolds k (execAxCfgWrite a v s) := done_holds (writeAxCfg_holds _ _ h)

theorem execOutCfgWrite_holds (o v) (h : Holds k s) : AnswerHolds k (execOutCfgWrite o v s) := done_holds (writeOutCfg_holds _ _ h)

theorem execTgCfgWrite_holds (g v) (h : Holds k s) : AnswerHolds k (execTgCfgWrite g v s) := done_holds (writeTgCfg_holds _ _ h)

theorem execAxHostposWrite_holds (a half v) (h : Holds k s) : AnswerHolds k (execAxHostposWrite a half v s) := done_holds (writeHostpos_holds _ _ _ h)

theorem execFlush_holds (o) (h : Holds k s) : AnswerHolds k (execFlush o s) := done_holds (discardHits_holds _ h)

theorem execClear_holds (o) (h : Holds k s) : AnswerHolds k (execClear o s) := done_holds (updOut_holds _ _ h)

theorem outStatus_holds (o) (h : Holds k s) : Holds k (outStatus o s).2 := by
  unfold outStatus
  dsimp only
  split
  · exact h
  · exact h
  · exact State.draw_holds h

theorem pteRead_holds (off) (h : Holds k s) : Holds k (pteRead off s).2 := by
  unfold pteRead
  dsimp only
  split
  · exact h
  · split
    · exact h
    · split
      · split
        · exact h
        · exact h
        · exact outStatus_holds _ h
        · exact h
        · exact h
        · exact h
      · split <;> exact h

theorem pteWrite_holds (off v) (h : Holds k s) : Holds k (pteWrite off v s) := by
  grind [pteWrite, writeHostpos_holds, discardHits_holds, writeOutCfg_holds, updPte_holds, writeAxReg_holds, updOut_holds, writeTgReg_holds,
    writeTgCfg_holds, writeAxCfg_holds]

theorem pteRead32_holds (off) (h : Holds k s) : Holds k (pteRead32 off s).2 := by
  unfold pteRead32
  dsimp only
  split
  · exact updPte_holds _ rfl h
  · split
    · exact updPte_holds _ rfl (pteRead_holds _ (pteRead_holds _ h))
    · exact pteRead_holds _ h

theorem execLowerWordRead_holds (off) (h : Holds k s) : AnswerHolds k (execLowerWordRead off s) := by
  unfold execLowerWordRead
  split
  · exact done_holds (setReadData_holds _ (pteRead32_holds _ h))
  · exact done_holds h

/-! ### Machine/Remote.lean -/

theorem updLink_holds (kk f) (h : Holds k s) : Holds k (updLink kk f s) := h

theorem linkEvent_holds (kk b) (h : Holds k s) : Holds k (linkEvent kk b s) := postAlarm_holds _ _ _ (icnPulse_holds _ (updLink_holds _ _ h))

theorem linkTimeout_holds (kk) (h : Holds k s) : Holds k (linkTimeout kk s) := linkEvent_holds _ _ (updLink_holds _ _ h)

theorem linkDrop_holds (kk) (h : Holds k s) : Holds k (linkDrop kk s) := linkEvent_holds _ _ (updLink_holds _ _ h)

theorem linkSend_holds (kk c) (h : Holds k s) : Holds k (linkSend kk c s) := updLink_holds _ _ h

theorem linkTx_holds (kk) (h : Holds k s) : Holds k (linkTx kk s) := linkSend_holds _ _ h

theorem linkGlobal_holds (kk) (h : Holds k s) : Holds k (linkGlobal kk s) := linkSend_holds _ _ h

theorem toMembers_holds (h : Holds k s) : Holds k (toMembers s) := by
  unfold toMembers
  refine foldl_holds _ (fun _ _ hu => ?_) _ h
  split
  · exact linkGlobal_holds _ hu
  · exact hu

theorem recomputeDegraded_holds (h : Holds k s) : Holds k (recomputeDegraded s) := h

end
end Sys2Proof.Machine


/-! What every step keeps: the functions of Xlate, Work, Bulk, Knot, Texture, CodeObj. -/
namespace Sys2Proof.Machine
section
variable {k : KeptClaim} {s : State}

/-! ### Machine/Xlate.lean -/

theorem areaRead_holds (p lp a) (h : Holds k s) : Holds k (areaRead p lp a s).2 := by
  unfold areaRead
  split
  · split
    · next e => exact holds_of_pair (readDev_holds _ _ _ h) e
  · exact h

theorem walkRead_holds (part lp a) (h : Holds k s) : Holds k (walkRead part lp a s).2 := areaRead_holds _ _ _ h

theorem xlUpd_holds (f) (h : Holds k s) : Holds k (xlUpd f s) := h

theorem dirEntry_holds (c part va) (h : Holds k s) : Holds k (dirEntry c part va s).2 := by
  unfold dirEntry
  dsimp only
  split
  · exact h
  · split
    · exact xlUpd_holds _ (walkRead_holds _ _ _ h)
    · exact walkRead_holds _ _ _ h

theorem walk_holds (c va kk) (h : Holds k s) : Holds k (walk c va kk s).2 := by
  unfold walk
  dsimp only
  split
  · next e => exact holds_of_pair (dirEntry_holds _ _ _ (xlUpd_holds _ h)) e
  · next e =>
      split
      · exact (holds_of_pair (dirEntry_holds _ _ _ (xlUpd_holds _ h)) e)
      · split
        · exact (holds_of_pair (dirEntry_holds _ _ _ (xlUpd_holds _ h)) e)
        · split
          · next e' => exact holds_of_pair (walkRead_holds _ _ _ ((holds_of_pair (dirEntry_holds _ _ _ (xlUpd_holds _ h)) e))) e'
          · next e' =>
              split
              · exact (holds_of_pair (walkRead_holds _ _ _ ((holds_of_pair (dirEntry_holds _ _ _ (xlUpd_holds _ h)) e))) e')
              · split
                · exact (holds_of_pair (walkRead_holds _ _ _ ((holds_of_pair (dirEntry_holds _ _ _ (xlUpd_holds _ h)) e))) e')
                · split
                  · exact (holds_of_pair (walkRead_holds _ _ _ ((holds_of_pair (dirEntry_holds _ _ _ (xlUpd_holds _ h)) e))) e')
                  · split <;> exact xlUpd_holds _ ((holds_of_pair (walkRead_holds _ _ _ ((holds_of_pair (dirEntry_holds _ _ _ (xlUpd_holds _ h)) e))) e'))

theorem translate_holds (c va kk) (h : Holds k s) : Holds k (translate c va kk s).2 := by
  unfold translate
  dsimp only
  split
  · exact h
  · split
    · split <;> exact h
    · split
      · split <;> exact h
      · exact walk_holds _ _ _ h

theorem mapped_holds (c va) (h : Holds k s) : Holds k (mapped c va s).2 := by
  unfold mapped
  split
  · next e => exact holds_of_pair (translate_holds _ _ _ h) e
  · next e => exact holds_of_pair (translate_holds _ _ _ h) e
  · next e => exact holds_of_pair (translate_holds _ _ _ h) e

theorem fqPost_holds (words) (h : Holds k s) : Holds k (fqPost words s) := by
  unfold fqPost
  exact setHi_holds _ (xlUpd_holds _ (hostWrite_holds _ _ _ h))

theorem fqInfo_holds (words) (h : Holds k s) : Holds k (fqInfo words s) := by
  unfold fqInfo
  split
  · exact fqPost_holds _ h
  · exact xlUpd_holds _ h

theorem pmtJoin_holds (r) (h : Holds k s) : Holds k (pmtJoin r s) := xlUpd_holds _ h

theorem missWait_holds (r) (h : Holds k s) : Holds k (missWait r s) := xlUpd_holds _ h

theorem stallFault_holds (kind dir entry queue r) (h : Holds k s) : Holds k (stallFault kind dir entry queue r s) := by
  unfold stallFault
  dsimp only
  split
  · exact pmtJoin_holds _ h
  · split
    · exact missWait_holds _ h
    · split
      · exact fqPost_holds _ (xlUpd_holds _ h)
      · exact postAlarm_holds _ _ _ (xlUpd_holds _ (xlUpd_holds _ h))

theorem missAhead_holds (r) (h : Holds k s) {t : State} (e : missAhead r s = some t) : Holds k t := by
  grind [missAhead, pmtJoin_holds, missWait_holds]

theorem xlAnswer_holds (c va kk rq x) (h : Holds k x.2) : Holds k (xlAnswer c va kk rq x).2 := by
  unfold xlAnswer
  repeat' split
  all_goals grind [fqInfo_holds, stallFault_holds, xlUpd_holds]

theorem xl_holds (c va kk rq) (h : Holds k s) : Holds k (xl c va kk rq s).2 := by
  unfold xl
  split
  · next t e =>
    obtain ⟨who, hw, ht⟩ := Option.bind_eq_some_iff.mp e
    exact missAhead_holds _ h ht
  · exact xlAnswer_holds _ _ _ _ _ (translate_holds _ _ _ h)

theorem updFar_holds (core f) (h : Holds k s) : Holds k (updFar core f s) := updCore_holds _ _ (fun _ => rfl) h

theorem farFill_holds (core fn stream pl) (h : Holds k s) : Holds k (farFill core fn stream pl s).2 := by
  unfold farFill
  split
  · next e => exact updFar_holds _ _ (holds_of_pair (readPlace_holds _ _ _ h) e)

theorem farRead_holds (core fn stream pl n) (h : Holds k s) : Holds k (farRead core fn stream pl n s).2 := by
  unfold farRead
  dsimp only
  split
  · split
    · exact h
    · exact farFill_holds _ _ _ _ h
  · exact farFill_holds _ _ _ _ h

theorem farReads_holds (core fn stream d e f) (h : Holds k s) : Holds k (farReads core fn stream d e f s).2 := by
  fun_induction farReads core fn stream d e f s <;> grind [farRead_holds]

theorem readAs_holds (c va rq pl n) (h : Holds k s) : Holds k (readAs c va rq pl n s).2 := by
  unfold readAs
  split
  · split
    · exact farReads_holds _ _ _ _ _ _ h
    · exact readPlace_holds _ _ _ h
  · exact readPlace_holds _ _ _ h

theorem farStore_holds (core pl bs) (h : Holds k s) : Holds k (farStore core pl bs s) := by
  unfold farStore
  dsimp only
  split
  · exact updFar_holds _ _ h
  · exact h

theorem farStores_holds (core b c d) (h : Holds k s) : Holds k (farStores core b c d s) := by
  fun_induction farStores core b c d s <;> grind [farStore_holds]

theorem storeAs_holds (rq pl bs) (h : Holds k s) : Holds k (storeAs rq pl bs s) := by
  unfold storeAs
  split
  · exact farStores_holds _ _ _ _ h
  · exact h

theorem farLose_holds (core pl) (h : Holds k s) : Holds k (farLose core pl s) := updFar_holds _ _ h

theorem remotePost_holds (rq c va dev off) (h : Holds k s) : Holds k (remotePost rq c va dev off s) := by
  unfold remotePost
  dsimp only
  split <;> exact linkTx_holds _ h

theorem readPieces_holds (c kk rq d) (h : Holds k s) : Holds k (readPieces c kk rq d s).2.2 := by
  fun_induction readPieces c kk rq d s <;> grind [readAs_holds, linkTimeout_holds, xl_holds]

theorem readVa_holds (c va n kk rq) (h : Holds k s) : Holds k (readVa c va n kk rq s).2.2 := readPieces_holds _ _ _ _ h

theorem writePieces_holds (c rq c' d) (h : Holds k s) : Holds k (writePieces c rq c' d s).2.2 := by
  fun_induction writePieces c rq c' d s <;> grind [linkDrop_holds, writePlace_holds, remotePost_holds, storeAs_holds, xl_holds]

theorem writeVa_holds (c va bs rq) (h : Holds k s) : Holds k (writeVa c va bs rq s).2.2 := writePieces_holds _ _ _ _ h

theorem writablePieces_holds (c rq c') (h : Holds k s) : Holds k (writablePieces c rq c' s).2 := by
  fun_induction writablePieces c rq c' s <;> grind [xl_holds]

theorem fqDrain_holds (a) (h : Holds k s) : Holds k (fqDrain a s) := by
  fun_induction fqDrain a s <;> grind [fqPost_holds, xlUpd_holds]

theorem pmtRelease_holds (i) (h : Holds k s) : Holds k (pmtRelease i s) := xlUpd_holds _ h

theorem withdraw_holds (p) (h : Holds k s) : Holds k (withdraw p s) := foldl_holds _ (fun _ _ hu => pmtRelease_holds _ hu) _ (xlUpd_holds _ h)

theorem xlDrop_holds (c page npages) (h : Holds k s) : Holds k (xlDrop c page npages s) := xlUpd_holds _ h

theorem invalStart_holds (c page npages subP subL cmd) (h : Holds k s) : Holds k (invalStart c page npages subP subL cmd s).2 := xlUpd_holds _ h

theorem putCount_holds (i v) (h : Holds k s) : Holds k (putCount i v s) := by
  unfold putCount
  dsimp only
  split <;> exact xlUpd_holds _ h

theorem putCountWord_holds (g d) (h : Holds k s) : Holds k (putCountWord g d s) := putCount_holds _ _ (putCount_holds _ _ h)

theorem countTouch_holds (lp f) (h : Holds k s) : Holds k (countTouch lp f s) := by
  unfold countTouch
  dsimp only
  split
  · exact h
  · refine putMark_lpddr_holds _ _ ?_
    exact eccNote_holds _ _ _ (putCountWord_holds _ _ h)

theorem frameCount_holds (lp f up) (h : Holds k s) : Holds k (frameCount lp f up s) := by
  unfold frameCount
  dsimp only
  split
  · exact xlUpd_holds _ h
  · split <;> exact xlUpd_holds _ (countTouch_holds _ _ h)

theorem freeBytes_holds (n) (h : Holds k s) : Holds k (freeBytes n s).2 := h

theorem freePieces_holds (c b) (h : Holds k s) : Holds k (freePieces c b s) := by
  fun_induction freePieces c b s <;> grind [freeBytes_holds, translate_holds, writePlace_holds]

/-! ### Machine/Work.lean -/

theorem updOb_holds (f) (h : Holds k s) : Holds k (updOb f s) := h

theorem updHi_holds (f) (h : Holds k s) : Holds k (updHi f s) := h

theorem updGx_holds (f) (h : Holds k s) : Holds k (updGx f s) := h

theorem updQueue_holds (q f) (h : Holds k s) : Holds k (updQueue q f s) := updEx_frame_holds _ (fun _ => rfl) h

theorem updCtx_holds (c f) (h : Holds k s) : Holds k (updCtx c f s) := updEx_frame_holds _ (fun _ => rfl) h

theorem updPart_holds (p f) (h : Holds k s) : Holds k (updPart p f s) := updEx_frame_holds _ (fun _ => rfl) h

theorem updBraid_holds (b f) (h : Holds k s) : Holds k (updBraid b f s) := updOb_holds _ h

theorem updCmd_holds (c f) (h : Holds k s) : Holds k (updCmd c f s) := updEx_frame_holds _ (fun _ => rfl) h

theorem updGrp_holds (g f) (h : Holds k s) : Holds k (updGrp g f s) := updEx_frame_holds _ (fun _ => rfl) h

theorem updGraph_holds (g f) (h : Holds k s) : Holds k (updGraph g f s) := updOb_holds _ h

theorem settleGraph_holds (g) (h : Holds k s) : Holds k (settleGraph g s) := by
  unfold settleGraph
  dsimp only
  split
  · exact updGraph_holds _ _ (updEx_frame_holds _ (fun _ => rfl) (updGraph_holds _ _ h))
  · exact updEx_frame_holds _ (fun _ => rfl) (updGraph_holds _ _ h)

theorem unbindGraph_holds (g v) (h : Holds k s) : Holds k (unbindGraph g v s) := settleGraph_holds _ (updGraph_holds _ _ h)

theorem unbindLaunch_holds (c) (h : Holds k s) : Holds k (unbindLaunch c s) := by
  unfold unbindLaunch
  split
  · split
    · split
      · exact h
      · exact unbindGraph_holds _ _ h
    · exact h
  · exact h

theorem missGo_holds (r) (h : Holds k s) : Holds k (missGo r s) := by
  unfold missGo
  split
  · exact updGrp_holds _ _ h
  · exact h

theorem missTake_holds (r) (h : Holds k s) : Holds k (missTake r s) := by
  unfold missTake
  split
  · exact pmtJoin_holds _ h
  · split
    · next e => exact missGo_holds _ (holds_of_pair (translate_holds _ _ _ h) e)
    · next e => exact stallFault_holds _ _ _ _ _ (holds_of_pair (translate_holds _ _ _ h) e)
    · exact missGo_holds _ h

theorem missDrain_holds (a) (h : Holds k s) : Holds k (missDrain a s) := by
  fun_induction missDrain a s <;> grind [missTake_holds, xlUpd_holds]

theorem finish_holds (c st) (h : Holds k s) : Holds k (finish c st s) := by
  have hu : Holds k (withdraw (fun r _ => r == .cmd c) (unbindLaunch c s)) := withdraw_holds _ (unbindLaunch_holds _ h)
  unfold finish
  refine updCmd_holds _ _ (updEx_mapCores_holds _ _ rfl (fun x => ?_) hu)
  split <;> rfl

theorem setRes_holds (c ws) (h : Holds k s) : Holds k (setRes c ws s) := updCmd_holds _ _ h

theorem setRes0_holds (c v) (h : Holds k s) : Holds k (setRes0 c v s) := setRes_holds _ _ h

theorem setRes64_holds (c v) (h : Holds k s) : Holds k (setRes64 c v s) := setRes_holds _ _ h

theorem lmWrite_holds (core a bs poison) (h : Holds k s) : Holds k (lmWrite core a bs poison s) := by
  unfold lmWrite
  refine updCore_wf_holds _ _ (fun c hc => ?_) h
  dsimp only
  split
  · exact Mem.putBytes_wf _ _ hc
  · exact foldl_keeps (fun m : Mem => m.wf = true) _ (fun m w hm => Mem.putMark_wf _ _ hm) _ _ (Mem.putBytes_wf _ _ hc)

theorem dropFar_holds (core) (h : Holds k s) : Holds k (dropFar core s) := updFar_holds _ _ h

theorem reserveTiles_holds (h : Holds k s) : Holds k (reserveTiles s) := by
  unfold reserveTiles
  refine foldl_holds _ (fun u p hu => foldl_holds _ (fun v i hv => ?_) _ hu) _ h
  dsimp only
  split
  · exact hv
  · exact updCore_holds _ _ (fun _ => rfl) hv

theorem releaseTiles_holds (p) (h : Holds k s) : Holds k (releaseTiles p s) := updEx_mapCores_holds _ _ rfl (fun _ => rfl) h

theorem placeGroup_holds (core q blk id cls0 idx regs entry c) (h : Holds k s) : Holds k (placeGroup core q blk id cls0 idx regs entry c s) := by
  unfold placeGroup
  exact updEx_holds _ rfl (setFreeCtr_holds _ (updCore_holds _ _ (fun _ => rfl) h))

theorem placeBlock_holds (core groups regs lm entry cls0 b) (h : Holds k s) : Holds k (placeBlock core groups regs lm entry cls0 b s) := by
  unfold placeBlock
  split
  · exact h
  · exact setFreeCtr_holds _ (foldl_holds _ (fun u g hu => placeGroup_holds _ _ _ _ _ _ _ _ _ hu) _
      (updEx_holds _ rfl (updCore_wf_holds _ _ (fun x hx => newLm_wf hx _ _ _ _ _) h)))

theorem overrunEnd_holds (ids) (h : Holds k s) : Holds k (overrunEnd ids s) := updEx_frame_holds _ (fun _ => rfl) h

theorem dropBlocks_holds (ids) (h : Holds k s) : Holds k (dropBlocks ids s) := by
  unfold dropBlocks
  dsimp only
  split
  · exact h
  · exact overrunEnd_holds _ (updEx_frame_holds _ (fun _ => rfl) (withdraw_holds _ h))

theorem stopOwner_holds (p) (h : Holds k s) : Holds k (stopOwner p s) := dropBlocks_holds _ h

theorem stopCmd_holds (c) (h : Holds k s) : Holds k (stopCmd c s) := stopOwner_holds _ h

theorem addSat_holds (o n) (h : Holds k s) : Holds k (addSat o n s) := by
  unfold addSat
  split
  · exact updCmd_holds _ _ h
  · exact updBraid_holds _ _ h
  · split
    · split
      · exact updCmd_holds _ _ h
      · exact h
    · exact h

/-! ### Machine/Bulk.lean -/

theorem bulk_holds (part need) (h : Holds k s) {t : State} (e : bulk part need s = some t) : Holds k t := by
  grind [bulk, updPart_holds]

theorem bulkDebt_holds (part need) (h : Holds k s) : Holds k (bulkDebt part need s) := updPart_holds _ _ h

theorem chargeVa_holds (near part c va n) (h : Holds k s) : Holds k (chargeVa near part c va n s) := by
  unfold chargeVa
  refine foldl_holds _ (fun _ _ hu => ?_) _ h
  split
  · next e => exact bulkDebt_holds _ _ (holds_of_pair (mapped_holds _ _ hu) e)
  · next e => exact holds_of_pair (mapped_holds _ _ hu) e

theorem chargedRead_holds (near part c va n rq) (h : Holds k s) : Holds k (chargedRead near part c va n rq s).2.2 := by
  grind [chargedRead, chargeVa_holds, readVa_holds]

theorem chargedWrite_holds (near part c va bs rq) (h : Holds k s) : Holds k (chargedWrite near part c va bs rq s).2.2 := by
  unfold chargedWrite
  split
  · next e => exact chargeVa_holds _ _ _ _ _ (holds_of_triple (writeVa_holds _ _ _ _ h) e)

/-! ### Machine/Knot.lean -/

theorem hold_holds (hh) (h : Holds k s) : Holds k (hold hh s) := h

theorem knotRead_holds (fn pl) (h : Holds k s) : Holds k (knotRead fn pl s).2.2 := by
  unfold knotRead
  split
  · exact h
  · next e =>
      split
      · next e => exact holds_of_pair (readPlace_holds _ _ _ h) e

theorem knotStore_holds (fn pl w) (h : Holds k s) : Holds k (knotStore fn pl w s) := writePlace_holds _ _ _ h

theorem noteWord_holds (a) (h : Holds k s) : Holds k (noteWord a s) := eccNote_holds _ _ _ h

theorem noteKnot_holds (b off) (h : Holds k s) : Holds k (noteKnot b off s) := by
  unfold noteKnot
  split
  · exact noteWord_holds _ h
  · exact h

theorem braidMiss_holds (b) (h : Holds k s) : Holds k (braidMiss b s) := escMiss_holds _ (postAlarm_holds _ _ _ (icnPulse_holds _ (updBraid_holds _ _ h)))

theorem admitUnit_holds (b t) (h : Holds k s) : Holds k (admitUnit b t s) := by
  unfold admitUnit
  dsimp only
  split
  · exact braidMiss_holds _ (updBraid_holds _ _ h)
  · exact updBraid_holds _ _ h

theorem admitUnits_holds (b b') (h : Holds k s) : Holds k (admitUnits b b' s) := by
  fun_induction admitUnits b b' s <;> grind [admitUnit_holds]

theorem resolveUnits_holds (b v) (h : Holds k s) : Holds k (resolveUnits b v s) := updBraid_holds _ _ h

theorem braidHook_holds (pl old new) (h : Holds k s) : Holds k (braidHook pl old new s) := by
  unfold braidHook
  dsimp only
  split
  · exact h
  · split
    · exact admitUnits_holds _ _ h
    · split
      · exact resolveUnits_holds _ _ h
      · exact h

theorem farAdmit_holds (pl v) (h : Holds k s) : Holds k (farAdmit pl v s) := by
  unfold farAdmit
  dsimp only
  split
  · exact admitUnits_holds _ _ h
  · exact h

theorem evalWait_holds (w poison g) (h : Holds k s) : Holds k (evalWait w poison g s) := by
  unfold evalWait
  dsimp only
  split
  · exact dropFar_holds _ (updGrp_holds _ _ h)
  · exact updGrp_holds _ _ h

theorem knotWaitEval_holds (w poison x) (h : Holds k s) : Holds k (knotWaitEval w poison x s) := by
  unfold knotWaitEval
  split
  · exact finish_holds _ _ (setRes64_holds _ _ h)
  · split
    · exact finish_holds _ _ (setRes64_holds _ _ h)
    · exact finish_holds _ _ (setRes64_holds _ _ h)
    · exact h

theorem knotWake_holds (pl w poison) (h : Holds k s) : Holds k (knotWake pl w poison s) :=
  foldl_holds _ (fun _ _ hu => dropFar_holds _ hu) _ (updEx_frame_holds _ (fun _ => rfl) (foldl_holds _ (fun _ _ hu => knotWaitEval_holds _ _ _ hu) _ h))

theorem knotLink_holds (pl) (h : Holds k s) : Holds k (knotLink pl s) := by
  unfold knotLink
  split
  · split
    · exact linkDrop_holds _ h
    · exact linkTx_holds _ h
  · exact h

theorem signalNow_holds (fn pl v) (h : Holds k s) : Holds k (signalNow fn pl v s) := by
  unfold signalNow
  split
  · exact h
  · split
    · split
      · exact knotLink_holds _ h
      · exact knotWake_holds _ _ _ (farAdmit_holds _ _ (knotLink_holds _ h))
    · next e =>
        split
        · next e =>
            split
            · exact knotWake_holds _ _ _ (holds_of_triple (knotRead_holds _ _ h) e)
            · split
              · exact knotWake_holds _ _ _ (updHi_holds _ (holds_of_triple (knotRead_holds _ _ h) e))
              · split
                · exact knotWake_holds _ _ _ (holds_of_triple (knotRead_holds _ _ h) e)
                · exact knotWake_holds _ _ _ (braidHook_holds _ _ _ (knotStore_holds _ _ _ (holds_of_triple (knotRead_holds _ _ h) e)))

theorem signal_holds (fn pl v) (h : Holds k s) : Holds k (signal fn pl v s) := by
  unfold signal
  split
  · exact hold_holds _ h
  · exact signalNow_holds _ _ _ h

theorem abandonNow_holds (fn pl) (h : Holds k s) : Holds k (abandonNow fn pl s) := by
  unfold abandonNow
  split
  · next e =>
      split
      · exact knotLink_holds _ h
      · split
        · next e => exact knotWake_holds _ _ _ ((holds_of_triple (knotRead_holds _ _ (knotLink_holds _ h)) e))
  · exact h
  · next e =>
      split
      · next e =>
          split
          · exact knotWake_holds _ _ _ (holds_of_triple (knotRead_holds _ _ h) e)
          · exact knotWake_holds _ _ _ (knotStore_holds _ _ _ (holds_of_triple (knotRead_holds _ _ h) e))

theorem abandon_holds (fn pl) (h : Holds k s) : Holds k (abandon fn pl s) := by
  unfold abandon
  split
  · exact hold_holds _ h
  · exact abandonNow_holds _ _ h

theorem knotResetNow_holds (fn pl v) (h : Holds k s) : Holds k (knotResetNow fn pl v s).2 := by
  unfold knotResetNow
  dsimp only
  split
  · exact knotWake_holds _ _ _ (knotRead_holds _ _ h)
  · split
    · exact resolveUnits_holds _ _ (knotStore_holds _ _ _ (knotLink_holds _ h))
    · exact knotStore_holds _ _ _ (knotLink_holds _ h)

theorem knotAddr_holds (c va kk rq) (h : Holds k s) : Holds k (knotAddr c va kk rq s).2 := by
  unfold knotAddr
  split
  · exact h
  · split
    · next e => exact holds_of_pair (xl_holds _ _ _ _ h) e
    · next e => exact holds_of_pair (xl_holds _ _ _ _ h) e
    · next e => exact holds_of_pair (xl_holds _ _ _ _ h) e
    · next e => exact holds_of_pair (xl_holds _ _ _ _ h) e
    · next e => exact holds_of_pair (xl_holds _ _ _ _ h) e

theorem signalRq_holds (rq c va v) (h : Holds k s) : Holds k (signalRq rq c va v s).2 := by
  unfold signalRq
  split
  · next e => exact signal_holds _ _ _ (holds_of_pair (knotAddr_holds _ _ _ _ h) e)
  · next e => exact holds_of_pair (knotAddr_holds _ _ _ _ h) e

theorem signalVa_holds (c va v) (h : Holds k s) : Holds k (signalVa c va v s) := signalRq_holds _ _ _ _ h

theorem knotValRq_holds (rq c va) (h : Holds k s) : Holds k (knotValRq rq c va s).2 := by
  unfold knotValRq
  split
  · next e => exact knotRead_holds _ _ (holds_of_pair (knotAddr_holds _ _ _ _ h) e)
  · next e => exact holds_of_pair (knotAddr_holds _ _ _ _ h) e

theorem addSigs_holds (c vas) (h : Holds k s) {t : State} (e : addSigs c vas s = some t) : Holds k t := by
  grind [addSigs, updCtx_holds]

/-! ### Machine/Texture.lean -/

theorem readTileBy_holds (read base hdr n) (h : Holds k s) (hf : ∀ a b u, Holds k u → Holds k (read a b u).2.2) :
    Holds k (readTileBy read base hdr n s).2.2 := by
  grind [readTileBy]

theorem readTileC_holds (c rq base hdr t) (h : Holds k s) : Holds k (readTileC c rq base hdr t s).2.2 :=
  readTileBy_holds _ _ _ _ h (fun _ _ _ hu => readVa_holds _ _ _ _ _ hu)

theorem readTexel_holds (c rq d l kk x y) (h : Holds k s) : Holds k (readTexel c rq d l kk x y s).2 := by
  grind [readTexel, readTileC_holds, readVa_holds]

theorem readFoot_holds (c rq d l kk f) (h : Holds k s) : Holds k (readFoot c rq d l kk f s).2 := by
  fun_induction readFoot c rq d l kk f s <;> grind [readTexel_holds]

theorem resValue_holds (c rq d kk e f) (h : Holds k s) : Holds k (resValue c rq d kk e f s).2 := by
  fun_induction resValue c rq d kk e f s <;> grind [readVa_holds]

theorem resOf_holds (c rq d kk u v lod) (h : Holds k s) : Holds k (resOf c rq d kk u v lod s).2 := by
  unfold resOf
  split
  · exact h
  · exact resValue_holds _ _ _ _ _ _ h

theorem readLevels_holds (c rq d kk u v g) (h : Holds k s) : Holds k (readLevels c rq d kk u v g s).2 := by
  fun_induction readLevels c rq d kk u v g s <;> grind [readFoot_holds]

theorem texSample_holds (c rq d u v z lod) (h : Holds k s) : Holds k (texSample c rq d u v z lod s).2 := by
  unfold texSample
  dsimp only
  split
  · next e =>
      split
      · exact (holds_of_pair (resOf_holds _ _ _ _ _ _ _ h) e)
      · split
        · next e' => exact holds_of_pair (readLevels_holds _ _ _ _ _ _ _ (holds_of_pair (resOf_holds _ _ _ _ _ _ _ h) e)) e'
        · next e' => exact holds_of_pair (readLevels_holds _ _ _ _ _ _ _ (holds_of_pair (resOf_holds _ _ _ _ _ _ _ h) e)) e'
  · next e => exact holds_of_pair (resOf_holds _ _ _ _ _ _ _ h) e
  · next e => exact holds_of_pair (resOf_holds _ _ _ _ _ _ _ h) e

theorem texFetch_holds (c rq d x y z l) (h : Holds k s) : Holds k (texFetch c rq d x y z l s).2 := by
  unfold texFetch
  split
  · exact readTexel_holds _ _ _ _ _ _ _ h
  · exact h

theorem texResident_holds (c rq d u v z lod) (h : Holds k s) : Holds k (texResident c rq d u v z lod s).2 := by
  unfold texResident
  split
  · next e => exact holds_of_pair (resOf_holds _ _ _ _ _ _ _ h) e
  · next e => exact holds_of_pair (resOf_holds _ _ _ _ _ _ _ h) e
  · next e => exact holds_of_pair (resOf_holds _ _ _ _ _ _ _ h) e

/-! ### Machine/CodeObj.lean -/

theorem Who.read_holds (w va n kk) (h : Holds k s) : Holds k (Who.read w va n kk s).2 := by
  unfold Who.read
  split
  · next e => exact holds_of_triple (readVa_holds _ _ _ _ _ h) e
  · next e => exact holds_of_triple (readVa_holds _ _ _ _ _ h) e
  · next e => exact holds_of_triple (readVa_holds _ _ _ _ _ h) e

theorem Who.readOn_holds (w va n hh kk) (h : Holds k s) : Holds k (Who.readOn w va n hh kk s).2 := by
  grind [Who.readOn, Who.read_holds]

theorem Rd.run_holds {α : Type} (r : Rd α × State) (f) (h : Holds k r.2) (hf : ∀ a u, Holds k u → Holds k (f a u).2) : Holds k (Rd.run r f).2 := by
  unfold Rd.run
  repeat' split
  all_goals grind

theorem Who.code_holds (w va cb lm) (h : Holds k s) : Holds k (Who.code w va cb lm s).2 := by
  unfold Who.code
  split
  · next e =>
      split
      · exact holds_of_pair (Who.read_holds _ _ _ _ h) e
      · next e' =>
          split
          · next e' =>
              split <;> exact holds_of_pair (Who.readOn_holds _ _ _ _ _ (holds_of_pair (Who.read_holds _ _ _ _ h) e)) e'
          · next e' => exact holds_of_pair (Who.readOn_holds _ _ _ _ _ (holds_of_pair (Who.read_holds _ _ _ _ h) e)) e'
          · next e' => exact holds_of_pair (Who.readOn_holds _ _ _ _ _ (holds_of_pair (Who.read_holds _ _ _ _ h) e)) e'
  · next e => exact holds_of_pair (Who.read_holds _ _ _ _ h) e
  · next e => exact holds_of_pair (Who.read_holds _ _ _ _ h) e

theorem install_holds (c) (h : Holds k s) : Holds k (install c s).2 := updEx_frame_holds _ (fun _ => rfl) h

theorem bindAll_holds (w b c d) (h : Holds k s) : Holds k (bindAll w b c d s).2 := by
  fun_induction bindAll w b c d s <;> grind [Who.read_holds]

theorem Who.bind_holds (w c cnt va) (h : Holds k s) : Holds k (Who.bind w c cnt va s).2 := by
  grind [Who.bind, Who.read_holds, bindAll_holds, updCmd_holds]

end
end Sys2Proof.Machine


/-! What every step keeps: the functions of Braid, Models, Sched. -/
namespace Sys2Proof.Machine
section
variable {k : KeptClaim} {s : State}

/-! ### Machine/Braid.lean -/

theorem setBState_holds (b st) (h : Holds k s) : Holds k (setBState b st s) := by
  unfold setBState
  split
  · exact h
  · exact icnPulse_holds _ (updBraid_holds _ _ h)

theorem abandonKnots_holds (b offs) (h : Holds k s) : Holds k (abandonKnots b offs s) := foldl_holds _ (fun _ _ hu => abandon_holds _ _ hu) _ h

theorem zeroKnots_holds (b offs) (h : Holds k s) : Holds k (zeroKnots b offs s) := by
  unfold zeroKnots
  refine foldl_holds _ (fun _ _ hu => ?_) _ h
  split
  · exact hu
  · exact knotStore_holds _ _ _ (knotLink_holds _ hu)

theorem endDrains_holds (b st) (h : Holds k s) : Holds k (endDrains b st s) := foldl_holds _ (fun _ _ hu => finish_holds _ _ hu) _ h

theorem refuseOpen_holds (b p) (h : Holds k s) : Holds k (refuseOpen b p s) := updGx_holds _ h

theorem haltBraid_holds (b st) (h : Holds k s) : Holds k (haltBraid b st s) :=
  setBState_holds _ _ (updBraid_holds _ _ (abandonKnots_holds _ _ (stopOwner_holds _ (refuseOpen_holds _ _ h))))

theorem flushMask_holds (m) (h : Holds k s) : Holds k (flushMask m s) := foldl_holds _ (fun _ _ hu => discardHits_holds _ hu) _ h

theorem braidFault_holds (b st trap) (h : Holds k s) : Holds k (braidFault b st trap s) := by
  unfold braidFault
  dsimp only
  split
  · exact endDrains_holds _ _ (updBraid_holds _ _ (haltBraid_holds _ _ h))
  · exact h

theorem updPass_holds (p f) (h : Holds k s) : Holds k (updPass p f s) := updGx_holds _ h

theorem dropPassCores_holds (p) (h : Holds k s) : Holds k (dropPassCores p s) := releaseTiles_holds _ (stopOwner_holds _ h)

theorem failPass_holds (p st pc) (h : Holds k s) : Holds k (failPass p st pc s) := by
  unfold failPass
  dsimp only
  split
  · exact h
  · split
    · exact updPass_holds _ _ (dropPassCores_holds _ h)
    · split
      · exact finish_holds _ _ (updPass_holds _ _ (updPass_holds _ _ (dropPassCores_holds _ h)))
      · refine finish_holds _ _ ?_
        refine updGx_holds _ ?_
        split
        · exact updPass_holds _ _ (dropPassCores_holds _ h)
        · exact setRes_holds _ _ (updPass_holds _ _ (dropPassCores_holds _ h))

theorem stepFailed_holds (c st) (h : Holds k s) : Holds k (stepFailed c st s) := by
  unfold stepFailed
  split
  · split
    · split
      · exact h
      · exact foldl_holds _ (fun _ _ hu => writeVa_holds _ _ _ _ hu) _ h
    · exact h
  · exact h

theorem trapOwner_holds (g st) (h : Holds k s) : Holds k (trapOwner g st s) := by
  grind [trapOwner, updEx_holds, finish_holds, stepFailed_holds, stopOwner_holds, failPass_holds, updCmd_holds, braidFault_holds, stopCmd_holds]

theorem settleTraps_holds (a) (h : Holds k s) : Holds k (settleTraps a s) := by
  fun_induction settleTraps a s <;> grind [trapOwner_holds]

theorem fin_holds (h : Holds k s) : AnswerHolds k (fin s) := done_holds (settleTraps_holds _ h)

theorem trapG_holds (g st) (h : Holds k s) : Holds k (trapG g st s) := updGrp_holds _ _ h

theorem hitNow_holds (r src) (h : Holds k s) : Holds k (hitNow r src s).2 := by
  unfold hitNow
  dsimp only
  split
  · exact hitArrive_holds _ h
  · split
    · exact updBraid_holds _ _ (hitArrive_holds _ h)
    · exact escLateBraid_holds _ (updBraid_holds _ _ (updBraid_holds _ _ (hitArrive_holds _ h)))
    · split
      · exact braidFault_holds _ _ _ (updBraid_holds _ _ (updBraid_holds _ _ (hitArrive_holds _ h)))
      · exact updBraid_holds _ _ (updBraid_holds _ _ (hitArrive_holds _ h))

theorem hitPort_holds (r src) (h : Holds k s) : Holds k (hitPort r src s) := by
  unfold hitPort
  split
  · exact hold_holds _ h
  · exact hitNow_holds _ _ h

theorem execHitPortArrival_holds (r src t) (h : Holds k s) : AnswerHolds k (execHitPortArrival r src t s) :=
  fin_holds (hitPort_holds _ _ (State.at_holds _ h))

theorem execDeadlineMiss_holds (b n t) (h : Holds k s) : AnswerHolds k (execDeadlineMiss b n t s) := by
  unfold execDeadlineMiss
  dsimp only
  split
  · exact fin_holds (braidMiss_holds _ (updBraid_holds _ _ (noteKnot_holds _ _ (State.at_holds _ h))))
  · exact fin_holds (noteKnot_holds _ _ (State.at_holds _ h))

theorem execDrainResultReached_holds (b) (h : Holds k s) : AnswerHolds k (execDrainResultReached b s) := by
  unfold execDrainResultReached
  dsimp only
  split
  · exact fin_holds (abandonKnots_holds _ _ (updBraid_holds _ _ (noteKnot_holds _ _ h)))
  · exact fin_holds (noteKnot_holds _ _ h)

theorem execDrainBlocksEnded_holds (b) (h : Holds k s) : AnswerHolds k (execDrainBlocksEnded b s) := by
  unfold execDrainBlocksEnded
  dsimp only
  split
  · refine fin_holds ?_
    refine endDrains_holds _ _ ?_
    refine setBState_holds _ _ ?_
    refine updBraid_holds _ _ ?_
    split
    · refine flushMask_holds _ ?_
      split
      · exact noteKnot_holds _ _ h
      · exact abandonKnots_holds _ _ (noteKnot_holds _ _ h)
    · split
      · exact noteKnot_holds _ _ h
      · exact abandonKnots_holds _ _ (noteKnot_holds _ _ h)
  · exact fin_holds (noteKnot_holds _ _ h)

theorem execBraidDrainTimeout_holds (b t) (h : Holds k s) : AnswerHolds k (execBraidDrainTimeout b t s) := by
  unfold execBraidDrainTimeout
  dsimp only
  split
  · refine fin_holds ?_
    refine endDrains_holds _ _ ?_
    refine updBraid_holds _ _ ?_
    split
    · exact flushMask_holds _ (haltBraid_holds _ _ (State.at_holds _ h))
    · exact haltBraid_holds _ _ (State.at_holds _ h)
  · exact fin_holds (State.at_holds _ h)

theorem noteSel_holds (b kk) (h : Holds k s) : Holds k (noteSel b kk s) := foldl_holds _ (fun _ _ hu => noteWord_holds _ hu) _ (noteWord_holds _ h)

theorem putSelRec_holds (b kk bs) (h : Holds k s) : Holds k (putSelRec b kk bs s) := writeDev_holds _ _ _ h

theorem putSelCount_holds (b n) (h : Holds k s) : Holds k (putSelCount b n s) := writeDev_holds _ _ _ h

theorem Cmd.code_holds (c va cb lm) (h : Holds k s) : Holds k (Cmd.code c va cb lm s).2 := by
  unfold Cmd.code
  split
  · exact h
  · exact Who.code_holds _ _ _ _ h

theorem chanPages_holds (w here dev d) (h : Holds k s) : Holds k (chanPages w here dev d s).2 := by
  fun_induction chanPages w here dev d s <;> grind [mapped_holds]

theorem chansOk_holds (w bs ns d) (h : Holds k s) : Holds k (chansOk w bs ns d s).2 := by
  fun_induction chansOk w bs ns d s <;> grind [chanPages_holds]

theorem strandCodes_holds (w bs c) (h : Holds k s) : Holds k (strandCodes w bs c s).2 := by
  fun_induction strandCodes w bs c s <;> grind [Who.code_holds, Who.bind_holds]

theorem installAll_holds (a) (h : Holds k s) : Holds k (installAll a s).2 := by
  fun_induction installAll a s <;> grind [install_holds]

theorem defineBraid_holds (c b bs cs) (h : Holds k s) : Holds k (defineBraid c b bs cs s).2 := by
  have hi := installAll_holds (cs.map (·.1)) h
  unfold defineBraid
  dsimp only
  split
  · exact hi
  · next u e => exact setBState_holds _ _ (updBraid_holds _ _ (putSelCount_holds _ _ (putSelRec_holds _ _ _ (addSigs_holds _ _ hi e))))

theorem startBraidDefine_holds (c) (h : Holds k s) : Holds k (startBraidDefine c s).2 := by
  unfold startBraidDefine
  dsimp only
  split
  · exact h
  split
  · exact h
  refine Rd.run_holds _ _ (Who.read_holds _ _ _ _ h) fun hd u hu => ?_
  split
  · exact hu
  split
  · exact hu
  split
  · exact hu
  refine Rd.run_holds _ _ (Who.readOn_holds _ _ _ _ _ hu) fun bs v hv => ?_
  split
  · exact hv
  split
  · exact hv
  refine Rd.run_holds _ _ (chansOk_holds _ _ _ _ hv) fun _ w hw => ?_
  exact Rd.run_holds _ _ (strandCodes_holds _ _ _ hw) fun cs x hx => defineBraid_holds _ _ _ _ hx

theorem affPieces_holds (c b c') (h : Holds k s) : Holds k (affPieces c b c' s).2 := by
  fun_induction affPieces c b c' s <;> grind [mapped_holds]

theorem affinity_holds (c va n) (h : Holds k s) : Holds k (affinity c va n s).2 := affPieces_holds _ _ _ h

theorem bindCores_holds (ctx va len n) (h : Holds k s) : Holds k (bindCores ctx va len n s).2 := by
  unfold bindCores
  split
  · split
    · next e => exact holds_of_pair (affinity_holds _ _ _ h) e
  · exact h

theorem placeStrand_holds (x b kk t user n) (l) (h : Holds k s) {u : State} (e : placeStrand x b kk t user n l s = some u) : Holds k u := by
  induction l generalizing s with
  | nil => cases e; exact h
  | cons a r ih =>
    obtain ⟨i, core⟩ := a
    unfold placeStrand at e
    split at e
    · cases e
    · dsimp only at e
      split at e
      · exact ih (placeBlock_holds _ _ _ _ _ _ _ h) e
      · cases e

theorem placeStrands_holds (x b kk l) (h : Holds k s) {t : State} (e : placeStrands x b kk l s = some t) : Holds k t := by
  induction l generalizing kk s with
  | nil => unfold placeStrands at e; cases e; exact h
  | cons a r ih =>
    obtain ⟨d, user⟩ := a
    have hb := bindCores_holds x.ctx d.affinity.toNat d.affLen.toNat d.blocks h
    unfold placeStrands at e
    split at e
    · exact ih _ h e
    dsimp only at e
    have tail : ∀ {cs : List Nat} {v : State}, Holds k v → (if cs.length ≠ d.blocks then none else
        match placeStrand x b kk d user cs.length ((List.range cs.length).zip cs) v with
        | none => none
        | some w => placeStrands x b (kk + 1) r w) = some t → Holds k t := by
      intro cs v hv e
      split at e
      · cases e
      · split at e
        · cases e
        · next eu => exact ih _ (placeStrand_holds _ _ _ _ _ _ _ hv eu) e
    split at e
    · exact tail h e
    · exact tail hb e

theorem strandUsers_holds (w b) (h : Holds k s) : Holds k (strandUsers w b s).2 := by
  fun_induction strandUsers w b s <;> grind [Who.read_holds]

theorem startBraidStart_holds (c) (h : Holds k s) : Holds k (startBraidStart c s).2 := by
  have tail : ∀ (x : Braid) (b : Nat) (vas : List Nat) (us : List (Strand × List Byte)) (u : State), Holds k u →
      Holds k (match placeStrands x b 0 us u with
        | none => (Go.ended 0x0222, if x.deadlineMiss = 0 then u else icnPulse (32 + b) u)
        | some v => if knotsCut b vas (setBState b .running v) then (.ended St.linkDown, braidFault b St.linkDown none (setBState b .running v))
                    else (.ended St.success, setBState b .running v)).2 := by
    intro x b vas us u hu
    split
    · dsimp only
      split
      · exact hu
      · exact icnPulse_holds _ hu
    · next v e =>
      have hv := setBState_holds b .running (placeStrands_holds _ _ _ _ hu e)
      split
      · exact braidFault_holds _ _ _ hv
      · exact hv
  unfold startBraidStart
  dsimp only
  split
  · exact h
  split
  · exact h
  split
  · exact h
  refine Rd.run_holds _ _ (strandUsers_holds _ _ h) fun us u hu => ?_
  have hz : ∀ b vas, Holds k (zeroKnots b vas (abandonKnots b vas u)) := fun b vas => zeroKnots_holds _ _ (abandonKnots_holds _ _ hu)
  have hn : ∀ b vas n r f, Holds k (updBraid b f (putSelCount b 1 (putSelRec b 0 r (noteSel b n (zeroKnots b vas (abandonKnots b vas u)))))) :=
    fun b vas n r f => updBraid_holds b f (putSelCount_holds _ _ (putSelRec_holds _ _ _ (noteSel_holds _ _ (hz b vas))))
  refine tail _ _ _ _ _ ?_
  exact hn ..

theorem startDrain_holds (c) (h : Holds k s) : Holds k (startDrain c s).2 := by
  unfold startDrain
  dsimp only
  split
  · exact h
  · split
    · exact setBState_holds _ _ (updCmd_holds _ _ (updBraid_holds _ _ h))
    · exact updCmd_holds _ _ h
    · exact h

theorem startHalt_holds (c) (h : Holds k s) : Holds k (startHalt c s).2 := by
  unfold startHalt
  dsimp only
  split
  · exact h
  · split
    · refine endDrains_holds _ _ ?_
      refine updBraid_holds _ _ ?_
      split
      · exact flushMask_holds _ (haltBraid_holds _ _ h)
      · exact haltBraid_holds _ _ h
    · exact h

theorem freeBraid_holds (b) (h : Holds k s) : Holds k (freeBraid b s) := by
  unfold freeBraid
  refine icnPulse_holds _ (updBraid_holds _ _ (updEx_frame_holds _ (fun _ => rfl) (writeDev_holds _ _ _ ?_)))
  exact setFreeCtr_holds _ h

/-! ### Machine/Models.lean -/

theorem updModel_holds (m f) (h : Holds k s) : Holds k (updModel m f s) := updOb_holds _ h

theorem residPages_holds (c b c') (h : Holds k s) : Holds k (residPages c b c' s).2 := by
  fun_induction residPages c b c' s <;> grind [mapped_holds]

theorem computeResidency_holds (m) (h : Holds k s) : Holds k (computeResidency m s) := updModel_holds _ _ (residPages_holds _ _ _ h)

theorem recomputeResidency_holds (c page n) (h : Holds k s) : Holds k (recomputeResidency c page n s) := by
  unfold recomputeResidency
  refine foldl_holds _ (fun _ _ hu => ?_) _ h
  dsimp only
  split
  · exact computeResidency_holds _ hu
  · exact hu

theorem emptyModel_holds (m) (h : Holds k s) : Holds k (emptyModel m s) := updModel_holds _ _ (updEx_frame_holds _ (fun _ => rfl) h)

theorem settleEvict_holds (m) (h : Holds k s) : Holds k (settleEvict m s) := by
  unfold settleEvict
  split
  · exact foldl_holds _ (fun _ _ hu => finish_holds _ _ hu) _ (emptyModel_holds _ h)
  · exact h

theorem settleOrphans_holds (h : Holds k s) : Holds k (settleOrphans s) := by
  unfold settleOrphans
  refine foldl_holds _ (fun _ _ hu => ?_) _ h
  dsimp only
  split
  · exact settleEvict_holds _ (updModel_holds _ _ hu)
  · exact hu

theorem startRelease_holds (c) (h : Holds k s) : Holds k (startRelease c s).2 := by
  grind [startRelease, settleOrphans_holds, freeBraid_holds]

theorem startModelEvict_holds (c) (h : Holds k s) : Holds k (startModelEvict c s).2 := by
  unfold startModelEvict
  dsimp only
  split
  · exact h
  · split
    · exact h
    · split
      · exact emptyModel_holds _ (updModel_holds _ _ h)
      · exact updCmd_holds _ _ (updModel_holds _ _ h)

theorem undoEvict_holds (m) (h : Holds k s) : Holds k (undoEvict m s) := updModel_holds _ _ h

theorem execUsesZero_holds (m) (h : Holds k s) : AnswerHolds k (execUsesZero m s) := fin_holds (settleEvict_holds _ h)

theorem weightPages_holds (w b) (h : Holds k s) : Holds k (weightPages w b s).2 := by
  fun_induction weightPages w b s <;> grind [translate_holds]

theorem imageCodes_holds (w img stages d e) (h : Holds k s) : Holds k (imageCodes w img stages d e s).2 := by
  fun_induction imageCodes w img stages d e s <;> grind [Who.code_holds]

theorem readSegs_holds (w ctx c) (h : Holds k s) : Holds k (readSegs w ctx c s).2 := by
  fun_induction readSegs w ctx c s <;> grind [readVa_holds]

theorem writeSegs_holds (w wb c) (h : Holds k s) : Holds k (writeSegs w wb c s).2 := by
  fun_induction writeSegs w wb c s <;> grind [writeVa_holds]

theorem freeRanges_holds (ctx base rs) (h : Holds k s) : Holds k (freeRanges ctx base rs s) := foldl_holds _ (fun _ _ hu => freePieces_holds _ _ hu) _ h

theorem failLoad_holds (c m st rs) (h : Holds k s) : Holds k (failLoad c m st rs s) := finish_holds _ _ (emptyModel_holds _ (freeRanges_holds _ _ _ h))

theorem loadGo_holds (c m l) (h : Holds k s) : Holds k (loadGo c m l s) := by
  unfold loadGo
  repeat' split
  all_goals grind [State.draw_holds, readSegs_holds, computeResidency_holds, failLoad_holds, updCmd_holds, writeSegs_holds]

theorem advanceLoads_holds (h : Holds k s) : Holds k (advanceLoads s) := by
  unfold advanceLoads
  refine foldl_holds _ (fun _ _ hu => ?_) _ h
  split
  · exact hu
  · split
    · split
      · exact loadGo_holds _ _ _ hu
      · exact hu
    · exact hu

theorem startLoading_holds (c m im) (h : Holds k s) : Holds k (startLoading c m im s).2 := by
  unfold startLoading
  split
  · next e => exact updCmd_holds _ _ (computeResidency_holds _ (updModel_holds _ _ (holds_of_pair (installAll_holds _ h) e)))

theorem loadParts_holds (c m im devs) (h : Holds k s) : Holds k (loadParts c m im devs s).2 := by
  unfold loadParts
  refine Rd.run_holds _ _ (weightPages_holds _ _ h) (fun _ _ hu => ?_)
  split
  · exact hu
  · exact startLoading_holds _ _ _ hu

theorem startModelLoad_holds (c) (h : Holds k s) : Holds k (startModelLoad c s).2 := by
  grind [startModelLoad, Who.readOn_holds, weightPages_holds, imageCodes_holds, Who.read_holds, Rd.run_holds, loadParts_holds]

theorem spanReport_holds (x) (h : Holds k s) : Holds k (spanReport x s).2 := by
  unfold spanReport
  split
  · exact h
  · split
    · next e => exact holds_of_pair (State.draw_holds h) e

theorem endLoad_holds (c) (h : Holds k s) : Holds k (endLoad c s) := by
  unfold endLoad
  split
  · next e =>
      split
      · next e =>
          split
          · exact finish_holds _ _ (updModel_holds _ _ (holds_of_pair (spanReport_holds _ h) e))
          · exact finish_holds _ _ (emptyModel_holds _ (holds_of_pair (spanReport_holds _ h) e))
  · exact h

theorem failLoads_holds (lost) (h : Holds k s) : Holds k (failLoads lost s) := by
  unfold failLoads
  refine foldl_holds _ (fun _ _ hu => ?_) _ h
  split
  · split
    · exact finish_holds _ _ (emptyModel_holds _ hu)
    · exact hu
  · exact hu

theorem writeSelect_holds (b m from') (h : Holds k s) : Holds k (writeSelect b m from' s) := putSelCount_holds _ _ (putSelRec_holds _ _ _ h)

theorem startModelSelect_holds (c) (h : Holds k s) : Holds k (startModelSelect c s).2 := by
  unfold startModelSelect
  dsimp only
  split
  · exact h
  · split
    · exact h
    · split
      · exact h
      · split
        · exact noteSel_holds _ _ h
        · split
          · split
            · exact noteSel_holds _ _ h
            · exact writeSelect_holds _ _ _ (noteSel_holds _ _ h)
          · exact writeSelect_holds _ _ _ (noteSel_holds _ _ h)

theorem readStep_holds (w p) (h : Holds k s) : Holds k (readStep w p s).2 := by
  unfold readStep
  dsimp only
  split
  · exact h
  · split
    · exact h
    · next e =>
        split
        · exact h
        · split
          · next e =>
              split <;> exact (holds_of_pair (Who.read_holds _ _ _ _ h) e)
          · next e => exact holds_of_pair (Who.read_holds _ _ _ _ h) e
          · next e => exact holds_of_pair (Who.read_holds _ _ _ _ h) e

theorem startMixedStep_holds (c) (h : Holds k s) : Holds k (startMixedStep c s).2 :=
  Rd.run_holds _ _ (readStep_holds _ _ h) (fun _ _ hu => updCmd_holds _ _ hu)

theorem checkEntry_holds (w m x earlier e) (h : Holds k s) : Holds k (checkEntry w m x earlier e s).2 := by
  unfold checkEntry
  dsimp only
  split
  · next e => exact holds_of_pair (xl_holds _ _ _ _ h) e
  · next e =>
      split
      · exact (holds_of_pair (xl_holds _ _ _ _ h) e)
      · split
        · exact writeVa_holds _ _ _ _ (holds_of_pair (xl_holds _ _ _ _ h) e)
        · split
          · next e' => exact holds_of_triple (readVa_holds _ _ _ _ _ (holds_of_pair (xl_holds _ _ _ _ h) e)) e'
          · next e' =>
              split
              · exact writeVa_holds _ _ _ _ ((holds_of_triple (readVa_holds _ _ _ _ _ (holds_of_pair (xl_holds _ _ _ _ h) e)) e'))
              · split
                · exact writeVa_holds _ _ _ _ ((holds_of_triple (readVa_holds _ _ _ _ _ (holds_of_pair (xl_holds _ _ _ _ h) e)) e'))
                · split
                  · exact writeVa_holds _ _ _ _ ((holds_of_triple (readVa_holds _ _ _ _ _ (holds_of_pair (xl_holds _ _ _ _ h) e)) e'))
                  · exact (holds_of_triple (readVa_holds _ _ _ _ _ (holds_of_pair (xl_holds _ _ _ _ h) e)) e')
  · next e =>
      split
      · exact (holds_of_pair (xl_holds _ _ _ _ h) e)
      · split
        · exact writeVa_holds _ _ _ _ (holds_of_pair (xl_holds _ _ _ _ h) e)
        · split
          · next e' => exact holds_of_triple (readVa_holds _ _ _ _ _ (holds_of_pair (xl_holds _ _ _ _ h) e)) e'
          · next e' =>
              split
              · exact writeVa_holds _ _ _ _ ((holds_of_triple (readVa_holds _ _ _ _ _ (holds_of_pair (xl_holds _ _ _ _ h) e)) e'))
              · split
                · exact writeVa_holds _ _ _ _ ((holds_of_triple (readVa_holds _ _ _ _ _ (holds_of_pair (xl_holds _ _ _ _ h) e)) e'))
                · split
                  · exact writeVa_holds _ _ _ _ ((holds_of_triple (readVa_holds _ _ _ _ _ (holds_of_pair (xl_holds _ _ _ _ h) e)) e'))
                  · exact (holds_of_triple (readVa_holds _ _ _ _ _ (holds_of_pair (xl_holds _ _ _ _ h) e)) e')
  · next e => exact holds_of_pair (xl_holds _ _ _ _ h) e

theorem checkEntries_holds (w m x d e) (h : Holds k s) : Holds k (checkEntries w m x d e s).2 := by
  fun_induction checkEntries w m x d e s <;> grind [checkEntry_holds]

theorem stepEntries_holds (c m es scratch) (h : Holds k s) : Holds k (stepEntries c m es scratch s).2 := by
  unfold stepEntries
  split
  · next e =>
      split
      · next e' => exact holds_of_triple (writeVa_holds _ _ _ _ (holds_of_pair (checkEntries_holds _ _ _ _ _ h) e)) e'
      · next e' => exact holds_of_triple (writeVa_holds _ _ _ _ (holds_of_pair (checkEntries_holds _ _ _ _ _ h) e)) e'
      · next e' => exact holds_of_triple (writeVa_holds _ _ _ _ (holds_of_pair (checkEntries_holds _ _ _ _ _ h) e)) e'
  · next e => exact holds_of_pair (checkEntries_holds _ _ _ _ _ h) e
  · next e => exact holds_of_pair (checkEntries_holds _ _ _ _ _ h) e

theorem failStep_holds (c st) (h : Holds k s) : Holds k (failStep c st s) := finish_holds _ _ (stepFailed_holds _ _ (stopCmd_holds _ h))

theorem runStage_holds (c m kk es scratch) (h : Holds k s) : Holds k (runStage c m kk es scratch s) := by
  grind [runStage, bindCores_holds, failStep_holds, updCmd_holds]

theorem enterStage_holds (c m kk es scratch) (h : Holds k s) : Holds k (enterStage c m kk es scratch s) := by
  unfold enterStage
  split
  · split
    · next e => exact runStage_holds _ _ _ _ _ (holds_of_pair (stepEntries_holds _ _ _ _ h) e)
    · next e => exact failStep_holds _ _ (holds_of_pair (stepEntries_holds _ _ _ _ h) e)
    · next e => exact holds_of_pair (stepEntries_holds _ _ _ _ h) e
  · exact runStage_holds _ _ _ _ _ h

theorem failStages_holds (lost) (h : Holds k s) : Holds k (failStages lost s) := by
  unfold failStages
  refine foldl_holds _ (fun _ _ hu => ?_) _ h
  split
  · split
    · exact failStep_holds _ _ hu
    · exact hu
  · exact hu

theorem putLengths_holds (c b) (h : Holds k s) : Holds k (putLengths c b s).2 := by
  fun_induction putLengths c b s <;> grind [writeVa_holds]

theorem endStep_holds (c es) (h : Holds k s) : Holds k (endStep c es s) := by
  unfold endStep
  dsimp only
  split
  · exact h
  · split
    · next e => exact holds_of_pair (writablePieces_holds _ _ _ h) e
    · next e => exact failStep_holds _ _ (holds_of_pair (writablePieces_holds _ _ _ h) e)
    · next e =>
        split
        · next e' => exact holds_of_pair (putLengths_holds _ _ (holds_of_pair (writablePieces_holds _ _ _ h) e)) e'
        · next e' => exact failStep_holds _ _ ((holds_of_pair (putLengths_holds _ _ (holds_of_pair (writablePieces_holds _ _ _ h) e)) e'))
        · next e' => exact finish_holds _ _ ((holds_of_pair (putLengths_holds _ _ (holds_of_pair (writablePieces_holds _ _ _ h) e)) e'))

theorem advanceStep_holds (y m kk es scratch) (h : Holds k s) : Holds k (advanceStep y m kk es scratch s) := by
  unfold advanceStep
  split
  · exact endStep_holds _ _ h
  · split
    · exact enterStage_holds _ _ _ _ _ h
    · exact h

theorem advanceSteps_holds (h : Holds k s) : Holds k (advanceSteps s) := by
  unfold advanceSteps
  refine foldl_holds _ (fun _ _ hu => ?_) _ h
  split
  · exact hu
  · split
    · split
      · exact advanceStep_holds _ _ _ _ _ hu
      · exact hu
    · exact hu

theorem execMixedStepStageEnd_holds (c) (h : Holds k s) : AnswerHolds k (execMixedStepStageEnd c s) := by
  unfold execMixedStepStageEnd
  split
  · exact fin_holds h
  · split
    · split
      · exact fin_holds (advanceSteps_holds (updCmd_holds _ _ h))
      · exact fin_holds h
    · exact fin_holds h

/-! ### Machine/Sched.lean -/

theorem bindAffinity_holds (ctx b) (h : Holds k s) : Holds k (bindAffinity ctx b s).2 := by
  unfold bindAffinity
  exact foldl_snd_holds _ (fun r x hr => affPieces_holds _ _ _ hr) _ _ h

theorem codeRun_holds {α : Type} (c) (r : Rd α × State) (f) (h : Holds k r.2) (hf : ∀ a u, Holds k u → Holds k (f a u).2) : Holds k (codeRun c r f).2 := by
  unfold codeRun
  repeat' split
  all_goals grind [setRes_holds]

theorem readLaunch_holds (w p code) (h : Holds k s) (hf : ∀ a b c u, Holds k u → Holds k (code a b c u).2) : Holds k (readLaunch w p code s).2 := by
  grind [readLaunch, Who.bind_holds]

theorem startLaunch_holds (c) (h : Holds k s) : Holds k (startLaunch c s).2 := by
  grind [startLaunch, codeRun_holds, readLaunch_holds, Cmd.code_holds, bindAffinity_holds, updCmd_holds, install_holds]

theorem settleCmd_holds (c) (h : Holds k s) : Holds k (settleCmd c s) := by
  unfold settleCmd
  dsimp only
  split
  · exact h
  · split
    · exact h
    · split
      · split
        · exact finish_holds _ _ h
        · split
          · exact updEx_frame_holds _ (fun _ => rfl) (finish_holds _ _ h)
          · exact h
      · split
        · exact finish_holds _ _ (stepFailed_holds _ _ h)
        · exact h
      · exact h

theorem park_holds (ids) (h : Holds k s) : Holds k (park ids s) := by
  unfold park
  split
  · exact h
  · exact overrunEnd_holds _ (updEx_frame_holds _ (fun _ => rfl) h)

theorem parkClass_holds (p c) (h : Holds k s) : Holds k (parkClass p c s) := park_holds _ h

theorem parkLate_holds (b) (h : Holds k s) : Holds k (parkLate b s) := by
  grind [parkLate, park_holds]

theorem rereadWait_holds (g) (h : Holds k s) : Holds k (rereadWait g s) := by
  unfold rereadWait
  split
  · next e =>
      split
      · next e => exact evalWait_holds _ _ _ (holds_of_triple (knotRead_holds _ _ h) e)
  · exact h

theorem unparkClass_holds (p c) (h : Holds k s) : Holds k (unparkClass p c s) :=
  foldl_holds _ (fun _ _ hu => rereadWait_holds _ hu) _ (updEx_frame_holds _ (fun _ => rfl) h)

theorem updClass_holds (p c f) (h : Holds k s) : Holds k (updClass p c f s) := updPart_holds _ _ h

theorem takeTurn_holds (p c) (h : Holds k s) : Holds k (takeTurn p c s) := unparkClass_holds _ _ (updClass_holds _ _ _ (updPart_holds _ _ h))

theorem passTurn_holds (p b c) (h : Holds k s) : Holds k (passTurn p b c s) := by
  fun_induction passTurn p b c s <;> grind [updPart_holds, takeTurn_holds, updClass_holds]

theorem endTurn_holds (p c) (h : Holds k s) : Holds k (endTurn p c s) := by
  unfold endTurn
  dsimp only
  split
  · exact passTurn_holds _ _ _ h
  · split
    · exact passTurn_holds _ _ _ h
    · split
      · exact parkClass_holds _ _ (passTurn_holds _ _ _ h)
      · exact updPart_holds _ _ (parkClass_holds _ _ (passTurn_holds _ _ _ h))

theorem schedPart_holds (p) (h : Holds k s) : Holds k (schedPart p s) := by
  unfold schedPart
  dsimp only
  split
  · exact h
  · split
    · split
      · exact h
      · exact passTurn_holds _ _ _ h
    · split
      · exact endTurn_holds _ _ h
      · split
        · exact updClass_holds _ _ _ (updPart_holds _ _ h)
        · split
          · exact updPart_holds _ _ h
          · exact h

theorem schedSettle_holds (h : Holds k s) : Holds k (schedSettle s) := foldl_holds _ (fun _ _ hu => schedPart_holds _ hu) _ h

theorem execTurnEnd_holds (part t) (h : Holds k s) : AnswerHolds k (execTurnEnd part t s) := by
  unfold execTurnEnd
  dsimp only
  split
  · exact fin_holds (schedPart_holds _ (State.at_holds _ h))
  · split
    · exact fin_holds (endTurn_holds _ _ (schedPart_holds _ (State.at_holds _ h)))
    · exact fin_holds (schedPart_holds _ (State.at_holds _ h))

theorem setDispatch_holds (c f) (h : Holds k s) : Holds k (setDispatch c f s) := updCmd_holds _ _ h

theorem execCoreClaim_holds (c t) (h : Holds k s) : AnswerHolds k (execCoreClaim c t s) := by
  unfold execCoreClaim
  dsimp only
  repeat' split
  all_goals grind [updCore_holds, fin_holds, State.at_holds]

end
end Sys2Proof.Machine


/-! What every step keeps: the functions of Render, Block, Issue, Access, Atomic, Page, Graph, Copy, KnotPkt, Snapshot, Kill. -/
namespace Sys2Proof.Machine
section
variable {k : KeptClaim} {s : State}

/-! ### Machine/Render.lean -/

theorem sigPages_holds (c b) (h : Holds k s) : Holds k (sigPages c b s).2 := by
  fun_induction sigPages c b s <;> grind [mapped_holds]

theorem readSurfaces_holds (w direct c) (h : Holds k s) : Holds k (readSurfaces w direct c s).2 := by
  fun_induction readSurfaces w direct c s <;> grind [sigPages_holds, Who.read_holds]

theorem poolWrite_holds (p unit ofs bs) (h : Holds k s) : Holds k (poolWrite p unit ofs bs s) := writeVa_holds _ _ _ _ (chargeVa_holds _ _ _ _ _ h)

theorem emptyPool_holds (p) (h : Holds k s) : Holds k (emptyPool p s) := poolWrite_holds _ _ _ _ (updPass_holds _ _ h)

theorem poolPages_holds (c b) (h : Holds k s) : Holds k (poolPages c b s).2 := by
  fun_induction poolPages c b s <;> grind [translate_holds]

theorem readBegin_holds (w p) (h : Holds k s) : Holds k (readBegin w p s).2 := by
  grind [readBegin, readSurfaces_holds, poolPages_holds]

theorem startPassBegin_holds (c) (h : Holds k s) : Holds k (startPassBegin c s).2 := by
  unfold startPassBegin
  dsimp only
  split
  · exact h
  · split
    · exact h
    · exact Rd.run_holds _ _ (readBegin_holds _ _ h) (fun _ _ hu => emptyPool_holds _ (updEx_frame_holds _ (fun _ => rfl) (updGx_holds _ hu)))

theorem indexList_holds (w kind ib cnt strip) (h : Holds k s) : Holds k (indexList w kind ib cnt strip s).2 := by
  unfold indexList
  dsimp only
  split
  · exact h
  · split
    · next e =>
        split <;> exact (holds_of_triple (readVa_holds _ _ _ _ _ h) e)
    · next e => exact holds_of_triple (readVa_holds _ _ _ _ _ h) e
    · next e => exact holds_of_triple (readVa_holds _ _ _ _ _ h) e

theorem readVertex_holds (w vb stride pc na i) (h : Holds k s) : Holds k (readVertex w vb stride pc na i s).2 := by
  unfold readVertex
  dsimp only
  split
  · next e =>
      split <;> exact (holds_of_triple (readVa_holds _ _ _ _ _ h) e)
  · next e => exact holds_of_triple (readVa_holds _ _ _ _ _ h) e
  · next e => exact holds_of_triple (readVa_holds _ _ _ _ _ h) e

theorem readVertices_holds (w vb stride pc na f) (h : Holds k s) : Holds k (readVertices w vb stride pc na f s).2 := by
  fun_induction readVertices w vb stride pc na f s <;> grind [readVertex_holds]

theorem binTile_holds (id kk ofs t) (h : Holds k s) : Holds k (binTile id kk ofs t s) := by
  unfold binTile
  dsimp only
  split
  · exact h
  · split
    · refine updPass_holds _ _ ?_
      refine poolWrite_holds _ _ _ _ ?_
      split
      · exact poolWrite_holds _ _ _ _ (poolWrite_holds _ _ _ _ (updPass_holds _ _ h))
      · exact poolWrite_holds _ _ _ _ (updPass_holds _ _ h)
    · split
      · exact updPass_holds _ _ h
      · exact poolWrite_holds _ _ _ _ (poolWrite_holds _ _ _ _ (updPass_holds _ _ h))

theorem placePrim_holds (p pr ts) (h : Holds k s) : Holds k (placePrim p pr ts s) :=
  foldl_holds _ (fun _ _ hu => binTile_holds _ _ _ _ hu) _ (updPass_holds _ _ (poolWrite_holds _ _ _ _ h))

theorem sigPrepare_holds (p x rq) (h : Holds k s) : Holds k (sigPrepare p x rq s).2 := by
  unfold sigPrepare
  dsimp only
  split
  · exact h
  · split
    · exact updGx_holds _ h
    · split
      · next e => exact updGx_holds _ (holds_of_triple (chargedWrite_holds _ _ _ _ _ _ h) e)
      · next e => exact holds_of_triple (chargedWrite_holds _ _ _ _ _ _ h) e

theorem sigInvalidate_holds (c page kk) (h : Holds k s) : Holds k (sigInvalidate c page kk s) := updGx_holds _ h

theorem beginRender_holds (id todo part c) (h : Holds k s) : Holds k (beginRender id todo part c s) := by
  unfold beginRender
  dsimp only
  refine reserveTiles_holds ?_
  split
  · exact updHi_holds _ (updPass_holds _ _ h)
  · exact updPass_holds _ _ h

theorem binLoop_holds (id c c') (h : Holds k s) : Holds k (binLoop id c c' s) := by
  fun_induction binLoop id c c' s <;> grind [beginRender_holds, finish_holds, failPass_holds, updPass_holds, placePrim_holds, writablePieces_holds]

theorem loadRows_holds (p x rq t e) (h : Holds k s) : Holds k (loadRows p x rq t e s).2 := by
  fun_induction loadRows p x rq t e s <;> grind [chargedRead_holds]

theorem loadTile_holds (p x rq t) (h : Holds k s) : Holds k (loadTile p x rq t s).2 := by
  unfold loadTile
  dsimp only
  split
  · exact h
  · exact h
  · next e =>
      split
      · split
        · next e => exact holds_of_triple (readTileBy_holds _ _ _ _ h (fun _ _ _ hu => chargedRead_holds _ _ _ _ _ _ hu)) e
        · next e => exact holds_of_triple (readTileBy_holds _ _ _ _ h (fun _ _ _ hu => chargedRead_holds _ _ _ _ _ _ hu)) e
        · next e => exact holds_of_triple (readTileBy_holds _ _ _ _ h (fun _ _ _ hu => chargedRead_holds _ _ _ _ _ _ hu)) e
      · exact loadRows_holds _ _ _ _ _ h

theorem loadAll_holds (p rq t d) (h : Holds k s) : Holds k (loadAll p rq t d s).2 := by
  fun_induction loadAll p rq t d s <;> grind [loadTile_holds]

theorem storeRows_holds (p x rq t bs f g) (h : Holds k s) : Holds k (storeRows p x rq t bs f g s).2.2 := by
  fun_induction storeRows p x rq t bs f g s <;> grind [chargedWrite_holds]

theorem storeTile_holds (p x rq t bs) (h : Holds k s) : Holds k (storeTile p x rq t bs s).2.2 := by
  grind [storeTile, chargedWrite_holds, storeRows_holds]

theorem discardTile_holds (p x t) (h : Holds k s) : Holds k (discardTile p x t s) := by
  unfold discardTile
  split
  · exact freePieces_holds _ _ h
  · split
    · exact freePieces_holds _ _ h

theorem freeAttachments_holds (p) (h : Holds k s) : Holds k (freeAttachments p s) := foldl_holds _ (fun _ _ hu => freePieces_holds _ _ hu) _ h

theorem storeOne_holds (p x rq t px) (h : Holds k s) : Holds k (storeOne p x rq t px s).2.2 := by
  grind [storeOne, chargedRead_holds, chargedWrite_holds, discardTile_holds, storeTile_holds]

theorem storeAll_holds (p rq t d e) (h : Holds k s) : Holds k (storeAll p rq t d e s).2.2 := by
  fun_induction storeAll p rq t d e s <;> grind [storeOne_holds]

theorem sigDropSurfaces_holds (ctx l) (h : Holds k s) : Holds k (sigDropSurfaces ctx l s) := updGx_holds _ h

theorem endRender_holds (id) (h : Holds k s) : Holds k (endRender id s) := by
  unfold endRender
  dsimp only
  split
  · exact h
  · split
    · split
      · split
        · exact finish_holds _ _ (updGx_holds _ (releaseTiles_holds _ h))
        · exact updGx_holds _ (releaseTiles_holds _ h)
      · exact updPass_holds _ _ h
    · split
      · exact binLoop_holds _ _ _ (updPass_holds _ _ (emptyPool_holds _ (releaseTiles_holds _ h)))
      · split
        · exact finish_holds _ _ (setRes_holds _ _ (updGx_holds _ (releaseTiles_holds _ h)))
        · exact updGx_holds _ (releaseTiles_holds _ h)

theorem finishTile_holds (p b) (h : Holds k s) : Holds k (finishTile p b s) := by
  unfold finishTile
  dsimp only
  split
  · split
    · refine endRender_holds _ ?_
      refine updPass_holds _ _ ?_
      split
      · exact sigDropSurfaces_holds _ _ (storeAll_holds _ _ _ _ _ h)
      · exact storeAll_holds _ _ _ _ _ h
    · refine updPass_holds _ _ ?_
      split
      · exact sigDropSurfaces_holds _ _ (storeAll_holds _ _ _ _ _ h)
      · exact storeAll_holds _ _ _ _ _ h
  · refine failPass_holds _ _ _ ?_
    split
    · exact sigDropSurfaces_holds _ _ (storeAll_holds _ _ _ _ _ h)
    · exact storeAll_holds _ _ _ _ _ h
  · refine updPass_holds _ _ ?_
    split
    · exact sigDropSurfaces_holds _ _ (storeAll_holds _ _ _ _ _ h)
    · exact storeAll_holds _ _ _ _ _ h

theorem takeTile_holds (p kk) (h : Holds k s) : Holds k (takeTile p kk s) := by
  unfold takeTile
  split
  · exact h
  · next e =>
      split
      · next e => exact updPass_holds _ _ (holds_of_pair (loadAll_holds _ _ _ _ h) e)
      · next e => exact failPass_holds _ _ _ (holds_of_pair (loadAll_holds _ _ _ _ h) e)
      · next e => exact holds_of_pair (loadAll_holds _ _ _ _ h) e

theorem launchTile_holds (p b) (h : Holds k s) {t : State} (e : launchTile p b s = some t) : Holds k t := by
  unfold launchTile at e
  split at e
  · cases e
  split at e
  · cases e
  split at e
  · cases e
  dsimp only at e
  split at e
  · cases e
  split at e
  · cases e
  cases e
  refine updPass_holds _ _ ?_
  split
  · exact updCmd_holds _ _ (updGrp_holds _ _ (placeBlock_holds _ _ _ _ _ _ _ h))
  · exact updGrp_holds _ _ (placeBlock_holds _ _ _ _ _ _ _ h)

theorem prepStep_holds (p x) (h : Holds k s) : Holds k (prepStep p x s) := by
  unfold prepStep
  split
  · next e => exact updPass_holds _ _ (holds_of_pair (sigPrepare_holds _ _ _ h) e)
  · next e => exact failPass_holds _ _ _ (holds_of_pair (sigPrepare_holds _ _ _ h) e)
  · next e => exact holds_of_pair (sigPrepare_holds _ _ _ h) e

theorem firstSome_holds {α : Type} (f : α → Option State) (l : List α) (hf : ∀ a t, f a = some t → Holds k t) {t : State} (e : firstSome f l = some t) :
    Holds k t := by
  induction l with
  | nil => cases e
  | cons a r ih =>
    unfold firstSome at e
    split at e
    · next u ea => cases e; exact hf a _ ea
    · exact ih e

theorem tileDispatch_holds (p) (h : Holds k s) {t : State} (e : tileDispatch p s = some t) : Holds k t := by
  unfold tileDispatch at e
  dsimp only at e
  split at e
  · split at e
    · cases e
    · cases e; exact prepStep_holds _ _ h
  split at e
  · cases e; exact finishTile_holds _ _ h
  split at e
  · next u eu =>
    cases e
    exact firstSome_holds _ _ (fun b v ev => launchTile_holds _ _ h ev) eu
  split at e
  · split at e
    · cases e; exact endRender_holds _ h
    · cases e
  split at e
  · obtain ⟨c, hc, rfl⟩ := Option.map_eq_some_iff.mp e
    exact takeTile_holds _ _ h
  · cases e

theorem tileGroupEnd_holds (pid j) (h : Holds k s) : Holds k (tileGroupEnd pid j s) := by
  unfold tileGroupEnd
  dsimp only
  split
  · exact h
  · split
    · exact h
    · split
      · exact finishTile_holds _ _ (updPass_holds _ _ h)
      · exact updPass_holds _ _ h

theorem readDrawHead_holds (w p direct ncol code) (h : Holds k s) (hf : ∀ a b c u, Holds k u → Holds k (code a b c u).2) :
    Holds k (readDrawHead w p direct ncol code s).2 := by
  grind [readDrawHead.eq_def, readVa_holds, Who.bind_holds]

theorem readDraw_holds (c direct ncol drawNo f) (h : Holds k s) (hf : ∀ a b c d u, Holds k u → Holds k (f a b c d u).2) :
    Holds k (readDraw c direct ncol drawNo s f).2 := by
  grind [readDraw, readVertices_holds, readDrawHead_holds, indexList_holds, codeRun_holds, Cmd.code_holds, chargeVa_holds, Rd.run_holds]

theorem startDraw_holds (c) (h : Holds k s) : Holds k (startDraw c s).2 := by
  unfold startDraw
  dsimp only
  repeat' split
  all_goals grind [freeAttachments_holds, updPass_holds, readDraw_holds, updCmd_holds, binLoop_holds, install_holds]

theorem startPassEnd_holds (c) (h : Holds k s) : Holds k (startPassEnd c s).2 := by
  unfold startPassEnd
  dsimp only
  split
  · exact h
  · split
    · exact setRes_holds _ _ (updGx_holds _ h)
    · split
      · exact h
      · exact beginRender_holds _ _ _ _ (updCmd_holds _ _ h)

theorem readTargets_holds (w p) (h : Holds k s) : Holds k (readTargets w p s).2 := by
  grind [readTargets, readSurfaces_holds]

theorem startDirect_holds (c) (h : Holds k s) : Holds k (startDirect c s).2 := by
  unfold startDirect
  split
  · exact h
  · refine Rd.run_holds _ _ (readTargets_holds _ _ h) (fun _ _ hu => ?_)
    refine readDraw_holds _ _ _ _ _ hu (fun _ _ _ _ _ hu => ?_)
    split
    · next e =>
        split
        · exact (holds_of_pair (install_holds _ hu) e)
        · exact reserveTiles_holds (updCmd_holds _ _ (updEx_frame_holds _ (fun _ => rfl) (updGx_holds _ (holds_of_pair (install_holds _ hu) e))))

theorem advanceDraws_holds (h : Holds k s) : Holds k (advanceDraws s) := by
  unfold advanceDraws
  refine foldl_holds _ (fun _ _ hu => ?_) _ h
  split
  · split
    · exact binLoop_holds _ _ _ hu
    · exact hu
  · exact hu

/-! ### Machine/Block.lean -/

theorem placeDispatch_holds (c d c' d') (h : Holds k s) : Holds k (placeDispatch c d c' d' s) := by
  fun_induction placeDispatch c d c' d' s <;> grind [placeBlock_holds]

theorem dispatched_holds (c n) (h : Holds k s) : Holds k (dispatched c n s) := by
  unfold dispatched
  refine updEx_mapCores_holds _ _ rfl (fun x => ?_) (updCmd_holds _ _ (setDispatch_holds _ _ h))
  split <;> rfl

theorem tryCands_holds (part b) (h : Holds k s) : Holds k (tryCands part b s) := by
  fun_induction tryCands part b s <;> grind [tileDispatch_holds, placeDispatch_holds, setDispatch_holds, dispatched_holds]

theorem execBlockDispatch_holds (part) (h : Holds k s) : AnswerHolds k (execBlockDispatch part s) := by
  unfold execBlockDispatch
  dsimp only
  split
  · exact fin_holds (schedPart_holds _ (tryCands_holds _ _ (reserveTiles_holds (schedPart_holds _ h))))
  · exact fin_holds (reserveTiles_holds (schedPart_holds _ h))

/-! ### Machine/Issue.lean -/

theorem loseWrites_holds (w x) (h : Holds k s) : Holds k (loseWrites w x s) := h

theorem issue_holds (cls ops g w ext f) (h : Holds k s) (hf : ∀ x b u, Holds k u → Holds k (f x b u)) : AnswerHolds k (issue cls ops g w ext s f) := by
  grind [issue, fin_holds, trapG_holds, updGrp_holds, loseWrites_holds]

theorem putG_holds (g) (h : Holds k s) : Holds k (putG g s) := updGrp_holds _ _ h

theorem wake_holds (ids) (h : Holds k s) : Holds k (wake ids s) := updEx_frame_holds _ (fun _ => rfl) h

theorem releaseBars_holds (b) (h : Holds k s) : Holds k (releaseBars b s) := by
  grind [releaseBars, dropFar_holds, wake_holds, foldl_holds]

theorem endGroup_holds (g b) (h : Holds k s) : Holds k (endGroup g b s) := by
  unfold endGroup
  dsimp only
  split
  · exact schedPart_holds _ (parkLate_holds _ (releaseBars_holds _ (updEx_frame_holds _ (fun _ => rfl) h)))
  · refine schedPart_holds _ ?_
    split
    · exact settleCmd_holds _ (releaseBars_holds _ (dropBlocks_holds _ (updEx_frame_holds _ (fun _ => rfl) h)))
    · exact tileGroupEnd_holds _ _ (releaseBars_holds _ (dropBlocks_holds _ (updEx_frame_holds _ (fun _ => rfl) h)))
    · exact releaseBars_holds _ (dropBlocks_holds _ (updEx_frame_holds _ (fun _ => rfl) h))

theorem settleGroup_holds (g b) (h : Holds k s) : Holds k (settleGroup g b s) := by
  unfold settleGroup
  split
  · exact putG_holds _ h
  · exact endGroup_holds _ _ h

theorem stallG_holds (g) (h : Holds k s) : Holds k (stallG g s) := by
  unfold stallG
  split
  · exact updGrp_holds _ _ h
  · split
    · exact updGrp_holds _ _ h
    · exact h

theorem await_holds (g stores) (h : Holds k s) : Holds k (await g stores s) := updGrp_holds _ _ h

theorem failOwner_holds (g st) (h : Holds k s) : Holds k (failOwner g st s) := by
  unfold failOwner
  split
  · exact finish_holds _ _ (stepFailed_holds _ _ (stopCmd_holds _ h))
  · exact braidFault_holds _ _ _ h
  · exact failPass_holds _ _ _ (stopOwner_holds _ h)
  · exact h

theorem lmStore_holds (core a bs) (h : Holds k s) : Holds k (lmStore core a bs s) := by
  unfold lmStore
  dsimp only
  split
  · exact lmWrite_holds _ _ _ _ h
  · exact foldl_holds _ (fun _ _ hu => lmWrite_holds _ _ _ _ hu) _ h

theorem devLanes_cons (c n : Nat) (a' : Access) (rq : Rq) (l a : Nat) (p : Bool) (r : List (Nat × Nat × Bool)) (s : State) :
    devLanes c n a' rq ((l, a, p) :: r) s =
      if p then (.trap 0x0501, s)
      else if a % n ≠ 0 then (.trap 0x0114, s)
      else match xl c a a' rq s with
        | (.fail st, s) => (.trap st, s)
        | (.stall, s) => (.stall, s)
        | (x, s) =>
          (match devLanes c n a' rq r s with
           | (.ok ls, s) => (.ok ((l, match x with | .ok pl => some pl | _ => none) :: ls), s)
           | (y, s) => (y, s)) := by
  rfl

theorem devLanes_holds (c n kk rq l) (h : Holds k s) : Holds k (devLanes c n kk rq l s).2 := by
  induction l generalizing s with
  | nil => exact h
  | cons x r ih =>
    obtain ⟨i, a, p⟩ := x
    have hx := xl_holds c a kk rq h
    rw [devLanes_cons]
    revert hx
    generalize xl c a kk rq s = o
    obtain ⟨o, u⟩ := o
    intro hu
    have hr := ih hu
    have hm : ∀ pl : LanePl, Holds k (match devLanes c n kk rq r u with
        | (.ok ls, s) => ((.ok ((i, pl) :: ls), s) : LaneAns (List (Nat × LanePl)) × State)
        | (y, s) => (y, s)).2 := by
      intro pl
      revert hr
      generalize devLanes c n kk rq r u = o
      obtain ⟨o, v⟩ := o
      intro hv
      cases o <;> exact hv
    split
    · exact h
    split
    · exact h
    cases o with
    | ok pl => exact hm (some pl)
    | zero => exact hm none
    | fail st => exact hu
    | stall => exact hu

theorem remoteAsk_holds (g b va k' dev off store dst at') (h : Holds k s) : Holds k (remoteAsk g b va k' dev off store dst at' s) := linkTx_holds _ h

theorem remoteIssue_holds (g b va k' dev off store dst) (h : Holds k s) : Holds k (remoteIssue g b va k' dev off store dst s) :=
  remoteAsk_holds _ _ _ _ _ _ _ _ _ h

theorem downAccess_holds (g store l) (h : Holds k s) : Holds k (downAccess g store l s) := by
  grind [downAccess, linkDrop_holds, failOwner_holds, linkTimeout_holds, foldl_holds]

theorem loadFrom_holds (g b va pl n) (h : Holds k s) : Holds k (loadFrom g b va pl n s).2 := readAs_holds _ _ _ _ _ h

theorem storeTo_holds (g b pl bs) (h : Holds k s) : Holds k (storeTo g b pl bs s) := farStore_holds _ _ _ (writePlace_holds _ _ _ h)

theorem acquireFar_holds (w g b) (h : Holds k s) : Holds k (acquireFar w g b s) := by
  unfold acquireFar
  split
  · exact dropFar_holds _ h
  · exact h

theorem acquireLater_holds (w g b) (h : Holds k s) : Holds k (acquireLater w g b s) := by
  unfold acquireLater
  dsimp only
  split <;> exact h

theorem loadLanes_holds (g b r sz sext ad g') (h : Holds k s) : Holds k (loadLanes g b r sz sext ad g' s).2 := by
  fun_induction loadLanes g b r sz sext ad g' s <;> grind [loadFrom_holds, remoteIssue_holds, foldl_holds]

theorem storeLanes_holds (g b data ad e) (h : Holds k s) : Holds k (storeLanes g b data ad e s) := by
  fun_induction storeLanes g b data ad e s <;> grind [storeTo_holds, remoteIssue_holds]

theorem freeOrder_holds {α : Type} (b : ℕ) (c : List α) (h : Holds k s) : Holds k (freeOrder b c s).2 := by
  fun_induction freeOrder b c s <;> grind [State.draw_holds]

theorem anyOrder_holds {α β : Type} [BEq β] (key : α → Option β) (l : List α) (h : Holds k s) : Holds k (anyOrder key l s).2 := by
  unfold anyOrder
  dsimp only
  split
  · exact h
  · exact freeOrder_holds _ _ h

theorem laneStores_holds (g b n data ad ls) (h : Holds k s) : Holds k (laneStores g b n data ad ls s) := by
  unfold laneStores
  dsimp only
  split
  · exact storeLanes_holds _ _ _ _ _ h
  · split
    · exact storeLanes_holds _ _ _ _ _ (freeOrder_holds _ _ h)
    · exact storeLanes_holds _ _ _ _ _ (freeOrder_holds _ _ (storeLanes_holds _ _ _ _ _ (freeOrder_holds _ _ h)))

/-! ### Machine/Access.lean -/

theorem execLdl_holds (g w ext) (h : Holds k s) : AnswerHolds k (execLdl g w ext s) := by
  unfold execLdl
  refine issue_holds _ _ _ _ _ _ h (fun _ _ _ hu => ?_)
  dsimp only
  split
  · exact trapG_holds _ _ hu
  · exact putG_holds _ (acquireFar_holds _ _ _ hu)

theorem execStl_holds (g w ext) (h : Holds k s) : AnswerHolds k (execStl g w ext s) := by
  unfold execStl
  refine issue_holds _ _ _ _ _ _ h (fun _ _ _ hu => ?_)
  dsimp only
  split
  · exact await_holds _ _ hu
  · split
    · exact trapG_holds _ _ hu
    · exact putG_holds _ (foldl_holds _ (fun _ _ hu => lmStore_holds _ _ _ hu) _ hu)

theorem loadDone_holds (w r sz sext l x b) (h : Holds k s) : Holds k (loadDone w r sz sext l x b s) := acquireLater_holds _ _ _ (putG_holds _ h)

theorem execLdg_holds (g w ext) (h : Holds k s) : AnswerHolds k (execLdg g w ext s) := by
  refine issue_holds _ _ _ _ _ _ h fun x b u hu => ?_
  have hd := devLanes_holds b.ctx (sizeBytes (iType w)) .load (rqG x) (devAddrs x w ext (memOfs w) (execMask x w)) hu
  dsimp only
  split
  · next e => exact trapG_holds _ _ (holds_of_pair hd e)
  · next e => exact stallG_holds _ (holds_of_pair hd e)
  next ls v e =>
  have hv := holds_of_pair hd e
  split
  · exact downAccess_holds _ _ _ (putG_holds _ hv)
  split
  · exact hv
  · next e => exact loadDone_holds _ _ _ _ _ _ _ (loadLanes_holds _ _ _ _ _ _ _ (acquireFar_holds _ _ _ (bulk_holds _ _ hv e)))

theorem execStg_holds (g w ext) (h : Holds k s) : AnswerHolds k (execStg g w ext s) := by
  refine issue_holds _ _ _ _ _ _ h fun x b u hu => ?_
  have hd := devLanes_holds b.ctx (sizeBytes (iType w)) .store (rqG x) (devAddrs x w ext (memOfs w) (execMask x w)) hu
  dsimp only
  split
  · exact await_holds _ _ hu
  split
  · next e => exact trapG_holds _ _ (holds_of_pair hd e)
  · next e => exact stallG_holds _ (holds_of_pair hd e)
  next ls v e =>
  have hv := holds_of_pair hd e
  split
  · exact trapG_holds _ _ hv
  split
  · exact downAccess_holds _ _ _ (putG_holds _ hv)
  split
  · exact hv
  · next e => exact putG_holds _ (laneStores_holds _ _ _ _ _ _ (bulk_holds _ _ hv e))

theorem bankRead_holds (x b bank o n) (h : Holds k s) : Holds k (bankRead x b bank o n s).2 := by
  unfold bankRead
  dsimp only
  split
  · exact h
  · exact h
  · next e =>
      split
      · exact h
      · next e =>
          split
          · exact h
          · split
            · exact h
            · split
              · exact h
              · split
                · next e => exact holds_of_triple (readVa_holds _ _ _ _ _ h) e
                · next e => exact holds_of_triple (readVa_holds _ _ _ _ _ h) e
                · next e => exact holds_of_triple (readVa_holds _ _ _ _ _ h) e

theorem execLdc_holds (g w ext) (h : Holds k s) : AnswerHolds k (execLdc g w ext s) := by
  unfold execLdc
  refine issue_holds _ _ _ _ _ _ h (fun _ _ _ hu => ?_)
  dsimp only
  split
  · exact trapG_holds _ _ hu
  · split
    · next e => exact trapG_holds _ _ (holds_of_pair (bankRead_holds _ _ _ _ _ hu) e)
    · next e => exact stallG_holds _ (holds_of_pair (bankRead_holds _ _ _ _ _ hu) e)
    · next e => exact putG_holds _ (holds_of_pair (bankRead_holds _ _ _ _ _ hu) e)

/-! ### Machine/Atomic.lean -/

theorem atomOrder_holds {α : Type} (w : W64) (l : List α) (h : Holds k s) : Holds k (atomOrder w l s).2 := by
  unfold atomOrder
  split
  · exact freeOrder_holds _ _ h
  · exact h

theorem atomLm_holds (w ext g d) (h : Holds k s) : Holds k (atomLm w ext g d s).2 := by
  fun_induction atomLm w ext g d s <;> grind [lmStore_holds]

theorem atomDev_holds (w ext g b ad f g') (h : Holds k s) : Holds k (atomDev w ext g b ad f g' s).2 := by
  fun_induction atomDev w ext g b ad f g' s <;> grind [remoteAsk_holds, storeTo_holds, remoteIssue_holds, readPlace_holds]

theorem atomDone_holds (w l x b) (h : Holds k s) : Holds k (atomDone w l x b s) := acquireLater_holds _ _ _ (putG_holds _ h)

theorem execAtom_holds (g w ext) (h : Holds k s) : AnswerHolds k (execAtom g w ext s) := by
  refine issue_holds _ _ _ _ _ _ h fun x b u hu => ?_
  have hd := devLanes_holds b.ctx (atomBytes w) .atomic (rqG x) (devAddrs x w ext 0 (execMask x w)) hu
  dsimp only
  split
  · exact await_holds _ _ hu
  split
  · split
    · exact trapG_holds _ _ hu
    split
    · next e => exact trapG_holds _ _ (holds_of_pair hd e)
    · next e => exact stallG_holds _ (holds_of_pair hd e)
    next ls v e =>
    have hv := holds_of_pair hd e
    split
    · exact downAccess_holds _ _ _ (putG_holds _ hv)
    split
    · exact hv
    · next e => exact atomDone_holds _ _ _ _ (atomDev_holds _ _ _ _ _ _ _ (acquireFar_holds _ _ _ (atomOrder_holds _ _ (bulk_holds _ _ hv e))))
  · split
    · exact trapG_holds _ _ hu
    · exact atomDone_holds _ _ _ _ (acquireFar_holds _ _ _ (atomLm_holds _ _ _ _ (atomOrder_holds _ _ hu)))

/-! ### Machine/Page.lean -/

theorem mirrorOne_holds (old new fn) (h : Holds k s) : Holds k (mirrorOne old new fn s) := by
  unfold mirrorOne
  dsimp only
  split
  · exact h
  · split
    · exact updHi_holds _ h
    · refine updHi_holds _ ?_
      refine foldl_holds _ (fun _ _ hu => hostWrite_holds _ _ _ hu) _ ?_
      split
      · exact hostWrite_holds _ _ _ h
      · exact h

theorem publishNow_holds (h : Holds k s) : Holds k (publishNow s) :=
  foldl_holds _ (fun _ _ hu => mirrorOne_holds _ _ _ hu) _ (updHi_holds _ (xlUpd_holds _ h))

theorem publish_holds (h : Holds k s) : Holds k (publish s) := by
  unfold publish
  split
  · exact h
  · split
    · exact hold_holds _ h
    · exact publishNow_holds h

theorem execEpochPublication_holds (h : Holds k s) : AnswerHolds k (execEpochPublication s) := fin_holds (publish_holds h)

/-! ### Machine/Graph.lean -/

theorem Rd.code_holds {α : Type} (f) (r : Rd α × State) (h : Holds k r.2) : Holds k (Rd.code f r).2 := by
  unfold Rd.code
  repeat' split
  all_goals grind

theorem checkContent_holds (w ncol p) (h : Holds k s) : Holds k (checkContent w ncol p s).2 := by
  have hc : ∀ a b c u, Holds k u → Holds k (w.code a b c u).2 := fun a b c u hu => Who.code_holds w a b c hu
  have hk : ∀ a : Access, Holds k (match knotAddr w.ctx (dq p 8) a w.rq s with
      | (.bad, s) => ((.fail St.knotAddress 0, s) : Rd (Option Code) × State)
      | (.fail st, s) => (.fail st 0, s)
      | (.stall, s) => (.stall, s)
      | (.ok (.host _), s) => (if a == Access.load then .fail St.knotAddress 0 else .ok none, s)
      | (_, s) => (.ok none, s)).2 := by
    intro a
    have hr := knotAddr_holds w.ctx (dq p 8) a w.rq h
    revert hr
    generalize knotAddr w.ctx (dq p 8) a w.rq s = r
    obtain ⟨o, u⟩ := r
    intro hr
    cases o with
    | ok pl => cases pl <;> exact hr
    | bad => exact hr
    | zero => exact hr
    | fail st => exact hr
    | stall => exact hr
  have ht := readTargets_holds w p h
  unfold checkContent
  dsimp only
  refine updCmd_holds _ _ ?_
  split
  · exact h
  · exact Rd.code_holds _ _ (readLaunch_holds _ _ _ h hc)
  · exact Rd.code_holds _ _ (readStep_holds _ _ h)
  · exact hk .store
  · exact hk .load
  · split
    · exact h
    · exact Rd.code_holds _ _ (readBegin_holds _ _ h)
  · exact Rd.code_holds _ _ (readDrawHead_holds _ _ _ _ _ h hc)
  · split
    · next e => exact Rd.code_holds _ _ (readDrawHead_holds _ _ _ _ _ (holds_of_pair ht e) hc)
    · exact Rd.code_holds _ _ ht
  · exact h
  · exact h
  · exact h

theorem checkPkts_holds (w ctx c d e) (h : Holds k s) : Holds k (checkPkts w ctx c d e s).2 := by
  fun_induction checkPkts w ctx c d e s <;> grind [checkContent_holds]

theorem graphFail_holds (c st n o) (h : Holds k s) : Holds k (graphFail c st n o s).2 := setRes_holds _ _ h

theorem installNumbered_holds (a) (h : Holds k s) : Holds k (installNumbered a s).2 := by
  fun_induction installNumbered a s <;> grind [install_holds]

theorem startGraphRecord_holds (c) (h : Holds k s) : Holds k (startGraphRecord c s).2 := by
  unfold startGraphRecord
  dsimp only
  split
  · exact h
  · split
    · exact h
    · split
      · next e => exact holds_of_triple (readVa_holds _ _ _ _ _ h) e
      · next e => exact holds_of_triple (readVa_holds _ _ _ _ _ h) e
      · next e =>
          split
          · exact graphFail_holds _ _ _ _ (holds_of_triple (readVa_holds _ _ _ _ _ h) e)
          · next e' =>
              split
              · next e' => exact graphFail_holds _ _ _ _ ((holds_of_pair (checkPkts_holds _ _ _ _ _ (holds_of_triple (readVa_holds _ _ _ _ _ h) e)) e'))
              · next e' => exact holds_of_pair (checkPkts_holds _ _ _ _ _ (holds_of_triple (readVa_holds _ _ _ _ _ h) e)) e'
              · next e' => exact updGraph_holds _ _ (installNumbered_holds _ ((holds_of_pair (checkPkts_holds _ _ _ _ _ (holds_of_triple
                  (readVa_holds _ _ _ _ _ h) e)) e')))

theorem applyPatches_holds (w b c) (h : Holds k s) : Holds k (applyPatches w b c s).2 := by
  fun_induction applyPatches w b c s <;> grind [Who.read_holds]

theorem startGraphSplice_holds (c) (h : Holds k s) : Holds k (startGraphSplice c s).2 := by
  unfold startGraphSplice
  dsimp only
  split
  · exact h
  · split
    · exact h
    · split
      · exact h
      · split
        · exact h
        · next e =>
            split
            · exact h
            · refine Rd.run_holds _ _ (Who.read_holds _ _ _ _ h) (fun _ _ hu => ?_)
              refine Rd.run_holds _ _ (applyPatches_holds _ _ _ hu) (fun _ _ hu => ?_)
              split
              · next e => exact graphFail_holds _ _ _ _ (holds_of_pair (checkPkts_holds _ _ _ _ _ hu) e)
              · next e => exact holds_of_pair (checkPkts_holds _ _ _ _ _ hu) e
              · next e => exact settleGraph_holds _ (updGraph_holds _ _ (installNumbered_holds _ (holds_of_pair (checkPkts_holds _ _ _ _ _ hu) e)))

theorem bindGraph_holds (c) (h : Holds k s) : Holds k (bindGraph c s) := by
  unfold bindGraph
  dsimp only
  split
  · exact h
  · split
    · exact h
    · exact updCmd_holds _ _ (updGraph_holds _ _ h)

theorem startGraphLaunch_holds (c) (h : Holds k s) : Holds k (startGraphLaunch c s).2 := by
  unfold startGraphLaunch
  dsimp only
  split
  · split
    · exact h
    · exact bindGraph_holds _ h
  · split
    · exact h
    · exact bindGraph_holds _ h

theorem startGraphFree_holds (c) (h : Holds k s) : Holds k (startGraphFree c s).2 := by
  unfold startGraphFree
  dsimp only
  split
  · exact settleGraph_holds _ (updGraph_holds _ _ h)
  · exact h

/-! ### Machine/Copy.lean -/

theorem xferPl_holds (ctx va kk rq) (h : Holds k s) : Holds k (xferPl ctx va kk rq s).2 := by
  grind [xferPl, linkDrop_holds, linkTimeout_holds, xl_holds]

theorem xferSrc_holds (x ctx rq n) (h : Holds k s) : Holds k (xferSrc x ctx rq n s).2 := by
  unfold xferSrc
  split
  · exact h
  · exact xferPl_holds _ _ _ _ h

theorem xferBytes_holds (x fn n kk src) (h : Holds k s) : Holds k (xferBytes x fn n kk src s).2 := by
  unfold xferBytes
  split
  · exact h
  · exact readPlace_holds _ _ _ h
  · exact h

theorem xferStore_holds (ctx va rq dst bs) (h : Holds k s) : Holds k (xferStore ctx va rq dst bs s).2.2 := by
  unfold xferStore
  dsimp only
  split
  · exact h
  · exact hostWrite_holds _ _ _ h
  · exact remotePost_holds _ _ _ _ _ (writePlace_holds _ _ _ h)
  · exact writePlace_holds _ _ _ h

theorem xferLoop_holds (x ctx rq) (f n) (h : Holds k s) : Holds k (xferLoop x ctx rq f n s).2.2 := by
  induction f generalizing n s with
  | zero => exact h
  | succ f ih =>
    unfold xferLoop
    have hs := xferSrc_holds x ctx rq n h
    split
    · exact h
    dsimp only
    split
    · next e => exact holds_of_pair hs e
    · next e => exact holds_of_pair hs e
    next src u e =>
    have hu := holds_of_pair hs e
    have hd := xferPl_holds ctx (x.at' x.dst x.dp n) .store rq hu
    split
    · next e => exact holds_of_pair hd e
    · next e => exact holds_of_pair hd e
    next dst v e =>
    have hv := holds_of_pair hd e
    split
    · exact hv
    next w e =>
    have hw := xferBytes_holds x (ctxFn w ctx) n (x.run n) src (bulk_holds _ _ hv e)
    have hx := xferStore_holds ctx (x.at' x.dst x.dp n) rq dst (xferBytes x (ctxFn w ctx) n (x.run n) src w).1 hw
    split
    · next e => exact holds_of_triple hx e
    · next e => exact ih _ (holds_of_triple hx e)

theorem freeDst_holds (x ctx) (n1 n2) (h : Holds k s) : Holds k (freeDst x ctx n1 n2 s) := by
  induction n1 generalizing n2 s with
  | zero => exact h
  | succ f ih =>
    unfold freeDst
    have ht := translate_holds ctx (x.at' x.dst x.dp n2) .store h
    split
    · exact h
    · dsimp only
      split
      · next u e =>
        have hu : Holds k u := (congrArg (Holds k ·.2) e).mp ht
        refine ih _ (writePlace_holds _ _ _ ?_)
        exact setFreeCtr_holds _ hu
      · next e => exact ih _ ((congrArg (Holds k ·.2) e).mp ht)

theorem xferPieces_holds (x ctx load d e f) (h : Holds k s) : Holds k (xferPieces x ctx load d e f s).2 := by
  fun_induction xferPieces x ctx load d e f s <;> grind [translate_holds]

theorem aliased_holds (x ctx) (h : Holds k s) : Holds k (aliased x ctx s).2 := by
  unfold aliased
  split
  · exact h
  · exact xferPieces_holds _ _ _ _ _ _ (xferPieces_holds _ _ _ _ _ _ h)

theorem runXfer_holds (c x eng) (h : Holds k s) : Holds k (runXfer c x eng s).2 := by
  unfold runXfer
  split
  · next e => exact updCmd_holds _ _ (holds_of_triple (xferLoop_holds _ _ _ _ _ h) e)
  · next e =>
      refine setRes64_holds _ _ ?_
      split
      · exact freeDst_holds _ _ _ _ (holds_of_triple (xferLoop_holds _ _ _ _ _ h) e)
      · exact (holds_of_triple (xferLoop_holds _ _ _ _ _ h) e)
  · next e =>
      refine setRes64_holds _ _ ?_
      split
      · exact freeDst_holds _ _ _ _ (aliased_holds _ _ (holds_of_triple (xferLoop_holds _ _ _ _ _ h) e))
      · exact aliased_holds _ _ (holds_of_triple (xferLoop_holds _ _ _ _ _ h) e)

theorem startCopy_holds (c) (h : Holds k s) : Holds k (startCopy c s).2 := by
  unfold startCopy
  split
  · exact h
  · exact runXfer_holds _ _ _ h

theorem stopXfer_holds (c timeout) (h : Holds k s) : Holds k (stopXfer c timeout s) := by
  unfold stopXfer
  dsimp only
  split
  · exact setRes64_holds _ _ (freeDst_holds _ _ _ _ h)
  · exact h

/-! ### Machine/KnotPkt.lean -/

theorem knotGo_holds (c kk f) (h : Holds k s) (hf : ∀ a u, Holds k u → Holds k (f a u).2) : Holds k (knotGo c kk s f).2 := by
  grind [knotGo, knotAddr_holds]

theorem startKnotSignal_holds (c) (h : Holds k s) : Holds k (startKnotSignal c s).2 := by
  unfold startKnotSignal
  refine knotGo_holds _ _ _ h (fun _ _ hu => ?_)
  dsimp only
  split
  · exact hu
  · next e => exact signal_holds _ _ _ ((addSigs_holds _ _ hu e))

theorem registerWait_holds (c pl) (h : Holds k s) : Holds k (registerWait c pl s) := by
  unfold registerWait
  split
  · next e => exact knotWaitEval_holds _ _ _ (updEx_frame_holds _ (fun _ => rfl) (updCmd_holds _ _ (holds_of_triple (knotRead_holds _ _ h) e)))

theorem startKnotWait_holds (c) (h : Holds k s) : Holds k (startKnotWait c s).2 := by
  unfold startKnotWait
  refine knotGo_holds _ _ _ h (fun _ _ hu => ?_)
  split
  · exact hu
  · split
    · exact hu
    · exact registerWait_holds _ _ hu

theorem remoteWaiters_holds (pl) (h : Holds k s) : Holds k (remoteWaiters pl s).2 := by
  unfold remoteWaiters
  split <;> exact h

theorem startKnotReset_holds (c) (h : Holds k s) : Holds k (startKnotReset c s).2 := by
  unfold startKnotReset
  dsimp only
  split
  · next e => exact holds_of_pair (knotAddr_holds _ _ _ _ h) e
  · next e =>
      split
      · exact knotLink_holds _ (holds_of_pair (knotAddr_holds _ _ _ _ h) e)
      · split
        · exact knotLink_holds _ (remoteWaiters_holds _ (holds_of_pair (knotAddr_holds _ _ _ _ h) e))
        · exact knotResetNow_holds _ _ _ (remoteWaiters_holds _ (holds_of_pair (knotAddr_holds _ _ _ _ h) e))
  · next e => exact holds_of_pair (knotAddr_holds _ _ _ _ h) e

/-! ### Machine/Snapshot.lean -/

theorem snapOuts_holds (h : Holds k s) : Holds k (snapOuts s).2 := by
  unfold snapOuts
  refine foldl_snd_holds _ (fun r o hr => ?_) _ _ h
  dsimp only
  exact outStatus_holds _ hr

theorem snapSection_holds (h : Holds k s) : Holds k (snapSection s).2 := by
  unfold snapSection
  dsimp only
  exact snapOuts_holds h

theorem updSnap_holds (f) (h : Holds k s) : Holds k (updSnap f s) := h

theorem snapTell_holds (h : Holds k s) : Holds k (snapTell s) := by
  unfold snapTell
  split
  · exact toMembers_holds h
  · exact h

theorem snapTrigger_holds (late) (h : Holds k s) : Holds k (snapTrigger late s) := snapTell_holds (updSnap_holds _ (snapSection_holds h))

theorem snapKnots_holds (w b) (h : Holds k s) : Holds k (snapKnots w b s).2 := by
  fun_induction snapKnots w b s <;> grind [knotAddr_holds]

theorem startSnapshot_holds (c) (h : Holds k s) : Holds k (startSnapshot c s).2 := by
  have hw := fun l => writablePieces_holds c.who.ctx c.who.rq l h
  unfold startSnapshot
  dsimp only
  split
  · exact h
  split
  · exact h
  split
  · exact h
  split
  · exact h
  split
  · next e => exact holds_of_pair (hw _) e
  · next e => exact holds_of_pair (hw _) e
  next u e =>
  have hu := holds_of_pair (hw _) e
  refine Rd.run_holds _ _ ?_ fun bs v hv => ?_
  · split
    · exact hu
    · exact Who.read_holds _ _ _ _ hu
  refine Rd.run_holds _ _ (snapKnots_holds _ _ hv) fun _ x hx => ?_
  dsimp only
  split
  · exact snapTrigger_holds _ (updSnap_holds _ (updCmd_holds _ _ hx))
  · exact updSnap_holds _ (updCmd_holds _ _ hx)

theorem execSnapshotTrigger_holds (t) (h : Holds k s) : AnswerHolds k (execSnapshotTrigger t s) := by
  unfold execSnapshotTrigger
  dsimp only
  split
  · split
    · exact fin_holds (snapTrigger_holds _ (State.at_holds _ h))
    · exact fin_holds (State.at_holds _ h)
  · exact fin_holds (State.at_holds _ h)

theorem execDomainSnapshotStart_holds (ctx buf knots nknot seq t) (h : Holds k s) : AnswerHolds k (execDomainSnapshotStart ctx buf knots nknot seq t s) := by
  unfold execDomainSnapshotStart
  dsimp only
  split
  · exact fin_holds (snapTrigger_holds _ (updSnap_holds _ (readVa_holds _ _ _ _ _ (State.at_holds _ h))))
  · exact fin_holds (State.at_holds _ h)

theorem snapPut_holds (c o bs) (h : Holds k s) : Holds k (snapPut c o bs s) := writeVa_holds _ _ _ _ h

theorem snapKnotWords_holds (c b c') (h : Holds k s) : Holds k (snapKnotWords c b c' s) := by
  fun_induction snapKnotWords c b c' s <;> grind [knotAddr_holds, writeVa_holds, readPlace_holds]

theorem snapCapture_holds (c) (h : Holds k s) : Holds k (snapCapture c s) := by
  have hp : ∀ a b d l, Holds k ((pageSegs l).foldl (fun s x => snapPut c (0x400 + x.1) x.2 s) (snapPut c 0x400 d (snapPut c 0x100 b (snapPut c 0 a s)))) :=
    fun a b d l => foldl_holds _ (fun u x hu => snapPut_holds _ _ _ hu) _ (snapPut_holds _ _ _ (snapPut_holds _ _ _ (snapPut_holds _ _ _ h)))
  unfold snapCapture
  dsimp only
  split
  · exact finish_holds _ _ (setRes64_holds _ _ (updSnap_holds _ (snapTell_holds (snapKnotWords_holds _ _ _ (hp ..)))))
  · exact updSnap_holds _ (snapTell_holds (snapKnotWords_holds _ _ _ (hp ..)))

/-! ### Machine/Kill.lean -/

theorem stopWork_holds (c st) (h : Holds k s) : Holds k (stopWork c st s) := by
  unfold stopWork
  cases c.work with
  | blocks d => exact stopCmd_holds _ h
  | step => exact stepFailed_holds _ _ (stopCmd_holds _ h)
  | render p => exact failPass_holds _ _ _ h
  | load m => exact emptyModel_holds _ h
  | evict m => exact undoEvict_holds _ h
  | copy => exact stopXfer_holds _ _ h
  | inval => exact foldl_holds _ (fun u x hu => frameCount_holds _ _ _ hu) _ h
  | snap => exact updSnap_holds _ h
  | _ => exact h

theorem dropCmd_holds (c) (h : Holds k s) : Holds k (dropCmd c s) := by
  unfold dropCmd
  refine updEx_mapCores_holds _ _ rfl (fun x => ?_) (withdraw_holds _ (unbindLaunch_holds _ h))
  split <;> rfl

theorem endSilently_holds (st c) (h : Holds k s) : Holds k (endSilently st s c) := by
  unfold endSilently
  refine dropCmd_holds _ ?_
  split
  · exact h
  · exact stopWork_holds _ _ h

theorem killCmd_holds (c st) (h : Holds k s) : Holds k (killCmd c st s) := by
  unfold killCmd
  dsimp only
  split
  · exact h
  · refine finish_holds _ _ ?_
    refine stopWork_holds _ _ ?_
    refine foldl_holds _ (fun _ _ hu => ?_) _ h
    split
    · exact hu
    · exact finish_holds _ _ (stopWork_holds _ _ hu)

theorem endPass_holds (p) (h : Holds k s) : Holds k (endPass p s) := updGx_holds _ (dropPassCores_holds _ h)

end
end Sys2Proof.Machine


/-! What every step keeps: the functions of Domains, Camera, Contexts, Trans, Display. -/
namespace Sys2Proof.Machine
section
variable {k : KeptClaim} {s : State}

/-! ### Machine/Domains.lean -/

theorem settlePd_holds (h : Holds k s) : Holds k (settlePd s) := by
  unfold settlePd
  exact foldl_holds _ (fun u g hu => setPeat_holds _ _ (zeroGroup_wf · g) hu) _ (setPwr_holds _ h)

theorem execBankGroupZeroed_holds (kk) (h : Holds k s) : AnswerHolds k (execBankGroupZeroed kk s) := fin_holds h

theorem returnToRun_holds (h : Holds k s) : Holds k (returnToRun s) := by
  unfold returnToRun
  dsimp only
  split
  · exact icnPulse_holds _ (settlePd_holds h)
  · exact icnPulse_holds _ (settlePd_holds h)
  · exact h

/-! ### Machine/Camera.lean -/

theorem camOverrun_holds (p) (h : Holds k s) : Holds k (camOverrun p s) := camAlarm_holds _ _ (updCam_holds _ _ h)

theorem camFrameErr_holds (p) (h : Holds k s) : Holds k (camFrameErr p s) := camAlarm_holds _ _ (updCam_holds _ _ h)

theorem camCrcErr_holds (p) (h : Holds k s) : Holds k (camCrcErr p s) := camAlarm_holds _ _ (updCam_holds _ _ h)

theorem camEccErr_holds (p) (h : Holds k s) : Holds k (camEccErr p s) := camAlarm_holds _ _ (updCam_holds _ _ h)

theorem camFault_holds (p) (h : Holds k s) : Holds k (camFault p s) := camOverrun_holds _ (camAlarm_holds _ _ (updCam_holds _ _ h))

theorem camStale_holds (p b) (h : Holds k s) : Holds k (camStale p b s) := by
  fun_induction camStale p b s <;> grind [camAlarm_holds, updCam_holds]

theorem spanLost_holds (b pl) (h : Holds k s) : Holds k (spanLost b pl s) := by
  unfold spanLost
  split
  · exact braidFault_holds _ _ _ h
  · exact h

theorem spanStore_holds (p b c va pl) (h : Holds k s) : Holds k (spanStore p b c va pl s) := by
  unfold spanStore
  dsimp only
  split <;> exact h

theorem portWrite_holds (p d va bs) (h : Holds k s) : Holds k (portWrite p d va bs s).2 := by
  grind [portWrite, spanStore_holds, writeVa_holds, braidFault_holds, foldl_holds]

theorem destFreed_holds (p d) (h : Holds k s) : Holds k (destFreed p d s).2 := by
  unfold destFreed
  split
  · next e =>
      split
      · exact h
      · next e =>
          split
          · next e => exact holds_of_triple (knotRead_holds _ _ h) e
  · next e =>
      split
      · next e => exact holds_of_pair (knotValRq_holds _ _ _ h) e

theorem destFilled_holds (p d v) (h : Holds k s) : Holds k (destFilled p d v s).2 := by
  unfold destFilled
  split
  · exact spanLost_holds _ _ (signal_holds _ _ _ h)
  · exact signalRq_holds _ _ _ _ h

theorem takeStamp_holds (p) (h : Holds k s) : Holds k (takeStamp p s).2 := updCam_holds _ _ (camStale_holds _ _ h)

theorem refuseUnit_holds (p d u) (h : Holds k s) : Holds k (refuseUnit p d u s) := by
  unfold refuseUnit
  dsimp only
  refine updCam_holds _ _ ?_
  split
  · exact updBraid_holds _ _ (camOverrun_holds _ h)
  · exact updCam_holds _ _ (camOverrun_holds _ h)

theorem admitOpen_holds (p d u) (h : Holds k s) : Holds k (admitOpen p d u s) := by
  unfold admitOpen
  dsimp only
  split
  · exact updCam_holds _ _ (updBraid_holds _ _ (admitUnit_holds _ _ h))
  · exact updCam_holds _ _ h

theorem unitStart_holds (p) (h : Holds k s) : Holds k (unitStart p s) := by
  unfold unitStart
  dsimp only
  split
  · exact updCam_holds _ _ (takeStamp_holds _ h)
  · split
    · exact refuseUnit_holds _ _ _ (destFreed_holds _ _ (takeStamp_holds _ h))
    · exact admitOpen_holds _ _ _ (destFreed_holds _ _ (takeStamp_holds _ h))

theorem unitFault_holds (p d u) (h : Holds k s) : Holds k (unitFault p d u s) := by
  unfold unitFault
  dsimp only
  refine camFault_holds _ ?_
  refine updCam_holds _ _ ?_
  split
  · exact updBraid_holds _ _ h
  · exact updCam_holds _ _ h

theorem unitLost_holds (p d u) (h : Holds k s) : Holds k (unitLost p d u s) := by
  unfold unitLost
  split
  · split
    · exact unitFault_holds _ _ _ h
    · exact h
  · exact unitFault_holds _ _ _ h

theorem unitBytes_holds (p bs) (h : Holds k s) : Holds k (unitBytes p bs s) := by
  unfold unitBytes
  dsimp only
  split
  · exact h
  · next e =>
      split
      · exact h
      · split
        · exact h
        · next e =>
            split
            · next e => exact updCam_holds _ _ (holds_of_pair (portWrite_holds _ _ _ _ h) e)
            · next e => exact unitLost_holds _ _ _ (holds_of_pair (portWrite_holds _ _ _ _ h) e)

theorem unitEnd_holds (p) (h : Holds k s) : Holds k (unitEnd p s) := by
  unfold unitEnd
  dsimp only
  split
  · exact h
  · next e =>
      split
      · exact updCam_holds _ _ h
      · split
        · exact updCam_holds _ _ h
        · next e =>
            split
            · next e =>
                split
                · exact destFilled_holds _ _ _ (updCam_holds _ _ (holds_of_pair (portWrite_holds _ _ _ _ h) e))
                · exact updCam_holds _ _ (unitFault_holds _ _ _ (destFilled_holds _ _ _ (updCam_holds _ _ (holds_of_pair (portWrite_holds _ _ _ _ h) e))))
            · next e => exact updCam_holds _ _ (unitLost_holds _ _ _ (holds_of_pair (portWrite_holds _ _ _ _ h) e))

theorem camHeader_holds (p) (h : Holds k s) : Holds k (camHeader p s) := updCam_holds _ _ h

theorem camLong_holds (p bs) (h : Holds k s) : Holds k (camLong p bs s) := by
  unfold camLong
  dsimp only
  split
  · split
    · exact camFrameErr_holds _ h
    · exact unitBytes_holds _ _ h
  · exact unitEnd_holds _ (unitBytes_holds _ _ (unitStart_holds _ h))

theorem execLongPacket_holds (p vc dt payload hdrOk crcOk t) (h : Holds k s) : AnswerHolds k (execLongPacket p vc dt payload hdrOk crcOk t s) := by
  unfold execLongPacket
  dsimp only
  split
  · exact fin_holds (State.at_holds _ h)
  · split
    · exact fin_holds (camEccErr_holds _ (State.at_holds _ h))
    · split
      · exact fin_holds (camHeader_holds _ (State.at_holds _ h))
      · refine fin_holds ?_
        refine camLong_holds _ _ ?_
        split
        · exact camHeader_holds _ (State.at_holds _ h)
        · exact camCrcErr_holds _ (camHeader_holds _ (State.at_holds _ h))

theorem execFrameStart_holds (p vc t) (h : Holds k s) : AnswerHolds k (execFrameStart p vc t s) := by
  unfold execFrameStart
  dsimp only
  split
  · refine fin_holds ?_
    split
    · exact camHeader_holds _ (State.at_holds _ h)
    · exact State.at_holds _ h
  · refine fin_holds ?_
    refine unitStart_holds _ ?_
    split
    · refine unitEnd_holds _ ?_
      refine camFrameErr_holds _ ?_
      split
      · exact camHeader_holds _ (State.at_holds _ h)
      · exact State.at_holds _ h
    · split
      · exact camHeader_holds _ (State.at_holds _ h)
      · exact State.at_holds _ h

theorem execFrameEnd_holds (p vc t) (h : Holds k s) : AnswerHolds k (execFrameEnd p vc t s) := by
  unfold execFrameEnd
  dsimp only
  split
  · refine fin_holds ?_
    split
    · exact camHeader_holds _ (State.at_holds _ h)
    · exact State.at_holds _ h
  · split
    · refine fin_holds ?_
      refine camFrameErr_holds _ ?_
      split
      · exact camHeader_holds _ (State.at_holds _ h)
      · exact State.at_holds _ h
    · refine fin_holds ?_
      refine unitEnd_holds _ ?_
      split
      · exact camHeader_holds _ (State.at_holds _ h)
      · exact State.at_holds _ h

theorem execCamRxLoss_holds (p t) (h : Holds k s) : AnswerHolds k (execCamRxLoss p t s) := by
  unfold execCamRxLoss
  dsimp only
  split
  · exact fin_holds (updCam_holds _ _ (State.at_holds _ h))
  · exact fin_holds (State.at_holds _ h)

/-! ### Machine/Contexts.lean -/

theorem startContextCreate_holds (c) (h : Holds k s) : Holds k (startContextCreate c s).2 := by
  unfold startContextCreate
  dsimp only
  split
  · exact h
  · split
    · exact h
    · split
      · exact h
      · exact setRes0_holds _ _ (updCtx_holds _ _ h)

theorem startQueueCreate_holds (c) (h : Holds k s) : Holds k (startQueueCreate c s).2 := by
  unfold startQueueCreate
  dsimp only
  split
  · exact h
  · split
    · exact h
    · exact setRes0_holds _ _ (updQueue_holds _ _ h)

theorem endQueue_holds (q st) (h : Holds k s) : Holds k (endQueue q st s) := withdraw_holds _ (foldl_holds _ (fun _ _ hu => endSilently_holds _ _ hu) _ h)

theorem markQueue_holds (c) (h : Holds k s) : Holds k (markQueue c s) := by
  unfold markQueue
  split
  · exact h
  · exact updQueue_holds _ _ h

theorem startQueueDestroy_holds (c) (h : Holds k s) : Holds k (startQueueDestroy c s).2 := by
  unfold startQueueDestroy
  dsimp only
  split
  · exact h
  · exact updQueue_holds _ _ (endQueue_holds _ _ h)

theorem destroyWork_holds (c me) (h : Holds k s) : Holds k (destroyWork c me s) :=
  foldl_holds _ (fun _ _ hu => killCmd_holds _ _ hu) _ (foldl_holds _ (fun _ _ hu => updQueue_holds _ _ (endQueue_holds _ _ hu)) _ (foldl_holds _
    (fun _ _ hu => freeAttachments_holds _ hu) _ (updCtx_holds _ _ h)))

theorem destroyBraids_holds (c) (h : Holds k s) : Holds k (destroyBraids c s) := by
  unfold destroyBraids
  refine foldl_holds _ (fun _ _ hu => endPass_holds _ hu) _ ?_
  refine settleOrphans_holds ?_
  refine foldl_holds _ (fun _ _ hu => ?_) _ h
  dsimp only
  split
  · refine freeBraid_holds _ ?_
    split
    · exact haltBraid_holds _ _ hu
    · exact hu
  · exact hu

theorem destroyDma_holds (c) (h : Holds k s) : Holds k (destroyDma c s) := updGx_holds _ h

theorem abandonSet_holds (c b c') (h : Holds k s) : Holds k (abandonSet c b c' s).2 := by
  fun_induction abandonSet c b c' s <;> grind [abandon_holds, translate_holds]

theorem destroyModels_holds (c) (h : Holds k s) : Holds k (destroyModels c s) := by
  grind [destroyModels, settleEvict_holds, settleGraph_holds, updModel_holds, updGraph_holds, updGx_holds, foldl_holds]

theorem destroyBegin_holds (c me) (h : Holds k s) : Holds k (destroyBegin c me s).2 := by
  unfold destroyBegin
  exact updCtx_holds _ _ (withdraw_holds _ (destroyModels_holds _ (abandonSet_holds _ _ _ (destroyDma_holds _ (destroyBraids_holds _
    (destroyWork_holds _ _ h))))))

theorem destroyEnd_holds (c) (h : Holds k s) : Holds k (destroyEnd c s) := by
  have hq := foldl_holds (fun s q => updQueue q (fun _ => {}) s) (fun u q hu => updQueue_holds q _ hu) (ctxQueues s c) h
  have hc : ∀ f, Holds k (updEx (fun e => { e with cores := e.cores.map (forgetCtx c) })
      (updCtx c f ((ctxQueues s c).foldl (fun s q => updQueue q (fun _ => {}) s) s))) :=
    fun f => updEx_mapCores_holds _ _ rfl (fun _ => rfl) (updCtx_holds _ f hq)
  have hp : ∀ f g, Holds k (publish (xlUpd g (updEx (fun e => { e with cores := e.cores.map (forgetCtx c) })
      (updCtx c f ((ctxQueues s c).foldl (fun s q => updQueue q (fun _ => {}) s) s))))) :=
    fun f g => publish_holds (xlUpd_holds g (hc f))
  unfold destroyEnd
  refine icnPulse_holds _ (foldl_holds _ (fun u y hu => finish_holds _ _ hu) _ ?_)
  split
  · exact setRes0_holds _ _ (hp _ _)
  · exact hp _ _

theorem markContext_holds (id c) (h : Holds k s) : Holds k (markContext id c s) := by
  unfold markContext
  dsimp only
  split
  · exact updCmd_holds _ _ h
  · exact updCtx_holds _ _ (foldl_holds _ (fun _ _ hu => updQueue_holds _ _ hu) _ (updCmd_holds _ _ h))

theorem startContextDestroy_holds (c) (h : Holds k s) : Holds k (startContextDestroy c s).2 := by
  unfold startContextDestroy
  dsimp only
  split
  · exact h
  · split
    · exact updCmd_holds _ _ h
    · split
      · exact invalStart_holds _ _ _ _ _ _ (destroyBegin_holds _ _ (updCmd_holds _ _ h))
      · exact updCmd_holds _ _ h

theorem destroyNow_holds (c) (h : Holds k s) : Holds k (destroyNow c s) := by
  grind [destroyNow, destroyEnd_holds, xlDrop_holds, destroyBegin_holds]

/-! ### Machine/Trans.lean -/

theorem leafAt_holds (c page) (h : Holds k s) : Holds k (leafAt c page s).2 := by
  unfold leafAt
  dsimp only
  split
  · next e => exact holds_of_pair (dirEntry_holds _ _ _ h) e
  · next e =>
      split
      · exact (holds_of_pair (dirEntry_holds _ _ _ h) e)
      · split
        · exact (holds_of_pair (dirEntry_holds _ _ _ h) e)
        · exact walkRead_holds _ _ _ (holds_of_pair (dirEntry_holds _ _ _ h) e)

theorem leavesAt_holds (c b) (h : Holds k s) : Holds k (leavesAt c b s).2 := by
  fun_induction leavesAt c b s <;> grind [leafAt_holds]

theorem leafFault_holds (c kk x) (h : Holds k s) : Holds k (leafFault c kk x s).2 := fqInfo_holds _ h

theorem writeLeaves_holds (a) (h : Holds k s) : Holds k (writeLeaves a s) := by
  fun_induction writeLeaves a s <;> grind [writeDev_holds]

theorem countFar_holds (es) (h : Holds k s) : Holds k (countFar es s) := by
  unfold countFar
  refine foldl_holds _ (fun _ _ hu => ?_) _ h
  split
  · exact linkTx_holds _ hu
  · exact linkDrop_holds _ hu

theorem invalEach_holds (c cmd c') (h : Holds k s) : Holds k (invalEach c cmd c' s).2 := by
  fun_induction invalEach c cmd c' s <;> grind [invalStart_holds]

theorem invalSettle_holds (c) (h : Holds k s) : Holds k (invalSettle c s) := by
  unfold invalSettle
  split
  · split
    · exact h
    · exact finish_holds _ _ (foldl_holds _ (fun _ _ hu => frameCount_holds _ _ _ hu) _ h)
  · exact h

theorem settleInval_holds (c) (h : Holds k s) : Holds k (settleInval c s) := by
  unfold settleInval
  split
  · split
    · exact h
    · exact invalSettle_holds _ h
  · exact h

theorem invalWait_holds (c ids add counts) (h : Holds k s) : Holds k (invalWait c ids add counts s).2 := settleInval_holds _ (updCmd_holds _ _ h)

theorem mapFrames_holds (c f n) (h : Holds k s) : Holds k (mapFrames c f n s).2 := by
  unfold mapFrames
  split
  · exact h
  · split
    · next e => exact holds_of_pair (Who.read_holds _ _ _ _ h) e
    · next e => exact holds_of_pair (Who.read_holds _ _ _ _ h) e
    · next e => exact holds_of_pair (Who.read_holds _ _ _ _ h) e

theorem farOver_holds (far) (h : Holds k s) : Holds k (farOver far s).2 := by
  unfold farOver
  split <;> exact h

theorem startMemMap_holds (c) (h : Holds k s) : Holds k (startMemMap c s).2 := by
  unfold startMemMap
  dsimp only
  split
  · exact h
  · split
    · exact h
    · split
      · exact h
      · split
        · next e => exact leafFault_holds _ _ _ (holds_of_pair (leavesAt_holds _ _ h) e)
        · next e => exact holds_of_pair (leavesAt_holds _ _ h) e
        · next e =>
            refine Rd.run_holds _ _ (mapFrames_holds _ _ _ (holds_of_pair (leavesAt_holds _ _ h) e)) (fun _ _ hu => ?_)
            split
            · exact hu
            · split
              · exact linkDrop_holds _ hu
              · split
                · exact farOver_holds _ hu
                · exact invalWait_holds _ _ _ _ (invalEach_holds _ _ _ (countFar_holds _ (writeLeaves_holds _ (farOver_holds _ hu))))

theorem startMemUnmap_holds (c) (h : Holds k s) : Holds k (startMemUnmap c s).2 := by
  unfold startMemUnmap
  dsimp only
  split
  · next e => exact leafFault_holds _ _ _ (holds_of_pair (leavesAt_holds _ _ h) e)
  · next e => exact invalWait_holds _ _ _ _ (invalStart_holds _ _ _ _ _ _ (countFar_holds _ (writeLeaves_holds _ (holds_of_pair (leavesAt_holds _ _ h) e))))

theorem startXlInvalidate_holds (c) (h : Holds k s) : Holds k (startXlInvalidate c s).2 := by
  unfold startXlInvalidate
  split
  · next e => exact invalWait_holds _ _ _ _ (holds_of_pair (invalStart_holds _ _ _ _ _ _ h) e)

theorem invalEffect_holds (v) (h : Holds k s) : Holds k (invalEffect v s) :=
  foldl_holds _ (fun _ _ hu => frameCount_holds _ _ _ hu) _ (foldl_holds _ (fun _ _ hu => frameCount_holds _ _ _ hu) _ (sigInvalidate_holds _ _ _
    (recomputeResidency_holds _ _ _ (xlUpd_holds _ (xlDrop_holds _ _ _ h)))))

theorem invalAfter_holds (v) (h : Holds k s) : Holds k (invalAfter v s) := by
  unfold invalAfter
  dsimp only
  split
  · exact h
  · split
    · exact settleInval_holds _ (updCmd_holds _ _ h)
    · exact destroyEnd_holds _ h
    · exact h

theorem execInvalidationComplete_holds (i) (h : Holds k s) : AnswerHolds k (execInvalidationComplete i s) := by
  unfold execInvalidationComplete
  split
  · exact done_holds h
  · split
    · exact done_holds h
    · exact done_holds (invalAfter_holds _ (invalEffect_holds _ h))

theorem resumeOne_holds (abort r) (h : Holds k s) : Holds k (resumeOne abort s r) := by
  unfold resumeOne
  split
  · split
    · split
      · exact failOwner_holds _ _ h
      · exact h
    · exact missGo_holds _ h
  · split
    · split
      · exact h
      · split
        · exact updCmd_holds _ _ h
        · exact killCmd_holds _ _ h
    · exact h
  · exact updQueue_holds _ _ h
  · split
    · exact h
    · exact xl_holds _ _ _ _ h

theorem startFaultResume_holds (c) (h : Holds k s) : Holds k (startFaultResume c s).2 := by
  unfold startFaultResume
  dsimp only
  split
  · exact h
  · split
    · exact h
    · exact foldl_holds _ (fun _ _ hu => resumeOne_holds _ _ hu) _ (pmtRelease_holds _ h)

theorem writeFqbase_holds (v) (h : Holds k s) : Holds k (writeFqbase v s) := by
  unfold writeFqbase
  dsimp only
  refine fqDrain_holds _ ?_
  split
  · exact xlUpd_holds _ (xlUpd_holds _ h)
  · exact xlUpd_holds _ h

theorem execXlFqbaseWrite_holds (v) (h : Holds k s) : AnswerHolds k (execXlFqbaseWrite v s) := done_holds (writeFqbase_holds _ h)

theorem writeFqcfg_holds (v) (h : Holds k s) : Holds k (writeFqcfg v s) := by
  unfold writeFqcfg
  split
  · exact h
  · exact xlUpd_holds _ h

theorem writeFqhead_holds (v) (h : Holds k s) : Holds k (writeFqhead v s) := by
  unfold writeFqhead
  split
  · exact fqDrain_holds _ (xlUpd_holds _ h)
  · exact xlUpd_holds _ h

theorem execXlFqhead_holds (v) (h : Holds k s) : AnswerHolds k (execXlFqhead v s) := done_holds (writeFqhead_holds _ h)

theorem scanStart_holds (h : Holds k s) : Holds k (scanStart s) := by
  unfold scanStart
  split <;> exact xlUpd_holds _ h

theorem writeRefq_holds (v) (h : Holds k s) : Holds k (writeRefq v s) := by
  unfold writeRefq
  dsimp only
  split
  · exact scanStart_holds (xlUpd_holds _ (xlUpd_holds _ h))
  · exact xlUpd_holds _ h

theorem execXlRefq_holds (v) (h : Holds k s) : AnswerHolds k (execXlRefq v s) := done_holds (writeRefq_holds _ h)

theorem execScanComplete_holds (h : Holds k s) : AnswerHolds k (execScanComplete s) := by
  unfold execScanComplete
  split
  · exact done_holds h
  · split
    · exact done_holds (foldl_holds _ (fun _ _ hu => settleInval_holds _ hu) _ (foldl_holds _ (fun _ _ hu => frameCount_holds _ _ _ hu) _ (xlUpd_holds _ h)))

theorem leafEntries_holds (p d c) (h : Holds k s) : Holds k (leafEntries p d c s).2 := by
  fun_induction leafEntries p d c s <;> grind [areaRead_holds]

theorem dirEntries_holds (p d) (h : Holds k s) : Holds k (dirEntries p d s).2 := by
  unfold dirEntries
  split
  · exact leafEntries_holds _ _ _ h
  · exact h

theorem treeEntries_holds (root p c) (h : Holds k s) : Holds k (treeEntries root p c s).2 := by
  fun_induction treeEntries root p c s <;> grind [areaRead_holds, dirEntries_holds]

theorem walkEnd_holds (rest r) (h : Holds k r.2) : Holds k (walkEnd rest r) := by
  unfold walkEnd
  dsimp only
  split
  · exact scanStart_holds (xlUpd_holds _ (foldl_holds _ (fun _ _ hu => frameCount_holds _ _ _ hu) _ (countFar_holds _ h)))
  · exact xlUpd_holds _ (foldl_holds _ (fun _ _ hu => frameCount_holds _ _ _ hu) _ (countFar_holds _ h))

theorem execReleaseWalk_holds (h : Holds k s) : AnswerHolds k (execReleaseWalk s) := by
  unfold execReleaseWalk
  split
  · exact done_holds h
  · split
    · exact done_holds h
    · exact done_holds (walkEnd_holds _ _ (treeEntries_holds _ _ _ h))

/-! ### Machine/Display.lean -/

theorem updLayer_holds (n f) (h : Holds k s) : Holds k (updLayer n f s) := updGx_holds _ h

theorem updDpo_holds (d f) (h : Holds k s) : Holds k (updDpo d f s) := updGx_holds _ h

theorem updWb_holds (f) (h : Holds k s) : Holds k (updWb f s) := updGx_holds _ h

theorem startCamConfig_holds (c) (h : Holds k s) : Holds k (startCamConfig c s).2 := by
  unfold startCamConfig
  dsimp only
  split
  · exact h
  split
  · exact h
  split
  · exact h
  split
  · exact h
  next u e =>
  have hu := addSigs_holds _ _ (updCam_holds _ _ h) e
  split
  · exact settlePd_holds (camOverrun_holds _ hu)
  · exact settlePd_holds hu

theorem putShadow_holds (e) (h : Holds k s) : Holds k (putShadow s e) := by
  unfold putShadow
  split
  · exact updWb_holds _ h
  · exact updLayer_holds _ _ h

theorem activate_holds (d) (h : Holds k s) : Holds k (activate d s) := updWb_holds _ (updGx_holds _ h)

theorem latchDone_holds (d) (h : Holds k s) : Holds k (latchDone d s) := by
  unfold latchDone
  refine foldl_holds _ (fun _ _ hu => ?_) _ h
  dsimp only
  split
  · split
    · exact finish_holds _ _ (updCmd_holds _ _ hu)
    · exact updCmd_holds _ _ hu
  · exact hu

theorem startLayerSet_holds (c) (h : Holds k s) : Holds k (startLayerSet c s).2 := by
  have hp := foldl_holds putShadow (fun u e hu => putShadow_holds e hu) (entriesOf c) h
  unfold startLayerSet
  dsimp only
  split
  · exact h
  split
  · exact h
  split
  · exact h
  split
  · exact h
  next u e =>
  have ha := fun l : List (Fin 2) => foldl_holds (fun s d => activate d.val s) (fun u d hu => activate_holds d.val hu) l (addSigs_holds _ _ hp e)
  split
  · exact ha _
  · exact updCmd_holds _ _ (ha _)

theorem plainRow_holds (x buf j) (h : Holds k s) : Holds k (plainRow x buf j s).2.2 := readVa_holds _ _ _ _ _ h

theorem rowTiles_holds (x buf hdr ty e) (h : Holds k s) : Holds k (rowTiles x buf hdr ty e s).2 := by
  fun_induction rowTiles x buf hdr ty e s <;> grind [readTileC_holds]

theorem tiledRow_holds (x buf hdr j) (h : Holds k s) : Holds k (tiledRow x buf hdr j s).2.2 := rowTiles_holds _ _ _ _ _ h

theorem layerRow_holds (n l f j) (h : Holds k s) : Holds k (layerRow n l f j s).2 := by
  grind [layerRow, plainRow_holds, tiledRow_holds, updLayer_holds]

theorem composeRow_holds (d y c d') (h : Holds k s) : Holds k (composeRow d y c d' s).2 := by
  fun_induction composeRow d y c d' s <;> grind [layerRow_holds]

theorem wbRow_holds (w y img) (h : Holds k s) : Holds k (wbRow w y img s) := writeVa_holds _ _ _ _ h

theorem asOfLine_holds (t) (hk : k ≠ .memory) (h : Holds k s) : Holds k (asOfLine t s) := by
  unfold asOfLine
  split
  · cases k with
    | memory => exact absurd rfl hk
    | hostAndCores => exact h
    | outputs => exact h
  · exact h

/-- Device memory put back as it was keeps every claim that the state between keeps of host and cores. -/
theorem putBack_holds {u : State} (h : Holds k s) (hu : ∀ k', k' ≠ .memory → Holds k' s → Holds k' u) :
    Holds k { u with mm := { u.mm with peat := s.mm.peat, lpddr := s.mm.lpddr } } := by
  cases k with
  | memory =>
    obtain ⟨hp, hl, hhc⟩ := h
    exact ⟨hp, hl, hu .hostAndCores KeptClaim.noConfusion hhc⟩
  | hostAndCores => exact hu .hostAndCores KeptClaim.noConfusion h
  | outputs => exact hu .outputs KeptClaim.noConfusion h

theorem scanRows_holds (d wb l) (h : Holds k s) : Holds k (scanRows d wb l s).2 := by
  induction l generalizing s with
  | nil => exact h
  | cons y r ih =>
    have hm := putBack_holds h (u := (composeRow d y (List.range 16) (List.replicate (hActive (dpoOf s d)) (background (dpoOf s d), false))
      (asOfLine (lineEnd (dpoOf s d) y) s)).2)
      (fun k' hk hs => composeRow_holds _ _ _ _ (asOfLine_holds _ hk hs))
    unfold scanRows
    dsimp only
    refine ih ?_
    split
    · exact wbRow_holds _ _ _ hm
    · exact hm

theorem dropOld_holds (h : Holds k s) : Holds k (dropOld s) := h

theorem scanFrame_holds (d) (h : Holds k s) : Holds k (scanFrame d s) := by
  unfold scanFrame
  dsimp only
  split
  · exact updWb_holds _ (signalRq_holds _ _ _ _ (updDpo_holds _ _ (scanRows_holds _ _ _ h)))
  · exact updDpo_holds _ _ (scanRows_holds _ _ _ h)

theorem layerFault_holds (n) (h : Holds k s) : Holds k (layerFault n s) := updLayer_holds _ _ h

theorem repeatFrame_holds (n v) (h : Holds k s) : Holds k (repeatFrame n v s) := by
  grind [repeatFrame, updLayer_holds, icnPulse_holds]

theorem latchLayer_holds (n) (h : Holds k s) : Holds k (latchLayer n s) := by
  unfold latchLayer
  dsimp only
  split
  · next e => exact layerFault_holds _ (holds_of_pair (knotValRq_holds _ _ _ h) e)
  · next e =>
      split
      · exact updLayer_holds _ _ (holds_of_pair (knotValRq_holds _ _ _ h) e)
      · split
        · next e' => exact layerFault_holds _ ((holds_of_pair (knotValRq_holds _ _ _ (holds_of_pair (knotValRq_holds _ _ _ h) e)) e'))
        · next e' =>
            split
            · exact signalRq_holds _ _ _ _ (updLayer_holds _ _ ((holds_of_pair (knotValRq_holds _ _ _ (holds_of_pair (knotValRq_holds _ _ _ h) e)) e')))
            · exact repeatFrame_holds _ _ ((holds_of_pair (knotValRq_holds _ _ _ (holds_of_pair (knotValRq_holds _ _ _ h) e)) e'))

theorem latchWb_holds (d) (h : Holds k s) : Holds k (latchWb d s) := by
  unfold latchWb
  dsimp only
  split
  · exact h
  · split
    · exact updWb_holds _ h
    · split <;> exact updWb_holds _ (knotValRq_holds _ _ _ h)

theorem execLatchPoint_holds (d t) (h : Holds k s) : AnswerHolds k (execLatchPoint d t s) := by
  have ht := State.at_holds t h
  unfold execLatchPoint
  dsimp only
  split
  · exact fin_holds ht
  refine fin_holds (latchWb_holds _ (foldl_holds _ (fun u n hu => ?_) _ (latchDone_holds _ (activate_holds _ (dropOld_holds (updDpo_holds _ _
    (scanFrame_holds _ ht)))))))
  split
  · exact latchLayer_holds _ hu
  · exact hu

theorem stopWriteback_holds (d) (h : Holds k s) : Holds k (stopWriteback d s) := updWb_holds _ h

theorem writeDpoCtrl_holds (d v) (h : Holds k s) : Holds k (writeDpoCtrl d v s) := by
  unfold writeDpoCtrl
  dsimp only
  split
  · split
    · exact h
    · exact settlePd_holds (latchDone_holds _ (activate_holds _ (stopWriteback_holds _ (dropOld_holds (updDpo_holds _ _ h)))))
  · split
    · exact updDpo_holds _ _ h
    split
    · exact settlePd_holds (updDpo_holds _ _ h)
    · exact updDpo_holds _ _ h

theorem execDpoCtrlWrite_holds (d v) (h : Holds k s) : AnswerHolds k (execDpoCtrlWrite d v s) := fin_holds (writeDpoCtrl_holds _ _ h)

theorem writeTiming_holds (d f) (h : Holds k s) : Holds k (writeTiming d f s) := by
  unfold writeTiming
  split
  · exact h
  · exact updDpo_holds _ _ h

theorem startTrain_holds (d) (h : Holds k s) : Holds k (startTrain d s) := by
  unfold startTrain
  dsimp only
  split
  · exact h
  · split <;> exact updDpo_holds _ _ h

theorem execTrain_holds (d) (h : Holds k s) : AnswerHolds k (execTrain d s) := fin_holds (startTrain_holds _ h)

theorem execTrainComplete_holds (d ok) (h : Holds k s) : AnswerHolds k (execTrainComplete d ok s) := by
  unfold execTrainComplete
  split
  · exact fin_holds (updDpo_holds _ _ h)
  · exact fin_holds h

theorem msgGo_holds (d) (h : Holds k s) : Holds k (msgGo d s) := by
  unfold msgGo
  split
  · exact h
  · exact updDpo_holds _ _ h

theorem execDpoMsggo_holds (d) (h : Holds k s) : AnswerHolds k (execDpoMsggo d s) := fin_holds (msgGo_holds _ h)

theorem execMessageDone_holds (d o data) (h : Holds k s) : AnswerHolds k (execMessageDone d o data s) := by
  unfold execMessageDone
  dsimp only
  split
  · exact fin_holds h
  · exact fin_holds (updDpo_holds _ _ h)

theorem execHpd_holds (d level) (h : Holds k s) : AnswerHolds k (execHpd d level s) := fin_holds (updDpo_holds _ _ h)

theorem walkOutcome_holds (e c va) (h : Holds k s) : Holds k (walkOutcome e c va s) := by
  unfold walkOutcome
  split
  · refine foldl_holds _ (fun _ _ hu => ?_) _ h
    split
    · exact layerFault_holds _ hu
    · exact hu
  · split
    · split
      · split
        · exact h
        · split
          · split
            · exact unitLost_holds _ _ _ h
            · exact h
          · exact h
      · exact h
    · exact h

theorem execWalkComplete_holds (e c va kk) (h : Holds k s) : AnswerHolds k (execWalkComplete e c va kk s) := by
  unfold execWalkComplete
  split
  · exact done_holds h
  · split
    · next e => exact done_holds (walkOutcome_holds _ _ _ (holds_of_pair (xl_holds _ _ _ _ h) e))
    · next e => exact done_holds (holds_of_pair (xl_holds _ _ _ _ h) e)

end
end Sys2Proof.Machine


/-! What every step keeps: the functions of Hawser, MemRows, Deflate, Partition, Query, Hif, Boot. -/
namespace Sys2Proof.Machine
section
variable {k : KeptClaim} {s : State}

/-! ### Machine/Hawser.lean -/

theorem updDom_holds (f) (h : Holds k s) : Holds k (updDom f s) := h

theorem dropReq_holds (i) (h : Holds k s) : Holds k (dropReq i s) := updDom_holds _ h

theorem remoteWake_holds (g) (h : Holds k s) : Holds k (remoteWake g s) := updGrp_holds _ _ h

theorem endReq_holds (r v poison) (h : Holds k s) : Holds k (endReq r v poison s) := by
  grind [endReq, remoteWake_holds, dropFar_holds, updGrp_holds, dropReq_holds]

theorem lateFail_holds (c st) (h : Holds k s) : Holds k (lateFail c st s) := by
  unfold lateFail
  split
  · split
    · exact updCmd_holds _ _ h
    · exact finish_holds _ _ (stepFailed_holds _ _ (stopCmd_holds _ h))
  · exact h

theorem remoteFailed_holds (r st all) (h : Holds k s) : Holds k (remoteFailed r st all s) := by
  unfold remoteFailed
  split
  · split
    · exact braidFault_holds _ _ _ h
    · exact h
  · split
    · exact h
    · split
      · exact failOwner_holds _ _ h
      · exact lateFail_holds _ _ h
      · exact h

theorem refusedReq_holds (r) (h : Holds k s) : Holds k (refusedReq r s) := by
  unfold refusedReq
  dsimp only
  split
  · exact trapG_holds _ _ (fqInfo_holds _ (dropReq_holds _ h))
  · split
    · exact camFault_holds _ (fqInfo_holds _ (dropReq_holds _ h))
    · exact braidFault_holds _ _ _ (fqInfo_holds _ (dropReq_holds _ h))
  · exact lateFail_holds _ _ (fqInfo_holds _ (dropReq_holds _ h))
  · exact fqInfo_holds _ (dropReq_holds _ h)

theorem execRemoteResponse_holds (i data poison refused) (h : Holds k s) : AnswerHolds k (execRemoteResponse i data poison refused s) := by
  unfold execRemoteResponse
  split
  · exact fin_holds h
  · split
    · exact fin_holds h
    · split
      · exact fin_holds (refusedReq_holds _ h)
      · exact fin_holds (endReq_holds _ _ _ h)

theorem execRemoteStoreAck_holds (i refused) (h : Holds k s) : AnswerHolds k (execRemoteStoreAck i refused s) := by
  unfold execRemoteStoreAck
  split
  · exact fin_holds h
  · split
    · exact fin_holds h
    · split
      · exact fin_holds (refusedReq_holds _ h)
      · exact fin_holds (endReq_holds _ _ _ h)

theorem execRemoteLoadTimeout_holds (i t) (h : Holds k s) : AnswerHolds k (execRemoteLoadTimeout i t s) := by
  unfold execRemoteLoadTimeout
  dsimp only
  split
  · exact fin_holds (State.at_holds _ h)
  · split
    · exact fin_holds (State.at_holds _ h)
    · exact fin_holds (remoteFailed_holds _ _ _ (linkTimeout_holds _ (endReq_holds _ _ _ (State.at_holds _ h))))

theorem execRemoteStoreTimeout_holds (i t) (h : Holds k s) : AnswerHolds k (execRemoteStoreTimeout i t s) := by
  unfold execRemoteStoreTimeout
  dsimp only
  split
  · exact fin_holds (State.at_holds _ h)
  · split
    · exact fin_holds (State.at_holds _ h)
    · exact fin_holds (remoteFailed_holds _ _ _ (linkDrop_holds _ (endReq_holds _ _ _ (State.at_holds _ h))))

theorem remoteReset_holds (pl v) (h : Holds k s) : Holds k (remoteReset pl v s) := by
  unfold remoteReset
  split
  · exact hold_holds _ h
  · exact setReadData_holds _ (knotResetNow_holds _ _ _ h)

theorem remoteCount_holds (lp f up) (h : Holds k s) : Holds k (remoteCount lp f up s) := by
  grind [remoteCount, xlUpd_holds, frameCount_holds, holds_iff]

theorem remotePerform_holds (lp a op) (h : Holds k s) : Holds k (remotePerform lp a op s) := by
  unfold remotePerform
  cases op with
  | load n => exact setReadP_holds _ _ (readDev_holds _ _ _ h)
  | store d p => exact writeDev_holds _ _ _ h
  | signal v => 
    dsimp only
    split
    · exact h
    · exact signal_holds _ _ _ h
  | abandon =>
    dsimp only
    split
    · exact h
    · exact abandon_holds _ _ h
  | knotReset v =>
    dsimp only
    split
    · exact h
    · exact remoteReset_holds _ _ h
  | atomic w b c => exact writeDev_holds _ _ _ (setReadP_holds _ _ (readDev_holds _ _ _ h))
  | frameCount up => exact remoteCount_holds _ _ _ h

theorem execRemoteAccessArrival_holds (kk part lp frame off op) (h : Holds k s) : AnswerHolds k (execRemoteAccessArrival kk part lp frame off op s) := by
  unfold execRemoteAccessArrival
  dsimp only
  repeat' split
  all_goals grind [fin_holds, bulkDebt_holds, linkTx_holds, remotePerform_holds]

theorem failKnotWaits_holds (kk) (h : Holds k s) : Holds k (failKnotWaits kk s) :=
  foldl_holds _ (fun _ _ hu => failOwner_holds _ _ hu) _ (foldl_holds _ (fun _ _ hu => finish_holds _ _ hu) _ h)

theorem failReqs_holds (kk) (h : Holds k s) : Holds k (failReqs kk s) := by
  unfold failReqs
  refine foldl_holds _ (fun _ _ hu => ?_) _ h
  dsimp only
  refine remoteFailed_holds _ _ _ ?_
  split
  · exact linkDrop_holds _ (endReq_holds _ _ _ hu)
  · exact linkTimeout_holds _ (endReq_holds _ _ _ hu)

theorem failSpans_holds (kk) (h : Holds k s) : Holds k (failSpans kk s) := by
  unfold failSpans
  refine foldl_holds _ (fun _ _ hu => ?_) _ h
  split
  · exact braidFault_holds _ _ _ hu
  · exact hu

theorem linkGoesDown_holds (kk) (h : Holds k s) : Holds k (linkGoesDown kk s) := by
  unfold linkGoesDown
  split
  · exact h
  · exact recomputeDegraded_holds (failStages_holds _ (failLoads_holds _ (failSpans_holds _ (failKnotWaits_holds _ (failReqs_holds _
      (linkEvent_holds _ _ (updLink_holds _ _ h)))))))

theorem execFlitReceipt_holds (kk crcOk f t) (h : Holds k s) : AnswerHolds k (execFlitReceipt kk crcOk f t s) := by
  unfold execFlitReceipt
  dsimp only
  split
  · exact fin_holds (State.at_holds _ h)
  · split <;> exact fin_holds (updLink_holds _ _ (State.at_holds _ h))

theorem execReplayLimit_holds (kk t) (h : Holds k s) : AnswerHolds k (execReplayLimit kk t s) := by
  unfold execReplayLimit
  dsimp only
  split
  · exact fin_holds (linkGoesDown_holds _ (State.at_holds _ h))
  · exact fin_holds (State.at_holds _ h)

theorem execLinkFlitTimeout_holds (kk t) (h : Holds k s) : AnswerHolds k (execLinkFlitTimeout kk t s) := by
  unfold execLinkFlitTimeout
  dsimp only
  split
  · exact fin_holds (linkGoesDown_holds _ (State.at_holds _ h))
  · exact fin_holds (State.at_holds _ h)

theorem membersReached_holds (h : Holds k s) : Holds k (membersReached s).2 := by
  unfold membersReached
  split
  · exact h
  · split <;> exact h

theorem settleJoin_holds (h : Holds k s) : Holds k (settleJoin s) := by
  unfold settleJoin
  split
  · exact h
  · split
    · next e =>
        split
        · exact (holds_of_pair (membersReached_holds h) e)
        · refine foldl_holds _ (fun _ _ hu => ?_) _ (holds_of_pair (membersReached_holds h) e)
          split
          · exact finish_holds _ _ hu
          · exact hu

theorem execLinkUp_holds (kk width peer) (h : Holds k s) : AnswerHolds k (execLinkUp kk width peer s) := by
  unfold execLinkUp
  dsimp only
  split
  · exact fin_holds h
  · split
    · exact fin_holds (updLink_holds _ _ h)
    · exact fin_holds (settleJoin_holds (recomputeDegraded_holds (linkEvent_holds _ _ (updLink_holds _ _ h))))

theorem writeHlCtrl_holds (kk v) (h : Holds k s) : Holds k (writeHlCtrl kk v s) := by
  unfold writeHlCtrl
  dsimp only
  split
  · exact h
  · split
    · exact linkGoesDown_holds _ (settlePd_holds (updLink_holds _ _ h))
    · exact settlePd_holds (updLink_holds _ _ h)

theorem execHlCtrl_holds (kk v) (h : Holds k s) : AnswerHolds k (execHlCtrl kk v s) := fin_holds (writeHlCtrl_holds _ _ h)

theorem execRetrain_holds (kk) (h : Holds k s) : AnswerHolds k (execRetrain kk s) := by
  unfold execRetrain
  refine fin_holds ?_
  split
  · exact linkGoesDown_holds _ h
  · exact h

theorem domainGo_holds (f) (h : Holds k s) (hf : ∀ u, Holds k u → Holds k (f u).2) : Holds k (domainGo s f).2 := by
  grind [domainGo]

theorem startDomainJoin_holds (c) (h : Holds k s) : Holds k (startDomainJoin c s).2 := by
  unfold startDomainJoin
  dsimp only
  refine domainGo_holds _ h (fun _ hu => ?_)
  split
  · exact hu
  · split
    · exact hu
    · split
      · refine membersReached_holds ?_
        refine recomputeDegraded_holds ?_
        refine foldl_holds _ (fun _ _ hu => ?_) _ (updDom_holds _ hu)
        split
        · exact linkGoesDown_holds _ (updLink_holds _ _ hu)
        · exact hu
      · refine updCmd_holds _ _ ?_
        refine membersReached_holds ?_
        refine recomputeDegraded_holds ?_
        refine foldl_holds _ (fun _ _ hu => ?_) _ (updDom_holds _ hu)
        split
        · exact linkGoesDown_holds _ (updLink_holds _ _ hu)
        · exact hu

theorem startDomainLeave_holds (a) (h : Holds k s) : Holds k (startDomainLeave a s).2 := by
  unfold startDomainLeave
  refine domainGo_holds _ h (fun _ hu => ?_)
  split
  · exact hu
  · exact updDom_holds _ hu

theorem globalGo_holds (f) (h : Holds k s) (hf : ∀ u, Holds k u → Holds k (f u).2) : Holds k (globalGo s f).2 := by
  grind [globalGo, domainGo_holds]

theorem toRoot_holds (h : Holds k s) : Holds k (toRoot s) := by
  unfold toRoot
  split
  · exact linkGlobal_holds _ h
  · exact h

theorem startDomainBarrier_holds (c) (h : Holds k s) : Holds k (startDomainBarrier c s).2 := by
  unfold startDomainBarrier
  refine globalGo_holds _ h (fun _ hu => ?_)
  dsimp only
  split
  · exact hu
  · exact toRoot_holds (updDom_holds _ (updCmd_holds _ _ hu))

theorem withdrawBarrier_holds (b) (h : Holds k s) : Holds k (withdrawBarrier b s) := by
  unfold withdrawBarrier
  split
  · exact h
  · exact toRoot_holds (updDom_holds _ h)

theorem endBarrier_holds (p st) (h : Holds k s) : Holds k (endBarrier p st s) := by
  unfold endBarrier
  refine foldl_holds _ (fun _ _ hu => ?_) _ h
  split
  · split
    · exact finish_holds _ _ hu
    · exact hu
  · exact hu

theorem execBarrierRelease_holds (b) (h : Holds k s) : AnswerHolds k (execBarrierRelease b s) := by
  unfold execBarrierRelease
  dsimp only
  split
  · exact fin_holds h
  · exact fin_holds (endBarrier_holds _ _ (updDom_holds _ h))

theorem execBarrierWithdrawalAnswer_holds (b removed) (h : Holds k s) : AnswerHolds k (execBarrierWithdrawalAnswer b removed s) := by
  unfold execBarrierWithdrawalAnswer
  dsimp only
  split
  · exact fin_holds h
  · split
    · exact fin_holds (endBarrier_holds _ _ (updDom_holds _ (updDom_holds _ h)))
    · exact fin_holds (updDom_holds _ h)

theorem startDomainBroadcast_holds (c) (h : Holds k s) : Holds k (startDomainBroadcast c s).2 := by
  unfold startDomainBroadcast
  refine globalGo_holds _ h (fun _ hu => ?_)
  split
  · exact hu
  · refine runXfer_holds _ _ _ ?_
    split
    · exact hu
    · exact toMembers_holds hu

theorem domainReset_holds (h : Holds k s) : Holds k (domainReset s) := by
  unfold domainReset
  refine recomputeDegraded_holds (updDom_holds _ ?_)
  refine setLinks_holds _ ?_
  refine foldl_holds _ (fun u r hu => ?_) _ ?_
  · dsimp only
    split
    · exact linkDrop_holds _ (endReq_holds _ _ _ hu)
    · exact endReq_holds _ _ _ hu
  · exact foldl_holds _ (fun u c hu => finish_holds _ _ (stopXfer_holds _ _ hu)) _ (endBarrier_holds _ _ h)

theorem startDomainReset_holds (c) (h : Holds k s) : Holds k (startDomainReset c s).2 := by
  unfold startDomainReset
  dsimp only
  refine domainGo_holds _ h (fun _ hu => ?_)
  split
  · exact hu
  · split
    · refine domainReset_holds ?_
      refine foldl_holds _ (fun _ _ hu => ?_) _ hu
      split
      · exact linkGlobal_holds _ hu
      · exact hu
    · refine updCmd_holds _ _ ?_
      refine domainReset_holds ?_
      refine foldl_holds _ (fun _ _ hu => ?_) _ hu
      split
      · exact linkGlobal_holds _ hu
      · exact hu

theorem execDomainResetArrival_holds (h : Holds k s) : AnswerHolds k (execDomainResetArrival s) := by
  unfold execDomainResetArrival
  refine fin_holds ?_
  split
  · exact domainReset_holds h
  · exact h

/-! ### Machine/MemRows.lean -/

theorem ctlUpd_holds (f) (h : Holds k s) : Holds k (ctlUpd f s) := h

theorem storeData_holds (lp g d mk) (h : Holds k s) : Holds k (storeData lp g d mk s) := by
  unfold storeData
  dsimp only
  split
  · exact setDevMem_holds _ _ (Mem.putMark_wf _ _) (putCountWord_holds _ _ h)
  · exact setDevMem_holds _ _ (Mem.putMark_wf _ _) (setDevMem_holds _ _ (Mem.putBytes_wf _ _) h)

theorem scrubWord_holds (lp g) (h : Holds k s) : Holds k (scrubWord lp g s) := by
  unfold scrubWord
  split
  · split
    · exact eccCount_holds _ _ _ (eccNote_holds _ _ _ (storeData_holds _ _ _ _ h))
    · exact eccNote_holds _ _ _ (storeData_holds _ _ _ _ h)
    · exact h

theorem execScrub_holds (u) (h : Holds k s) : AnswerHolds k (execScrub u s) := by
  unfold execScrub
  dsimp only
  split
  · exact done_holds h
  · exact done_holds (scrubWord_holds _ _ (ctlUpd_holds _ h))

theorem execScrubLapEnd_holds (lp t) (h : Holds k s) : AnswerHolds k (execScrubLapEnd lp t s) := by
  unfold execScrubLapEnd
  dsimp only
  split
  · exact done_holds (State.at_holds _ h)
  · exact done_holds (ctlUpd_holds _ (State.at_holds _ h))

theorem testWrite_holds (h : Holds k s) : Holds k (testWrite s) := by
  unfold testWrite
  split
  · exact ctlUpd_holds _ h
  · exact ctlUpd_holds _ (storeData_holds _ _ _ _ h)

theorem testRead_holds (h : Holds k s) : Holds k (testRead s) := by
  unfold testRead
  dsimp only
  split <;> exact ctlUpd_holds _ h

theorem execEccTestWrite_holds (h : Holds k s) : AnswerHolds k (execEccTestWrite s) := done_holds (testWrite_holds h)

theorem execEccTestRead_holds (h : Holds k s) : AnswerHolds k (execEccTestRead s) := done_holds (testRead_holds h)

theorem writeTestCtrl_holds (v) (h : Holds k s) : Holds k (writeTestCtrl v s) := by
  unfold writeTestCtrl
  dsimp only
  split
  · refine testRead_holds ?_
    split
    · exact testWrite_holds (ctlUpd_holds _ h)
    · exact ctlUpd_holds _ h
  · split
    · exact testWrite_holds (ctlUpd_holds _ h)
    · exact ctlUpd_holds _ h

/-! ### Machine/Deflate.lean -/

theorem dzRun_holds (z bs) (h : Holds k s) : Holds k (dzRun z bs s).2 := by
  unfold dzRun
  dsimp only
  split
  · exact h
  · split <;> exact State.draw_holds (State.draw_holds h)

theorem dzStore_holds (ctx rq c d e) (h : Holds k s) : Holds k (dzStore ctx rq c d e s).2.2 := by
  fun_induction dzStore ctx rq c d e s <;> grind [xferPl_holds, xferStore_holds]

theorem dzFree_holds (ctx dst) (l) (h : Holds k s) : Holds k (dzFree ctx dst l s) := by
  induction l generalizing s with
  | nil => exact h
  | cons a r ih =>
    obtain ⟨va, n⟩ := a
    unfold dzFree
    have ht := translate_holds ctx va .store h
    split
    · next u e =>
      have hu : Holds k u := (congrArg (Holds k ·.2) e).mp ht
      refine ih (writePlace_holds _ _ _ ?_)
      exact setFreeCtr_holds _ hu
    · next e => exact ih ((congrArg (Holds k ·.2) e).mp ht)

theorem freeFrom_holds (z ctx n) (h : Holds k s) : Holds k (freeFrom z ctx n s) := dzFree_holds _ _ _ h

theorem rangeNeeds_holds (ctx kk c) (h : Holds k s) : Holds k (rangeNeeds ctx kk c s).2 := by
  fun_induction rangeNeeds ctx kk c s <;> grind [translate_holds]

theorem dzEnd_holds (c z st used made chk) (h : Holds k s) : Holds k (dzEnd c z st used made chk s).2 := by
  unfold dzEnd
  dsimp only
  refine setRes_holds _ _ ?_
  split
  · exact h
  · exact freeFrom_holds _ _ _ h

theorem dzWrite_holds (c z rq o) (h : Holds k s) : Holds k (dzWrite c z rq o s).2 := by
  unfold dzWrite
  dsimp only
  split
  · next e => exact holds_of_triple (dzStore_holds _ _ _ _ _ h) e
  · next e => exact dzEnd_holds _ _ _ _ _ _ (holds_of_triple (dzStore_holds _ _ _ _ _ h) e)
  · next e => exact dzEnd_holds _ _ _ _ _ _ (holds_of_triple (dzStore_holds _ _ _ _ _ h) e)

theorem startDzRun_holds (c) (h : Holds k s) : Holds k (startDzRun c s).2 := by
  unfold startDzRun
  dsimp only
  split
  · exact h
  have hr := readVa_holds (cmdCtx c) (dzOf c.pkt).src (dzOf c.pkt).srcSize .load { who := some (.cmd c.id), eng := some 34 } h
  split
  · next e => exact holds_of_triple hr e
  · next e => exact dzEnd_holds _ _ _ _ _ _ (holds_of_triple hr e)
  next e =>
  split
  · exact rangeNeeds_holds _ _ _ (rangeNeeds_holds _ _ _ (dzRun_holds _ _ (holds_of_triple hr e)))
  · next e' => exact dzWrite_holds _ _ _ _ (bulk_holds _ _ (rangeNeeds_holds _ _ _ (rangeNeeds_holds _ _ _ (dzRun_holds _ _ (holds_of_triple hr e)))) e')

theorem stopDz_holds (c) (h : Holds k s) : Holds k (stopDz c s) := freeFrom_holds _ _ _ (setRes_holds _ _ h)

/-! ### Machine/Partition.lean -/

theorem startPartitionConfig_holds (c) (h : Holds k s) : Holds k (startPartitionConfig c s).2 := by
  unfold startPartitionConfig
  dsimp only
  split
  · exact h
  · split
    · exact h
    · split
      · exact h
      · split
        · exact h
        · split
          · exact h
          · exact settlePd_holds (updPart_holds _ _ h)

/-! ### Machine/Query.lean -/

theorem startQuery_holds (c) (h : Holds k s) : Holds k (startQuery c s).2 := by
  unfold startQuery
  dsimp only
  split
  · exact h
  · next e =>
      split
      · next e => exact holds_of_pair (writablePieces_holds _ _ _ h) e
      · next e => exact holds_of_pair (writablePieces_holds _ _ _ h) e
      · next e => exact setRes0_holds _ _ (writeVa_holds _ _ _ _ (holds_of_pair (writablePieces_holds _ _ _ h) e))

/-! ### Machine/Hif.lean -/

theorem updFunc_holds (fn f) (h : Holds k s) : Holds k (updFunc fn f s) := updHi_holds _ h

theorem hifAlarm_holds (b fn) (h : Holds k s) : Holds k (hifAlarm b fn s) := postAlarm_holds _ _ _ (updFunc_holds _ _ h)

theorem doorbellBad_holds (fn) (h : Holds k s) : Holds k (doorbellBad fn s) := hifAlarm_holds _ _ (updFunc_holds _ _ h)

theorem settleRoot_holds (fn) (h : Holds k s) : Holds k (settleRoot fn s) := by
  unfold settleRoot
  dsimp only
  split
  · exact updQueue_holds _ _ h
  · exact h

theorem writeRootq_holds (fn v) (h : Holds k s) : Holds k (writeRootq fn v s) := by
  unfold writeRootq
  dsimp only
  split
  · split
    · exact h
    · split
      · exact updQueue_holds _ _ (updFunc_holds _ _ h)
      · exact hifAlarm_holds _ _ h
  · exact settleRoot_holds _ (updQueue_holds _ _ (updFunc_holds _ _ h))

theorem execRootqCtrl_holds (fn v) (h : Holds k s) : AnswerHolds k (execRootqCtrl fn v s) := by
  unfold execRootqCtrl
  split
  · exact fin_holds (writeRootq_holds _ _ h)
  · exact done_holds h

theorem writeMirror_holds (fn v) (h : Holds k s) : Holds k (writeMirror fn v s) := updFunc_holds _ _ h

theorem execMirrorBaseWrite_holds (fn v) (h : Holds k s) : AnswerHolds k (execMirrorBaseWrite fn v s) := by
  unfold execMirrorBaseWrite
  split
  · exact done_holds (writeMirror_holds _ _ h)
  · exact done_holds h

theorem bar2Place_holds (fn va kk) (h : Holds k s) : Holds k (bar2Place fn va kk s).2 := by
  unfold bar2Place
  dsimp only
  split
  · exact h
  · split
    · next e => exact holds_of_pair (translate_holds _ _ _ h) e
    · next e => exact holds_of_pair (translate_holds _ _ _ h) e
    · next e => exact holds_of_pair (translate_holds _ _ _ h) e

theorem bar2Bad_holds (fn) (h : Holds k s) : Holds k (bar2Bad fn s) := hifAlarm_holds _ _ (updFunc_holds _ _ h)

theorem bar2Charge_holds (fn pl n) (h : Holds k s) : Holds k (bar2Charge fn pl n s) := bulkDebt_holds _ _ h

theorem bar2Send_holds (store pl) (h : Holds k s) : Holds k (bar2Send store pl s) := by
  unfold bar2Send
  dsimp only
  split
  · exact h
  · split
    · split
      · exact linkDrop_holds _ h
      · exact linkTimeout_holds _ h
    · exact linkTx_holds _ h

theorem bar2Get_holds (fn b) (h : Holds k s) : Holds k (bar2Get fn b s).2.2.2 := by
  fun_induction bar2Get fn b s <;> grind [bar2Send_holds, bar2Place_holds, readPlace_holds, bar2Charge_holds]

theorem bar2Put_holds (fn b c) (h : Holds k s) : Holds k (bar2Put fn b c s).2 := by
  fun_induction bar2Put fn b c s <;> grind [bar2Send_holds, writePlace_holds, bar2Place_holds, bar2Charge_holds]

theorem bar2Read_holds (fn off n) (h : Holds k s) : Holds k (bar2Read fn off n s) := by
  have hg := bar2Get_holds fn (pagePieces (bar2Va (funcOf s fn) off) n) h
  unfold bar2Read
  dsimp only
  refine setRead_holds _ _ _ ?_
  split
  · exact bar2Bad_holds _ hg
  · exact hg

theorem bar2Write_holds (fn off bs) (h : Holds k s) : Holds k (bar2Write fn off bs s) := by
  grind [bar2Write, bar2Bad_holds, bar2Put_holds, updFunc_holds]

theorem claim_holds (t) (h : Holds k s) : Holds k (claim t s) := by
  unfold claim
  dsimp only
  refine setReadData_holds _ ?_
  split
  · exact updHi_holds _ (updHi_holds _ h)
  · exact updHi_holds _ h

theorem complete_holds (t v) (h : Holds k s) : Holds k (complete t v s) := updHi_holds _ h

theorem execIcnClaim_holds (t) (h : Holds k s) : AnswerHolds k (execIcnClaim t s) := by
  unfold execIcnClaim
  split
  · exact done_holds (claim_holds _ h)
  · exact done_holds h

theorem execIcnComplete_holds (t v) (h : Holds k s) : AnswerHolds k (execIcnComplete t v s) := by
  unfold execIcnComplete
  split
  · exact done_holds (complete_holds _ _ h)
  · exact done_holds h

theorem writeIcnSrc_holds (n v) (h : Holds k s) : Holds k (writeIcnSrc n v s) := updHi_holds _ h

theorem cfgResetAll_holds (h : Holds k s) : Holds k (cfgResetAll s) := updHi_holds _ h

theorem execPcieLinkUp_holds (rate width) (h : Holds k s) : AnswerHolds k (execPcieLinkUp rate width s) := by
  unfold execPcieLinkUp
  split
  · exact done_holds (updHi_holds _ h)
  · exact done_holds h

theorem linkLost_holds (h : Holds k s) : Holds k (linkLost s) := cfgResetAll_holds (updHi_holds _ h)

theorem execPcieLinkDown_holds (h : Holds k s) : AnswerHolds k (execPcieLinkDown s) := done_holds (linkLost_holds h)

theorem msixFlush_holds (fn) (h : Holds k s) : Holds k (msixFlush fn s) := by
  unfold msixFlush
  dsimp only
  split
  · exact h
  · refine foldl_holds _ (fun _ _ hu => ?_) _ h
    split
    · split
      · exact msiSend_holds _ _ (updFunc_holds _ _ hu)
      · exact hu
    · exact hu

theorem execConfigurationSpaceWrite_holds (fn f v) (h : Holds k s) : AnswerHolds k (execConfigurationSpaceWrite fn f v s) := by
  unfold execConfigurationSpaceWrite
  repeat' split
  all_goals grind [done_holds, msixFlush_holds, updFunc_holds, foldl_holds]

theorem dropRoot_holds (fn) (h : Holds k s) : Holds k (dropRoot fn s) := updQueue_holds _ _ (endQueue_holds _ _ h)

theorem pfReset_holds (kk) (h : Holds k s) : Holds k (pfReset kk s) :=
  publish_holds (updHi_holds _ (foldl_holds _ (fun _ _ hu => dropRoot_holds _ hu) _ (foldl_holds _ (fun _ _ hu => destroyNow_holds _ hu) _ h)))

theorem vfReset_holds (v) (h : Holds k s) : Holds k (vfReset v s) := by
  grind [vfReset, destroyNow_holds, updHi_holds, dropRoot_holds, publish_holds, updFunc_holds, foldl_holds]

/-! ### Machine/Boot.lean -/

theorem deviceReset_holds (src keep) (h : Holds k s) : Holds k (deviceReset src keep s) := by
  unfold deviceReset
  refine settlePd_holds (updPart_holds _ _ ?_)
  have hr : Holds k State.reset := State.reset_holds
  cases k with
  | memory =>
    obtain ⟨-, -, hh, -⟩ := h
    obtain ⟨hp, hl, -, hc⟩ := hr
    exact ⟨hp, hl, hh, hc⟩
  | hostAndCores => exact ⟨h.1, hr.2⟩
  | outputs => exact hr

theorem execPowerOnReset_holds (h : Holds k s) : AnswerHolds k (execPowerOnReset s) := done_holds (deviceReset_holds _ _ h)

theorem execRstN_holds (lowNs) (h : Holds k s) : AnswerHolds k (execRstN lowNs s) := by
  unfold execRstN
  split
  · exact done_holds h
  · exact done_holds (deviceReset_holds _ _ h)

theorem execVddSafeLoss_holds (h : Holds k s) : AnswerHolds k (execVddSafeLoss s) := done_holds (updSfi_holds _ rfl (deviceReset_holds _ _ h))

theorem execVddioMachCollapse_holds (h : Holds k s) : AnswerHolds k (execVddioMachCollapse s) := done_holds (updSfi_holds _ rfl h)

theorem sfiBooted_holds (h : Holds k s) : Holds k (updSfi (fun x => { x with state := if x.state == .boot then .hold else x.state }) s) := by
  by_cases hb : s.sfi.state = .boot
  · exact updSfi_notArmed_holds _ (by rw [hb]; exact SfiState.noConfusion) h
  · exact updSfi_holds _ (if_neg (mt eq_of_beq hb)) h

theorem startSfi_holds (im) (h : Holds k s) : Holds k (startSfi im s) := by
  have hd := fun v => updSfi_holds (fun x => { x with scb := none, scbDigest := v }) rfl h
  unfold startSfi
  refine sfiBooted_holds ?_
  split
  · split
    · exact applyLevels_holds _ (updSfi_holds _ rfl (hd _))
    · exact trip_holds _ _ _ _ (hd _)
  · exact trip_holds _ _ _ _ (hd _)

theorem setupLpddr_holds (r im) (h : Holds k s) : Holds k (setupLpddr r im s) := by
  have hl := fun c => setLpddr_holds {} c Mem.wf_empty h
  unfold setupLpddr
  refine settlePd_holds (setBoot_holds _ ?_)
  exact writeDev_holds _ _ _ (updPart_holds _ _ (hl _))

theorem updBoot_holds (f) (h : Holds k s) : Holds k (updBoot f s) := h

theorem loadFailed_holds (e) (h : Holds k s) : Holds k (loadFailed e s) := updBoot_holds _ h

theorem blowTo_holds (n i) (h : Holds k s) : Holds k (blowTo n i s).2 := by
  induction n generalizing i s with
  | zero => exact h
  | succ n ih =>
    have hd : Holds k s.draw.2 := State.draw_holds h
    unfold blowTo
    dsimp only
    split
    · exact ih _ (setFuses_holds _ hd)
    split
    · exact setFuses_holds _ hd
    · exact hd

theorem advance_holds (im) (h : Holds k s) : Holds k (advance im s).2 := by
  unfold advance
  dsimp only
  split
  · exact blowTo_holds _ _ h
  · exact h

theorem startFirmware_holds (im) (h : Holds k s) : Holds k (startFirmware im s) := by
  unfold startFirmware
  dsimp only
  split
  · exact publish_holds (setupLpddr_holds _ _ (updBoot_holds _ (startSfi_holds _ (updBoot_holds _ h))))
  · exact loadFailed_holds _ (startSfi_holds _ (updBoot_holds _ h))

theorem bootGo_holds (h : Holds k s) : Holds k (bootGo s) := by
  unfold bootGo
  dsimp only
  split
  · next e =>
      split
      · next e => exact startFirmware_holds _ ((holds_of_pair (advance_holds _ (hostReadP_holds _ _ _ h)) e))
      · next e => exact loadFailed_holds _ ((holds_of_pair (advance_holds _ (hostReadP_holds _ _ _ h)) e))
  · exact loadFailed_holds _ (hostReadP_holds _ _ _ h)

theorem writeBootCtrl_holds (v) (h : Holds k s) : Holds k (writeBootCtrl v s) := by
  unfold writeBootCtrl
  split
  · exact bootGo_holds h
  · exact h

theorem execBootCtrl_holds (v) (h : Holds k s) : AnswerHolds k (execBootCtrl v s) := by
  unfold execBootCtrl
  split
  · exact done_holds (writeBootCtrl_holds _ h)
  · exact done_holds h

theorem dormantBoot_holds (h : Holds k s) : Holds k (dormantBoot s).2 := by
  have hr := readDev_holds true (copyBase (updBoot (fun b => { b with rstsrc := 3 }) s)) (updBoot (fun b => { b with rstsrc := 3 }) s).boot.copySize
    (updBoot_holds (fun b => { b with rstsrc := 3 }) h)
  unfold dormantBoot
  dsimp only
  split
  · exact updBoot_holds _ hr
  · exact setWakeN_holds _ (loadFailed_holds _ hr)

theorem putOut_holds (c va bs) (h : Holds k s) : Holds k (putOut c va bs s).2 := by
  grind [putOut, writeVa_holds, writablePieces_holds, hostWrite_holds]

theorem startAttest_holds (c) (h : Holds k s) : Holds k (startAttest c s).2 := by
  unfold startAttest
  dsimp only
  split
  · exact h
  · split
    · next e => exact holds_of_pair (putOut_holds _ _ _ h) e
    · next e => exact holds_of_pair (putOut_holds _ _ _ h) e
    · next e => exact setRes0_holds _ _ (holds_of_pair (putOut_holds _ _ _ h) e)

end
end Sys2Proof.Machine


/-! What every step keeps: the functions of Power, PtePkt, Rings, SelfTest, Start, Life. -/
namespace Sys2Proof.Machine
section
variable {k : KeptClaim} {s : State}

/-! ### Machine/Power.lean -/

theorem updPwr_holds (f) (h : Holds k s) : Holds k (updPwr f s) := h

theorem coresOff_holds (h : Holds k s) : Holds k (coresOff s) :=
  updEx_cores_holds _ (map_coresWf _ _ (fun _ _ => Mem.wf_empty)) h

theorem linkOff_holds (kk) (h : Holds k s) : Holds k (linkOff s kk) := by
  unfold linkOff
  dsimp only
  split
  · exact linkEvent_holds _ _ (updLink_holds _ _ h)
  · exact h

theorem edgesOff_holds (h : Holds k s) : Holds k (edgesOff s) := foldl_holds _ (fun _ _ hu => linkOff_holds _ hu) _ (xlUpd_holds _ h)

theorem safeOff_holds (h : Holds k s) : Holds k (safeOff s) := pteSafe_holds (trip_holds _ _ _ _ h)

theorem powerDown_holds (p) (h : Holds k s) : Holds k (powerDown p s) := by
  unfold powerDown
  dsimp only
  refine settlePd_holds ?_
  refine updPwr_holds _ ?_
  split
  · refine pfReset_holds _ ?_
    split
    · refine safeOff_holds ?_
      split
      · refine edgesOff_holds ?_
        split
        · exact coresOff_holds (updPwr_holds _ h)
        · exact updPwr_holds _ h
      · split
        · exact coresOff_holds (updPwr_holds _ h)
        · exact updPwr_holds _ h
    · split
      · refine edgesOff_holds ?_
        split
        · exact coresOff_holds (updPwr_holds _ h)
        · exact updPwr_holds _ h
      · split
        · exact coresOff_holds (updPwr_holds _ h)
        · exact updPwr_holds _ h
  · split
    · refine safeOff_holds ?_
      split
      · refine edgesOff_holds ?_
        split
        · exact coresOff_holds (updPwr_holds _ h)
        · exact updPwr_holds _ h
      · split
        · exact coresOff_holds (updPwr_holds _ h)
        · exact updPwr_holds _ h
    · split
      · refine edgesOff_holds ?_
        split
        · exact coresOff_holds (updPwr_holds _ h)
        · exact updPwr_holds _ h
      · split
        · exact coresOff_holds (updPwr_holds _ h)
        · exact updPwr_holds _ h

theorem execPowerStateEntry_holds (p) (h : Holds k s) : AnswerHolds k (execPowerStateEntry p s) := by
  unfold execPowerStateEntry
  split
  · exact done_holds (powerDown_holds _ h)
  · exact done_holds h

theorem pteOn_holds (h : Holds k s) : Holds k (pteOn s) := holds_of_safe (s := s) rfl rfl rfl h

theorem sfiResume_holds (okA okB) (h : Holds k s) : Holds k (sfiResume okA okB s) := by
  unfold sfiResume
  split
  · exact h
  next c e =>
  have ha := applyLevels_holds c h
  dsimp only
  split
  · next hb =>
    obtain ⟨hb, hs⟩ := Bool.and_eq_true_iff.mp hb
    exact arming_holds _ _ (not_armed_of_unbarred ((Bool.not_eq_true' _).mp hs)) ha
  · exact ha

theorem powerUp_holds (okA okB) (h : Holds k s) : Holds k (powerUp okA okB s) := by
  have hr : ∀ f, Holds k (icnPulse 18 (settlePd (updPwr f s))) := fun f => icnPulse_holds _ (settlePd_holds (updPwr_holds _ h))
  unfold powerUp
  dsimp only
  split
  · exact sfiResume_holds _ _ (pteOn_holds (hr _))
  · have hd := dormantBoot_holds (pteOn_holds (setWakeN_holds true (hr (fun x => { x with state := .run, wakeTimer := BitVec.allOnes 64 }))))
    split
    · exact sfiResume_holds _ _ hd
    · exact hd
  · exact hr _

theorem wakeUp_holds (codes okA okB) (h : Holds k s) : Holds k (wakeUp codes okA okB s) := by
  unfold wakeUp
  dsimp only
  split
  · exact h
  · exact powerUp_holds _ _ (updPwr_holds _ h)

theorem wakeBy_holds (code) (h : Holds k s) : Holds k (wakeBy code s) := wakeUp_holds _ _ _ h

theorem execPowerStateExit_holds (codes okA okB t) (h : Holds k s) : AnswerHolds k (execPowerStateExit codes okA okB t s) :=
  fin_holds (wakeUp_holds _ _ _ (State.at_holds _ h))

theorem execHwakeN_holds (t) (h : Holds k s) : AnswerHolds k (execHwakeN t s) := fin_holds (wakeBy_holds _ (State.at_holds _ h))

theorem execWakeTimer_holds (t) (h : Holds k s) : AnswerHolds k (execWakeTimer t s) := by
  unfold execWakeTimer
  dsimp only
  split
  · exact fin_holds (wakeBy_holds _ (State.at_holds _ h))
  · exact fin_holds (State.at_holds _ h)

theorem execPfReset_holds (kk) (h : Holds k s) : AnswerHolds k (execPfReset kk s) := by
  unfold execPfReset
  refine fin_holds ?_
  refine pfReset_holds _ ?_
  split
  · exact h
  · exact wakeBy_holds _ h

theorem execVfFunctionLevelReset_holds (v) (h : Holds k s) : AnswerHolds k (execVfFunctionLevelReset v s) := fin_holds (vfReset_holds _ h)

theorem startPowerHint_holds (c) (h : Holds k s) : Holds k (startPowerHint c s).2 := updPwr_holds _ h

theorem updWisp_holds (f) (h : Holds k s) : Holds k (updWisp f s) := h

theorem execDebouncedLevel_holds (i level t) (h : Holds k s) : AnswerHolds k (execDebouncedLevel i level t s) := by
  unfold execDebouncedLevel
  dsimp only
  split
  · exact done_holds (State.at_holds _ h)
  · exact done_holds (updWisp_holds _ (State.at_holds _ h))

theorem execWcamFrame_holds (px t) (h : Holds k s) : AnswerHolds k (execWcamFrame px t s) := by
  unfold execWcamFrame
  dsimp only
  split
  · exact done_holds (State.at_holds _ h)
  · exact done_holds (updWisp_holds _ (State.draw_holds (State.at_holds _ h)))

theorem execRuleEvaluation_holds (t) (h : Holds k s) : AnswerHolds k (execRuleEvaluation t s) := by
  have ht := State.at_holds t h
  unfold execRuleEvaluation
  dsimp only
  split
  · exact done_holds ht
  split
  · exact done_holds (setWisp_holds _ ht)
  · exact fin_holds (wakeBy_holds _ (setWisp_holds _ ht))

theorem writeWispCtrl_holds (v) (h : Holds k s) : Holds k (writeWispCtrl v s) := by
  unfold writeWispCtrl
  dsimp only
  split
  · exact updWisp_holds _ h
  · split <;> exact updWisp_holds _ h

theorem execWispCtrlWrite_holds (v) (h : Holds k s) : AnswerHolds k (execWispCtrlWrite v s) := by
  unfold execWispCtrlWrite
  split
  · exact done_holds (writeWispCtrl_holds _ h)
  · exact done_holds h

theorem updAvs_holds (f) (h : Holds k s) : Holds k (updAvs f s) := h

theorem updTherm_holds (f) (h : Holds k s) : Holds k (updTherm f s) := h

theorem askVolt_holds (kk) (h : Holds k s) : Holds k (askVolt kk s) := updAvs_holds _ h

theorem execAvsAcknowledge_holds (rail mv) (h : Holds k s) : AnswerHolds k (execAvsAcknowledge rail mv s) := by
  unfold execAvsAcknowledge
  dsimp only
  split
  · split
    · exact done_holds h
    · split
      · exact done_holds (updTherm_holds _ (updAvs_holds _ h))
      · exact done_holds (updAvs_holds _ h)
  · exact done_holds h

theorem execSettleExpiry_holds (rail) (h : Holds k s) : AnswerHolds k (execSettleExpiry rail s) := by
  unfold execSettleExpiry
  dsimp only
  split
  · split
    · exact done_holds (updTherm_holds _ (updAvs_holds _ h))
    · exact done_holds (updAvs_holds _ h)
  · exact done_holds h

theorem execAvsNoackTimeout_holds (rail) (h : Holds k s) : AnswerHolds k (execAvsNoackTimeout rail s) := by
  unfold execAvsNoackTimeout
  split
  · split <;> exact done_holds (updAvs_holds _ h)
  · exact done_holds h

theorem execTjSample_holds (readings t) (h : Holds k s) : AnswerHolds k (execTjSample readings t s) := by
  unfold execTjSample
  dsimp only
  split
  · exact done_holds (State.at_holds _ h)
  · exact done_holds (updTherm_holds _ (State.at_holds _ h))

theorem setThermStep_holds (kk) (h : Holds k s) : Holds k (setThermStep kk s) := askVolt_holds _ (postAlarm_holds _ _ _ (updTherm_holds _ h))

theorem execThermalStep_holds (t) (h : Holds k s) : AnswerHolds k (execThermalStep t s) := by
  unfold execThermalStep
  dsimp only
  split
  · exact done_holds (setThermStep_holds _ (State.at_holds _ h))
  · split
    · exact done_holds (setThermStep_holds _ (State.at_holds _ h))
    · exact done_holds (State.at_holds _ h)

/-! ### Machine/PtePkt.lean -/

theorem stopTgs_holds (a) (h : Holds k s) : Holds k (stopTgs a s) := updPte_holds _ rfl h

theorem startAxisConfig_holds (c) (h : Holds k s) : Holds k (startAxisConfig c s).2 := by
  unfold startAxisConfig
  grind [stopTgs_holds, tgRun_holds, updTg_holds, disableAxis_holds, enableAxis_holds, updAxis_holds]

theorem startOutConfig_holds (c) (h : Holds k s) : Holds k (startOutConfig c s).2 := by
  unfold startOutConfig
  dsimp only
  split
  · exact h
  · exact foldl_holds _ (fun _ _ hu => updOut_holds _ _ (writeOutCfg_holds _ _ hu)) _ h

theorem postHits_holds (a b) (h : Holds k s) : Holds k (postHits a b s).2.2 := by
  fun_induction postHits a b s <;> grind [hitNow_holds]

theorem startHitPost_holds (c) (h : Holds k s) : Holds k (startHitPost c s).2 := by
  unfold startHitPost
  dsimp only
  split
  · exact h
  · exact setRes0_holds _ _ (postHits_holds _ _ h)

/-! ### Machine/Rings.lean -/

theorem startAlarmRead_holds (c) (h : Holds k s) : Holds k (startAlarmRead c s).2 := by
  unfold startAlarmRead
  dsimp only
  split
  · next e => exact holds_of_pair (putOut_holds _ _ _ h) e
  · next e => exact holds_of_pair (putOut_holds _ _ _ h) e
  · next e => exact setRes0_holds _ _ (updHi_holds _ (holds_of_pair (putOut_holds _ _ _ h) e))

theorem ringRead_holds (r va n) (h : Holds k s) : Holds k (ringRead r va n s).2 := by
  unfold ringRead
  split
  · next e =>
      split
      · next e => exact holds_of_pair (hostReadP_holds _ _ _ h) e
  · next e =>
      split
      · next e => exact holds_of_triple (readVa_holds _ _ _ _ _ h) e

theorem ringWrite_holds (r va bs) (h : Holds k s) : Holds k (ringWrite r va bs s) := by
  unfold ringWrite
  split
  · exact hostWrite_holds _ _ _ h
  · exact writeVa_holds _ _ _ _ h

theorem ringConsumed_holds (r) (h : Holds k s) : Holds k (ringConsumed r s).2 := by
  unfold ringConsumed
  split
  · next e => exact holds_of_pair (ringRead_holds _ _ _ h) e

theorem ringPut_holds (r size bs) (h : Holds k s) : Holds k (ringPut r size bs s).2 := ringWrite_holds _ _ _ (ringWrite_holds _ _ _ h)

theorem ringDrop_holds (r) (h : Holds k s) : Holds k (ringDrop r s).2 := ringWrite_holds _ _ _ h

theorem startLogConfig_holds (c) (h : Holds k s) : Holds k (startLogConfig c s).2 := updHi_holds _ h

theorem startTraceConfig_holds (c) (h : Holds k s) : Holds k (startTraceConfig c s).2 := updHi_holds _ h

theorem drawBytes_holds (a) (h : Holds k s) : Holds k (drawBytes a s).2 := by
  fun_induction drawBytes a s <;> grind [State.draw_holds]

theorem logEntry_holds (v) (h : Holds k s) : Holds k (logEntry v s) := by
  grind [logEntry, drawBytes_holds, updHi_holds, ringConsumed_holds, ringDrop_holds, ringPut_holds, postAlarm_holds]

theorem tracePut_holds (bs) (h : Holds k s) : Holds k (tracePut bs s) := by
  unfold tracePut
  grind [State.draw_holds, updHi_holds, ringConsumed_holds, ringDrop_holds, ringPut_holds, postAlarm_holds]

theorem traceEvent_holds (v) (h : Holds k s) : Holds k (traceEvent v s) := by
  unfold traceEvent
  dsimp only
  split
  · exact h
  · split
    · exact updHi_holds _ h
    · exact tracePut_holds _ (updHi_holds _ (State.draw_holds (State.draw_holds h)))

theorem ringsTick_holds (h : Holds k s) : Holds k (ringsTick s) := by
  grind [ringsTick, logEntry_holds, State.draw_holds, traceEvent_holds]

/-! ### Machine/SelfTest.lean -/

theorem updSt_holds (f) (h : Holds k s) : Holds k (updSt f s) := h

theorem showTest_holds (src r) (h : Holds k s) : Holds k (showTest src r s) := updSt_holds _ h

theorem trip_not_armed (code unit detail : Nat) (classA : Bool) (s : State) : (trip code unit detail classA s).sfi.state ≠ .armed := by
  unfold trip
  dsimp only
  split
  · next e => exact fun h => SfiState.noConfusion (e.symm.trans h)
  · next e => exact fun h => SfiState.noConfusion (e.symm.trans h)
  · exact SfiState.noConfusion

theorem execRailMonitorsInRange_holds (pass failPd fails) (h : Holds k s) : AnswerHolds k (execRailMonitorsInRange pass failPd fails s) := by
  have hr := updSt_holds (fun x => { x with shutRec := none }) h
  unfold execRailMonitorsInRange
  dsimp only
  split
  · exact done_holds h
  split
  · exact done_holds (updBoot_holds _ (showTest_holds _ _ hr))
  have hs := showTest_holds 2 (testRec pass failPd fails) hr
  split
  · exact done_holds (updBoot_holds _ hs)
  · exact done_holds (updBoot_holds _ (updSfi_notArmed_holds _ (trip_not_armed _ _ _ _ _) (updSt_holds _ (trip_holds _ _ _ _ hs))))

theorem startShutdown_holds (c) (h : Holds k s) : Holds k (startShutdown c s).2 := by
  unfold startShutdown
  split
  · exact trip_holds _ _ _ _ h
  · exact h

theorem halt_holds (bist) (h : Holds k s) : Holds k (halt bist s) := by
  unfold halt
  dsimp only
  split
  · exact updSt_holds _ (updEx_frame_holds _ (fun _ => rfl) (coresOff_holds (updBoot_holds _ h)))
  · exact updBoot_holds _ h

theorem execShutdownTestComplete_holds (failPd fails t) (h : Holds k s) : AnswerHolds k (execShutdownTestComplete failPd fails t s) := by
  unfold execShutdownTestComplete
  dsimp only
  split
  · exact done_holds (updSt_holds _ (State.at_holds _ h))
  · exact done_holds (State.at_holds _ h)

theorem startTestSlice_holds (c) (h : Holds k s) : Holds k (startTestSlice c s).2 := by
  unfold startTestSlice
  dsimp only
  split
  · exact h
  · split
    · exact h
    · split
      · exact h
      · split
        · exact h
        · exact updCmd_holds _ _ (updCore_holds _ _ (fun _ => rfl) h)

theorem execSliceComplete_holds (core ok t) (h : Holds k s) : AnswerHolds k (execSliceComplete core ok t s) := by
  have ht := State.at_holds t h
  unfold execSliceComplete
  dsimp only
  split
  · exact fin_holds ht
  split
  · exact fin_holds ht
  have hc : Holds k (updCore core (fun x => { ageCtr := x.ageCtr, cycles := x.cycles }) (s.at t)) := updCore_wf_holds _ _ (fun _ _ => Mem.wf_empty) ht
  split
  · exact fin_holds (finish_holds _ _ (updSt_holds _ hc))
  · exact fin_holds (finish_holds _ _ (trip_holds _ _ _ _ (updSt_holds _ hc)))

/-! ### Machine/Start.lean -/

theorem startNop_holds (a) (h : Holds k s) : Holds k (startNop a s).2 := h

theorem startBraidStop_holds (c) (h : Holds k s) : Holds k (startBraidStop c s).2 := by
  unfold startBraidStop
  split
  · exact startDrain_holds _ h
  · exact startHalt_holds _ h
  · exact startRelease_holds _ h

theorem startRenderPass_holds (c) (h : Holds k s) : Holds k (startRenderPass c s).2 := by
  unfold startRenderPass
  split
  · exact startPassEnd_holds _ h
  · exact startPassBegin_holds _ h

theorem startDomainConfig_holds (c) (h : Holds k s) : Holds k (startDomainConfig c s).2 := by
  unfold startDomainConfig
  split
  · exact startDomainJoin_holds _ h
  · exact startDomainLeave_holds _ h

theorem startOp_holds (c) (h : Holds k s) : Holds k (startOp c s).2 := by
  grind [startOp, startKnotWait_holds, startDirect_holds, startTestSlice_holds, startGraphFree_holds, startQuery_holds, startGraphRecord_holds,
    startMemUnmap_holds, startAlarmRead_holds, startPartitionConfig_holds, startNop_holds, startXlInvalidate_holds, startModelSelect_holds,
    startLayerSet_holds, startMixedStep_holds, startGraphSplice_holds, startModelLoad_holds, startMemMap_holds, startGraphLaunch_holds,
    startPowerHint_holds, startDraw_holds, startDomainReset_holds, startContextCreate_holds, startDzRun_holds, startSnapshot_holds,
    startFaultResume_holds, startCopy_holds, startQueueCreate_holds, startDomainBroadcast_holds, startOutConfig_holds, startBraidDefine_holds,
    startBraidStart_holds, startDomainBarrier_holds, startHitPost_holds, startTraceConfig_holds, startDomainConfig_holds,
    startContextDestroy_holds, startLogConfig_holds, startAxisConfig_holds, startBraidStop_holds, startQueueDestroy_holds, startShutdown_holds,
    startAttest_holds, startModelEvict_holds, startKnotSignal_holds, startCamConfig_holds, startRenderPass_holds, startLaunch_holds,
    startKnotReset_holds]

theorem checkKnot_holds (c) (h : Holds k s) : Holds k (checkKnot c s).2 := by
  have hk := knotAddr_holds c.who.ctx (pktCknot c.pkt) .store c.who.rq h
  unfold checkKnot
  dsimp only
  split
  · exact h
  · split
    · exact h
    · revert hk
      generalize knotAddr c.who.ctx (pktCknot c.pkt) .store c.who.rq s = r
      obtain ⟨a, u⟩ := r
      intro hk
      have hs : Holds k (match addSigs c.who.ctx [pktCknot c.pkt] u with
          | none => (Go.ended St.signalSetFull, u)
          | some v => (.running, v)).2 := by
        split
        · exact hk
        · next e => exact addSigs_holds _ _ hk e
      cases a with
      | bad => exact hk
      | fail st => exact hk
      | stall => exact hk
      | ok pl => exact hs
      | zero => exact hs

theorem checkCknot_holds (c) (h : Holds k s) : Holds k (checkCknot c s).2 := by
  unfold checkCknot
  split
  · exact h
  · exact checkKnot_holds _ h

theorem startCmd_holds (c) (h : Holds k s) : Holds k (startCmd c s).2 := by
  grind [startCmd, startOp_holds, checkCknot_holds]

theorem applyStart_holds (id r) (h : Holds k r.2) : Holds k (applyStart id r) := by
  unfold applyStart
  repeat' split
  all_goals grind [finish_holds, updCmd_holds]

theorem startAcquire_holds (c) (h : Holds k s) : Holds k (startAcquire c s) := by
  unfold startAcquire
  split
  · exact foldl_holds _ (fun _ _ hu => dropFar_holds _ hu) _ h
  · exact h

theorem tryStart_holds (id) (h : Holds k s) : Holds k (tryStart id s) := by
  unfold tryStart
  dsimp only
  split
  · exact h
  · split
    · exact h
    · exact applyStart_holds _ _ (startCmd_holds _ (startAcquire_holds _ (updCmd_holds _ _ h)))

theorem noteStarts_holds (h : Holds k s) : Holds k (noteStarts s) := updEx_frame_holds _ (fun _ => rfl) h

theorem startAll_holds (h : Holds k s) : Holds k (startAll s) := by
  unfold startAll
  refine foldl_holds _ (fun _ _ hu => ?_) _ h
  split
  · split
    · exact tryStart_holds _ hu
    · exact hu
  · exact hu

theorem cknotGo_holds (c) (h : Holds k s) : Holds k (cknotGo c s).2 := by
  unfold cknotGo
  split
  · exact h
  · split
    · exact h
    · split
      · next e => exact holds_of_pair (knotAddr_holds _ _ _ _ h) e
      · next e => exact holds_of_pair (knotAddr_holds _ _ _ _ h) e
      · next e => exact holds_of_pair (knotAddr_holds _ _ _ _ h) e

theorem retireChild_holds (l c) (h : Holds k s) : Holds k (retireChild l c s) := by
  unfold retireChild
  dsimp only
  refine updCmd_holds _ _ ?_
  split
  · exact signalVa_holds _ _ _ (updEx_frame_holds _ (fun _ => rfl) h)
  · exact updEx_frame_holds _ (fun _ => rfl) h

theorem bornChild_holds (l g v p rest) (h : Holds k s) : Holds k (bornChild l g v p rest s) := updCmd_holds _ _ (updEx_frame_holds _ (fun _ => rfl) h)

theorem graphStep_holds (l) (h : Holds k s) {t : State} (e : graphStep l s = some t) : Holds k t := by
  unfold graphStep at e
  split at e
  · cases e
  split at e
  · dsimp only at e
    split at e
    · next c _ =>
      have hk := cknotGo_holds c h
      split at e
      · next e' => cases e; exact retireChild_holds _ _ (holds_of_pair hk e')
      · next e' => cases e; exact holds_of_pair hk e'
    split at e
    · split at e
      · cases e; exact finish_holds _ _ h
      · cases e
    · split at e
      · cases e; exact tryStart_holds _ (bornChild_holds _ _ _ _ _ h)
      · cases e
  · cases e

theorem graphRun_holds (l b) (h : Holds k s) : Holds k (graphRun l b s) := by
  fun_induction graphRun l b s <;> grind [graphStep_holds]

theorem graphsGo_holds (h : Holds k s) : Holds k (graphsGo s) := by
  unfold graphsGo
  refine foldl_holds _ (fun _ _ hu => ?_) _ h
  split
  · exact graphRun_holds _ _ hu
  · exact hu

theorem goOn_holds (h : Holds k s) : Holds k (goOn s) := by
  have hn := noteStarts_holds (missDrain_holds s.mm.xl.missq.length h)
  unfold goOn
  dsimp only
  split
  · exact hn
  · exact schedSettle_holds (graphsGo_holds (advanceDraws_holds (advanceSteps_holds (advanceLoads_holds (startAll_holds hn)))))

/-! ### Machine/Life.lean -/

theorem slotPoison_holds (fn pl) (h : Holds k s) : Holds k (slotPoison fn pl s).2 := by
  unfold slotPoison
  split
  · next e => exact holds_of_pair (readPlace_holds _ _ _ h) e

theorem fetchPages_holds (q x first d) (h : Holds k s) : Holds k (fetchPages q x first d s).2 := by
  fun_induction fetchPages q x first d s <;> grind [slotPoison_holds, xl_holds]

theorem fetchBus_holds (x first c) (h : Holds k s) : Holds k (fetchBus x first c s).2 := by
  fun_induction fetchBus x first c s <;> grind [slotPoison_holds]

theorem fetchSlots_holds (q n) (h : Holds k s) : Holds k (fetchSlots q n s).2 := by
  unfold fetchSlots
  dsimp only
  split
  · exact updQueue_holds _ _ h
  · split
    · exact fetchBus_holds _ _ _ h
    · exact fetchPages_holds _ _ _ _ h

theorem countFetch_holds (q n) (h : Holds k s) : Holds k (countFetch q n s) := updQueue_holds _ _ h

theorem pushCmd_holds (q p phase st) (h : Holds k s) : Holds k (pushCmd q p phase st s).2 := updEx_frame_holds _ (fun _ => rfl) h

theorem refusePkt_holds (q hdrPoison n st p) (h : Holds k s) : Holds k (refusePkt q hdrPoison n st p s) := pushCmd_holds _ _ _ _ (countFetch_holds _ _ h)

theorem acceptDestroy_holds (c) (h : Holds k s) : Holds k (acceptDestroy c s) := by
  unfold acceptDestroy
  split
  · exact h
  · split
    · exact updCmd_holds _ _ h
    · split
      · exact markQueue_holds _ h
      · split
        · exact markContext_holds _ _ h
        · exact h

theorem acceptWait_holds (c) (h : Holds k s) : Holds k (acceptWait c s) := by
  unfold acceptWait
  split
  · exact h
  · split
    · next e => exact registerWait_holds _ _ (holds_of_pair (translate_holds _ _ _ h) e)
    · next e =>
        split
        · exact (holds_of_pair (translate_holds _ _ _ h) e)
        · exact registerWait_holds _ _ (holds_of_pair (translate_holds _ _ _ h) e)
    · next e => exact holds_of_pair (translate_holds _ _ _ h) e

theorem atAcceptance_holds (id) (h : Holds k s) : Holds k (atAcceptance id s) := by
  unfold atAcceptance
  split
  · exact h
  · split
    · exact bindGraph_holds _ h
    · exact acceptWait_holds _ h
    · exact acceptDestroy_holds _ h
    · exact acceptDestroy_holds _ h
    · exact h

theorem realKnots_holds (ctx b) (h : Holds k s) : Holds k (realKnots ctx b s).2 := by
  fun_induction realKnots ctx b s <;> grind [translate_holds]

theorem noteSigs_holds (id) (h : Holds k s) : Holds k (noteSigs id s) := by
  unfold noteSigs
  split
  · exact h
  next c e =>
  have hr := realKnots_holds (cmdCtx c) (namedKnots c.pkt) h
  split
  · dsimp only
    split
    · next e => exact addSigs_holds _ _ hr e
    · exact updCmd_holds _ _ hr
  · exact h

theorem acceptPkt_holds (q p hdrPoison anyPoison) (h : Holds k s) : Holds k (acceptPkt q p hdrPoison anyPoison s) := by
  unfold acceptPkt
  dsimp only
  split
  · next e => exact updQueue_holds _ _ (holds_of_pair (fetchSlots_holds _ _ h) e)
  · next e => exact refusePkt_holds _ _ _ _ _ (holds_of_pair (fetchSlots_holds _ _ h) e)
  · next e => exact refusePkt_holds _ _ _ _ _ (holds_of_pair (fetchSlots_holds _ _ h) e)
  · next e =>
      split <;> exact refusePkt_holds _ _ _ _ _ (holds_of_pair (fetchSlots_holds _ _ h) e)
  · next e =>
      split
      · exact refusePkt_holds _ _ _ _ _ (holds_of_pair (fetchSlots_holds _ _ h) e)
      · split
        · exact refusePkt_holds _ _ _ _ _ (holds_of_pair (fetchSlots_holds _ _ h) e)
        · split
          · exact refusePkt_holds _ _ _ _ _ (holds_of_pair (fetchSlots_holds _ _ h) e)
          · exact atAcceptance_holds _ (noteSigs_holds _ (pushCmd_holds _ _ _ _ (countFetch_holds _ _ (holds_of_pair (fetchSlots_holds _ _ h) e))))

theorem feTook_holds (q p) (h : Holds k s) : Holds k (feTook q p s) := by
  unfold feTook
  dsimp only
  split
  · exact acceptPkt_holds _ _ _ _ (returnToRun_holds (updEx_frame_holds _ (fun _ => rfl) h))
  · exact updQueue_holds _ _ (acceptPkt_holds _ _ _ _ (returnToRun_holds (updEx_frame_holds _ (fun _ => rfl) h)))

theorem feStep_holds (h : Holds k s) {t : State} (e : feStep s = some t) : Holds k t := by
  unfold feStep at e
  obtain ⟨q, hq, e⟩ := Option.bind_eq_some_iff.mp e
  obtain ⟨p, hp, rfl⟩ := Option.map_eq_some_iff.mp e
  exact goOn_holds (feTook_holds _ _ h)

theorem feRun_holds (a) (h : Holds k s) : Holds k (feRun a s) := by
  fun_induction feRun a s <;> grind [feStep_holds]

theorem kick_holds (h : Holds k s) : Holds k (kick s) := feRun_holds _ (goOn_holds h)

theorem placePkt_holds (q p) (h : Holds k s) : Holds k (placePkt q p s) := updQueue_holds _ _ h

theorem acceptRow_holds (q mine p) (h : Holds k s) : Holds k (acceptRow q mine p s) := by
  unfold acceptRow
  dsimp only
  split
  · split
    · exact updSnap_holds _ (feRun_holds _ (placePkt_holds _ _ h))
    · exact kick_holds (placePkt_holds _ _ h)
  · exact h

theorem execFramingFailure_holds (q p hdrPoison anyPoison) (h : Holds k s) : AnswerHolds k (execFramingFailure q p hdrPoison anyPoison s) :=
  fin_holds (acceptRow_holds _ _ _ h)

theorem lostRec_holds (q) (h : Holds k s) : Holds k (lostRec q s) := postAlarm_holds _ _ _ (updQueue_holds _ _ h)

theorem writeRec_holds (q dws) (h : Holds k s) : Holds k (writeRec q dws s) := by
  grind [writeRec, updQueue_holds, lostRec_holds, writePlace_holds, xl_holds]

theorem sendIrq_holds (q irq) (h : Holds k s) : Holds k (sendIrq q irq s) := by
  unfold sendIrq
  split
  · exact msiSend_holds _ _ h
  · exact h

theorem signalCknot_holds (c) (h : Holds k s) : Holds k (signalCknot c s) := by
  unfold signalCknot
  split
  · split
    · exact signal_holds _ _ _ h
    · exact signalVa_holds _ _ _ h
  · exact h

theorem startNext_holds (q) (h : Holds k s) : Holds k (startNext q s) := by
  unfold startNext
  split
  · exact h
  · refine foldl_holds _ (fun _ _ hu => ?_) _ h
    split
    · split
      · exact tryStart_holds _ hu
      · exact hu
    · exact hu

/-- The end of a completion: the root queue settles, and a SHUTDOWN that succeeded halts the device. -/
theorem settleHalt_holds (fn : Nat) (p : Prop) [Decidable p] (b : Bool) (h : Holds k s) :
    Holds k (if p then halt b (settleRoot fn s) else settleRoot fn s) := by
  split
  · exact halt_holds _ (settleRoot_holds _ h)
  · exact settleRoot_holds _ h

/-- A completion's record is written and told of, or waits. -/
theorem recordOrWait_holds (p : Prop) [Decidable p] (q : Nat) (f : Queue → Queue) (irq : Bool) (dws : List W32) (h : Holds k s) :
    Holds k (if p then updQueue q f s else sendIrq q irq (writeRec q dws s)) := by
  split
  · exact updQueue_holds _ _ h
  · exact sendIrq_holds _ _ (writeRec_holds _ _ h)

theorem complete1_holds (next c) (h : Holds k s) : Holds k (complete1 next c s) := by
  have hp : ∀ f, Holds k (signalCknot c (publish (updQueue c.q.val f (updEx (fun e => { e with cmds := e.cmds.filter (·.id != c.id) }) s)))) := fun f =>
    signalCknot_holds _ (publish_holds (updQueue_holds _ f (updEx_frame_holds _ (fun _ => rfl) h)))
  unfold complete1
  dsimp only
  refine settleHalt_holds _ _ _ (recordOrWait_holds _ _ _ _ _ ?_)
  cases next with
  | true => exact startNext_holds _ (hp _)
  | false => exact hp _

theorem completionNow_holds (next q) (h : Holds k s) : Holds k (completionNow next q s) := by
  unfold completionNow
  dsimp only
  split
  · exact h
  · next e =>
      split
      · next e => exact holds_of_pair (cknotGo_holds _ h) e
      · next e =>
          refine complete1_holds _ _ ?_
          refine foldl_holds _ (fun _ _ hu => retireChild_holds _ _ hu) _ ?_
          split
          · exact endLoad_holds _ (holds_of_pair (cknotGo_holds _ h) e)
          · exact (holds_of_pair (cknotGo_holds _ h) e)

theorem completion_holds (q) (h : Holds k s) : Holds k (completion q s) := kick_holds (completionNow_holds _ _ h)

theorem execCommandCompletion_holds (q) (h : Holds k s) : AnswerHolds k (execCommandCompletion q s) := by
  unfold execCommandCompletion
  split
  · exact fin_holds h
  · split
    · exact fin_holds (hold_holds _ h)
    · exact fin_holds (completion_holds _ h)

theorem release_holds (hh) (h : Holds k s) : Holds k (release hh s) := by
  unfold release
  split
  · exact signalNow_holds _ _ _ h
  · exact abandonNow_holds _ _ h
  · exact knotResetNow_holds _ _ _ h
  · exact hitNow_holds _ _ h
  · exact publishNow_holds h
  · exact completionNow_holds _ _ h
  · exact h

theorem execHoldEnd_holds (t) (h : Holds k s) : AnswerHolds k (execHoldEnd t s) := by
  unfold execHoldEnd
  dsimp only
  split
  · split
    · exact fin_holds (kick_holds (foldl_holds _ (fun _ _ hu => release_holds _ hu) _ (updSnap_holds _ (snapCapture_holds _ (State.at_holds _ h)))))
    · exact fin_holds (State.at_holds _ h)
  · exact fin_holds (State.at_holds _ h)

theorem drainCmd_holds (c) (h : Holds k s) : Holds k (drainCmd c s) :=
  settleCmd_holds _ (foldl_holds _ (fun _ _ hu => settleCmd_holds _ (updCmd_holds _ _ hu)) _ (updCmd_holds _ _ h))

theorem drainOrKill_holds (c) (h : Holds k s) : Holds k (drainOrKill c s) := by
  unfold drainOrKill
  split
  · exact killCmd_holds _ _ h
  · split
    · exact finish_holds _ _ h
    · split
      · exact h
      · exact drainCmd_holds _ h

theorem waitsOnly_holds (c) (h : Holds k s) : Holds k (waitsOnly c s) := by
  unfold waitsOnly
  split
  · exact finish_holds _ _ h
  · exact h

theorem timeoutWait_holds (c) (h : Holds k s) : Holds k (timeoutWait c s) := by
  unfold timeoutWait
  split
  · next e =>
      split
      · next e => exact finish_holds _ _ (setRes64_holds _ _ (holds_of_triple (knotRead_holds _ _ h) e))
  · exact finish_holds _ _ h

theorem timeoutOf_holds (c) (h : Holds k s) : Holds k (timeoutOf c s) := by
  grind [timeoutOf, killCmd_holds, withdrawBarrier_holds, waitsOnly_holds, stopDz_holds, stopWork_holds, finish_holds, stopXfer_holds,
    drainOrKill_holds, timeoutWait_holds]

theorem execCommandTimeout_holds (c t) (h : Holds k s) : AnswerHolds k (execCommandTimeout c t s) := by
  unfold execCommandTimeout
  dsimp only
  split
  · split
    · exact fin_holds (kick_holds (timeoutOf_holds _ (State.at_holds _ h)))
    · exact fin_holds (State.at_holds _ h)
  · exact fin_holds (State.at_holds _ h)

theorem execTimeoutDrainAllowance_holds (c t) (h : Holds k s) : AnswerHolds k (execTimeoutDrainAllowance c t s) := by
  unfold execTimeoutDrainAllowance
  dsimp only
  split
  · exact fin_holds (State.at_holds _ h)
  · split
    · exact fin_holds (State.at_holds _ h)
    · split
      · exact fin_holds (State.at_holds _ h)
      · exact fin_holds (kick_holds (killCmd_holds _ _ (State.at_holds _ h)))

theorem execSelectionRecordRetired_holds (a) (h : Holds k s) : AnswerHolds k (execSelectionRecordRetired a s) :=
  fin_holds (kick_holds (settleOrphans_holds h))

end
end Sys2Proof.Machine


/-! What every step keeps: the functions of Packets, Bar0, Control, KnotIns, Matrix, Sampler, TestPort. -/
namespace Sys2Proof.Machine
section
variable {k : KeptClaim} {s : State}

/-! ### Machine/Packets.lean -/

theorem execNop_holds (q p) (h : Holds k s) : AnswerHolds k (execNop q p s) := fin_holds (acceptRow_holds _ _ _ h)

theorem execQuery_holds (q p) (h : Holds k s) : AnswerHolds k (execQuery q p s) := fin_holds (acceptRow_holds _ _ _ h)

theorem execMemMap_holds (q p) (h : Holds k s) : AnswerHolds k (execMemMap q p s) := fin_holds (acceptRow_holds _ _ _ h)

theorem execMemUnmap_holds (q p) (h : Holds k s) : AnswerHolds k (execMemUnmap q p s) := fin_holds (acceptRow_holds _ _ _ h)

theorem execXlInvalidate_holds (q p) (h : Holds k s) : AnswerHolds k (execXlInvalidate q p s) := fin_holds (acceptRow_holds _ _ _ h)

theorem execFaultResume_holds (q p) (h : Holds k s) : AnswerHolds k (execFaultResume q p s) := fin_holds (acceptRow_holds _ _ _ h)

theorem execCopy_holds (q p) (h : Holds k s) : AnswerHolds k (execCopy q p s) := fin_holds (acceptRow_holds _ _ _ h)

theorem execLaunch_holds (q p) (h : Holds k s) : AnswerHolds k (execLaunch q p s) := fin_holds (acceptRow_holds _ _ _ h)

theorem execBraidDefine_holds (q p) (h : Holds k s) : AnswerHolds k (execBraidDefine q p s) := fin_holds (acceptRow_holds _ _ _ h)

theorem execBraidStart_holds (q p) (h : Holds k s) : AnswerHolds k (execBraidStart q p s) := fin_holds (acceptRow_holds _ _ _ h)

theorem execBraidStopDrain_holds (q p) (h : Holds k s) : AnswerHolds k (execBraidStopDrain q p s) := fin_holds (acceptRow_holds _ _ _ h)

theorem execBraidStopHalt_holds (q p) (h : Holds k s) : AnswerHolds k (execBraidStopHalt q p s) := fin_holds (acceptRow_holds _ _ _ h)

theorem execBraidStopRelease_holds (q p) (h : Holds k s) : AnswerHolds k (execBraidStopRelease q p s) := fin_holds (acceptRow_holds _ _ _ h)

theorem execModelLoad_holds (q p) (h : Holds k s) : AnswerHolds k (execModelLoad q p s) := fin_holds (acceptRow_holds _ _ _ h)

theorem execModelEvict_holds (q p) (h : Holds k s) : AnswerHolds k (execModelEvict q p s) := fin_holds (acceptRow_holds _ _ _ h)

theorem execMixedStep_holds (q p) (h : Holds k s) : AnswerHolds k (execMixedStep q p s) := fin_holds (acceptRow_holds _ _ _ h)

theorem execModelSelect_holds (q p) (h : Holds k s) : AnswerHolds k (execModelSelect q p s) := fin_holds (acceptRow_holds _ _ _ h)

theorem execGraphRecord_holds (q p) (h : Holds k s) : AnswerHolds k (execGraphRecord q p s) := fin_holds (acceptRow_holds _ _ _ h)

theorem execGraphLaunch_holds (q p) (h : Holds k s) : AnswerHolds k (execGraphLaunch q p s) := fin_holds (acceptRow_holds _ _ _ h)

theorem execGraphSplice_holds (q p) (h : Holds k s) : AnswerHolds k (execGraphSplice q p s) := fin_holds (acceptRow_holds _ _ _ h)

theorem execGraphFree_holds (q p) (h : Holds k s) : AnswerHolds k (execGraphFree q p s) := fin_holds (acceptRow_holds _ _ _ h)

theorem execKnotSignal_holds (q p) (h : Holds k s) : AnswerHolds k (execKnotSignal q p s) := fin_holds (acceptRow_holds _ _ _ h)

theorem execKnotWait_holds (q p) (h : Holds k s) : AnswerHolds k (execKnotWait q p s) := fin_holds (acceptRow_holds _ _ _ h)

theorem execKnotReset_holds (q p) (h : Holds k s) : AnswerHolds k (execKnotReset q p s) := fin_holds (acceptRow_holds _ _ _ h)

theorem execRenderPassBegin_holds (q p) (h : Holds k s) : AnswerHolds k (execRenderPassBegin q p s) := fin_holds (acceptRow_holds _ _ _ h)

theorem execRenderPassEnd_holds (q p) (h : Holds k s) : AnswerHolds k (execRenderPassEnd q p s) := fin_holds (acceptRow_holds _ _ _ h)

theorem execDraw_holds (q p) (h : Holds k s) : AnswerHolds k (execDraw q p s) := fin_holds (acceptRow_holds _ _ _ h)

theorem execDirectDraw_holds (q p) (h : Holds k s) : AnswerHolds k (execDirectDraw q p s) := fin_holds (acceptRow_holds _ _ _ h)

theorem execLayerSet_holds (q p) (h : Holds k s) : AnswerHolds k (execLayerSet q p s) := fin_holds (acceptRow_holds _ _ _ h)

theorem execCamConfig_holds (q p) (h : Holds k s) : AnswerHolds k (execCamConfig q p s) := fin_holds (acceptRow_holds _ _ _ h)

theorem execAxisConfig_holds (q p) (h : Holds k s) : AnswerHolds k (execAxisConfig q p s) := fin_holds (acceptRow_holds _ _ _ h)

theorem execHitPost_holds (q p) (h : Holds k s) : AnswerHolds k (execHitPost q p s) := fin_holds (acceptRow_holds _ _ _ h)

theorem execOutConfig_holds (q p) (h : Holds k s) : AnswerHolds k (execOutConfig q p s) := fin_holds (acceptRow_holds _ _ _ h)

theorem execDzRunCompress_holds (q p) (h : Holds k s) : AnswerHolds k (execDzRunCompress q p s) := fin_holds (acceptRow_holds _ _ _ h)

theorem execDzRunDecompress_holds (q p) (h : Holds k s) : AnswerHolds k (execDzRunDecompress q p s) := fin_holds (acceptRow_holds _ _ _ h)

theorem execPowerHint_holds (q p) (h : Holds k s) : AnswerHolds k (execPowerHint q p s) := fin_holds (acceptRow_holds _ _ _ h)

theorem execSnapshot_holds (q p) (h : Holds k s) : AnswerHolds k (execSnapshot q p s) := fin_holds (acceptRow_holds _ _ _ h)

theorem execLogConfig_holds (q p) (h : Holds k s) : AnswerHolds k (execLogConfig q p s) := fin_holds (acceptRow_holds _ _ _ h)

theorem execTraceConfig_holds (q p) (h : Holds k s) : AnswerHolds k (execTraceConfig q p s) := fin_holds (acceptRow_holds _ _ _ h)

theorem execAlarmRead_holds (q p) (h : Holds k s) : AnswerHolds k (execAlarmRead q p s) := fin_holds (acceptRow_holds _ _ _ h)

theorem execContextCreate_holds (q p) (h : Holds k s) : AnswerHolds k (execContextCreate q p s) := fin_holds (acceptRow_holds _ _ _ h)

theorem execContextDestroy_holds (q p) (h : Holds k s) : AnswerHolds k (execContextDestroy q p s) := fin_holds (acceptRow_holds _ _ _ h)

theorem execQueueCreate_holds (q p) (h : Holds k s) : AnswerHolds k (execQueueCreate q p s) := fin_holds (acceptRow_holds _ _ _ h)

theorem execQueueDestroy_holds (q p) (h : Holds k s) : AnswerHolds k (execQueueDestroy q p s) := fin_holds (acceptRow_holds _ _ _ h)

theorem execPartitionConfig_holds (q p) (h : Holds k s) : AnswerHolds k (execPartitionConfig q p s) := fin_holds (acceptRow_holds _ _ _ h)

theorem execDomainConfigJoin_holds (q p) (h : Holds k s) : AnswerHolds k (execDomainConfigJoin q p s) := fin_holds (acceptRow_holds _ _ _ h)

theorem execDomainConfigLeave_holds (q p) (h : Holds k s) : AnswerHolds k (execDomainConfigLeave q p s) := fin_holds (acceptRow_holds _ _ _ h)

theorem execDomainBarrier_holds (q p) (h : Holds k s) : AnswerHolds k (execDomainBarrier q p s) := fin_holds (acceptRow_holds _ _ _ h)

theorem execDomainBroadcast_holds (q p) (h : Holds k s) : AnswerHolds k (execDomainBroadcast q p s) := fin_holds (acceptRow_holds _ _ _ h)

theorem execDomainReset_holds (q p) (h : Holds k s) : AnswerHolds k (execDomainReset q p s) := fin_holds (acceptRow_holds _ _ _ h)

theorem execTestSlice_holds (q p) (h : Holds k s) : AnswerHolds k (execTestSlice q p s) := fin_holds (acceptRow_holds _ _ _ h)

theorem execShutdown_holds (q p) (h : Holds k s) : AnswerHolds k (execShutdown q p s) := fin_holds (acceptRow_holds _ _ _ h)

theorem execAttest_holds (q p) (h : Holds k s) : AnswerHolds k (execAttest q p s) := fin_holds (acceptRow_holds _ _ _ h)

/-! ### Machine/Bar0.lean -/

theorem doorbellWake_holds (q) (h : Holds k s) : Holds k (doorbellWake q s) := by
  unfold doorbellWake
  split
  · exact wakeBy_holds _ h
  · exact h

theorem writeTail_holds (fn q t) (h : Holds k s) : Holds k (writeTail fn q t s) := by
  unfold writeTail
  dsimp only
  split
  · exact kick_holds (updQueue_holds _ _ (doorbellWake_holds _ h))
  · exact doorbellBad_holds _ (doorbellWake_holds _ h)

theorem flushRecs_holds (q b) (h : Holds k s) : Holds k (flushRecs q b s) := by
  fun_induction flushRecs q b s <;> grind [sendIrq_holds, updQueue_holds, writeRec_holds]

theorem flushRec_holds (q) (h : Holds k s) : Holds k (flushRec q s) := settleRoot_holds _ (flushRecs_holds _ _ h)

theorem writeChead_holds (fn q hh) (h : Holds k s) : Holds k (writeChead fn q hh s) := by
  unfold writeChead
  dsimp only
  split
  · exact kick_holds (flushRec_holds _ (updQueue_holds _ _ (doorbellWake_holds _ h)))
  · exact doorbellBad_holds _ (doorbellWake_holds _ h)

theorem execTail_holds (fn q v) (h : Holds k s) : AnswerHolds k (execTail fn q v s) := by
  unfold execTail
  split
  · exact fin_holds (writeTail_holds _ _ _ h)
  · exact done_holds h

theorem execChead_holds (fn q v) (h : Holds k s) : AnswerHolds k (execChead fn q v s) := by
  unfold execChead
  split
  · exact fin_holds (writeChead_holds _ _ _ h)
  · exact done_holds h

theorem execBar2Read_holds (fn off len) (h : Holds k s) : AnswerHolds k (execBar2Read fn off len s) := by
  unfold execBar2Read
  split
  · exact fin_holds (bar2Read_holds _ _ _ (wakeBy_holds _ h))
  · exact done_holds h

theorem execBar2Write_holds (fn off data) (h : Holds k s) : AnswerHolds k (execBar2Write fn off data s) := by
  unfold execBar2Write
  split
  · exact fin_holds (bar2Write_holds _ _ _ (wakeBy_holds _ h))
  · exact done_holds h

theorem offAccess_holds (h : Holds k s) : Holds k (offAccess s) := wakeBy_holds _ (updPwr_holds _ h)

theorem icnRead_holds (t o) (h : Holds k s) : Holds k (icnRead t o s).2 := by
  unfold icnRead
  dsimp only
  split
  · exact h
  · exact claim_holds _ h
  · exact h

theorem regRead_holds (fn off) (h : Holds k s) : Holds k (regRead fn off s).2 := by
  unfold regRead
  dsimp only
  split
  · exact h
  · exact h
  · split
    · exact h
    · split
      · exact icnRead_holds _ _ h
      · exact h
  · exact h
  · exact h
  · exact h
  · exact h
  · exact h
  · exact h
  · exact h
  · exact h
  · exact h
  · exact h
  · exact h
  · split
    · exact pteRead32_holds _ h
    · exact h

theorem regReadWide_holds (fn off) (h : Holds k s) : Holds k (regReadWide fn off s).2 := by
  grind [regReadWide, pteRead_holds, regRead_holds]

theorem hostReadReg_holds (fn off len) (h : Holds k s) : Holds k (hostReadReg fn off len s) := by
  unfold hostReadReg
  split
  · exact setReadData_holds _ h
  split
  · exact offAccess_holds (setReadData_holds _ h)
  split
  · exact setReadData_holds _ (regReadWide_holds _ _ h)
  · exact setReadData_holds _ (regRead_holds _ _ h)

theorem execHostaccRead_holds (fn a) (h : Holds k s) : AnswerHolds k (execHostaccRead fn a s) := by
  unfold execHostaccRead
  split
  · exact fin_holds (hostReadReg_holds _ _ _ h)
  · exact done_holds h

theorem writeMsix_holds (fn o v) (h : Holds k s) : Holds k (writeMsix fn o v s) := by
  unfold writeMsix
  dsimp only
  split
  · exact h
  · split
    · exact msiSend_holds _ _ (updFunc_holds _ _ h)
    · exact updFunc_holds _ _ h

theorem icnWrite_holds (t o v) (h : Holds k s) : Holds k (icnWrite t o v s) := by
  unfold icnWrite
  dsimp only
  split
  · exact updHi_holds _ h
  · exact complete_holds _ _ h
  · exact h

theorem rootqReg_holds (fn f) (h : Holds k s) : Holds k (rootqReg fn f s) := by
  unfold rootqReg
  split
  · exact h
  · exact updFunc_holds _ _ h

theorem hifWrite_holds (fn o v) (h : Holds k s) : Holds k (hifWrite fn o v s) := by
  unfold hifWrite
  dsimp only
  split
  · exact rootqReg_holds _ _ h
  · exact rootqReg_holds _ _ h
  · exact rootqReg_holds _ _ h
  · exact rootqReg_holds _ _ h
  · exact rootqReg_holds _ _ h
  · exact writeRootq_holds _ _ h
  · exact writeMirror_holds _ _ h
  · exact writeMirror_holds _ _ h
  · exact updFunc_holds _ _ h
  · exact updFunc_holds _ _ h
  · exact updFunc_holds _ _ h
  · exact h

theorem bootWrite_holds (o v) (h : Holds k s) : Holds k (bootWrite o v s) := by
  unfold bootWrite
  split
  · exact h
  · split
    · exact updBoot_holds _ h
    · exact updBoot_holds _ h
    · exact updBoot_holds _ h
    · exact writeBootCtrl_holds _ h
    · exact h

theorem dpoWrite_holds (d o v) (h : Holds k s) : Holds k (dpoWrite d o v s) := by
  unfold dpoWrite
  split
  · exact updDpo_holds _ _ h
  · split
    · exact writeDpoCtrl_holds _ _ h
    · exact writeTiming_holds _ _ h
    · exact writeTiming_holds _ _ h
    · exact writeTiming_holds _ _ h
    · exact writeTiming_holds _ _ h
    · exact writeTiming_holds _ _ h
    · exact writeTiming_holds _ _ h
    · exact updDpo_holds _ _ h
    · split
      · exact startTrain_holds _ h
      · exact h
    · exact updDpo_holds _ _ h
    · split
      · exact msgGo_holds _ h
      · exact h
    · exact h

theorem wispWrite_holds (o v) (h : Holds k s) : Holds k (wispWrite o v s) := by
  unfold wispWrite
  dsimp only
  split
  · exact writeWispCtrl_holds _ h
  · split
    · exact updWisp_holds _ h
    · split
      · exact h
      · split
        · exact updWisp_holds _ h
        · split
          · exact updWisp_holds _ h
          · split
            · exact updWisp_holds _ h
            · exact h

theorem avsWrite_holds (o v) (h : Holds k s) : Holds k (avsWrite o v s) := by
  unfold avsWrite
  split
  · exact updAvs_holds _ h
  · exact updAvs_holds _ h
  · exact h

theorem eccWrite_holds (o v) (h : Holds k s) : Holds k (eccWrite o v s) := by
  unfold eccWrite
  split
  · exact ctlUpd_holds _ h
  · exact ctlUpd_holds _ h
  · exact ctlUpd_holds _ h
  · exact ctlUpd_holds _ h
  · exact ctlUpd_holds _ h
  · exact ctlUpd_holds _ h
  · exact writeTestCtrl_holds _ h
  · exact h

theorem linkWrite_holds (kk o v) (h : Holds k s) : Holds k (linkWrite kk o v s) := by
  unfold linkWrite
  split
  · exact writeHlCtrl_holds _ _ h
  · exact updLink_holds _ _ h
  · exact h

theorem xlWrite_holds (o v) (h : Holds k s) : Holds k (xlWrite o v s) := by
  unfold xlWrite
  dsimp only
  split
  · exact writeFqbase_holds _ h
  · exact writeFqbase_holds _ h
  · exact writeFqcfg_holds _ h
  · exact writeFqhead_holds _ h
  · exact xlUpd_holds _ h
  · exact writeRefq_holds _ h
  · exact writeRefq_holds _ h
  · exact h

theorem regWrite_holds (fn off v) (h : Holds k s) : Holds k (regWrite fn off v s) := by
  unfold regWrite
  dsimp only
  split
  · split
    · exact h
    · split
      · exact writeTail_holds _ _ _ h
      · exact writeChead_holds _ _ _ h
  · split
    · exact writeMsix_holds _ _ _ h
    · exact h
  · split
    · exact writeIcnSrc_holds _ _ h
    · split
      · exact icnWrite_holds _ _ _ h
      · exact h
  · split
    · exact bootWrite_holds _ _ h
    · exact hifWrite_holds _ _ _ h
  · split
    · exact updCam_holds _ _ h
    · exact h
  · split
    · exact dpoWrite_holds _ _ _ h
    · exact h
  · split
    · exact wispWrite_holds _ _ h
    · exact h
  · exact avsWrite_holds _ _ h
  · exact eccWrite_holds _ _ h
  · split
    · exact linkWrite_holds _ _ _ h
    · exact h
  · exact xlWrite_holds _ _ h
  · split
    · exact pteWrite_holds _ _ h
    · exact h

theorem regWriteWide_holds (fn off v) (h : Holds k s) : Holds k (regWriteWide fn off v s) := by
  unfold regWriteWide
  dsimp only
  split
  · exact writeFqbase_holds _ h
  · split
    · exact writeRefq_holds _ h
    · split
      · exact writeMirror_holds _ _ h
      · split
        · exact writeZload_holds _ _ h
        · split
          · exact writeTgWide_holds _ _ _ h
          · split
            · exact writeHostpos_holds _ _ _ h
            · exact regWrite_holds _ _ _ (regWrite_holds _ _ _ h)

theorem hostWriteReg_holds (fn off len v) (h : Holds k s) : Holds k (hostWriteReg fn off len v s) := by
  unfold hostWriteReg
  split
  · exact h
  · split
    · exact offAccess_holds h
    · split
      · exact regWriteWide_holds _ _ _ h
      · exact regWrite_holds _ _ _ h

theorem execRegisterWrite_holds (fn off len v) (h : Holds k s) : AnswerHolds k (execRegisterWrite fn off len v s) := by
  unfold execRegisterWrite
  split
  · exact fin_holds (hostWriteReg_holds _ _ _ _ h)
  · exact done_holds h

/-! ### Machine/Control.lean -/

theorem execBra_holds (g w ext) (h : Holds k s) : AnswerHolds k (execBra g w ext s) := issue_holds _ _ _ _ _ _ h (fun _ _ _ hu => putG_holds _ hu)

theorem execSplit_holds (g w ext) (h : Holds k s) : AnswerHolds k (execSplit g w ext s) := by
  unfold execSplit
  refine issue_holds _ _ _ _ _ _ h (fun _ _ _ hu => ?_)
  split
  · exact trapG_holds _ _ hu
  · exact putG_holds _ hu

theorem execJoin_holds (g w ext) (h : Holds k s) : AnswerHolds k (execJoin g w ext s) := by
  unfold execJoin
  refine issue_holds _ _ _ _ _ _ h (fun _ _ _ hu => ?_)
  split
  · exact trapG_holds _ _ hu
  · split
    · exact trapG_holds _ _ hu
    · exact settleGroup_holds _ _ hu

theorem keepOuts_holds (b) (h : Holds k s) : Holds k (keepOuts b s) := by
  unfold keepOuts
  split
  · exact h
  · exact updEx_frame_holds _ (fun _ => rfl) h

theorem execExit_holds (g w ext) (h : Holds k s) : AnswerHolds k (execExit g w ext s) :=
  issue_holds _ _ _ _ _ _ h (fun _ _ _ hu => settleGroup_holds _ _ (keepOuts_holds _ hu))

theorem execCall_holds (g w ext) (h : Holds k s) : AnswerHolds k (execCall g w ext s) := issue_holds _ _ _ _ _ _ h (fun _ _ _ hu => putG_holds _ hu)

theorem execRet_holds (g w ext) (h : Holds k s) : AnswerHolds k (execRet g w ext s) := by
  unfold execRet
  refine issue_holds _ _ _ _ _ _ h (fun _ _ _ hu => ?_)
  dsimp only
  split
  · exact trapG_holds _ _ hu
  · split
    · exact trapG_holds _ _ hu
    · exact putG_holds _ hu

theorem execBar_holds (g w ext) (h : Holds k s) : AnswerHolds k (execBar g w ext s) := by
  unfold execBar
  refine issue_holds _ _ _ _ _ _ h (fun _ _ _ hu => ?_)
  dsimp only
  split
  · exact trapG_holds _ _ hu
  · split
    · exact await_holds _ _ hu
    · exact releaseBars_holds _ (putG_holds _ hu)

theorem execCbar_holds (g w ext) (h : Holds k s) : AnswerHolds k (execCbar g w ext s) := by
  unfold execCbar
  refine issue_holds _ _ _ _ _ _ h (fun _ _ _ hu => ?_)
  dsimp only
  split
  · exact trapG_holds _ _ hu
  · split
    · exact await_holds _ _ hu
    · exact releaseBars_holds _ (putG_holds _ hu)

theorem execFence_holds (g w ext) (h : Holds k s) : AnswerHolds k (execFence g w ext s) := by
  unfold execFence
  refine issue_holds _ _ _ _ _ _ h (fun _ _ _ hu => ?_)
  split
  · exact await_holds _ _ hu
  · refine putG_holds _ ?_
    split
    · exact dropFar_holds _ hu
    · exact hu

/-! ### Machine/KnotIns.lean -/

theorem knotOf_holds (g w x b kk wait f) (h : Holds k s) (hf : ∀ a u, Holds k u → Holds k (f a u)) : Holds k (knotOf g w x b kk wait s f) := by
  grind [knotOf, linkDrop_holds, failOwner_holds, putG_holds, stallG_holds, trapG_holds, linkTimeout_holds, xl_holds]

theorem execKsig_holds (g w ext) (h : Holds k s) : AnswerHolds k (execKsig g w ext s) := by
  unfold execKsig
  dsimp only
  refine issue_holds _ _ _ _ _ _ h (fun _ _ _ hu => ?_)
  split
  · exact trapG_holds _ _ hu
  · refine knotOf_holds _ _ _ _ _ _ _ hu (fun _ _ hu => ?_)
    split
    · exact await_holds _ _ hu
    · split
      · exact hu
      · next e => exact signal_holds _ _ _ (farLose_holds _ _ (putG_holds _ ((bulk_holds _ _ hu e))))

theorem execKwait_holds (g w ext) (h : Holds k s) : AnswerHolds k (execKwait g w ext s) := by
  unfold execKwait
  refine issue_holds _ _ _ _ _ _ h (fun _ _ _ hu => ?_)
  dsimp only
  split
  · exact trapG_holds _ _ hu
  · split
    · exact await_holds _ _ hu
    · exact knotOf_holds _ _ _ _ _ _ _ hu (fun _ _ hu => schedPart_holds _ (parkLate_holds _ (evalWait_holds _ _ _ (knotRead_holds _ _ hu))))

theorem execKwaitTimeout_holds (g t) (h : Holds k s) : AnswerHolds k (execKwaitTimeout g t s) := by
  grind [execKwaitTimeout, fin_holds, rereadWait_holds, State.at_holds]

theorem execHit_holds (g w ext) (h : Holds k s) : AnswerHolds k (execHit g w ext s) := by
  unfold execHit
  refine issue_holds _ _ _ _ _ _ h (fun _ _ _ hu => ?_)
  dsimp only
  split
  · split
    · exact trapG_holds _ _ hu
    · split
      · exact trapG_holds _ _ hu
      · exact foldl_holds _ (fun _ _ hu => hitPort_holds _ _ hu) _ (putG_holds _ hu)
  · exact trapG_holds _ _ hu

theorem execKnotSignalAtPort_holds (kk v) (h : Holds k s) : AnswerHolds k (execKnotSignalAtPort kk v s) := fin_holds (signal_holds _ _ _ h)

/-! ### Machine/Matrix.lean -/

theorem fragPlaces_holds (c kk rq l) (h : Holds k s) : Holds k (fragPlaces c kk rq l s).2 := by
  unfold fragPlaces
  dsimp only
  split
  · next e => exact holds_of_pair (devLanes_holds _ _ _ _ _ h) e
  · next e => exact holds_of_pair (devLanes_holds _ _ _ _ _ h) e
  · next e => exact holds_of_pair (devLanes_holds _ _ _ _ _ h) e

theorem readFrag_holds (fn b) (h : Holds k s) : Holds k (readFrag fn b s).2 := by
  fun_induction readFrag fn b s <;> grind [readPlace_holds]

theorem execMld_holds (g w ext) (h : Holds k s) : AnswerHolds k (execMld g w ext s) := by
  refine issue_holds _ _ _ _ _ _ h fun x b u hu => ?_
  have hd := fun l => fragPlaces_holds b.ctx .load (rqG x) l hu
  dsimp only
  generalize (if bit w 63 = true then 8 else 4) = al
  split
  · exact trapG_holds _ _ hu
  split
  · exact trapG_holds _ _ hu
  split
  · split
    · next e => exact trapG_holds _ _ (holds_of_pair (hd _) e)
    · next e => exact stallG_holds _ (holds_of_pair (hd _) e)
    next pls v e =>
    have hv := holds_of_pair (hd _) e
    split
    · exact downAccess_holds _ _ _ (putG_holds _ hv)
    split
    · exact hv
    · next e => exact putG_holds _ (readFrag_holds _ _ (bulk_holds _ _ hv e))
  · split
    · exact trapG_holds _ _ hu
    · exact putG_holds _ hu

theorem execMma_holds (g w ext) (h : Holds k s) : AnswerHolds k (execMma g w ext s) := by
  unfold execMma
  refine issue_holds _ _ _ _ _ _ h (fun _ _ _ hu => ?_)
  split
  · exact putG_holds _ (addSat_holds _ _ hu)

theorem mstStore_holds (x b data l) (h : Holds k s) : Holds k (mstStore x b data l s) := by
  unfold mstStore
  split
  · next e => exact foldl_holds _ (fun _ _ hu => storeLanes_holds _ _ _ _ _ hu) _ (holds_of_pair (anyOrder_holds _ _ h) e)

theorem mstStoreLm_holds (data l) (h : Holds k s) : Holds k (mstStoreLm data l s) := by
  unfold mstStoreLm
  split
  · next e => exact foldl_holds _ (fun _ _ hu => lmStore_holds _ _ _ hu) _ (holds_of_pair (anyOrder_holds _ _ h) e)

theorem execMst_holds (g w ext) (h : Holds k s) : AnswerHolds k (execMst g w ext s) := by
  refine issue_holds _ _ _ _ _ _ h fun x b u hu => ?_
  have hd := fun l => fragPlaces_holds b.ctx .store (rqG x) l hu
  dsimp only
  generalize (if bit w 63 = true then 8 else 4) = al
  split
  · exact trapG_holds _ _ hu
  split
  · exact trapG_holds _ _ hu
  split
  · exact trapG_holds _ _ hu
  split
  · split
    · next e => exact trapG_holds _ _ (holds_of_pair (hd _) e)
    · next e => exact stallG_holds _ (holds_of_pair (hd _) e)
    next pls v e =>
    have hv := holds_of_pair (hd _) e
    split
    · exact trapG_holds _ _ hv
    split
    · exact downAccess_holds _ _ _ (putG_holds _ (addSat_holds _ _ hv))
    split
    · exact hv
    · next e => exact putG_holds _ (addSat_holds _ _ (mstStore_holds _ _ _ _ (bulk_holds _ _ hv e)))
  · split
    · exact trapG_holds _ _ hu
    · exact putG_holds _ (addSat_holds _ _ (mstStoreLm_holds _ _ hu))

/-! ### Machine/Sampler.lean -/

theorem texLanes_holds {α : Type} (f : Nat → State → LaneAns α × State) (l) (h : Holds k s) (hf : ∀ a u, Holds k u → Holds k (f a u).2) :
    Holds k (texLanes f l s).2 := by
  fun_induction texLanes f l s <;> grind []

theorem texRun_holds {α : Type} (g w ext x b) (f : List Byte → Nat → Nat → State → LaneAns α × State) (put) (h : Holds k s) (hf :
    ∀ a b c u, Holds k u → Holds k (f a b c u).2) : Holds k (texRun g w ext x b s f put) := by
  unfold texRun
  dsimp only
  split
  · exact trapG_holds _ _ h
  next d e =>
  split
  · exact trapG_holds _ _ h
  split
  · exact h
  next u e =>
  have hl := texLanes_holds (f d s.freeCtr) (lanesOf (execMask x w)) (setFreeCtr_holds (s.freeCtr + 64) (bulk_holds _ _ h e)) (hf d s.freeCtr)
  split
  · next e' => exact trapG_holds _ _ (holds_of_pair hl e')
  · next e' => exact stallG_holds _ (holds_of_pair hl e')
  · next e' => exact putG_holds _ (holds_of_pair hl e')

theorem marked_holds {α : Type} (p) (r : LaneAns (α × Bool) × State) (h : Holds k r.2) : Holds k (marked p r).2 := by
  unfold marked
  repeat' split
  all_goals grind

theorem execTex_holds (g w ext) (h : Holds k s) : AnswerHolds k (execTex g w ext s) :=
  issue_holds _ _ _ _ _ _ h (fun _ _ _ hu => texRun_holds _ _ _ _ _ _ _ hu (fun _ _ _ _ hu => marked_holds _ _ (texSample_holds _ _ _ _ _ _ _ hu)))

theorem execTld_holds (g w ext) (h : Holds k s) : AnswerHolds k (execTld g w ext s) :=
  issue_holds _ _ _ _ _ _ h (fun _ _ _ hu => texRun_holds _ _ _ _ _ _ _ hu (fun _ _ _ _ hu => texFetch_holds _ _ _ _ _ _ _ hu))

theorem execTres_holds (g w ext) (h : Holds k s) : AnswerHolds k (execTres g w ext s) :=
  issue_holds _ _ _ _ _ _ h (fun _ _ _ hu => texRun_holds _ _ _ _ _ _ _ hu (fun _ _ _ _ hu => marked_holds _ _ (texResident_holds _ _ _ _ _ _ _ hu)))

/-! ### Machine/TestPort.lean -/

theorem loadTest_holds (code) (h : Holds k s) : Holds k (loadTest code s) := h

theorem execExtest_holds (h : Holds k s) : AnswerHolds k (execExtest s) := done_holds (loadTest_holds _ h)

theorem execIdcode_holds (h : Holds k s) : AnswerHolds k (execIdcode s) := done_holds (loadTest_holds _ h)

theorem execSamplePreload_holds (h : Holds k s) : AnswerHolds k (execSamplePreload s) := done_holds (loadTest_holds _ h)

theorem execClamp_holds (h : Holds k s) : AnswerHolds k (execClamp s) := done_holds (loadTest_holds _ h)

theorem execHighz_holds (h : Holds k s) : AnswerHolds k (execHighz s) := done_holds (loadTest_holds _ h)

theorem execExtestPulse_holds (h : Holds k s) : AnswerHolds k (execExtestPulse s) := done_holds (loadTest_holds _ h)

theorem execExtestTrain_holds (h : Holds k s) : AnswerHolds k (execExtestTrain s) := done_holds (loadTest_holds _ h)

theorem execStrec_holds (h : Holds k s) : AnswerHolds k (execStrec s) := done_holds (loadTest_holds _ h)

theorem execBypass_holds (code) (h : Holds k s) : AnswerHolds k (execBypass code s) := done_holds (loadTest_holds _ h)

end
end Sys2Proof.Machine


/-! What every step keeps: the functions of Vector, Dispatch, Step. -/
namespace Sys2Proof.Machine
section
variable {k : KeptClaim} {s : State}

/-! ### Machine/Vector.lean -/

theorem execValu_holds (g w ext) (h : Holds k s) : AnswerHolds k (execValu g w ext s) := issue_holds _ _ _ _ _ _ h (fun _ _ _ hu => putG_holds _ hu)

theorem execVsfu_holds (g w ext) (h : Holds k s) : AnswerHolds k (execVsfu g w ext s) := issue_holds _ _ _ _ _ _ h (fun _ _ _ hu => putG_holds _ hu)

theorem selLane_holds (w g) (h : Holds k s) : Holds k (selLane w g s).2 := by
  unfold selLane
  dsimp only
  split
  · exact h
  · exact State.draw_holds h

theorem execUalu_holds (g w ext) (h : Holds k s) : AnswerHolds k (execUalu g w ext s) := by
  unfold execUalu
  refine issue_holds _ _ _ _ _ _ h (fun _ _ _ hu => ?_)
  split
  · next e => exact putG_holds _ (holds_of_pair (selLane_holds _ _ hu) e)

theorem execMov_holds (g w ext) (h : Holds k s) : AnswerHolds k (execMov g w ext s) := issue_holds _ _ _ _ _ _ h (fun _ _ _ hu => putG_holds _ hu)

theorem execUmov_holds (g w ext) (h : Holds k s) : AnswerHolds k (execUmov g w ext s) := issue_holds _ _ _ _ _ _ h (fun _ _ _ hu => putG_holds _ hu)

theorem execCvt_holds (g w ext) (h : Holds k s) : AnswerHolds k (execCvt g w ext s) := issue_holds _ _ _ _ _ _ h (fun _ _ _ hu => putG_holds _ hu)

theorem seeCycles_holds (core n) (h : Holds k s) : Holds k (seeCycles core n s).2 := by
  unfold seeCycles
  split
  · exact h
  · split
    · next e => exact updCore_holds _ _ (fun _ => rfl) (holds_of_pair (State.draw_holds h) e)

theorem execS2r_holds (g w ext) (h : Holds k s) : AnswerHolds k (execS2r g w ext s) := by
  unfold execS2r
  refine issue_holds _ _ _ _ _ _ h (fun _ _ _ hu => ?_)
  split
  · next e => exact putG_holds _ (holds_of_pair (seeCycles_holds _ _ hu) e)

theorem uniformLane_holds (n) (h : Holds k s) : Holds k (uniformLane n s).2 := by
  unfold uniformLane
  split
  · split
    · next e => exact holds_of_pair (State.draw_holds h) e
  · exact h

theorem execS2u_holds (g w ext) (h : Holds k s) : AnswerHolds k (execS2u g w ext s) :=
  issue_holds _ _ _ _ _ _ h (fun _ _ _ hu => putG_holds _ (seeCycles_holds _ _ (uniformLane_holds _ hu)))

theorem execShfl_holds (g w ext) (h : Holds k s) : AnswerHolds k (execShfl g w ext s) := by
  unfold execShfl
  refine issue_holds _ _ _ _ _ _ h (fun _ _ _ hu => ?_)
  split
  · exact trapG_holds _ _ hu
  · exact putG_holds _ hu

theorem execVote_holds (g w ext) (h : Holds k s) : AnswerHolds k (execVote g w ext s) := issue_holds _ _ _ _ _ _ h (fun _ _ _ hu => putG_holds _ hu)

theorem execMatchLanes_holds (g w ext) (h : Holds k s) : AnswerHolds k (execMatchLanes g w ext s) :=
  issue_holds _ _ _ _ _ _ h (fun _ _ _ hu => putG_holds _ hu)

theorem execRed_holds (g w ext) (h : Holds k s) : AnswerHolds k (execRed g w ext s) := issue_holds _ _ _ _ _ _ h (fun _ _ _ hu => putG_holds _ hu)

/-! ### Machine/Dispatch.lean -/

theorem exec_holds (i) (h : Holds k s) : AnswerHolds k (exec i s) := by
  cases i with
  | nop q p => exact execNop_holds q p h
  | query q p => exact execQuery_holds q p h
  | memMap q p => exact execMemMap_holds q p h
  | memUnmap q p => exact execMemUnmap_holds q p h
  | xlInvalidate q p => exact execXlInvalidate_holds q p h
  | faultResume q p => exact execFaultResume_holds q p h
  | copy q p => exact execCopy_holds q p h
  | launch q p => exact execLaunch_holds q p h
  | braidDefine q p => exact execBraidDefine_holds q p h
  | braidStart q p => exact execBraidStart_holds q p h
  | braidStopDrain q p => exact execBraidStopDrain_holds q p h
  | braidStopHalt q p => exact execBraidStopHalt_holds q p h
  | braidStopRelease q p => exact execBraidStopRelease_holds q p h
  | modelLoad q p => exact execModelLoad_holds q p h
  | modelEvict q p => exact execModelEvict_holds q p h
  | mixedStep q p => exact execMixedStep_holds q p h
  | modelSelect q p => exact execModelSelect_holds q p h
  | graphRecord q p => exact execGraphRecord_holds q p h
  | graphLaunch q p => exact execGraphLaunch_holds q p h
  | graphSplice q p => exact execGraphSplice_holds q p h
  | graphFree q p => exact execGraphFree_holds q p h
  | knotSignal q p => exact execKnotSignal_holds q p h
  | knotWait q p => exact execKnotWait_holds q p h
  | knotReset q p => exact execKnotReset_holds q p h
  | renderPassBegin q p => exact execRenderPassBegin_holds q p h
  | renderPassEnd q p => exact execRenderPassEnd_holds q p h
  | draw q p => exact execDraw_holds q p h
  | directDraw q p => exact execDirectDraw_holds q p h
  | layerSet q p => exact execLayerSet_holds q p h
  | camConfig q p => exact execCamConfig_holds q p h
  | axisConfig q p => exact execAxisConfig_holds q p h
  | hitPost q p => exact execHitPost_holds q p h
  | outConfig q p => exact execOutConfig_holds q p h
  | dzRunCompress q p => exact execDzRunCompress_holds q p h
  | dzRunDecompress q p => exact execDzRunDecompress_holds q p h
  | powerHint q p => exact execPowerHint_holds q p h
  | snapshot q p => exact execSnapshot_holds q p h
  | logConfig q p => exact execLogConfig_holds q p h
  | traceConfig q p => exact execTraceConfig_holds q p h
  | alarmRead q p => exact execAlarmRead_holds q p h
  | contextCreate q p => exact execContextCreate_holds q p h
  | contextDestroy q p => exact execContextDestroy_holds q p h
  | queueCreate q p => exact execQueueCreate_holds q p h
  | queueDestroy q p => exact execQueueDestroy_holds q p h
  | partitionConfig q p => exact execPartitionConfig_holds q p h
  | domainConfigJoin q p => exact execDomainConfigJoin_holds q p h
  | domainConfigLeave q p => exact execDomainConfigLeave_holds q p h
  | domainBarrier q p => exact execDomainBarrier_holds q p h
  | domainBroadcast q p => exact execDomainBroadcast_holds q p h
  | domainReset q p => exact execDomainReset_holds q p h
  | testSlice q p => exact execTestSlice_holds q p h
  | shutdown q p => exact execShutdown_holds q p h
  | attest q p => exact execAttest_holds q p h
  | framingFailure q p hdrPoison anyPoison => exact execFramingFailure_holds q p hdrPoison anyPoison h
  | commandTimeout c t => exact execCommandTimeout_holds c t h
  | timeoutDrainAllowance c t => exact execTimeoutDrainAllowance_holds c t h
  | commandCompletion q => exact execCommandCompletion_holds q h
  | epochPublication => exact execEpochPublication_holds h
  | blockDispatch part => exact execBlockDispatch_holds part h
  | coreClaim c t => exact execCoreClaim_holds c t h
  | turnEnd part t => exact execTurnEnd_holds part t h
  | bra g w ext => exact execBra_holds g w ext h
  | split g w ext => exact execSplit_holds g w ext h
  | join g w ext => exact execJoin_holds g w ext h
  | exit g w ext => exact execExit_holds g w ext h
  | call g w ext => exact execCall_holds g w ext h
  | ret g w ext => exact execRet_holds g w ext h
  | valu g w ext => exact execValu_holds g w ext h
  | vsfu g w ext => exact execVsfu_holds g w ext h
  | ualu g w ext => exact execUalu_holds g w ext h
  | mov g w ext => exact execMov_holds g w ext h
  | umov g w ext => exact execUmov_holds g w ext h
  | cvt g w ext => exact execCvt_holds g w ext h
  | s2r g w ext => exact execS2r_holds g w ext h
  | s2u g w ext => exact execS2u_holds g w ext h
  | ldl g w ext => exact execLdl_holds g w ext h
  | stl g w ext => exact execStl_holds g w ext h
  | ldg g w ext => exact execLdg_holds g w ext h
  | stg g w ext => exact execStg_holds g w ext h
  | ldc g w ext => exact execLdc_holds g w ext h
  | tex g w ext => exact execTex_holds g w ext h
  | tld g w ext => exact execTld_holds g w ext h
  | tres g w ext => exact execTres_holds g w ext h
  | mld g w ext => exact execMld_holds g w ext h
  | mma g w ext => exact execMma_holds g w ext h
  | mst g w ext => exact execMst_holds g w ext h
  | shfl g w ext => exact execShfl_holds g w ext h
  | vote g w ext => exact execVote_holds g w ext h
  | matchLanes g w ext => exact execMatchLanes_holds g w ext h
  | red g w ext => exact execRed_holds g w ext h
  | bar g w ext => exact execBar_holds g w ext h
  | cbar g w ext => exact execCbar_holds g w ext h
  | fence g w ext => exact execFence_holds g w ext h
  | atom g w ext => exact execAtom_holds g w ext h
  | ksig g w ext => exact execKsig_holds g w ext h
  | kwait g w ext => exact execKwait_holds g w ext h
  | kwaitTimeout g t => exact execKwaitTimeout_holds g t h
  | hit g w ext => exact execHit_holds g w ext h
  | knotSignalAtPort k v => exact execKnotSignalAtPort_holds k v h
  | qualifiedEdge ax a b t => exact execQualifiedEdge_holds ax a b t h
  | zEdge ax t => exact execZEdge_holds ax t h
  | axStallExpiry a t => exact execAxStallExpiry_holds a t h
  | mainsPulse ax e => exact execMainsPulse_holds ax e h
  | mainsPulseMissing a t => exact execMainsPulseMissing_holds a t h
  | hitPortArrival r src t => exact execHitPortArrival_holds r src t h
  | hitFire o bad t => exact execHitFire_holds o bad t h
  | pulseEnd o t => exact execPulseEnd_holds o t h
  | tgFire g t => exact execTgFire_holds g t h
  | tgCountReached g => exact execTgCountReached_holds g h
  | axCfgWrite a v => exact execAxCfgWrite_holds a v h
  | outCfgWrite o v => exact execOutCfgWrite_holds o v h
  | tgCfgWrite g v => exact execTgCfgWrite_holds g v h
  | axHostposWrite a half v => exact execAxHostposWrite_holds a half v h
  | flush o => exact execFlush_holds o h
  | clear o => exact execClear_holds o h
  | lowerWordRead off => exact execLowerWordRead_holds off h
  | readbackMismatch o t => exact execReadbackMismatch_holds o t h
  | safeBall chB t => exact execSafeBall_holds chB t h
  | lockstepSfi t => exact execLockstepSfi_holds t h
  | lockstepPte o t => exact execLockstepPte_holds o t h
  | clock c t => exact execClock_holds c t h
  | voltage rail t => exact execVoltage_holds rail t h
  | deadlineMiss b n t => exact execDeadlineMiss_holds b n t h
  | softwareAssistedDiagnostics ramFault hitFault t => exact execSoftwareAssistedDiagnostics_holds ramFault hitFault t h
  | sfiArmNFallingEdge okA okB t => exact execSfiArmNFallingEdge_holds okA okB t h
  | disarm t => exact execDisarm_holds t h
  | longPacket p vc dt payload hdrOk crcOk t => exact execLongPacket_holds p vc dt payload hdrOk crcOk t h
  | frameStart p vc t => exact execFrameStart_holds p vc t h
  | frameEnd p vc t => exact execFrameEnd_holds p vc t h
  | latchPoint d t => exact execLatchPoint_holds d t h
  | dpoCtrlWrite d v => exact execDpoCtrlWrite_holds d v h
  | train d => exact execTrain_holds d h
  | trainComplete d ok => exact execTrainComplete_holds d ok h
  | dpoMsggo d => exact execDpoMsggo_holds d h
  | messageDone d o data => exact execMessageDone_holds d o data h
  | hpd d level => exact execHpd_holds d level h
  | drainResultReached b => exact execDrainResultReached_holds b h
  | drainBlocksEnded b => exact execDrainBlocksEnded_holds b h
  | braidDrainTimeout b t => exact execBraidDrainTimeout_holds b t h
  | selectionRecordRetired b => exact execSelectionRecordRetired_holds b h
  | usesZero m => exact execUsesZero_holds m h
  | mixedStepStageEnd c => exact execMixedStepStageEnd_holds c h
  | tail fn q v => exact execTail_holds fn q v h
  | chead fn q v => exact execChead_holds fn q v h
  | bar2Read fn off len => exact execBar2Read_holds fn off len h
  | bar2Write fn off data => exact execBar2Write_holds fn off data h
  | rootqCtrl fn v => exact execRootqCtrl_holds fn v h
  | mirrorBaseWrite fn v => exact execMirrorBaseWrite_holds fn v h
  | icnClaim tgt => exact execIcnClaim_holds tgt h
  | icnComplete tgt v => exact execIcnComplete_holds tgt v h
  | pfReset k => exact execPfReset_holds k h
  | vfFunctionLevelReset v => exact execVfFunctionLevelReset_holds v h
  | pcieLinkDown => exact execPcieLinkDown_holds h
  | registerWrite fn off len v => exact execRegisterWrite_holds fn off len v h
  | walkComplete eng ctx va kind => exact execWalkComplete_holds eng ctx va kind h
  | xlFqbaseWrite v => exact execXlFqbaseWrite_holds v h
  | xlFqhead v => exact execXlFqhead_holds v h
  | invalidationComplete j => exact execInvalidationComplete_holds j h
  | xlRefq v => exact execXlRefq_holds v h
  | scanComplete => exact execScanComplete_holds h
  | releaseWalk => exact execReleaseWalk_holds h
  | scrub unit => exact execScrub_holds unit h
  | scrubLapEnd lpddr t => exact execScrubLapEnd_holds lpddr t h
  | eccTestWrite => exact execEccTestWrite_holds h
  | eccTestRead => exact execEccTestRead_holds h
  | flitReceipt k crcOk f t => exact execFlitReceipt_holds k crcOk f t h
  | replayLimit k t => exact execReplayLimit_holds k t h
  | linkFlitTimeout k t => exact execLinkFlitTimeout_holds k t h
  | linkUp k width peer => exact execLinkUp_holds k width peer h
  | hlCtrl k v => exact execHlCtrl_holds k v h
  | retrain k => exact execRetrain_holds k h
  | remoteAccessArrival k part lp frame off op => exact execRemoteAccessArrival_holds k part lp frame off op h
  | remoteResponse j data poison refused => exact execRemoteResponse_holds j data poison refused h
  | remoteStoreAck j refused => exact execRemoteStoreAck_holds j refused h
  | remoteLoadTimeout j t => exact execRemoteLoadTimeout_holds j t h
  | remoteStoreTimeout j t => exact execRemoteStoreTimeout_holds j t h
  | barrierRelease b => exact execBarrierRelease_holds b h
  | powerStateEntry st => exact execPowerStateEntry_holds st h
  | powerStateExit codes okA okB t => exact execPowerStateExit_holds codes okA okB t h
  | hwakeN t => exact execHwakeN_holds t h
  | wakeTimer t => exact execWakeTimer_holds t h
  | debouncedLevel j level t => exact execDebouncedLevel_holds j level t h
  | wcamFrame pixels t => exact execWcamFrame_holds pixels t h
  | ruleEvaluation t => exact execRuleEvaluation_holds t h
  | wispCtrlWrite v => exact execWispCtrlWrite_holds v h
  | avsAcknowledge rail mv => exact execAvsAcknowledge_holds rail mv h
  | settleExpiry rail => exact execSettleExpiry_holds rail h
  | avsNoackTimeout rail => exact execAvsNoackTimeout_holds rail h
  | tjSample readings t => exact execTjSample_holds readings t h
  | thermalStep t => exact execThermalStep_holds t h
  | powerOnReset => exact execPowerOnReset_holds h
  | rstN lowNs => exact execRstN_holds lowNs h
  | vddSafeLoss => exact execVddSafeLoss_holds h
  | bootCtrl v => exact execBootCtrl_holds v h
  | shutdownTestComplete failPd fails t => exact execShutdownTestComplete_holds failPd fails t h
  | sliceComplete core ok t => exact execSliceComplete_holds core ok t h
  | snapshotTrigger t => exact execSnapshotTrigger_holds t h
  | holdEnd t => exact execHoldEnd_holds t h
  | extest => exact execExtest_holds h
  | idcode => exact execIdcode_holds h
  | samplePreload => exact execSamplePreload_holds h
  | clamp => exact execClamp_holds h
  | highz => exact execHighz_holds h
  | extestPulse => exact execExtestPulse_holds h
  | extestTrain => exact execExtestTrain_holds h
  | strec => exact execStrec_holds h
  | bypass code => exact execBypass_holds code h
  | pcieLinkUp rate width => exact execPcieLinkUp_holds rate width h
  | configurationSpaceWrite fn f v => exact execConfigurationSpaceWrite_holds fn f v h
  | camRxLoss p t => exact execCamRxLoss_holds p t h
  | clockInRange c => exact execClockInRange_holds c h
  | voltageInRange rail => exact execVoltageInRange_holds rail h
  | ballLevelRestored b => exact execBallLevelRestored_holds b h
  | railMonitorsInRange pass failPd fails => exact execRailMonitorsInRange_holds pass failPd fails h
  | vddioMachCollapse => exact execVddioMachCollapse_holds h
  | bankGroupZeroed k => exact execBankGroupZeroed_holds k h
  | domainResetArrival => exact execDomainResetArrival_holds h
  | domainSnapshotStart ctx buf knots nknot seq t => exact execDomainSnapshotStart_holds ctx buf knots nknot seq t h
  | barrierWithdrawalAnswer b removed => exact execBarrierWithdrawalAnswer_holds b removed h
  | hostaccRead fn a => exact execHostaccRead_holds fn a h

/-! ### Machine/Step.lean -/

theorem idle_holds (h : Holds k s) : Holds k (idle s) := icnSettle_holds (kick_holds (ringsTick_holds (armFinish_holds (pteTick_holds h))))

end
end Sys2Proof.Machine


/-! Every step keeps the memories canonical and the outputs safe. -/
namespace Sys2Proof.Machine

theorem step_holds {k : KeptClaim} {s t : State} (h : Holds k s) (e : step s = .next t) : Holds k t := by
  unfold step at e
  split at e
  · next c rest hp =>
    have hr : Holds k { s with pending := rest } := h
    exact exec_holds c hr t e
  · cases e
    exact idle_holds h

/-- Settles O6: what each function of the model that answers a state does to the memories, from the stores up to `exec` and `idle`. -/
theorem stepKeepsMemoryCanonical : Obligations.StepKeepsMemoryCanonical := by
  unfold Obligations.StepKeepsMemoryCanonical
  intro s t h e
  exact (holds_memory t).mp (step_holds ((holds_memory s).mpr h) e)

/-- Settles O7: only the end of ARMING clears SAFE_STATE, and the SFI leaves ARMED only by a trip, which sets it. -/
theorem stepKeepsOutputsSafe : Obligations.StepKeepsOutputsSafe := by
  unfold Obligations.StepKeepsOutputsSafe
  intro s t h e
  exact (holds_outputs t).mp (step_holds ((holds_outputs s).mpr h) e)

end Sys2Proof.Machine
